-- ==== Sys2Proof/Word.lean ====
section
/-! DEFINITION. The word types of the machine and the sparse map used throughout the state. -/

namespace Sys2Proof

/-- One byte (R188, R240). -/
abbrev Byte := BitVec 8

/-- One 32-bit lane register or instruction word (R188, R209). -/
abbrev Word := BitVec 32

/-- One 64-bit uniform register, pair or descriptor dword (R194, R209). -/
abbrev Dword := BitVec 64

/-- A map by natural keys as plain data: pairs in strictly rising key order. -/
abbrev SMap (α : Type) := List (Nat × α)

end Sys2Proof
end

