-- ==== Sys2Proof/Config.lean ====
section
/-! DEFINITION. What is fixed for every Glernanu P9 (sizes and places of the spec), where the model
keeps each address space in its one memory list, and the free values. -/

namespace Sys2Proof.Config

/-- Cores of the package (R2). -/
def cores : Nat := 768

/-- Clusters of the package (R2). -/
def clusters : Nat := 32

/-- Cores of one cluster (R2). -/
def coresPerCluster : Nat := 24

/-- Bytes of one core's scratchpad (R64). -/
def padBytes : Nat := 0x400000

/-- Bytes of one scratchpad bank (R64). -/
def bankBytes : Nat := 0x10000

/-- Bytes of one scratchpad page (R64). -/
def pageBytes : Nat := 0x1000

/-- Base of the cluster window (R65). -/
def clusterWindow : Nat := 0x10000000

/-- Bytes of one frame of stacked DRAM (R85). -/
def frameBytes : Nat := 0x200000

/-- Frames of one column (R85). -/
def framesPerColumn : Nat := 384

/-- Frame numbers at and above this name no memory (R85). -/
def frames : Nat := 294912

/-- DESIGN CHOICE (log 14): where scratchpad byte 0 of core 0 stands in the model's one memory list;
DRAM byte PA stands at key PA. -/
def padBase : Nat := 0x1000000000000

/-- DESIGN CHOICE (log 14): where byte 0 of host memory stands in the model's one memory list. -/
def hostBase : Nat := 0x2000000000000

/-- DESIGN CHOICE (log 14): where byte 0 of the peers' memory stands: GPA[46:0] of a guest-physical address
with GPA[47] = 1 (R182) is added to it.  No cell of the memory list lies there. -/
def peerBase : Nat := 0x4000000000000

/-- Canonical NaN of FP32 (R44). -/
def nan32 : Word := 0x7FC00000#32

/-- Entries of a translation cache (R168). -/
def tlbEntries : Nat := 512

/-- Records a launch queue holds (R260). -/
def launchQueueLen : Nat := 1024

/-- Records the outbound buffer of a core holds (R42). -/
def outboundLen : Nat := 16

/-- Copies a core holds (R253). -/
def copiesPerCore : Nat := 256

/-- Accepted takes a core holds (R297). -/
def takesPerCore : Nat := 16

/-- Entries a die's fault queue holds (R322). -/
def dieQueueLen : Nat := 4096

/-- Tables a rambler holds (R158). -/
def ramblerLen : Nat := 256

/-- DESIGN CHOICE (log 12): bytes of one cluster-cache line. -/
def clineBytes : Nat := 128

/-- FREE VALUE (log 6): the byte read at an address of a frame whose data is undefined since its bank was readmitted (R89) and
that nothing has written since; the first argument numbers the readmission. -/
opaque noise : Nat → Nat → BitVec 8

/-- FREE VALUE (log 86): the key pair of a key slot that no key command has loaded, and, for 32, of a frame that none has assigned
to a slot (R102, R179). -/
opaque bootKey : Nat → BitVec 512

/-- FREE VALUE (log 9): what a budget command that lowers the budget to the watts named takes from a column's CAPB (R181). -/
opaque capCut : Nat → Nat → Nat

/-- FREE VALUE (log 9): what a budget command that lowers the budget to the watts named takes from an island's MHz (R181). -/
opaque clockCut : Nat → Nat → Nat

/-- FREE VALUE (log 15): what an aligned 8-byte part of an unwritten staging byte reads as; the model
asks for it only where a take delivered fewer beats than an MX reads. -/
opaque stagingByte : Nat → BitVec 8

/-- FREE VALUE (log 16): a byte of a peer package's memory read by this package's tables, engines or fetches;
the first argument counts the reads, the second is the byte's place. -/
opaque peerByte : Nat → Nat → BitVec 8

/-- FREE VALUE (log 16): a peer package's stage 2 gives a fault for a place that this package's tables, engines, fetches or counters
read or write there; the arguments are as above. -/
opaque peerFails : Nat → Nat → Bool

/-- FREE VALUE (log 20): word `i` of a result that the spec leaves unstated for the engine command numbered by the
first argument: the tile of an MX whose staging was bad, a CB2 table whose scratchpad source went away. -/
opaque freeWord : Nat → Nat → BitVec 32

end Sys2Proof.Config
end

