-- ==== Sys2Proof/Machine/Tables.lean ====
section
/-! DEFINITION. The tables of FEXP2 and FLOG2, each entry the integer nearest to its value times a power of two
(R55, R56). -/

namespace Sys2Proof.Machine

/-- T[i] = fix(2^(i/64), 40) (R55). -/
def expT : List Int :=
  [1099511627776, 1111484524408, 1123587797336, 1135822866266,
   1148191166361, 1160694148413, 1173333279014, 1186110040723,
   1199025932245, 1212082468605, 1225281181324, 1238623618601,
   1252111345494, 1265745944104, 1279529013758, 1293462171200,
   1307547050779, 1321785304641, 1336178602923, 1350728633946,
   1365437104419, 1380305739635, 1395336283673, 1410530499604,
   1425890169699, 1441417095635, 1457113098709, 1472980020050,
   1489019720837, 1505234082514, 1521625007013, 1538194416978] ++
  [1554944255988, 1571876488786, 1588993101510, 1606296101926,
   1623787519664, 1641469406453, 1659343836365, 1677412906057,
   1695678735018, 1714143465815, 1732809264348, 1751678320101,
   1770752846399, 1790035080670, 1809527284706, 1829231744928,
   1849150772653, 1869286704369, 1889641902006, 1910218753212,
   1931019671637, 1952047097213, 1973303496441, 1994791362681,
   2016513216442, 2038471605683, 2060669106106, 2083108321460,
   2105791883849, 2128722454038, 2151902721764, 2175335406057]

/-- C1, C2, C3 = fix((ln 2)^k / k!, 40) (R55). -/
def expC : List Int :=
  [762123384786, 264131837702, 61027412866]

/-- L[i] = fix(log2(1 + i/64), 62) (R56). -/
def logL : List Int :=
  [0, 103153330606121625, 204731739545776358, 304782595603293869,
   403351162126124447, 500480719981309593, 596212681665212875, 690586697319517456,
   783640753332765648, 875411264141121919, 965933157783587320, 1055239955714717668,
   1143363847331251474, 1230335759627285963, 1316185422355184002, 1400941429035756762,
   1484631294131014398, 1567281506665531296, 1648917580557901400, 1729564101901571123,
   1809244773414275253, 1887982456257138845, 1965799209408045220, 2042716326758930046,
   2118754372093087486, 2193933212086227468, 2268272047463780046, 2341789442436693607,
   2414503352528620721, 2486431150898841404, 2557589653257460679, 2627995141462265872] ++
  [2697663385880076776, 2766609666589412753, 2834848793495784858, 2902395125425853134,
   2969262588262028797, 3035464692174811580, 3101014548006201223, 3165924882853879154,
   3230208054902495130, 3293876067545289651, 3356940582836414350, 3419412934311659540,
   3481304139212842424, 3542624910148834945, 3603385666224101885, 3663596543663664096,
   3723267405961586381, 3782407853578403233, 3841027233211328250, 3899134646659635119,
   3956738959306241175, 4013848808235260778, 4070472610004118119, 4126618568087710828,
   4182294680011091174, 4237508744186174972, 4292268366467094717, 4346580966437978175,
   4400453783446152532, 4453893882393043195, 4506908159294352029, 4559503346620458693]

/-- G[i] = fix(1/(1 + i/64), 62) (R56). -/
def logG : List Int :=
  [4611686018427387904, 4540737002759274244, 4471937957262921604, 4405192614617206356,
   4340410370284600380, 4277505872164533708, 4216398645419326084, 4157012749004969378,
   4099276460824344804, 4043121988758257888, 3988485205126389539, 3935305402391371011,
   3883525068149379288, 3833089677653932803, 3783947502299395203, 3736049432650035770,
   3689348814741910323, 3643801298510528714, 3599364697309180803, 3555998857582564167,
   3513665537849438403, 3472328296227680304, 3431952385806428208, 3392504657233940527,
   3353953467947191203, 3316268597520818268, 3279421168659475843, 3243383573399481603,
   3208129404123400281, 3173633389025299203, 3139871331695242828, 3106820054519503430] ++
  [3074457345618258603, 3042761909065493050, 3011713318156661488, 2981291971508614403,
   2951479051793528259, 2922256486924285405, 2893606913523066920, 2865513642517988601,
   2837960626724546402, 2810932430279550722, 2784414199805215338, 2758391637190213326,
   2732850973882896536, 2707778946599567210, 2683162774357752962, 2658990136750926359,
   2635249153387078802, 2611928364419051556, 2589016712099586192, 2566503523298720225,
   2544378492925455395, 2522631668199596802, 2501253433723329033, 2480234497305485932,
   2459565876494606882, 2439238885779775420, 2419245124420924802, 2399576464872787202,
   2380225041768974402, 2361183241434822607, 2342443691899625602, 2323999253380730912]

/-- K1 to K6 = fix((−1)^(k+1) / (k ln 2), 62) (R56). -/
def logK : List Int :=
  [6653256548922161246, -3326628274461080623, 2217752182974053749, -1663314137230540311,
   1330651309784432249, -1108876091487026874]

end Sys2Proof.Machine
end

