-- ==== Sys2Proof/Machine/Float.lean ====
section
/-! DEFINITION. Exact values of the number formats and the one rounding that every result goes through (R44 to R57,
R318): a finite value is an integer times a power of two. -/

namespace Sys2Proof.Machine

/-- Condition flags in the order of R53: NV, DZ, OF, UF, NX, B4, SAT from bit 0 up. -/
abbrev Flags := BitVec 7

/-- No flag. -/
def fNone : Flags := 0
/-- An invalid operation. -/
def fNV : Flags := 1
/-- A division by zero or the logarithm of zero. -/
def fDZ : Flags := 2
/-- A result beyond the largest finite value. -/
def fOF : Flags := 4
/-- Tiny after rounding and inexact. -/
def fUF : Flags := 8
/-- An inexact rounding. -/
def fNX : Flags := 16
/-- An INT4 code 0b1000. -/
def fB4 : Flags := 32
/-- A clamped integer result. -/
def fSAT : Flags := 64

/-- An exact value: NaN, an infinity, or (−1)^neg × m × 2^e. -/
inductive Val
  | nan
  | inf (neg : Bool)
  | fin (neg : Bool) (m : Nat) (e : Int)
  deriving DecidableEq, Repr

/-! ### Formats (R44) -/

/-- Exponent bits, mantissa bits and bias of a floating-point format code. -/
def fmtShape (f : Nat) : Nat × Nat × Nat :=
  match f with
  | 0 => (8, 23, 127) | 1 => (8, 7, 127) | 2 => (5, 10, 15) | 3 => (4, 3, 7) | 4 => (5, 2, 15) | _ => (2, 1, 1)

/-- A two's complement number of `n` bits as a value. -/
def intVal (n x : Nat) : Val :=
  if x < 2 ^ (n - 1) then .fin false x 0 else .fin true (2 ^ n - x) 0

/-- dec(x, f): the exact value of the bits `x` in format code `f` (R44, R46, R199). -/
def dec (f x : Nat) : Val :=
  match f with
  | 6 => if x = 255 then .nan else .fin false 1 (Int.ofNat x - 127)
  | 7 => intVal 32 x
  | 8 => intVal 8 x
  | 9 => if x = 8 then .fin false 0 0 else intVal 4 x
  | 10 => .fin false x 0
  | 11 => .fin false x 0
  | _ =>
    let (eb, mb, bias) := fmtShape f
    let neg := decide (x / 2 ^ (eb + mb) % 2 = 1)
    let e := x / 2 ^ mb % 2 ^ eb
    let m := x % 2 ^ mb
    if f = 3 ∧ e = 15 ∧ m = 7 then .nan
    else if f ≠ 3 ∧ f ≠ 5 ∧ e = 2 ^ eb - 1 then (if m = 0 then .inf neg else .nan)
    else if e = 0 then .fin neg m (1 - Int.ofNat bias - Int.ofNat mb)
    else .fin neg (m + 2 ^ mb) (Int.ofNat e - Int.ofNat bias - Int.ofNat mb)

/-- FP32 bits as a value. -/
def dec32 (x : Word) : Val := dec 0 x.toNat

/-- Canonical NaN of a floating-point format. -/
def nanBits (f : Nat) : Nat :=
  match f with
  | 0 => 0x7FC00000 | 1 => 0x7FC0 | 2 => 0x7E00 | 3 => 0x7F | 4 => 0x7E | _ => 0

/-- Largest finite code of a floating-point format, without its sign. -/
def maxBits (f : Nat) : Nat :=
  match f with
  | 0 => 0x7F7FFFFF | 1 => 0x7F7F | 2 => 0x7BFF | 3 => 0x7E | 4 => 0x7B | _ => 7

/-- The sign bit of a floating-point format. -/
def signBits (f : Nat) (neg : Bool) : Nat :=
  let (eb, mb, _) := fmtShape f
  if neg then 2 ^ (eb + mb) else 0

/-! ### Rounding (R50); modes 0 to 3: nearest even, towards zero, towards −∞, towards +∞ -/

/-- m / 2^k rounded to an integer, and whether that was inexact. -/
def roundShift (mode : Nat) (neg : Bool) (m k : Nat) : Nat × Bool :=
  let q := m / 2 ^ k
  let r := m % 2 ^ k
  let up := match mode with
    | 0 => decide (2 ^ k < 2 * r) || (decide (2 * r = 2 ^ k) && decide (q % 2 = 1))
    | 1 => false
    | 2 => neg && decide (r ≠ 0)
    | _ => !neg && decide (r ≠ 0)
  (if up then q + 1 else q, decide (r ≠ 0))

/-- m × 2^e rounded to a multiple of 2^q: the multiple, and whether that was inexact. -/
def roundAt (mode : Nat) (neg : Bool) (m : Nat) (e q : Int) : Nat × Bool :=
  if q ≤ e then (m * 2 ^ (e - q).toNat, false) else roundShift mode neg m (q - e).toNat

/-- A non-zero magnitude in units of 2^q, with precision `p` and least unit 2^qmin: the multiple, its unit, whether
it is inexact, and whether the value rounded with an unbounded exponent lies below 2^(qmin + p − 1). -/
def roundFin (mode : Nat) (neg : Bool) (m : Nat) (e : Int) (p : Nat) (qmin : Int) : Nat × Int × Bool × Bool :=
  let qu := e + Int.ofNat (Nat.log2 m + 1) - Int.ofNat p
  let (mu, _) := roundAt mode neg m e qu
  let tiny := if qu < qmin then decide (mu < 2 ^ (p - 1 + (qmin - qu).toNat)) else false
  let q := if qu < qmin then qmin else qu
  let (md, inexact) := roundAt mode neg m e q
  if md = 2 ^ p then (2 ^ (p - 1), q + 1, inexact, tiny) else (md, q, inexact, tiny)

/-- What a floating-point format makes of an overflow or an infinite source (R51). -/
def overflowBits (f mode : Nat) (sat neg : Bool) : Nat :=
  let s := signBits f neg
  if f = 5 then s + maxBits f
  else if sat then s + maxBits f
  else if f = 3 then nanBits f
  else if mode = 0 ∨ (mode = 2 ∧ neg = true) ∨ (mode = 3 ∧ neg = false) then s + maxBits f + 1
  else s + maxBits f

/-- Rounding into a floating-point format (R50, R51): the bits and the flags. -/
def roundFloat (f mode : Nat) (sat : Bool) (v : Val) : Nat × Flags :=
  let (_, mb, bias) := fmtShape f
  match v with
  | .nan => if f = 5 then (0, fNV) else (nanBits f, fNone)
  | .inf neg =>
    if f = 3 ∨ f = 5 ∨ sat = true then (overflowBits f 0 sat neg, fOF ||| fNX)
    else (signBits f neg + maxBits f + 1, fNone)
  | .fin neg m e =>
    if m = 0 then (signBits f neg, fNone)
    else
      let qmin : Int := 1 - Int.ofNat bias - Int.ofNat mb
      let (md, q, inexact, tiny) := roundFin mode neg m e (mb + 1) qmin
      let code := if md < 2 ^ mb then md else md - 2 ^ mb + (q - qmin + 1).toNat * 2 ^ mb
      if maxBits f < code then (overflowBits f mode sat neg, fOF ||| fNX)
      else (signBits f neg + code,
            (if inexact then fNX else fNone) ||| (if inexact && tiny then fUF else fNone))

/-- Rounding into an integer range with clamping (R51): the integer and the flags. -/
def roundInt (mode : Nat) (lo hi : Int) (v : Val) : Int × Flags :=
  match v with
  | .nan => (0, fNV)
  | .inf neg => (if neg then lo else hi, fSAT)
  | .fin neg m e =>
    let (r, inexact) := roundAt mode neg m e 0
    let i : Int := if neg then -Int.ofNat r else Int.ofNat r
    let nx := if inexact then fNX else fNone
    if i < lo then (lo, nx ||| fSAT) else if hi < i then (hi, nx ||| fSAT) else (i, nx)

/-- Rounding into E8M0 (R318). -/
def roundE8m0 (mode : Nat) (v : Val) : Nat × Flags :=
  match v with
  | .nan => (0xFF, fNone)
  | .inf neg => if neg then (0, fNV) else (0xFE, fOF ||| fNX)
  | .fin neg m e =>
    if m = 0 then (0, fUF ||| fNX)
    else if neg then (0, fNV)
    else
      let l := Nat.log2 m
      let k := e + Int.ofNat l
      let rest := m - 2 ^ l
      let up := match mode with
        | 0 => decide (2 ^ l < 2 * rest) || (decide (2 * rest = 2 ^ l) && decide ((k + 127) % 2 = 1))
        | 3 => decide (rest ≠ 0)
        | _ => false
      let k' := if up then k + 1 else k
      if 127 < k' then (0xFE, fOF ||| fNX)
      else if k' < -127 then (0, fUF ||| fNX)
      else ((k' + 127).toNat, if rest = 0 then fNone else fNX)

/-- convert(x, f, RND, SAT) of R51: the bits, zero-extended, and the flags. -/
def convert (f mode : Nat) (sat : Bool) (v : Val) : Nat × Flags :=
  match f with
  | 6 => roundE8m0 mode v
  | 7 => let (i, fl) := roundInt mode (-2 ^ 31) (2 ^ 31 - 1) v; ((BitVec.ofInt 32 i).toNat, fl)
  | 8 => let (i, fl) := roundInt mode (-128) 127 v; ((BitVec.ofInt 8 i).toNat, fl)
  | 9 => let (i, fl) := roundInt mode (-7) 7 v; ((BitVec.ofInt 4 i).toNat, fl)
  | 10 => let (i, fl) := roundInt mode 0 (2 ^ 32 - 1) v; (i.toNat, fl)
  | 11 => let (i, fl) := roundInt mode 0 255 v; (i.toNat, fl)
  | _ => roundFloat f mode sat v

/-- round_fp32() under a mode. -/
def round32 (mode : Nat) (v : Val) : Word × Flags :=
  let (b, fl) := roundFloat 0 mode false v
  (BitVec.ofNat 32 b, fl)

/-! ### Exact arithmetic -/

/-- The sign of an exact zero sum of values that are not zeros of one sign (R263). -/
def zeroSign (mode : Nat) : Bool := decide (mode = 2)

/-- A signed integer times 2^e as a value; zero takes the sign given. -/
def ofInt (i e : Int) (zneg : Bool) : Val :=
  if i = 0 then .fin zneg 0 0 else .fin (decide (i < 0)) i.natAbs e

/-- The signed mantissa of a finite value. -/
def signed (neg : Bool) (m : Nat) : Int := if neg then -Int.ofNat m else Int.ofNat m

/-- x + y exactly; NaN for ∞ − ∞; a zero sum by the rule of R263. -/
def Val.add (mode : Nat) : Val → Val → Val
  | .nan, _ => .nan
  | _, .nan => .nan
  | .inf a, .inf b => if a = b then .inf a else .nan
  | .inf a, _ => .inf a
  | _, .inf b => .inf b
  | .fin n1 m1 e1, .fin n2 m2 e2 =>
    let e := if e1 ≤ e2 then e1 else e2
    let s := signed n1 (m1 * 2 ^ (e1 - e).toNat) + signed n2 (m2 * 2 ^ (e2 - e).toNat)
    ofInt s e (if m1 = 0 ∧ m2 = 0 ∧ n1 = n2 then n1 else zeroSign mode)

/-- x × y exactly; NaN for 0 × ∞. -/
def Val.mul : Val → Val → Val
  | .nan, _ => .nan
  | _, .nan => .nan
  | .inf a, .inf b => .inf (a != b)
  | .inf a, .fin n m _ => if m = 0 then .nan else .inf (a != n)
  | .fin n m _, .inf b => if m = 0 then .nan else .inf (n != b)
  | .fin n1 m1 e1, .fin n2 m2 e2 => .fin (n1 != n2) (m1 * m2) (e1 + e2)

/-- x × 2^k. -/
def Val.scale (v : Val) (k : Int) : Val :=
  match v with
  | .fin n m e => .fin n m (e + k)
  | x => x

/-- A NaN that neither operand was: an invalid operation (R52). -/
def madeNan (r : Val) (xs : List Val) : Flags :=
  if r = .nan ∧ ¬ (xs.any fun x => decide (x = .nan)) then fNV else fNone

/-- A rounded result in a format with the flags of its operation. -/
def finish (f mode : Nat) (r : Val) (nv : Flags) : Nat × Flags :=
  let (b, fl) := roundFloat f mode false r
  (b, fl ||| nv)

/-- A sum in a format (R263, R285). -/
def fpAdd (f mode x y : Nat) : Nat × Flags :=
  let r := (dec f x).add mode (dec f y)
  finish f mode r (madeNan r [dec f x, dec f y])

/-- A product in a format. -/
def fpMul (f mode x y : Nat) : Nat × Flags :=
  let r := (dec f x).mul (dec f y)
  finish f mode r (madeNan r [dec f x, dec f y])

/-- A fused multiply-add in a format: NV for 0 × ∞, or for infinities of opposite sign. -/
def fpFma (f mode x y d : Nat) : Nat × Flags :=
  let p := (dec f x).mul (dec f y)
  let r := p.add mode (dec f d)
  finish f mode r (madeNan p [dec f x, dec f y] ||| madeNan r [p, dec f d])

/-- An exact block sum of products over the reals extended by ±∞ (R60, R276), with NV for a 0 × ∞ or an ∞ − ∞ in it
(R52, log 18).  DESIGN CHOICE (log 94): a sum of zero counts as +0, whatever the signs of its products. -/
def dotVals (xs ys : List Val) : Val × Flags :=
  (xs.zip ys).foldl (fun (s, fl) (x, y) =>
    let p := x.mul y
    let r := s.add 0 p
    (r, fl ||| madeNan p [x, y] ||| madeNan r [s, p])) (.fin false 0 0, fNone)

/-- A block sum times its two scales added into an FP32 accumulator with one rounding to nearest even (R60, R276);
a scale code 0xFF or a NaN sum gives the canonical NaN. -/
def accBlock (acc : Word) (sum : Val × Flags) (ea eb : Nat) : Word × Flags :=
  if ea = 0xFF ∨ eb = 0xFF ∨ sum.1 = .nan then (Config.nan32, sum.2)
  else
    let r := (dec32 acc).add 0 (sum.1.scale (Int.ofNat ea - 127 + (Int.ofNat eb - 127)))
    let (w, fl) := round32 0 r
    (w, fl ||| madeNan r [dec32 acc])

/-- An order key of FP32 bits in which −0 lies below +0. -/
def fpKey (x : Nat) : Int := if x < 2 ^ 31 then Int.ofNat x else -Int.ofNat (x - 2 ^ 31) - 1

/-- FMIN (R263): the canonical NaN, or the lesser with −0 below +0. -/
def fpMin (x y : Word) : Word :=
  if dec32 x = .nan ∨ dec32 y = .nan then Config.nan32 else if fpKey y.toNat < fpKey x.toNat then y else x

/-- FMAX. -/
def fpMax (x y : Word) : Word :=
  if dec32 x = .nan ∨ dec32 y = .nan then Config.nan32 else if fpKey x.toNat < fpKey y.toNat then y else x

/-- A comparison key of FP32 bits in which the zeros are equal. -/
def fpCmpKey (x : Nat) : Int := if x < 2 ^ 31 then Int.ofNat x else -Int.ofNat (x - 2 ^ 31)

/-- The comparison COND of two FP32 values (R196, R264). -/
def condFp (cond : Nat) (x y : Word) : Bool :=
  let un := decide (dec32 x = .nan) || decide (dec32 y = .nan)
  let a := fpCmpKey x.toNat
  let b := fpCmpKey y.toNat
  match cond with
  | 0 => !un && decide (a = b)
  | 1 => un || decide (a ≠ b)
  | 2 => !un && decide (a < b)
  | 3 => !un && decide (a ≤ b)
  | 4 => !un && decide (b < a)
  | 5 => !un && decide (b ≤ a)
  | 10 => !un
  | 11 => un
  | _ => false

/-- FRND (R266): the nearest integral value; NX when it differs. -/
def fpRound (mode : Nat) (x : Word) : Word × Flags :=
  match dec32 x with
  | .nan => (Config.nan32, fNone)
  | .inf _ => (x, fNone)
  | .fin neg m e =>
    let (r, _) := roundAt mode neg m e 0
    let y := (round32 0 (.fin neg r 0)).1
    (y, if y = x then fNone else fNX)

/-! ### Special functions (R55 to R57) -/

/-- Integer square root by bits: `bs` bits still to settle, from the root `r` found so far. -/
def isqrtFrom (n : Nat) : Nat → Nat → Nat
  | 0, r => r
  | b + 1, r => let r' := r + 2 ^ b
    isqrtFrom n b (if r' * r' ≤ n then r' else r)

/-- Integer square root. -/
def isqrt (n : Nat) : Nat := isqrtFrom n (Nat.log2 n / 2 + 1) 0

/-- A magnitude known as a floor with its inexactness, made exact enough to round: one more bit holds whether
anything was cut. -/
def sticky (neg : Bool) (q : Nat) (inexact : Bool) (e : Int) : Val :=
  .fin neg (2 * q + (if inexact then 1 else 0)) (e - 1)

/-- FRCP (R57). -/
def fpRcp (mode : Nat) (x : Word) : Word × Flags :=
  match dec32 x with
  | .nan => (Config.nan32, fNone)
  | .inf neg => round32 mode (.fin neg 0 0)
  | .fin neg m e =>
    if m = 0 then ((round32 mode (.inf neg)).1, fDZ)
    else round32 mode (sticky neg (2 ^ 64 / m) (decide (2 ^ 64 % m ≠ 0)) (-64 - e))

/-- FSQRT (R57). -/
def fpSqrt (mode : Nat) (x : Word) : Word × Flags :=
  match dec32 x with
  | .nan => (Config.nan32, fNone)
  | .inf neg => if neg then (Config.nan32, fNV) else (x, fNone)
  | .fin neg m e =>
    if m = 0 then (x, fNone)
    else if neg then (Config.nan32, fNV)
    else
      let odd := decide (e % 2 = 1)
      let n := (if odd then 2 * m else m) * 2 ^ 64
      let r := isqrt n
      round32 mode (sticky false r (decide (r * r ≠ n)) ((if odd then e - 1 else e) / 2 - 32))

/-- FRSQ (R57). -/
def fpRsq (mode : Nat) (x : Word) : Word × Flags :=
  match dec32 x with
  | .nan => (Config.nan32, fNone)
  | .inf neg => if neg then (Config.nan32, fNV) else (0, fNone)
  | .fin neg m e =>
    if m = 0 then ((round32 mode (.inf neg)).1, fDZ)
    else if neg then (Config.nan32, fNV)
    else
      let odd := decide (e % 2 = 1)
      let n := if odd then 2 * m else m
      let q := 2 ^ 120 / n
      let r := isqrt q
      round32 mode (sticky false r (decide (r * r * n ≠ 2 ^ 120)) (-60 - (if odd then e - 1 else e) / 2))

/-- floor(x × 2^k) of a finite value. -/
def floorAt (neg : Bool) (m : Nat) (e : Int) (k : Int) : Int :=
  let s := e + k
  if 0 ≤ s then signed neg m * 2 ^ s.toNat else signed neg m / 2 ^ (-s).toNat

/-- FEXP2 (R55). -/
def fpExp2 (mode : Nat) (x : Word) : Word × Flags :=
  match dec32 x with
  | .nan => (Config.nan32, fNone)
  | .inf neg => if neg then (0, fNone) else (x, fNone)
  | .fin neg m e =>
    let n := floorAt neg m e 0
    let f := floorAt neg m e 32 - n * 2 ^ 32
    let isInt := decide (n * 2 ^ 200 = floorAt neg m e 200)
    let nx := if isInt then fNone else fNX
    if 128 ≤ n then
      let (y, fl) := round32 mode (.fin false 1 128)
      (y, fl)
    else if n < -150 then
      let (y, fl) := round32 mode (.fin false 1 (-1000))
      (y, fl)
    else
      let i := (f / 2 ^ 26).toNat
      let q := f % 2 ^ 26 * 2 ^ 8
      let p0 := expC.getD 2 0
      let p1 := expC.getD 1 0 + p0 * q / 2 ^ 40
      let p2 := expC.getD 0 0 + p1 * q / 2 ^ 40
      let p3 := 2 ^ 40 + p2 * q / 2 ^ 40
      let y := expT.getD i 0 * p3 / 2 ^ 40
      let (r, fl) := round32 mode (.fin false y.toNat (n - 40))
      (r, fl ||| nx)

/-- FLOG2 (R56). -/
def fpLog2 (mode : Nat) (x : Word) : Word × Flags :=
  match dec32 x with
  | .nan => (Config.nan32, fNone)
  | .inf neg => if neg then (Config.nan32, fNV) else (x, fNone)
  | .fin neg m e =>
    if m = 0 then ((round32 0 (.inf true)).1, fDZ)
    else if neg then (Config.nan32, fNV)
    else
      let l := Nat.log2 m
      let ex := e + Int.ofNat l
      let mm := (m - 2 ^ l) * 2 ^ 23 / 2 ^ l
      let i := mm / 2 ^ 17
      let t := Int.ofNat (mm % 2 ^ 17)
      let u := t * 2 ^ 39 * logG.getD i 0 / 2 ^ 62
      let k := fun j => logK.getD j 0
      let z := k 5
      let z := k 4 + z * u / 2 ^ 62
      let z := k 3 + z * u / 2 ^ 62
      let z := k 2 + z * u / 2 ^ 62
      let z := k 1 + z * u / 2 ^ 62
      let z := k 0 + z * u / 2 ^ 62
      let y := ex * 2 ^ 62 + logL.getD i 0 + z * u / 2 ^ 62
      ((round32 mode (ofInt y (-62) false)).1, if m = 2 ^ l then fNone else fNX)

end Sys2Proof.Machine
end

