-- ==== Sys2Proof/Machine/Cipher.lean ====
section
/-! DEFINITION. The cipher of stacked DRAM (R102): AES-256 in XTS mode over 512-byte units, the tweak being the unit's number
PA[47:9].  PRESUMED (log 86): AES as FIPS 197 gives it and XTS as IEEE 1619 does; the first 32 bytes of a 64-byte key pair
encrypt the data and the last 32 the tweak. -/

namespace Sys2Proof.Machine

/-! ### The field of AES: bytes modulo x^8 + x^4 + x^3 + x + 1 -/

/-- A byte times x. -/
def gfDouble (a : Byte) : Byte := (a <<< 1) ^^^ (if a.msb then 0x1B else 0)

/-- The product of two bytes, the second one's lowest `n` bits taken. -/
def gfMul (a : Byte) : Nat → Nat → Byte
  | 0, _ => 0
  | n + 1, b => (if b % 2 = 1 then a else 0) ^^^ gfMul (gfDouble a) n (b / 2)

/-- The inverse of a byte, a^254; 0 for 0. -/
def gfInv (a : Byte) : Byte :=
  let mul := fun (x y : Byte) => gfMul x 8 y.toNat
  let a2 := mul a a
  let a3 := mul a2 a
  let a6 := mul a3 a3
  let a12 := mul a6 a6
  let a15 := mul a12 a3
  let a30 := mul a15 a15
  let a60 := mul a30 a30
  let a120 := mul a60 a60
  let a126 := mul a120 a6
  let a127 := mul a126 a
  mul a127 a127

/-- SubBytes of one byte. -/
def subByte (a : Byte) : Byte :=
  let b := gfInv a
  b ^^^ b.rotateLeft 1 ^^^ b.rotateLeft 2 ^^^ b.rotateLeft 3 ^^^ b.rotateLeft 4 ^^^ 0x63

/-- InvSubBytes of one byte. -/
def unsubByte (a : Byte) : Byte := gfInv (a.rotateLeft 1 ^^^ a.rotateLeft 3 ^^^ a.rotateLeft 6 ^^^ 0x05)

/-! ### AES-256 on a block of 16 bytes -/

/-- Two byte lists added. -/
def xorBytes (a b : List Byte) : List Byte := List.zipWith (· ^^^ ·) a b

/-- The key schedule from the last eight words of four bytes onwards, `n` more words. -/
def expandKey : Nat → Nat → Byte → List (List Byte) → List (List Byte)
  | 0, _, _, _ => []
  | n + 1, i, rcon, ws =>
    let prev := ws.getD 7 []
    let turned := match (if i % 8 = 0 then prev.drop 1 ++ prev.take 1 else prev).map subByte with
      | a :: rest => (if i % 8 = 0 then a ^^^ rcon else a) :: rest
      | [] => []
    let w := xorBytes (ws.getD 0 []) (if i % 4 = 0 then turned else prev)
    w :: expandKey n (i + 1) (if i % 8 = 0 then gfDouble rcon else rcon) (ws.drop 1 ++ [w])

/-- A list cut into pieces of `w` elements, at most `n` of them. -/
def pieces {α : Type} (w : Nat) : Nat → List α → List (List α)
  | 0, _ => []
  | n + 1, l => l.take w :: pieces w n (l.drop w)

/-- The fifteen round keys of a 32-byte key. -/
def roundKeys (key : List Byte) : List (List Byte) :=
  let ws := pieces 4 8 key
  pieces 16 15 (ws ++ expandKey 52 8 1 ws).flatten

/-- Bytes of a block taken from given places. -/
def permuted (ps : List Nat) (b : List Byte) : List Byte := ps.map fun i => b.getD i 0

/-- ShiftRows. -/
def shiftRows (b : List Byte) : List Byte := permuted [0, 5, 10, 15, 4, 9, 14, 3, 8, 13, 2, 7, 12, 1, 6, 11] b

/-- InvShiftRows. -/
def unshiftRows (b : List Byte) : List Byte := permuted [0, 13, 10, 7, 4, 1, 14, 11, 8, 5, 2, 15, 12, 9, 6, 3] b

/-- One column of a block times a circulant matrix, by its first row. -/
def mixColumn (row : List Nat) (c : List Byte) : List Byte :=
  (List.range 4).map fun i => (List.range 4).foldl (fun s j =>
    s ^^^ gfMul (c.getD j 0) 4 (row.getD ((j + 4 - i) % 4) 0)) 0

/-- MixColumns by a circulant matrix. -/
def mixColumns (row : List Nat) (b : List Byte) : List Byte := (pieces 4 4 b).flatMap (mixColumn row)

/-- The rounds of encryption that follow the first key. -/
def encryptRounds : List (List Byte) → List Byte → List Byte
  | [], b => b
  | [k], b => xorBytes (shiftRows (b.map subByte)) k
  | k :: ks, b => encryptRounds ks (xorBytes (mixColumns [2, 3, 1, 1] (shiftRows (b.map subByte))) k)

/-- A block encrypted under round keys. -/
def aesEncrypt (ks : List (List Byte)) (b : List Byte) : List Byte := encryptRounds ks.tail (xorBytes b (ks.headD []))

/-- The rounds of decryption, the round keys in reverse. -/
def decryptRounds : List (List Byte) → List Byte → List Byte
  | [], b => b
  | [k], b => xorBytes ((unshiftRows b).map unsubByte) k
  | k :: ks, b => decryptRounds ks (mixColumns [14, 11, 13, 9] (xorBytes ((unshiftRows b).map unsubByte) k))

/-- A block decrypted under round keys. -/
def aesDecrypt (ks : List (List Byte)) (b : List Byte) : List Byte :=
  decryptRounds ks.reverse.tail (xorBytes b (ks.reverse.headD []))

/-! ### XTS (R102) -/

/-- A tweak times x in the field of 128 bits, low byte first. -/
def tweakDouble (t : List Byte) : List Byte :=
  let carries : List Byte := 0 :: t.map fun (a : Byte) => a >>> 7
  match List.zipWith (fun (a c : Byte) => (a <<< 1) ||| c) t carries with
  | a :: rest => (if (t.getD 15 0).msb then a ^^^ 0x87 else a) :: rest
  | [] => []

/-- A tweak times x, `n` times. -/
def tweakAt : Nat → List Byte → List Byte
  | 0, t => t
  | n + 1, t => tweakAt n (tweakDouble t)

/-- A number as `n` little-endian bytes (R188, R240). -/
def leBytes : Nat → Nat → List Byte
  | 0, _ => []
  | n + 1, v => BitVec.ofNat 8 v :: leBytes n (v / 256)

/-- The round keys of a key pair: those of the data, and those of the tweak. -/
def pairKeys (key : BitVec 512) : List (List Byte) × List (List Byte) :=
  let bs := leBytes 64 key.toNat
  (roundKeys (bs.take 32), roundKeys (bs.drop 32))

/-- The tweak of the 16-byte block at a physical address under a key pair. -/
def blockTweak (ks : List (List Byte) × List (List Byte)) (pa : Nat) : List Byte :=
  tweakAt (pa % 512 / 16) (aesEncrypt ks.2 (leBytes 16 (pa / 512)))

/-- The stored form of a 16-byte block at a physical address. -/
def sealBlock (key : BitVec 512) (pa : Nat) (b : List Byte) : List Byte :=
  let ks := pairKeys key
  let t := blockTweak ks pa
  xorBytes (aesEncrypt ks.1 (xorBytes b t)) t

/-- What a stored 16-byte block at a physical address reads as. -/
def openBlock (key : BitVec 512) (pa : Nat) (b : List Byte) : List Byte :=
  let ks := pairKeys key
  let t := blockTweak ks pa
  xorBytes (aesDecrypt ks.1 (xorBytes b t)) t

/-- What a 16-byte block written under one key pair reads as under another (R102). -/
def reread (written now : BitVec 512) (pa : Nat) (b : List Byte) : List Byte :=
  if written = now then b else openBlock now pa (sealBlock written pa b)

end Sys2Proof.Machine
end

