-- ==== Sys2Proof/Syntax.lean ====
section
/-! DEFINITION. Syntax: the operand layouts of the instruction words (R195) and the one inductive of every
row of the opcode table: 138 instruction words and the 79 steps of the part's other agents. -/

namespace Sys2Proof

/-- A 7-bit operand code (R193). -/
abbrev Code := BitVec 7

/-- A predicate number, 0 to 7 (R195). -/
abbrev Pred := BitVec 3

/-- Layout A (R195). -/
structure LA where
  k : Bool
  bs : Bool
  d : Code
  a : Code
  b : Code
  deriving DecidableEq, Repr

/-- Layout A where B must be 124 and BS 0 (IABS, POPC, CLZ, BREV). -/
structure LA1 where
  k : Bool
  d : Code
  a : Code
  deriving DecidableEq, Repr

/-- Layout A with K and BS 0 and B 124 (the special functions of R267). -/
structure LA2 where
  d : Code
  a : Code
  deriving DecidableEq, Repr

/-- Layout A of FRND: B holds a rounding code (R266). -/
structure LFrnd where
  k : Bool
  d : Code
  a : Code
  rc : Code
  deriving DecidableEq, Repr

/-- Layout A of MOV: A is 124 (R277). -/
structure LMov where
  k : Bool
  bs : Bool
  d : Code
  b : Code
  deriving DecidableEq, Repr

/-- Layout A of XLANE: K must be 0 (R312). -/
structure LXlane where
  bs : Bool
  d : Code
  a : Code
  b : Code
  deriving DecidableEq, Repr

/-- Layout A.c (R195). -/
structure LAc where
  bs : Bool
  pd : Pred
  cond : BitVec 4
  a : Code
  b : Code
  deriving DecidableEq, Repr

/-- Layout A.s (R195, R307). -/
structure LAs where
  p : Pred
  neg : Bool
  bs : Bool
  d : Code
  b : Code
  deriving DecidableEq, Repr

/-- Layout A.q (R195, R286). -/
structure LAq where
  pd : Pred
  pa : Pred
  pb : Pred
  pc : Pred
  tt : BitVec 8
  deriving DecidableEq, Repr

/-- Layout A.u (R195, R302). -/
structure LAu where
  d : Code
  a : Code
  b : Code
  deriving DecidableEq, Repr

/-- Layout A.u of SMOV: A is 0 (R303). -/
structure LSmov where
  d : Code
  b : Code
  deriving DecidableEq, Repr

/-- Layout A.u of SFIRST: B is 0, A is a lane register (R305). -/
structure LSfirst where
  d : Code
  a : Code
  deriving DecidableEq, Repr

/-- Layout A.uc (R195, R304). -/
structure LAuc where
  pd : Pred
  cond : BitVec 4
  a : Code
  b : Code
  deriving DecidableEq, Repr

/-- Layout A.m of LD and ST (R195, R197). -/
structure LAm where
  ty : BitVec 3
  sc : BitVec 2
  ord : BitVec 2
  base : BitVec 2
  a : Code
  v : Code
  deriving DecidableEq, Repr

/-- Layout A.m of LDS and STS: BASE is 0 (R273, R308). -/
structure LAms where
  ty : BitVec 3
  sc : BitVec 2
  ord : BitVec 2
  a : Code
  v : Code
  deriving DecidableEq, Repr

/-- Layout A.p (R195, R288). -/
structure LAp where
  sc : BitVec 2
  d : Code
  a : Code
  b : Code
  deriving DecidableEq, Repr

/-- Layout A.t (R195, R256). -/
structure LAt where
  sc : BitVec 2
  space : Bool
  base : BitVec 2
  a : Code
  v : Code
  deriving DecidableEq, Repr

/-- Layout A.f (R195, R265). -/
structure LAf where
  sc : BitVec 2
  kind : BitVec 2
  deriving DecidableEq, Repr

/-- Layout A.r of RALLOC: X[0] is SCOPE (R290). -/
structure LRalloc where
  p : Pred
  g : Bool
  d : Code
  a : Code
  deriving DecidableEq, Repr

/-- Layout A.r of RFREE (R291). -/
structure LRfree where
  p : Pred
  a : Code
  deriving DecidableEq, Repr

/-- Layout A.r of RRANK: X[2:0] is the rank (R292). -/
structure LRrank where
  p : Pred
  x : BitVec 3
  d : Code
  a : Code
  deriving DecidableEq, Repr

/-- Layout A.r with P 7 and a fixed X: destination and source (RSTAT, RSTAT.claim, CSTAT). -/
structure LDA where
  d : Code
  a : Code
  deriving DecidableEq, Repr

/-- Layout A.r of GRANGE (R268). -/
structure LGrange where
  p : Pred
  d : Code
  deriving DecidableEq, Repr

/-- Layout A.h of HCREATE (R269). -/
structure LHcreate where
  pd : Pred
  h : BitVec 3
  d : Code
  b : Code
  deriving DecidableEq, Repr

/-- Layout A.h with a source register (HJOIN). -/
structure LHb where
  h : BitVec 3
  b : Code
  deriving DecidableEq, Repr

/-- Layout A.h with a destination (HBAR, HWAIT, HQUERY). -/
structure LHd where
  h : BitVec 3
  d : Code
  deriving DecidableEq, Repr

/-- Layout A.h of HARR (R269). -/
structure LHarr where
  kind : BitVec 4
  h : BitVec 3
  b : Code
  deriving DecidableEq, Repr

/-- Layout A.h of HVOTE and HRED (R269). -/
structure LHkdb where
  kind : BitVec 4
  h : BitVec 3
  d : Code
  b : Code
  deriving DecidableEq, Repr

/-- Layout A.w (R311). -/
structure LAw where
  pd : Pred
  k : BitVec 2
  pa : Pred
  d : Code
  deriving DecidableEq, Repr

/-- Layout A.x (R249). -/
structure LAx where
  prio : BitVec 8
  a : Code
  deriving DecidableEq, Repr

/-- Layout A.y (R309). -/
structure LAy where
  v : Code
  sreg : BitVec 10
  deriving DecidableEq, Repr

/-- Layout I (R289). -/
structure LI where
  d : Code
  a : Code
  sel : BitVec 8
  deriving DecidableEq, Repr

/-- Layout I.w (R277). -/
structure LIw where
  k : Bool
  d : Code
  imm : BitVec 15
  deriving DecidableEq, Repr

/-- Layout L.k of MOVL: HALF is 0 (R195, R277). -/
structure LMovl where
  d : Code
  lit : Word
  deriving DecidableEq, Repr

/-- Layout L.k of SMOVL (R303, R321). -/
structure LSmovl where
  half : BitVec 2
  d : Code
  lit : Word
  deriving DecidableEq, Repr

/-- Layout L.x (R195, R198). -/
structure LX where
  sc : BitVec 2
  d : Code
  a : Code
  b : Code
  space : Bool
  base : BitVec 2
  ord : BitVec 2
  opt : BitVec 5
  deriving DecidableEq, Repr

/-- Layout L.v (R195, R257). -/
structure LV where
  sat : Bool
  d : Code
  a : Code
  b : Code
  sfmt : BitVec 4
  dfmt : BitVec 4
  rnd : BitVec 3
  eidx : BitVec 3
  deriving DecidableEq, Repr

/-- Layout L.d (R259). -/
structure LDp4 where
  k : Bool
  bs : Bool
  d : Code
  a : Code
  b : Code
  sga : Bool
  sgb : Bool
  deriving DecidableEq, Repr

/-- Layout L.g (R275). -/
structure LG where
  d : Code
  a : Code
  b : Code
  sca : Code
  scb : Code
  sela : BitVec 2
  selb : BitVec 2
  sga : Bool
  sgb : Bool
  deriving DecidableEq, Repr

/-- Layout B (R201). -/
structure LB where
  p : Pred
  neg : Bool
  tprio : BitVec 8
  fprio : BitVec 8
  off : Word
  deriving DecidableEq, Repr

/-- Layout E with no further operand (CPY, MX, MXDRAIN, ATTN). -/
structure LE where
  u : BitVec 6
  deriving DecidableEq, Repr

/-- Layout E of CBLOAD (R250). -/
structure LCbload where
  u : BitVec 6
  space : Bool
  deriving DecidableEq, Repr

/-- Layout E.q (R260). -/
structure LEq where
  pd : Pred
  lq : Bool
  ack : Bool
  u : BitVec 6
  a : Code
  deriving DecidableEq, Repr

/-- Layout E.w of ROPEN (R295). -/
structure LRopen where
  u : BitVec 6
  slot : BitVec 3
  a : Code
  deriving DecidableEq, Repr

/-- Layout E.w of RTAKE (R295). -/
structure LRtake where
  pd : Pred
  try_ : Bool
  dest : Bool
  slot : BitVec 3
  a : Code
  deriving DecidableEq, Repr

/-- Layout E.w of RPOLL (R295). -/
structure LRpoll where
  slot : BitVec 3
  a : Code
  deriving DecidableEq, Repr

/-- Layout E.k (R272). -/
structure LEk where
  u : BitVec 6
  x : Code
  deriving DecidableEq, Repr

/-! ### Operands of the steps that are no instruction words -/

/-- What the tenant command sets (R179, R322).  A field of the launch table is R32's. -/
structure TenantCfg where
  clusters : List Nat
  root : Nat
  saveBase : Nat
  saveBytes : Nat
  cmdBase : Nat
  cmdLog : Nat
  fqBase : Nat
  fqLog : Nat
  fqCtl : Nat
  hv : Bool
  fabric : Bool
  launchOn : Bool
  senders : List Nat
  entries : List Nat
  maxClass : Nat
  deriving DecidableEq, Repr

/-- What an access from outside asks of a package (R177, R182): a write, a read of a length, or an atomic that the column
performs, with its operands. -/
inductive PeerOp
  | write (bytes : List Byte)
  | read (n : Nat)
  | atomic (opt : Nat) (v : Dword)
  | cas (w8 : Bool) (cmp new : Dword)
  | add (v : Dword)
  deriving DecidableEq, Repr

/-- The tenant that a fabric launch packet names, and the package that sends it (R32). -/
structure FabricSource where
  tenant : Nat
  sender : Nat
  deriving DecidableEq, Repr

/-- The body of a flit's block, and how many bytes of the payload, by the length in the packet header, are still to come with it
(R184). -/
structure FlitBody where
  bytes : List Byte
  left : Nat
  deriving DecidableEq, Repr

/-- An item of a thread's or a group's context that the debug command reads or writes (R175, R171). -/
inductive CtxItem
  /-- Lane register vN. -/
  | v (n : Nat)
  /-- Predicate pN. -/
  | p (n : Nat)
  /-- Handle register hN. -/
  | h (n : Nat)
  /-- Uniform register sN of the group. -/
  | s (n : Nat)
  /-- The thread's point as an %epc word: its packet, word and priority. -/
  | point
  | fpmode
  | nflags
  | batchCounter
  /-- The state of the thread (R12): 0 Runnable, 1 Parked, 2 Gathering, 3 Exited, 4 Retired. -/
  | runState
  /-- The outstanding arrivals of the ticket of hN, and its last delivery (R133). -/
  | ticketOut (n : Nat)
  | ticketLast (n : Nat)
  /-- Levels of the trap stack. -/
  | depth
  /-- %epc, %cause, %tval and %tmask of a trap level, the top being 0. -/
  | epc (level : Nat)
  | cause (level : Nat)
  | tval (level : Nat)
  | tmask (level : Nat)
  /-- BASE and SIZE of region table entry N: bits 31 to 0 and 63 to 32; 0 where the entry is empty. -/
  | regionRange (n : Nat)
  /-- HANDLER, RANK, SCOPE and STATE of region table entry N: bits 56 to 0, 59 to 57, 60 and 61. -/
  | regionKind (n : Nat)
  /-- CLAIM of region table entry N: 0 clear, else 1 more than the thread that holds it. -/
  | regionClaim (n : Nat)
  /-- The row address of row slot N (R97). -/
  | rowSlot (n : Nat)
  /-- Entry N of the CB2 table (R49). -/
  | cb2 (n : Nat)
  /-- The staging fill record (R279): its slot, with bit 32 where there is a record, and its row address. -/
  | fillSlot
  | fillRow
  deriving DecidableEq, Repr

/-- Every row of the opcode table: first the instruction words, then the steps of the other agents, whose
operands say which command, core, bank or message the step is about. -/
inductive Instr
  /-- Does nothing and uses no pipe. (R283) -/
  | nop
  /-- Ends each active thread, leaving its bundle, frontier, synchronisation groups and any rebuild claim. (R262) -/
  | exit
  /-- Makes the entries where the bundle's threads stand not eligible until the group's other eligible entries have issued. (R315) -/
  | yield
  /-- Raises software trap 0x51 with %tval set to the immediate. (R310) -/
  | trap (imm : BitVec 16)
  /-- Raises trap 0x50 with %tval set to the immediate; a group under debug halts instead. (R246) -/
  | bkpt (imm : BitVec 16)
  /-- Pops one trap-stack level and resumes at the popped %epc packet, word and priority. (R314) -/
  | xret
  /-- Clears the thread's capacity flag if it is set, or parks until it is set and then clears it. (R261) -/
  | evwait (ev : BitVec 4)
  /-- Reads the system register named by SREG into a lane register or pair. (R309) -/
  | sysr (f : LAy)
  /-- Writes the system register named by SREG from a lane register or pair; used for every register write that has no row of its own. (R309) -/
  | sysw (f : LAy)
  /-- Conditional relative branch that sets the taken or fall-through priority and splits the bundle. (R247) -/
  | bra (f : LB)
  /-- Unconditional relative branch that sets the target priority. (R247) -/
  | bru (f : LB)
  /-- Relative branch that, when taken, writes the link word to the last register pair. (R202) -/
  | call (f : LB)
  /-- Branches to the packet address held in a register pair and sets the priority PRIO. (R249) -/
  | brx (f : LAx)
  /-- Resumes at the packet and priority held in the link word. (R301) -/
  | ret
  /-- Integer addition modulo 2^32. (R270) -/
  | iadd (f : LA)
  /-- Integer subtraction modulo 2^32. (R270) -/
  | isub (f : LA)
  /-- Low 32 bits of the integer product. (R270) -/
  | imul (f : LA)
  /-- High word of the signed 64-bit product. (R270) -/
  | imulhS32 (f : LA)
  /-- High word of the unsigned 64-bit product. (R270) -/
  | imulhN32 (f : LA)
  /-- Integer multiply-add into D, modulo 2^32. (R270) -/
  | imad (f : LA)
  /-- Signed minimum. (R270) -/
  | iminS32 (f : LA)
  /-- Unsigned minimum. (R270) -/
  | iminN32 (f : LA)
  /-- Signed maximum. (R270) -/
  | imaxS32 (f : LA)
  /-- Unsigned maximum. (R270) -/
  | imaxN32 (f : LA)
  /-- Absolute value of the signed operand. (R270) -/
  | iabs (f : LA1)
  /-- Integer comparison by COND into a predicate. (R271) -/
  | icmp (f : LAc)
  /-- Writes a 64-bit base plus a zero-extended offset to a register pair. (R274) -/
  | lea (f : LA)
  /-- Writes opB to D where the predicate differs from NEG, and leaves D unchanged elsewhere. (R307) -/
  | sel (f : LAs)
  /-- Copies opB into D. (R277) -/
  | mov (f : LMov)
  /-- Bitwise and. (R242) -/
  | and (f : LA)
  /-- Bitwise or. (R284) -/
  | or (f : LA)
  /-- Bitwise exclusive or. (R313) -/
  | xor (f : LA)
  /-- Logical left shift of a lane value. (R306) -/
  | shl (f : LA)
  /-- Logical right shift of a lane value. (R306) -/
  | shr (f : LA)
  /-- Arithmetic right shift of a lane value. (R306) -/
  | sar (f : LA)
  /-- Extracts a bit field, optionally sign-extended. (R245) -/
  | bfx (f : LA)
  /-- Inserts a bit field into D. (R245) -/
  | bfi (f : LA)
  /-- Counts the 1 bits of A. (R287) -/
  | popc (f : LA1)
  /-- Counts the leading zero bits of A. (R248) -/
  | clz (f : LA1)
  /-- Reverses the bits of A. (R248) -/
  | brev (f : LA1)
  /-- Writes a predicate from a truth table over three predicates. (R286) -/
  | plop (f : LAq)
  /-- Writes a sign-extended 15-bit immediate. (R277) -/
  | movi (f : LIw)
  /-- Writes a 32-bit literal held in a second word. (R277) -/
  | movl (f : LMovl)
  /-- FP32 addition under %fpmode.RND. (R263) -/
  | fadd (f : LA)
  /-- FP32 multiplication. (R263) -/
  | fmul (f : LA)
  /-- FP32 fused multiply-add into D with one rounding. (R263) -/
  | ffma (f : LA)
  /-- FP32 minimum, with -0 below +0. (R263) -/
  | fmin (f : LA)
  /-- FP32 maximum. (R263) -/
  | fmax (f : LA)
  /-- FP32 comparison by COND into a predicate. (R264) -/
  | fcmp (f : LAc)
  /-- Rounds to an integral FP32 value under a rounding code. (R266) -/
  | frnd (f : LFrnd)
  /-- 2^A by the fixed table algorithm. (R55) -/
  | fexp2 (f : LA2)
  /-- log2 A by the fixed table algorithm. (R56) -/
  | flog2 (f : LA2)
  /-- Correctly rounded reciprocal. (R57) -/
  | frcp (f : LA2)
  /-- Correctly rounded reciprocal square root. (R57) -/
  | frsq (f : LA2)
  /-- Correctly rounded square root. (R57) -/
  | fsqrt (f : LA2)
  /-- Converts one element between formats under a rounding mode and saturation. (R257) -/
  | cvt (f : LV)
  /-- Converts two elements into adjacent narrow elements of D. (R257) -/
  | cvtp (f : LV)
  /-- Packed BF16 addition. (R285) -/
  | paddBf16 (f : LA)
  /-- Packed FP16 addition. (R285) -/
  | paddF16 (f : LA)
  /-- Packed BF16 multiplication. (R285) -/
  | pmulBf16 (f : LA)
  /-- Packed FP16 multiplication. (R285) -/
  | pmulF16 (f : LA)
  /-- Packed BF16 fused multiply-add. (R285) -/
  | pfmaBf16 (f : LA)
  /-- Packed FP16 fused multiply-add. (R285) -/
  | pfmaF16 (f : LA)
  /-- Accumulates four 8-bit products into D with saturation. (R259) -/
  | dp4 (f : LDp4)
  /-- Accumulates eight INT4 products into D with saturation. (R259) -/
  | dp8 (f : LA)
  /-- Exchanges register values within a quad by selector. (R289) -/
  | qxch (f : LI)
  /-- Each live thread reads A from the home lane named by opB. (R312) -/
  | xlane (f : LXlane)
  /-- All or any vote across a home warp, with an optional ballot word. (R311) -/
  | wvote (f : LAw)
  /-- Collective 8x32x8 fragment multiply in BF16 into FP32. (R276) -/
  | mmfBf16 (f : LG)
  /-- Collective fragment multiply in FP16. (R276) -/
  | mmfF16 (f : LG)
  /-- Collective fragment multiply in E4M3 with block scales. (R276) -/
  | mmfE4m3 (f : LG)
  /-- Collective fragment multiply in E5M2 with block scales. (R276) -/
  | mmfE5m2 (f : LG)
  /-- Collective fragment multiply in E2M1 with block scales. (R276) -/
  | mmfE2m1 (f : LG)
  /-- Collective 8-bit integer fragment multiply into saturating .s32. (R276) -/
  | mmfS8 (f : LG)
  /-- Uniform 64-bit addition, once per bundle. (R303) -/
  | sadd (f : LAu)
  /-- Uniform subtraction. (R303) -/
  | ssub (f : LAu)
  /-- Uniform multiplication, low 64 bits. (R303) -/
  | smul (f : LAu)
  /-- Uniform bitwise and. (R303) -/
  | sand (f : LAu)
  /-- Uniform bitwise or. (R303) -/
  | sor (f : LAu)
  /-- Uniform bitwise exclusive or. (R303) -/
  | sxor (f : LAu)
  /-- Uniform left shift. (R303) -/
  | sshl (f : LAu)
  /-- Uniform logical right shift. (R303) -/
  | sshr (f : LAu)
  /-- 64-bit uniform comparison into a predicate of every active thread. (R304) -/
  | scmp (f : LAuc)
  /-- Copies opB into a uniform register. (R303) -/
  | smov (f : LSmov)
  /-- Writes a 32-bit literal into a uniform register by HALF. (R321) -/
  | smovl (f : LSmovl)
  /-- Uniform plain 8-byte DRAM load at core scope. (R305) -/
  | sld (f : LAu)
  /-- Copies the lane value of the lowest active home lane into a uniform register. (R305) -/
  | sfirst (f : LSfirst)
  /-- DRAM load of the width of TY, with an optional acquire. (R273) -/
  | ld (f : LAm)
  /-- DRAM store, with an optional release. (R308) -/
  | st (f : LAm)
  /-- Scratchpad load, which parks on a Pending line. (R273) -/
  | lds (f : LAms)
  /-- Scratchpad store. (R308) -/
  | sts (f : LAms)
  /-- Atomic read-modify-write selected by OPT, returning the old value. (R243) -/
  | atom (f : LX)
  /-- Atomic compare and swap, returning the old value. (R241) -/
  | acas (f : LX)
  /-- Atomic reduction to memory, returning nothing. (R300) -/
  | red (f : LX)
  /-- Orders the thread's own accesses by kind and scope. (R265) -/
  | fence (f : LAf)
  /-- Acquire read that first makes an owner core's core-scope releases visible at scope S. (R288) -/
  | promote (f : LAp)
  /-- Adds to a counter as an atomic release. (R256) -/
  | ctadd (f : LAt)
  /-- Parks until a counter reaches the target, then acquires. (R256) -/
  | ctwait (f : LAt)
  /-- Reads a counter as an acquire. (R256) -/
  | ctread (f : LAt)
  /-- Closes the thread's outstanding copies into a numbered batch. (R254) -/
  | cseal (d : Code)
  /-- Parks until every batch up to n is complete. (R258) -/
  | cwait (a : Code)
  /-- Returns the status word of a batch without parking. (R255) -/
  | cstat (f : LDA)
  /-- Asks the hamper for a region and returns its base or a failure code. (R290) -/
  | ralloc (f : LRalloc)
  /-- Frees the group's region that holds the address. (R291) -/
  | rfree (f : LRfree)
  /-- Changes a Live region's rank when it has its banks alone. (R292) -/
  | rrank (f : LRrank)
  /-- Reads the line and region state of an address. (R293) -/
  | rstat (f : LDA)
  /-- Tries to take the rebuild claim of a Lost region and returns a claim code. (R81) -/
  | rstatClaim (f : LDA)
  /-- Creates a synchronisation group homed on the issuing core. (R129) -/
  | hcreate (f : LHcreate)
  /-- Joins the synchronisation group named by a handle value. (R131) -/
  | hjoin (f : LHb)
  /-- Leaves the synchronisation group and empties the handle register. (R131) -/
  | hleave (h : BitVec 3)
  /-- Arrives at a barrier and waits for the generation to complete. (R132) -/
  | hbar (f : LHd)
  /-- Arrives with an optional contribution without waiting. (R132) -/
  | harr (f : LHarr)
  /-- Waits for the outstanding arrival's delivery or returns the last delivery. (R133) -/
  | hwait (f : LHd)
  /-- Arrives with a predicate vote and waits for the result. (R134) -/
  | hvote (f : LHkdb)
  /-- Arrives with a reduction contribution and waits for the result. (R134) -/
  | hred (f : LHkdb)
  /-- Reads the group's membership word and generation number from the home. (R136) -/
  | hquery (f : LHd)
  /-- Copies the handle register into a lane register without visiting the home. (R128) -/
  | hqueryHdl (f : LHd)
  /-- Dissolves the synchronisation group. (R138) -/
  | hdiss (h : BitVec 3)
  /-- Reads the untaken remainder of the core's local range for the launch. (R268) -/
  | grangeRead (f : LGrange)
  /-- Takes one index for the issuing group, requesting more work if needed. (R268) -/
  | grangeTake (f : LGrange)
  /-- Starts a geometric, converting copy from a descriptor. (R252) -/
  | cpy (f : LE)
  /-- Starts a matrix product into an accumulator tile. (R280) -/
  | mx (f : LE)
  /-- Starts finishing a tile into memory. (R282) -/
  | mxdrain (f : LE)
  /-- Starts a 64-key attention step on the pair array. (R146) -/
  | attn (f : LE)
  /-- Starts merging two arrays of attention partials. (R149) -/
  | attnMerge (f : LE)
  /-- Starts loading the group's CB2 table. (R250) -/
  | cbload (f : LCbload)
  /-- Enqueues a launch record to a core's task queue or to the tenant's launch queue. (R260) -/
  | enq (f : LEq)
  /-- Requests activation of a row of the core's column into a row slot. (R296) -/
  | ropen (f : LRopen)
  /-- Takes an Open row to staging or scratchpad, parking while the slot is not ready. (R297) -/
  | rtake (f : LRtake)
  /-- Makes a row slot Free. (R298) -/
  | rclose (slot : BitVec 3)
  /-- Writes the slot's state word without parking. (R298) -/
  | rpoll (f : LRpoll)
  /-- Searches a KV table for a sequence and logical block. (R154) -/
  | kvfind (f : LEk)
  /-- Inserts a KV entry into a probe slot or onto the overflow list. (R154) -/
  | kvins (f : LEk)
  /-- Computes a block's CRC and makes its entry Valid and not pending. (R154) -/
  | kvinsSeal (f : LEk)
  /-- Deletes a matching KV entry. (R154) -/
  | kvdel (f : LEk)
  /-- Probes the digest table for a digest. (R154) -/
  | kvpfx (f : LEk)
  /-- Places a digest in the digest table. (R154) -/
  | kvpfxIns (f : LEk)
  /-- Clears V of a matching digest entry. (R154) -/
  | kvpfxDel (f : LEk)
  /-- The column controller performs one KV instruction indivisibly on the table and returns its results. (R157) -/
  | kvTableAction (id : Nat)
  /-- The host writes a queue's tail index, making new command records available to firmware. (R178) -/
  | doorbellWrite (tenant tail : Nat)
  /-- Passes a host launch record to the dispatcher and completes with acceptance or rejection. (R179) -/
  | launchCommand (q addr : Nat)
  /-- Sets the module power budget, announcing reductions and cutting caps and clocks when it lowers it. (R181) -/
  | budgetCommand (q watts : Nat)
  /-- A lowering budget command completes once draw is within the new budget. (R181) -/
  | budgetCommandComplete (draw : Nat)
  /-- Creates a tenant with its clusters, stage-1 root, save pool, queues, launch table and HV bit. (R179) -/
  | tenantCreate (q id : Nat) (cfg : TenantCfg)
  /-- Changes a tenant's settings. (R179) -/
  | tenantChange (q id : Nat) (cfg : TenantCfg)
  /-- Disables a tenant. (R179) -/
  | tenantDisable (q id : Nat)
  /-- Writes a stage-2 entry, with refusals as status 4, taking effect at one point. (R180) -/
  | mapCommand (q id gpa : Nat) (entry : Dword)
  /-- A map or invalidate command completes once old translations have drained and been dropped. (R180) -/
  | translationDrainComplete (q : Nat)
  /-- Starts zero-filling a frame under its owner's key, with ZF set. (R102) -/
  | zeroCommand (q id gpa : Nat) (entry : Dword)
  /-- The zero-fill ends, the stage-2 entry becomes valid and the command completes. (R102) -/
  | zeroFillComplete (q : Nat)
  /-- Loads an XTS key pair into a slot and assigns a frame range to it. (R179) -/
  | keyCommand (q slot : Nat) (key : BitVec 512) (lo hi : Nat)
  /-- Writes the budget in force and the latest draw to host memory. (R323) -/
  | queryBudget (q : Nat)
  /-- Writes %capacity of every core to host memory. (R323) -/
  | queryCapacity (q : Nat)
  /-- Writes %thermal of every column to host memory. (R323) -/
  | queryTemperatures (q : Nat)
  /-- Writes %bankmap of every column to host memory. (R323) -/
  | queryBankMaps (q : Nat)
  /-- Writes per-column error, close and activation counts to host memory. (R323) -/
  | queryCounters (q : Nat)
  /-- Places a group under debug and halts it after step 1 of pre-emption. (R175) -/
  | debugHalt (q group : Nat)
  /-- Issues one packet of the halted group in its lowest eligible slot. (R176) -/
  | debugSingleStep (q group : Nat)
  /-- Issues one packet for one named thread alone. (R176) -/
  | debugThreadStep (q group tid : Nat)
  /-- Resumes a halted group. (R175) -/
  | debugResume (q group : Nat)
  /-- Reads thread or group context of a halted group. (R175) -/
  | debugReadContext (q group tid : Nat) (item : CtxItem)
  /-- Writes thread or group context of a halted group. (R175) -/
  | debugWriteContext (q group tid : Nat) (item : CtxItem) (value : Dword)
  /-- Completes a pending retirement by starting the remapping step, unless a stage-2 entry maps a named frame. (R88) -/
  | remapCompleteRetirement (q column bank : Nat)
  /-- Readmits a temporarily retired bank by the reverse remapping step. (R89) -/
  | remapReadmit (q column bank : Nat)
  /-- The column's data has moved, LIVE and NLIVE are updated and waiting accesses proceed. (R88) -/
  | remappingStepComplete (column : Nat)
  /-- Drops the tenant's stage-1 results for a VA range. (R168) -/
  | invalidateRange (q lo hi : Nat)
  /-- Drops all of the tenant's stage-1 results. (R168) -/
  | invalidateAll (q : Nat)
  /-- Re-executes the parked access or resumes the paused copy named by TOKEN. (R167) -/
  | faultReplay (q : Nat) (token : Word)
  /-- Traps the faulted thread 0x20 or ends the copy with status fault. (R167) -/
  | faultAbort (q : Nat) (token : Word)
  /-- Host request to pre-empt a named group, with status 5 when no save area exists. (R179) -/
  | preemptCommand (q group : Nat)
  /-- The ROM opens tenant 0's queue, tests the dies, trains the stacks, clears keys and tables, sets the budget and lights the pinned pools. (R186) -/
  | powerOnReset (lit : Nat) (failed : List (Nat × Nat))
  /-- A host read or write of device memory, translated in the named tenant and never replayed. (R177) -/
  | hostAccess (tenant : Option Nat) (va : Nat) (write : Option (List Byte)) (len : Nat)
  /-- A launch packet from a port is checked against the tenant's launch table and then R30. (R32) -/
  | fabricLaunchPacket (source : FabricSource) (record : BitVec 512)
  /-- An access arriving from a peer is translated by this package's stage-2 table. (R182) -/
  | fabricPeerAccess (tenant peer gpa : Nat) (op : PeerOp)
  /-- A fabric flit is checked by CRC and decoded, and a failing flit is retransmitted. (R184, R185) -/
  | flitReceive (port : Nat) (crcOk : Bool) (tag : Byte) (body : FlitBody)
  /-- An RoCE v2 RDMA write on an Ethernet port. (R183) -/
  | rdmaWrite (tenant gpa : Nat) (data : List Byte)
  /-- An RoCE v2 RDMA read on an Ethernet port. (R183) -/
  | rdmaRead (tenant gpa len : Nat)
  /-- An RoCE v2 send on an Ethernet port. (R183) -/
  | rdmaSend (port : Nat) (data : List Byte)
  /-- The dispatcher takes a record from a tenant's launch queue, checks it and places it in a range pool. (R30) -/
  | launchQueueAccept (tenant : Nat)
  /-- A task record reaches the receiver's queue slot, is checked, becomes its local range and is acknowledged. (R43) -/
  | taskRecordPlacement (sender receiver : Nat)
  /-- A core with room starts the chosen untaken index as a group, forming its bundles. (R34) -/
  | groupStart (core : Nat)
  /-- A core with room and no work requests and is served from its pool or another cluster's. (R35) -/
  | coreRequest (core : Nat)
  /-- The distributor starts a gang in the lowest free window of adjacent cores. (R38) -/
  | gangStart (cluster : Nat)
  /-- The distributor migrates non-gang groups out of a window to make room for a gang. (R39) -/
  | gangMigration (cluster : Nat)
  /-- A waiting class-3 launch pre-empts the longest-resident class-0 group. (R40) -/
  | classPreemption (launch : Nat)
  /-- Each clock each issue slot chooses a group with an eligible bundle. (R41) -/
  | issueSlotSelect (core slot : Nat)
  /-- Every 8 clocks the caravan remakes the bundles at each point of each group. (R15) -/
  | mergeTick (core : Nat)
  /-- Every 2,400 ck layer temperatures are sampled, setting refresh modes, caps and the hot state. (R98) -/
  | thermalSample (temps : List (Nat × List Nat))
  /-- Firmware finds a bank needs repair, makes its retirement pending and raises the event. (R88) -/
  | repairRetirementPending (column bank : Nat)
  /-- The parasol announces a reduction, choosing banks and setting PEND, TARGET and ETA. (R74) -/
  | plannedReduction (core banks notice : Nat)
  /-- Announced banks darken; regions become Lost, waiters trap 0x11 and FLOOR rises. (R75) -/
  | lossPoint (core : Nat)
  /-- The parasol darkens banks at once, with no notice. (R74) -/
  | thermalEmergency (core banks : Nat)
  /-- The parasol withdraws chosen banks or relights dark banks and raises the capacity event. (R74) -/
  | relight (core banks : Nat)
  /-- A group is stopped, its memory work settled, rows closed, regions carried or dropped, and its context saved. (R171) -/
  | preemption (group : Nat)
  /-- A pre-empted group resumes on a core with room, with its context checked and restored. (R172) -/
  | resumption (saved core : Nat) (crcOk : Bool)
  /-- A thread's stall time reaches 2 s and a KIND 5 entry is reported. (R174) -/
  | hangReport (group : Nat)
  /-- A translation miss's walk completes, filling the cache or reporting a fault. (R168) -/
  | translationWalk (id : Nat)
  /-- Firmware moves a die fault-queue entry into the tenant's ring when it has room. (R322) -/
  | faultEntryTransfer (die : Nat)
  /-- The home applies a synchronisation-group message in its arrival order. (R131) -/
  | hMessageApply (id : Nat)
  /-- PROMOTE reaches the owner core and makes its earlier stores visible at the scope. (R115) -/
  | promoteArrival (id : Nat)
  /-- An ordinary-path load, store or atomic completes at its column controller or bank. (R90) -/
  | memoryAccessComplete (id : Nat) (replies : List (Option (List Byte)))
  /-- One 256-byte copy chunk lands or is discarded, updating line states and counters. (R253) -/
  | copyChunkLanding (id chunk : Nat)
  /-- An MX command updates its tile, writes status and signal-adds its counter. (R280) -/
  | mxComplete (id : Nat)
  /-- An attention step updates its tile, writes status and signal-adds its counter. (R147) -/
  | attnStepComplete (id : Nat)
  /-- A merge writes its result records, status and counter. (R149) -/
  | attnMergeComplete (id : Nat)
  /-- One chunk of a drain's output lands. (R282) -/
  | mxdrainChunkLanding (id chunk : Nat)
  /-- A drain writes its status and signal-adds its counter. (R282) -/
  | mxdrainComplete (id : Nat)
  /-- The CB2 table is installed and waiting commands proceed. (R49) -/
  | cbloadInstall (id : Nat)
  /-- A queued row activation is made once the window, allowance and bank allow. (R93) -/
  | rowActivation (column : Nat)
  /-- 36 ck after activation the slot becomes Open and parked RTAKEs wake. (R91) -/
  | rowReady (group slot : Nat)
  /-- One 512-byte beat of an accepted take is read from the column and delivered. (R95) -/
  | rtakeBeat (id : Nat)
  /-- A bank's refresh falls due, setting REFDUE and starting the grace, or beginning the refresh. (R94) -/
  | refreshDue (column bank : Nat)
  /-- The grace ends at the close point; the row closes with REASON 1 and the refresh begins. (R94) -/
  | refreshGraceEnd (column bank : Nat)
  /-- A 280 ck refresh ends and the bank is no longer busy. (R94) -/
  | refreshEnd (column bank : Nat)
  /-- A row reaches its open limit and closes with REASON 2. (R92) -/
  | openLimitReached (group slot : Nat)
  /-- The rambler checks an enrolled entry's block CRC and marks it Damaged on mismatch. (R158) -/
  | ramblerCheck (die : Nat)
  /-- The parasol moves island clocks and CAPB within the budget in force, lifting caps and clocks as it finds room after a raising budget command and cutting them when draw requires. (R181) -/
  | parasolCapAndClockTrade (caps clocks : List (Nat × Nat))
  deriving DecidableEq, Repr

end Sys2Proof
end

