-- ==== Sys2Proof/Machine/State.lean ====
section
/-! DEFINITION. The state of the machine as plain data: everything the spec gives the package, its cores,
columns, tenants, groups and threads, and the commands in progress between them. -/

namespace Sys2Proof.Machine

/-- Why the machine stops with a fault. -/
inductive Fault
  /-- Raised by an access whose physical address lies in a frame that names no memory (R85: frame numbers of
  294,912 and above).  Safe: the map command refuses such entries (R101), so no program reaches it through one. -/
  | absentMemory (key : Nat)
  deriving DecidableEq, Repr

/-- Why an instruction is refused. -/
inductive Refusal
  /-- Raised by no meaning: only an arm of `exec` that has no meaning yet answers it.  Safe: nothing runs. -/
  | notModelled (mnemonic : String)
  deriving DecidableEq, Repr

/-! ### Threads -/

/-- A point: priority, packet index and word (R11). -/
structure Point where
  prio : BitVec 8
  pc : Nat
  word : Nat
  deriving DecidableEq, Repr

/-- Where the answer of a synchronisation-group instruction goes when its thread wakes (R128). -/
inductive HDest
  /-- HBAR: the status word alone. -/
  | status (d : Code)
  /-- HWAIT, HVOTE, HRED: result and status. -/
  | pair (d : Code)
  deriving DecidableEq, Repr

/-- The kinds of a generation (R132, R200), by KIND. -/
abbrev HKind := Nat

/-- The messages of the H instructions (R128, R131). -/
inductive HOp
  /-- HCREATE: destination handle register, vD, PD, spill address and CAP. -/
  | create (h : Nat) (d : Code) (pd : Pred) (spill cap : Nat)
  | join (h : Nat)
  | leave (h : Nat)
  | arrive (h : Nat) (kind : HKind) (value : Word)
  | wait (h : Nat)
  | query (h : Nat) (d : Code)
  | dissolve (h : Nat)
  /-- A departure by EXIT or a fatal trap (R131). -/
  | gone
  deriving DecidableEq, Repr

/-- What a parked thread waits for (R12). -/
inductive Wait
  /-- The vector table's entry is not in the core's translation cache (R163): walk `id`; the trap is then taken again. -/
  | walk (id : Nat)
  /-- A vector-table entry whose column or bank serves no access as yet (R88, R90), at a place; the trap is then taken
  again. -/
  | column (pa : Nat)
  /-- A replayable fault of an access at a virtual address (R167); the issue is made again after the replay. -/
  | fault (token : Word) (va access : Nat)
  /-- A full die fault queue (R322); the issue is made again. -/
  | faultQueue
  /-- A Pending scratchpad line (R72), by the memory key of its first byte; the issue is made again. -/
  | line (key : Nat)
  /-- A Queued or Activating row slot (R91); the issue is made again.  For RTAKE, `take` holds its scratchpad
  destination, none for staging: the take is accepted as soon as the slot is Open (R297). -/
  | row (slot : Nat) (take : Option (Option Nat))
  /-- An MX that refills staging from a slot (R279): the slot is Queued or Activating, or the core has no room for a further take;
  the issue is made again. -/
  | refill (slot : Nat) (room : Bool)
  /-- Sixteen accepted takes on the core (R297), for a take of the slots listed; the issue is made again. -/
  | takeRoom (slots : List Nat)
  /-- 256 copies on the core (R253); the issue is made again. -/
  | copyRoom
  /-- CSEAL whose record 64 batches back is incomplete (R254); the issue is made again. -/
  | oldBatch
  /-- CTWAIT on the counter at a memory key until it is at least `target` (R120). -/
  | counter (key : Nat) (addr : Nat) (target : Dword) (sc : Nat)
  /-- The acknowledgement of the message `id` at its home (R128). -/
  | hAck (id : Nat)
  /-- The delivery to handle register `h` (R133). -/
  | hGen (h : Nat) (dest : HDest)
  /-- The capacity flag (R261). -/
  | capacity
  /-- Batches up to `n` (R118). -/
  | batches (n : Word)
  /-- The answer of KV command `id` (R154). -/
  | kv (id : Nat)
  /-- Earlier stores visible, for fence.sc (R265). -/
  | drained
  /-- A request by GRANGE.take (R268), with the destination of its answer. -/
  | grange (d : Code) (p : Pred)
  /-- The accesses in flight of a thread that leaves: it exits once they have been performed (R13). -/
  | leaving
  /-- Of a later word of an issue (log 39): the message of an H instruction, sent when the waits before it have ended. -/
  | hSend (home : Nat) (handle : Word) (op : HOp) (then_ : Option HDest)
  deriving DecidableEq, Repr

/-- The states of a thread (R12).  A parked thread keeps its wait, and the priority, packet and first word of the issue
that parked it and of the issue at which it goes on. -/
inductive RunState
  | runnable
  | parked (w : Wait) (issue : Point) (resume : Point)
  | gathering
  | exited
  | retired
  deriving DecidableEq, Repr

/-- One level of the trap stack (R164, R165). -/
structure TrapLevel where
  epc : Dword
  word : Nat
  code : Byte
  tval : Dword
  tmask : Word
  deriving DecidableEq, Repr

/-- The ticket of a handle register (R133): outstanding arrivals, the last delivery, and the trap that a lost
home leaves for the next HWAIT (R139). -/
structure Ticket where
  out : Nat
  last : Option (Word × Word)
  lost : Option (Byte × Dword × Nat)
  deriving DecidableEq, Repr

/-- A batch record (R254, R255): its number, the highest outcome met and the flags gathered. -/
structure Batch where
  num : Word
  outcome : Nat
  flags : BitVec 7
  deriving DecidableEq, Repr

/-- A trap that a thread takes at its packet when it next issues: its cause, %tval and %tmask, the region's handler for
0x11 or the ACCESS for 0x20 and 0x21, and the word that trapped where that is not the thread's own word. -/
structure DueTrap where
  code : Byte
  tval : Dword
  tmask : Word
  handler : Nat
  word : Option Nat
  deriving DecidableEq, Repr

/-- One thread (R7, R209). -/
structure Thread where
  tid : Nat
  run : RunState
  point : Point
  /-- The first word of the issue that it makes next at its packet: the word of its point, or a later one where it parked or
  gathered after earlier issues of the packet (R159, R189). -/
  word : Nat
  /-- The word that parked it (R165). -/
  parkWord : Nat
  /-- The clock at which it arrived at its point (R15, R17). -/
  arrival : Nat
  /-- v0 upwards, as many as the launch grants (R194). -/
  regs : List Word
  /-- p0 to p6 (R9). -/
  preds : List Bool
  /-- h0 to h7 (R126). -/
  handles : List Word
  tickets : List Ticket
  /-- %fpmode.RND (R50); the other bits read 0. -/
  fpmode : BitVec 2
  /-- %nflags [6:0] (R53); the other bits read 0. -/
  nflags : BitVec 7
  /-- The batch counter (R117). -/
  batch : Word
  /-- The batch records kept, newest first (R254). -/
  batches : List Batch
  /-- Outcome and flags of finished copies that no CSEAL has closed yet (R117). -/
  openOutcome : Nat
  openFlags : BitVec 7
  /-- The trap stack, top first (R164). -/
  traps : List TrapLevel
  /-- The capacity flag (R261). -/
  capFlag : Bool
  /-- Stack time of its last issue, for the stall time (R174). -/
  lastIssue : Nat
  /-- It has issued since its group was last reported hung (R174). -/
  issuedSince : Bool
  /-- A trap that the thread takes at its packet when it next issues (R72, R76, R97, R139, R163, R167, R322). -/
  due : Option DueTrap
  /-- Its parked RTAKE on this slot has been accepted (R297). -/
  grant : Option Nat
  /-- Waits of later words of the issue that parked it, which follow its wait (log 39), each with its word. -/
  later : List (Wait × Nat)
  /-- It gathered last at a packet of a quad instruction: it gathers its quad, not its home warp (R12, R22, R23). -/
  quad : Bool
  deriving DecidableEq, Repr

/-! ### Groups -/

/-- A region table entry (R66); `lost` is STATE, `claim` the thread that holds the claim.  `dropped` marks a
Lost entry that reserves no pages (R83), `lostPages` the pages of a Lost region whose banks went dark (R72). -/
structure Region where
  base : Nat
  size : Nat
  rank : Nat
  handler : Nat
  scope : Bool
  lost : Bool
  claim : Option Nat
  dropped : Bool
  /-- Banks of the region that went dark while it held pages in them: those pages are no longer reserved. -/
  darkened : List Nat
  deriving DecidableEq, Repr

/-- The states of a row slot (R91). -/
inductive RowState
  | free | queued | activating | opened | closed
  deriving DecidableEq, Repr

/-- A row slot (R91, R96). -/
structure RowSlot where
  state : RowState
  reason : Nat
  /-- The virtual address of the row it holds or last held (R97). -/
  va : Nat
  /-- The physical address of that row. -/
  pa : Nat
  /-- Stack time of its activation. -/
  since : Nat
  deriving DecidableEq, Repr

/-- An accumulator tile with its normaliser values (R142, R280); lists shorter than 4,096 or 64 stand for the
initial values in the places that follow. -/
structure Tile where
  o : List Word
  m : List Word
  l : List Word
  attention : Bool
  deriving DecidableEq, Repr

/-- The staging buffer (R279): its 512-byte beats by number as its latest finished fill left them, the latest take that fills it,
whether it is empty, its fill record (slot and row address) and whether a beat carried an uncorrectable error. -/
structure Staging where
  data : List (Nat × List Byte)
  take : Option Nat
  empty : Bool
  fill : Option (Nat × Nat)
  bad : Bool
  deriving DecidableEq, Repr

/-- YIELD's hold of an entry in one slot (R315): the other points that were eligible and have not issued since,
and the issues of the group left. -/
structure YieldHold where
  slot : Nat
  others : List Point
  left : Nat
  deriving DecidableEq, Repr

/-- A frontier entry (R11): its pass counter per slot, and the issue count of the group at which each counter
reached 64 (R17). -/
structure Entry where
  point : Point
  passes : List Nat
  reached : List Nat
  holds : List YieldHold
  deriving DecidableEq, Repr

/-- A bundle (R14): its slot and threads; a collective bundle is kept whole until it issues (R16). -/
structure Bundle where
  slot : Nat
  tids : List Nat
  collective : Bool
  deriving DecidableEq, Repr

/-- A launch record as its fields (R28). -/
structure LaunchRec where
  entry : Nat
  lo : Nat
  hi : Nat
  tvt : Nat
  rgns : Nat
  threads : Nat
  regs8 : Nat
  gang : Nat
  rows : Nat
  acc : Nat
  cls : Nat
  tenant : Nat
  nrgn : Nat
  pthr : Nat
  nuni : Nat
  rowh : Nat
  uimg : Nat
  done : Nat
  /-- A reserved bit is 1 (R30). -/
  reserved : Bool
  deriving DecidableEq, Repr

/-- A resident group (R7, R209). -/
structure Group where
  gid : Nat
  launch : Nat
  core : Nat
  rec_ : LaunchRec
  /-- The gang it belongs to, by the guid of its first member; none for GANG 1. -/
  gangOf : Option Nat
  /-- Its blocks of home warps: slot, first home warp of the core, count (R8). -/
  blocks : List (Nat × Nat × Nat)
  threads : List Thread
  /-- s0 to s63. -/
  sregs : List Dword
  /-- The region table, 32 entries (R66). -/
  regions : List (Option Region)
  rows : List RowSlot
  tiles : List Tile
  /-- The CB2 table; a missing entry is 0 (R49). -/
  cb2 : List (BitVec 16)
  staging : Staging
  entries : List Entry
  bundles : List Bundle
  /-- Pass count per slot (R41) and issues per slot (R17, R315). -/
  passes : List Nat
  issues : List Nat
  /-- Stack time since which it is resident (R40). -/
  since : Nat
  underDebug : Bool
  halted : Bool
  hangReported : Bool
  /-- Step 1 of its pre-emption has been made (R171), and the core it is to resume on (R39). -/
  stopping : Bool
  moveTo : Option Nat
  deriving DecidableEq, Repr

/-! ### Cores and columns -/

/-- A complete translation (R168): a page of `size` bytes at `va` of a tenant, its physical address, and the
permissions of both stages. -/
structure TlbEntry where
  tenant : Nat
  va : Nat
  size : Nat
  pa : Nat
  rd : Bool
  wr : Bool
  ex : Bool
  /-- GPA[47] = 1: `pa` is then the guest-physical address at a peer (R182). -/
  peer : Bool
  gpa : Nat
  deriving DecidableEq, Repr

/-- An arrival at a home: the member, its kind, its contribution (R131). -/
structure Arrival where
  guid : Nat
  tid : Nat
  h : Nat
  seq : Nat
  kind : HKind
  value : Word
  deriving DecidableEq, Repr

/-- The states of a member (R131). -/
inductive MemberState
  | counted | pending | arrived
  deriving DecidableEq, Repr

/-- A member of a synchronisation group (R131). -/
structure Member where
  guid : Nat
  tid : Nat
  h : Nat
  seq : Nat
  state : MemberState
  deriving DecidableEq, Repr

/-- A synchronisation group at its home (R127 to R139). -/
structure SyncGroup where
  cap : Nat
  /-- Local scratchpad address of the spill area, and the group whose region holds it (R129). -/
  spill : Nat
  owner : Nat
  members : List Member
  nextSeq : Nat
  gen : Nat
  /-- The kind of the open generation, if one is open. -/
  opened : Option HKind
  /-- Arrivals of the open generation; a member that went after arriving stays here (R131). -/
  arrivals : List Arrival
  /-- Arrivals held for the next generation, in arrival order (R131). -/
  held : List Arrival
  /-- Join sequences counted in the open generation and not gone without arriving (M(g), R134). -/
  nowSet : List Nat
  /-- M(g - 1). -/
  prevSet : List Nat
  deriving DecidableEq, Repr

/-- A slot of a synchronisation unit (R127). -/
structure SyncSlot where
  lastTag : Nat
  group : Option SyncGroup
  deriving DecidableEq, Repr

/-- A record on its way to, or waiting in, a task queue (R42): sender core, receiver core, record, and the
acknowledgement counter. -/
structure TaskRec where
  sender : Nat
  receiver : Nat
  tenant : Nat
  rec_ : LaunchRec
  va : Nat
  gid : Nat
  tid : Nat
  ack : Option Nat
  /-- The issuing group and the record's own number: its thread's accesses before it come first (R260). -/
  guid : Nat
  id : Nat
  deriving DecidableEq, Repr

/-- One core (R64, R77, R168, R192). -/
structure Core where
  lit : BitVec 64
  /-- Banks chosen for the announced reduction, in the order chosen, and its stack time (R74, R319). -/
  chosen : List Nat
  due : Nat
  floor : Nat
  sync : SMap SyncSlot
  tlb : List TlbEntry
  /-- Cached packets: launch, packet index, twelve bytes (R192). -/
  icache : List (Nat × Nat × List Byte)
  /-- %lo and %hi: the local range last given (R35, R211). -/
  lo : Nat
  hi : Nat
  /-- The first stack time at which it may request again: one request in a clock (R34). -/
  asks : Nat
  hot : Bool
  /-- Stack time from which the command port takes a command of each slot (R191). -/
  port : List Nat
  /-- The %clock from which each slot may issue again (R100, R189). -/
  slotAt : List Nat
  /-- The latest issue of the core: the %clock after it, and its slot; in one clock slots issue in ascending order (R19). -/
  turn : Nat × Nat
  /-- The stack time after the latest clock in which a request of the core was served (R231). -/
  served : Nat
  deriving DecidableEq, Repr

/-- A bank's refresh (R94): a grace that runs to a time, or a refresh that ends at a time. -/
inductive RefreshState
  | grace (until_ : Nat)
  | busy (until_ : Nat)
  deriving DecidableEq, Repr

/-- A queued activation (R93): the group and slot that ask for it. -/
structure ActReq where
  guid : Nat
  slot : Nat
  deriving DecidableEq, Repr

/-- A pending or running change of a column's banks (R88, R89). -/
inductive RemapOp
  | retire (bank : Nat)
  | readmit (bank : Nat)
  deriving DecidableEq, Repr

/-- An island's clock (R211): MHz, CUT, and %clock's count at the stack time of its latest change, with the MHz and CUT before
it, which SYSR sees until the clock after. -/
structure Island where
  mhz : Nat
  cut : Bool
  count : Nat
  at_ : Nat
  wasMhz : Nat
  wasCut : Bool
  deriving DecidableEq, Repr

/-- One column (R85 to R100). -/
structure Column where
  live : BitVec 24
  /-- Pending retirements: bank, and whether temporary (R88). -/
  pending : List (Nat × Bool)
  /-- Banks retired temporarily (R89). -/
  temporary : List Nat
  /-- The remapping step in progress, with the queue whose command waits for it. -/
  remap : Option (RemapOp × Nat)
  /-- Layer temperatures in degrees Celsius (R98). -/
  temps : List Nat
  /-- Layers in doubled mode, and the stack time since which (R98). -/
  doubled : List (Option Nat)
  /-- Stack time from which each bank refreshes by its layer's mode, and keeps that mode's open limit: its latest change of life, or
  the first refresh that falls due under the mode after a change of it; before that the other mode holds (R94, R98). -/
  modeAt : List Nat
  capb : Nat
  /-- NEIGH's hysteresis (R100). -/
  neigh : Bool
  /-- Stack times of activations, newest first (R93). -/
  acts : List Nat
  queue : List ActReq
  refresh : SMap RefreshState
  /-- Corrected errors, uncorrectable errors, forced closes, activations (R323). -/
  corrected : Nat
  uncorrectable : Nat
  closes : Nat
  activations : Nat
  deriving DecidableEq, Repr

/-! ### Work in progress -/

/-- One lane of an ordinary access in flight: its thread, virtual address, physical address, operand values
and destination. -/
structure LaneAcc where
  tid : Nat
  va : Nat
  pa : Nat
  peer : Bool
  arg : Dword
  arg2 : Dword
  bytes : List Byte
  deriving DecidableEq, Repr

/-- What an ordinary access does when it is performed (R90, R241 to R308). -/
inductive AccKind
  /-- LD: width code, destination, scope and acquire. -/
  | load (ty : Nat) (v : Code) (sc : Nat) (acq : Bool)
  /-- SLD into a uniform register. -/
  | sload (d : Nat)
  /-- ST of the lane's bytes; release orders earlier accesses. -/
  | store
  /-- ATOM or RED: the OPT code, destination, scope and acquire. -/
  | atomic (opt : Nat) (d : Code) (sc : Nat) (acq : Bool) (red : Bool)
  /-- ACAS: width code, destination. -/
  | cas (w8 : Bool) (d : Code) (sc : Nat) (acq : Bool)
  /-- CTADD. -/
  | ctadd
  /-- CTREAD into a pair. -/
  | ctread (v : Code) (sc : Nat)
  /-- PROMOTE: destination, scope; `owner` of each lane is its `arg`; `arrived` once at the owner (R115). -/
  | promote (d : Code) (sc : Nat) (arrived : Bool)
  deriving DecidableEq, Repr

/-- An ordinary-path access that has issued and not been performed (R90, R110). -/
structure Access where
  id : Nat
  core : Nat
  guid : Nat
  tenant : Nat
  gid : Nat
  kind : AccKind
  lanes : List LaneAcc
  /-- The launch whose group issued it (R192). -/
  launch : Nat
  /-- Its data met an uncorrectable error on a die network (R185). -/
  netBad : Bool
  deriving DecidableEq, Repr

/-- One dimension of a copy (R251): WIN, SIZE, interval and stride. -/
structure CopyDim where
  win : Nat
  size : Nat
  int : Nat
  stride : Int
  deriving DecidableEq, Repr

/-- A chunk a copy or a drain still owes (R253): its number, its first byte's offset in the run, its place (a memory
key for scratchpad, a virtual address for DRAM) and length; `dead` when its destination was freed or lost since the
line became Pending, `srcGone` when its scratchpad source was freed or lost, `void` when it will not be delivered
and its line waits for the end of the command (R72). -/
structure Chunk where
  num : Nat
  off : Nat
  addr : Nat
  len : Nat
  dead : Bool
  srcGone : Bool
  void : Bool
  deriving DecidableEq, Repr

/-- A copy in flight (R252, R253). -/
structure Copy where
  id : Nat
  core : Nat
  guid : Nat
  tid : Nat
  tenant : Nat
  gid : Nat
  dims : List CopyDim
  saddr : Nat
  daddr : Nat
  ctr : Nat
  ssp : Bool
  dsp : Bool
  csp : Bool
  sfmt : Nat
  dfmt : Nat
  rnd : Nat
  sat : Bool
  owed : List Chunk
  /-- The batch that closes it, once sealed. -/
  batch : Option Word
  outcome : Nat
  flags : BitVec 7
  paused : Option Word
  /-- Destination elements that two chunks share and one has read: number and bits (R253). -/
  kept : List (Nat × Nat)
  deriving DecidableEq, Repr

/-- Where the beats of a take go (R144, R297): staging, a local scratchpad address, or the slot `i` of the K or V
operand of an ATTN command. -/
inductive TakeDest
  | staging
  | pad (a : Nat)
  | attn (cmd : Nat) (v : Bool) (i : Nat)
  deriving DecidableEq, Repr

/-- An accepted take whose beats are not all delivered (R297), with the virtual and physical address of its row. -/
structure Take where
  id : Nat
  core : Nat
  guid : Nat
  tid : Nat
  slot : Nat
  va : Nat
  pa : Nat
  dest : TakeDest
  beat : Nat
  /-- The stack time from which its next beat is delivered: one in a ck (R95). -/
  nextAt : Nat
  /-- Destination lines freed or lost since the take. -/
  dead : List Nat
  /-- Of a take to staging, the beats delivered and whether one could not be corrected (R279). -/
  data : List (Nat × List Byte)
  bad : Bool
  /-- Beats that could not be corrected: their destination lines stay Pending until the take has ended (R72). -/
  missed : List Nat
  batch : Option Word
  outcome : Nat
  deriving DecidableEq, Repr

/-- The fields an engine command's completion needs: STATEN with STAT, CTR with its translation (R320). -/
structure Finish where
  staten : Bool
  stat : Nat
  ctr : Nat
  ctrPa : Nat
  deriving DecidableEq, Repr

/-- MX parameter block (R278). -/
structure MxBlk where
  aaddr : Nat
  baddr : Nat
  sca : Nat
  scb : Nat
  k : Nat
  af : Nat
  bf : Nat
  sga : Bool
  sgb : Bool
  bsrc : Bool
  zero : Bool
  acc : Nat
  deriving DecidableEq, Repr

/-- ATTN step parameter block (R143). -/
structure AttnBlk where
  qaddr : Nat
  kaddr : Nat
  vaddr : Nat
  scale : Word
  qbase : Nat
  kbase : Nat
  win : Nat
  klen : Nat
  causal : Bool
  qn : Nat
  d128 : Bool
  acc : Nat
  init : Bool
  qf : Nat
  kf : Nat
  vf : Nat
  ksel : Bool
  kslot : Nat
  vsel : Bool
  vslot : Nat
  deriving DecidableEq, Repr

/-- ATTN.MERGE parameter block (R149). -/
structure MergeBlk where
  a1 : Nat
  a2 : Nat
  aout : Nat
  qn : Nat
  d128 : Bool
  deriving DecidableEq, Repr

/-- MXDRAIN parameter block (R281), with its rounding resolved at issue. -/
structure DrainBlk where
  oaddr : Nat
  osp : Bool
  stride : Nat
  sa : Word
  sb : Word
  ofmt : Nat
  rnd : Nat
  sat : Bool
  mode : Nat
  acc : Nat
  d128 : Bool
  deriving DecidableEq, Repr

/-- What an engine command does (R122). -/
inductive EngOp
  /-- MX; the staging contents it reads, none while its own fill is delivered, and whether they are bad (R279). -/
  | mx (p : MxBlk) (stage : Option (List (Nat × List Byte))) (bad : Bool)
  /-- ATTN step; the beats of K and V delivered by its takes, and whether one was bad (R144). -/
  | attn (p : AttnBlk) (krows vrows : List (Nat × List Byte)) (bad : Bool)
  | merge (p : MergeBlk)
  /-- MXDRAIN with the chunks it owes; `begun` once its bytes are formed from the tile. -/
  | drain (p : DrainBlk) (begun : Bool) (data : List (Nat × List Byte)) (owed : List Chunk) (outcome : Nat)
      (flags : BitVec 7) (paused : Option Word)
  /-- CBLOAD from an address, with the memory key of each of its bytes. -/
  | cbload (addr : Nat) (keys : List Nat)
  deriving DecidableEq, Repr

/-- An engine command that has issued and not completed. -/
structure EngCmd where
  id : Nat
  core : Nat
  guid : Nat
  tid : Nat
  tenant : Nat
  gid : Nat
  op : EngOp
  fin : Finish
  /-- A scratchpad operand or output was freed or lost since the issue (R73). -/
  lost : Bool
  deriving DecidableEq, Repr

/-- The KV forms (R154). -/
inductive KvForm
  | find | ins | seal | del | pfx | pfxIns | pfxDel
  deriving DecidableEq, Repr

/-- A KV instruction on its way to the descriptor's column (R157). -/
structure KvCmd where
  id : Nat
  core : Nat
  guid : Nat
  tid : Nat
  tenant : Nat
  form : KvForm
  desc : Nat
  descPa : Nat
  x : Nat
  args : List Word
  /-- The token, the address and the access of the fault that its tables met (R156). -/
  paused : Option (Word × Nat × Nat)
  /-- The issue that sent it, by its slot and the group's issues in that slot: the lanes of one instruction are ordered (R154). -/
  issue : Nat
  deriving DecidableEq, Repr

/-- A message in flight to a home (R128). -/
structure HMsg where
  id : Nat
  home : Nat
  guid : Nat
  tid : Nat
  handle : Word
  op : HOp
  /-- A wait that follows the arrival (HBAR, HVOTE, HRED): where its answer goes. -/
  then_ : Option HDest
  deriving DecidableEq, Repr

/-- A walk in progress (R168): the miss of one thread of a group. `at_` is the point at which the thread parks if the walk
meets a replayable fault. -/
structure Walk where
  id : Nat
  core : Nat
  guid : Nat
  tid : Nat
  tenant : Nat
  va : Nat
  /-- ACCESS of R169: 0 read, 1 write, 2 fetch, 3 row. -/
  access : Nat
  at_ : Point
  /-- The threads that share its outcome, itself among them: those of an SLD's bundle (R305). -/
  sharers : List Nat
  deriving DecidableEq, Repr

/-- A DONE signal-add that waits for the answer to a fault (R30). -/
structure DoneWait where
  tenant : Nat
  addr : Nat
  token : Word
  /-- Its fault entry has been placed (R322). -/
  queued : Bool
  deriving DecidableEq, Repr

/-- A fault queue entry as its fields (R169). -/
structure FaultEntry where
  kind : Nat
  cause : Nat
  tenant : Nat
  core : Nat
  access : Nat
  gid : Word
  tid : Word
  addr : Nat
  pcause : Nat
  token : Word
  clock : Dword
  deriving DecidableEq, Repr

/-! ### Launches, tenants and commands -/

/-- An accepted launch (R30): its record, the uniform image and region list read at acceptance (R29). -/
structure Launch where
  rec_ : LaunchRec
  uimg : List Dword
  regions : List (Nat × Nat × Nat)
  /-- Cores on which a group of it has been resident (R192). -/
  seen : List Nat
  /-- The model's own (log 40): groups that ended while an access of theirs was in flight; the launch completes after it. -/
  ended : List Nat
  done : Bool
  /-- Bytes of memory as they stood before the launch's own stores to them, by memory key: its fetches see them (R192). -/
  hidden : SMap Byte
  deriving DecidableEq, Repr

/-- Untaken indices [a, b) of a launch in a cluster's pool: a free range, or the remainder of a core's local
range; `task` names the sender core of a range of the core's task queue (R33, R43). -/
structure Range where
  cluster : Nat
  launch : Nat
  a : Nat
  b : Nat
  owner : Option Nat
  task : Option Nat
  deriving DecidableEq, Repr

/-- A record waiting in a tenant's launch queue (R31, R260). -/
structure QueuedLaunch where
  rec_ : LaunchRec
  va : Nat
  core : Nat
  gid : Nat
  tid : Nat
  ack : Option Nat
  /-- The issuing group and the record's own number: its thread's accesses before it come first (R260). -/
  guid : Nat
  id : Nat
  deriving DecidableEq, Repr

/-- What the command at the head of a queue waits for before it completes (R179 to R181). -/
inductive CmdWait
  /-- Draw within the new budget (R181). -/
  | budget
  /-- The drain of old translations of a tenant (R180): the accesses and commands that were translated before, and the row slots
  whose activation was. -/
  | drain (tenant : Nat) (ids : List Nat) (rows : List (Nat × Nat))
  /-- A zero-fill of a frame: tenant, guest-physical address, the entry it will have (R102). -/
  | zero (id gpa : Nat) (entry : Dword)
  /-- A remapping step of a column (R88). -/
  | remap (column : Nat)
  /-- A pre-emption on a host command (R179). -/
  | preempt (guid : Nat)
  /-- A step of a halted group, or of one of its threads (R176): its packet is to begin, or has begun. -/
  | step (guid : Nat) (tid : Option Nat) (begun : Bool)
  deriving DecidableEq, Repr

/-- One tenant (R179). -/
structure Tenant where
  cfg : TenantCfg
  /-- Head and tail of its command queue, modulo nothing: records taken and records written (R178). -/
  cmdHead : Nat
  cmdTail : Nat
  cmdWait : Option CmdWait
  /-- TAIL of the fault queue (R322). -/
  fqTail : Nat
  saveUsed : Nat
  launchQ : List QueuedLaunch
  drops : Nat
  /-- Stage-2 entries by guest-physical frame; a missing entry is 0 (R101). -/
  stage2 : SMap Dword
  deriving DecidableEq, Repr

/-- A pre-empted group in its save area (R170, R171). -/
structure Saved where
  guid : Nat
  group : Group
  /-- Contents of carried regions: local address and bytes. -/
  carried : List (Nat × List Byte)
  bytes : Nat
  /-- It resumes only on this core (R140). -/
  home : Option Nat
  /-- Banks held for it: region bases that stay allocated on its core (R140). -/
  held : List Region
  /-- Its copies that a fault has paused, with the chunks they owe (R171). -/
  copies : List Copy
  deriving DecidableEq, Repr

/-- A copied line of a cluster's cache (R113). -/
structure CLine where
  cluster : Nat
  line : Nat
  bytes : List Byte
  deriving DecidableEq, Repr

/-- A block that a rambler has read and not yet acted on (R158): its entry's index, SEQ, LBLK and CRC then, and whether the
block failed its check. -/
structure RamblerRead where
  idx : Nat
  seq : Nat
  lblk : Nat
  crc : Nat
  bad : Bool
  deriving DecidableEq, Repr

/-- A table enrolled with a rambler (R158). -/
structure Enrolled where
  die : Nat
  desc : Nat
  descPa : Nat
  tenant : Nat
  next : Nat
  read : Option RamblerRead
  deriving DecidableEq, Repr

/-- A request sent to a peer package (R182): tenant, peer, its guest-physical address, what it asks, and the payload as the
port sends it, one tag byte and body for each 256-byte block (R184). -/
structure PeerReq where
  tenant : Nat
  peer : Nat
  gpa : Nat
  op : PeerOp
  wire : List (List Byte)
  deriving DecidableEq, Repr

/-- To whom a reply goes (R177, R182, R183). -/
inductive ReplyTo
  | host
  | peer (package : Nat)
  | ethernet
  deriving DecidableEq, Repr

/-- A reply to a read from outside: its bytes, none for an error completion (R177), and the payload as a scale-up port sends
it (R184). -/
structure Reply where
  dest : ReplyTo
  bytes : Option (List Byte)
  wire : List (List Byte)
  deriving DecidableEq, Repr

/-! ### The issue in progress -/

/-- A trap that a thread of the current issue takes: the word that trapped, the cause, %tval, %tmask, and, for
0x11, the region's handler. -/
structure TrapReq where
  tid : Nat
  word : Nat
  code : Byte
  tval : Dword
  tmask : Word
  handler : Nat
  /-- The handle register whose lost home the trap reports: its ticket starts afresh (R139). -/
  ticket : Option Nat
  deriving DecidableEq, Repr

/-- A packet in progress in an issue slot (R189): its bundle's threads still active, in ascending home lane, its
bytes, the first word of the issue under way and the word of the instruction under way; the sources as they
stood before the issue; and what the issue has asked of its threads so far. -/
structure Ctx where
  core : Nat
  slot : Nat
  guid : Nat
  active : List Nat
  pc : Nat
  bytes : List Byte
  first : Nat
  here : Nat
  /-- The first word after the issue under way. -/
  after : Nat
  /-- The issue holds several instructions; traps and waits are then settled by the step (R159). -/
  chained : Bool
  snap : List Thread
  snapS : List Dword
  traps : List TrapReq
  /-- Threads that park before the issue and make it again, each with its wait and the word that parks it. -/
  retries : List (Nat × Wait × Nat)
  /-- Threads that park after the issue, each with its wait and the word that parks it. -/
  waits : List (Nat × Wait × Nat)
  moves : List (Nat × Point)
  /-- Threads whose access misses the translation cache: thread, virtual address, ACCESS (R168, R169), and the threads that
  share its outcome. -/
  misses : List (Nat × Nat × Nat × List Nat)
  /-- The bundle is a collective one (R16). -/
  collective : Bool
  /-- Latch values of the packet under way and of the one before: latch, thread, value (R204). -/
  latches : List (Nat × Nat × Word)
  prev : List (Nat × Nat × Word)
  /-- The packet before was issued by this bundle as a latch producer (R205). -/
  paired : Bool
  /-- This packet is a latch producer: the packet after it reads a latch (R205). -/
  producer : Bool
  yielded : Bool
  deriving DecidableEq, Repr

/-- Data on a die network that meets an uncorrectable error (R185): that of an access, a copy, a take, an engine command, a KV
command or a walk by its number, of the next fetch or read that a core makes as it issues, or of the next access from outside or by the dispatcher. -/
inductive NetMark
  | item (id : Nat)
  | core (core : Nat)
  | outside
  deriving DecidableEq, Repr

/-- What the outside world does at one step (log 1): nothing, an event of the opcode table that comes from outside,
the host's write to its own memory, where it makes command records and moves HEAD (R178, R322), or an error of stored or
moving data. -/
inductive Input
  | quiet
  | event (i : Instr)
  | hostMemory (addr : Nat) (bytes : List Byte)
  /-- A 64-byte unit of DRAM takes an error that cannot be corrected (R103). -/
  | badUnit (unit : Nat)
  /-- An error of a column is corrected in its bank (R103). -/
  | corrected (column : Nat)
  /-- Data on a die network meets an uncorrectable error (R185). -/
  | netError (m : NetMark)
  /-- The size of the load-store domain is set (R182). -/
  | domain (packages : Nat)
  deriving DecidableEq, Repr

/-- What the unlisted bytes of a frame stand for where that is not zero: the number of times its data became undefined, if it
did (R89); the key pair under which those bytes stood so, and the frame's present key pair (R102). -/
structure FrameBase where
  undef : Option Nat
  written : BitVec 512
  now : BitVec 512
  deriving DecidableEq, Repr

/-- The whole machine. -/
structure State where
  /-- %stime (R93). -/
  stime : Nat
  /-- DRAM, scratchpads and host memory by the keys of Config, in canonical form. -/
  mem : List Host.Cell
  /-- Frames whose unlisted bytes do not read as zero (R89, R102). -/
  noisy : SMap FrameBase
  /-- 64-byte units of DRAM that carry an uncorrectable error (R103). -/
  badUnits : List Nat
  /-- Data in flight that met an uncorrectable error on a die network, accesses apart (R185). -/
  netBad : List NetMark
  cores : SMap Core
  columns : SMap Column
  /-- Resident groups by their serial number. -/
  groups : SMap Group
  saved : List Saved
  launches : SMap Launch
  ranges : List Range
  tasks : List TaskRec
  tenants : SMap Tenant
  /-- Key slots that hold a key, and the key slot of each frame's owner (R102). -/
  keys : SMap (BitVec 512)
  frameKey : SMap Nat
  /-- Die fault queues: die and entry, oldest first (R322). -/
  dieQ : List (Nat × FaultEntry)
  /-- Entries that firmware or the hub holds until a die's queue has room: die and entry, oldest first (R322). -/
  heldFaults : List (Nat × FaultEntry)
  /-- Island clocks (R3, R211). -/
  islands : SMap Island
  accesses : List Access
  clines : List CLine
  walks : List Walk
  copies : List Copy
  takes : List Take
  engs : List EngCmd
  kvs : List KvCmd
  hmsgs : List HMsg
  dones : List DoneWait
  enrolled : List Enrolled
  /-- Module budget in W, latest draw, budgets asked and not completed (R6, R181). -/
  budget : Nat
  draw : Nat
  /-- Bring-up has ended (R186). -/
  ready : Bool
  /-- Retirement events raised: column, bank, first named frame (R88). -/
  events : List (Nat × Nat × Nat)
  /-- Answers of the debug command's reads: queue, value (R175). -/
  debugOut : List (Nat × Dword)
  /-- Packages of the load-store domain (R182). -/
  domain : Nat
  peerOut : List PeerReq
  /-- Replies sent to reads from outside, oldest first (R177, R182, R183). -/
  replies : List Reply
  /-- Bytes received by scale-up and Ethernet ports, and flits sent again (R183, R185). -/
  portIn : List (Nat × List Byte)
  resent : Nat
  /-- The packets in progress; `cur` is the one whose issue is under way. -/
  packets : List Ctx
  cur : Option Ctx
  /-- The stack time after the latest clock in which a request was served: no start but the requesters' follows in that clock
  (R231). -/
  servedAt : Nat
  /-- The model's own: serial number of the next command, message or group. -/
  nextId : Nat
  /-- The model's own: TOKEN of the next fault entry (log 8). -/
  nextToken : Word
  /-- The model's own: what the outside world does next (log 1). -/
  inputs : List Input
  /-- The model's own: which enabled agent moves next (log 1). -/
  sched : List Nat
  deriving DecidableEq, Repr

/-- A core right after reset (R64, R77, R127, R168, R192). -/
def Core.reset : Core :=
  { lit := 0xFF#64, chosen := [], due := 0, floor := 0, sync := [], tlb := [], icache := [], lo := 0, hi := 0, asks := 0,
    hot := false, port := [0, 0, 0, 0], slotAt := [0, 0, 0, 0], turn := (0, 0), served := 0 }

/-- A column right after reset (R87, R98 to R100); the temperature is log 5's. -/
def Column.reset : Column :=
  { live := 0xFFFFFF#24, pending := [], temporary := [], remap := none, temps := List.replicate 12 75,
    doubled := List.replicate 12 none, modeAt := List.replicate 24 0, capb := 96, neigh := false, acts := [], queue := [], refresh := [],
    corrected := 0, uncorrectable := 0, closes := 0, activations := 0 }

/-- A tenant with nothing set but its clusters and HV. -/
def TenantCfg.blank : TenantCfg :=
  { clusters := [], root := 0, saveBase := 0, saveBytes := 0, cmdBase := 0, cmdLog := 4, fqBase := 0, fqLog := 4,
    fqCtl := 0, hv := false, fabric := false, launchOn := false, senders := [], entries := [], maxClass := 0 }

/-- A tenant just made from its settings. -/
def Tenant.ofCfg (c : TenantCfg) : Tenant :=
  { cfg := c, cmdHead := 0, cmdTail := 0, cmdWait := none, fqTail := 0, saveUsed := 0, launchQ := [], drops := 0,
    stage2 := [] }

/-- The machine right after reset (R178, R186): tenant 0 alone, with HV and all 32 clusters; every core and
column at its reset values, which a missing entry of `cores` and `columns` stands for. -/
def State.reset : State :=
  { stime := 0, mem := [], noisy := [], badUnits := [], netBad := [], cores := [], columns := [], groups := [], saved := [],
    launches := [], ranges := [], tasks := [],
    tenants := [(0, Tenant.ofCfg { TenantCfg.blank with clusters := List.range 32, hv := true })],
    keys := [], frameKey := [], dieQ := [], heldFaults := [], islands := [], accesses := [], clines := [], walks := [], copies := [],
    takes := [], engs := [], kvs := [], hmsgs := [], dones := [], enrolled := [], budget := 1800, draw := 0,
    ready := false, events := [], debugOut := [], domain := 0, peerOut := [], replies := [], portIn := [], resent := 0,
    packets := [], cur := none, servedAt := 0, nextId := 0, nextToken := 0, inputs := [], sched := [] }

end Sys2Proof.Machine
end

