-- ==== Sys2Proof/Machine/Mem.lean ====
section
/-! DEFINITION. Sparse maps, the one memory list in its canonical form, and the accessors of cores, columns,
tenants, groups and threads. -/

namespace Sys2Proof.Machine

/-! ### Sparse maps -/

/-- The entry of a key. -/
def mget {α : Type} : SMap α → Nat → Option α
  | [], _ => none
  | (j, v) :: m, k => if k = j then some v else if k < j then none else mget m k

/-- The map with a key set. -/
def mset {α : Type} : SMap α → Nat → α → SMap α
  | [], k, v => [(k, v)]
  | (j, w) :: m, k, v => if k = j then (k, v) :: m else if k < j then (k, v) :: (j, w) :: m else (j, w) :: mset m k v

/-- The map without a key. -/
def mdel {α : Type} : SMap α → Nat → SMap α
  | [], _ => []
  | (j, w) :: m, k => if k = j then m else if k < j then (j, w) :: m else (j, w) :: mdel m k

/-! ### Memory: one list of cells, keys strictly rising, no cell equal to what an unlisted key reads as -/

/-- An unlisted byte of a frame as it stood when it was last zero, or undefined: a free value (R89, log 6). -/
def FrameBase.plain (f : FrameBase) (k : Nat) : Byte :=
  match f.undef with
  | some c => Config.noise c k
  | none => 0

/-- What an unlisted byte of a frame reads as: its 16-byte block, stored under one key pair and read under the present one
(R102). -/
def FrameBase.byte (f : FrameBase) (k : Nat) : Byte :=
  if f.written = f.now then f.plain k
  else (reread f.written f.now (k / 16 * 16) ((List.range 16).map fun i => f.plain (k / 16 * 16 + i))).getD (k % 16) 0

/-- What an unlisted key reads as (log 2): zero, but for the frames whose unlisted bytes do not (R89, R102). -/
def unlisted (noisy : SMap FrameBase) (k : Nat) : Byte :=
  match mget noisy (k / Config.frameBytes) with
  | some f => f.byte k
  | none => 0

/-- The byte at a key. -/
def memGet (noisy : SMap FrameBase) (m : List Host.Cell) (k : Nat) : Byte :=
  match mget m k with
  | some b => b
  | none => unlisted noisy k

/-- Memory with the byte at a key written; writing what an unlisted key reads as removes the cell. -/
def memSet (noisy : SMap FrameBase) (m : List Host.Cell) (k : Nat) (b : Byte) : List Host.Cell :=
  if b = unlisted noisy k then mdel m k else mset m k b

/-- The keys of a map strictly rise from a number up. -/
def risingFrom {α : Type} : Nat → SMap α → Bool
  | _, [] => true
  | lo, (k, _) :: m => decide (lo ≤ k) && risingFrom (k + 1) m

/-- The canonical form of memory. -/
abbrev Memory.wf (noisy : SMap FrameBase) (m : List Host.Cell) : Prop :=
  risingFrom 0 m = true ∧ ∀ c ∈ m, c.2 ≠ unlisted noisy c.1

/-- The bytes at `n` keys from `k` up. -/
def memRead (noisy : SMap FrameBase) (m : List Host.Cell) : Nat → Nat → List Byte
  | _, 0 => []
  | k, n + 1 => memGet noisy m k :: memRead noisy m (k + 1) n

/-- Memory with a run of bytes written from `k` up. -/
def memWrite (noisy : SMap FrameBase) : List Host.Cell → Nat → List Byte → List Host.Cell
  | m, _, [] => m
  | m, k, b :: bs => memWrite noisy (memSet noisy m k b) (k + 1) bs

/-- Memory without the cells of keys from `lo` up to below `hi`. -/
def memDrop (m : List Host.Cell) (lo hi : Nat) : List Host.Cell :=
  m.filter fun c => decide (c.1 < lo) || decide (hi ≤ c.1)

/-- The byte at a key. -/
def State.byte (s : State) (k : Nat) : Byte := memGet s.noisy s.mem k

/-- `n` bytes from a key up. -/
def State.bytes (s : State) (k n : Nat) : List Byte := memRead s.noisy s.mem k n

/-- The state with bytes written from a key up. -/
def State.write (s : State) (k : Nat) (bs : List Byte) : State :=
  { s with mem := memWrite s.noisy s.mem k bs }

/-- A little-endian run of bytes as a number (R188, R240). -/
def leNat : List Byte → Nat
  | [] => 0
  | b :: bs => b.toNat + 256 * leNat bs

/-- The number in `n` bytes from a key up. -/
def State.num (s : State) (k n : Nat) : Nat := leNat (s.bytes k n)

/-! ### Cores, columns, tenants -/

/-- A core; a missing entry stands for its reset value. -/
def State.core (s : State) (c : Nat) : Core := (mget s.cores c).getD Core.reset

/-- The state with a core set. -/
def State.setCore (s : State) (c : Nat) (x : Core) : State := { s with cores := mset s.cores c x }

/-- A column; a missing entry stands for its reset value. -/
def State.column (s : State) (c : Nat) : Column := (mget s.columns c).getD Column.reset

/-- The state with a column set. -/
def State.setColumn (s : State) (c : Nat) (x : Column) : State := { s with columns := mset s.columns c x }

/-- A tenant. -/
def State.tenant (s : State) (t : Nat) : Option Tenant := mget s.tenants t

/-- The state with a tenant set. -/
def State.setTenant (s : State) (t : Nat) (x : Tenant) : State := { s with tenants := mset s.tenants t x }

/-- The cluster of a core (R85). -/
def clusterOf (core : Nat) : Nat := core / Config.coresPerCluster

/-- The compute die of a core: eight clusters to a die (R2). -/
def dieOf (core : Nat) : Nat := core / 192

/-- The compute island of a core: cores 0 to 11 and 12 to 23 of each cluster (R3). -/
def islandOf (core : Nat) : Nat := core / 12

/-- The islands of the package (R3, log 87): 0 to 63 compute, 64 to 95 the SRAM layers of clusters 0 to 31, and 96 to 127 the
stacks of 24 columns each. -/
def islandCount : Nat := 128

/-- The highest clock of an island in MHz (R3). -/
def islandTop (i : Nat) : Nat := if i < 96 then 2400 else 1200

/-- The island's clock in MHz, whether it is CUT, and %clock's count at a stack time, with the clock and CUT before (log 4). -/
def State.island (s : State) (i : Nat) : Island := (mget s.islands i).getD ⟨islandTop i, false, 0, 0, islandTop i, false⟩

/-- %clock of a core (R211): counted at its island's clock since that clock was last moved. -/
def State.clock (s : State) (core : Nat) : Nat :=
  let i := s.island (islandOf core)
  i.count + (s.stime - i.at_) * i.mhz / 2400

/-- The state with the next identifier taken. -/
def State.bump (s : State) : State := { s with nextId := s.nextId + 1 }

/-! ### Groups and threads -/

/-- A resident group. -/
def State.group (s : State) (g : Nat) : Option Group := mget s.groups g

/-- The state with a group set. -/
def State.setGroup (s : State) (g : Nat) (x : Group) : State := { s with groups := mset s.groups g x }

/-- The state with a resident group changed. -/
def State.onGroup (s : State) (g : Nat) (f : Group → Group) : State :=
  match s.group g with
  | some x => s.setGroup g (f x)
  | none => s

/-- A thread of a group. -/
def Group.thread (g : Group) (tid : Nat) : Option Thread := g.threads.find? fun t => decide (t.tid = tid)

/-- The group with one thread changed. -/
def Group.onThread (g : Group) (tid : Nat) (f : Thread → Thread) : Group :=
  { g with threads := g.threads.map fun t => if t.tid = tid then f t else t }

/-- The state with one thread changed. -/
def State.onThread (s : State) (g tid : Nat) (f : Thread → Thread) : State :=
  s.onGroup g fun x => x.onThread tid f

/-- A thread of a resident group. -/
def State.thread (s : State) (g tid : Nat) : Option Thread :=
  match s.group g with
  | some x => x.thread tid
  | none => none

/-- Home lane (R7). -/
def laneOf (tid : Nat) : Nat := tid % 32

/-- A live thread: neither Exited nor Retired (R12). -/
def Thread.live (t : Thread) : Bool :=
  match t.run with
  | .exited => false
  | .retired => false
  | _ => true

/-- A Runnable thread. -/
def Thread.runnable (t : Thread) : Bool :=
  match t.run with
  | .runnable => true
  | _ => false

/-- The issue slot of a thread's home warp (R8). -/
def Group.slotOf (g : Group) (tid : Nat) : Nat :=
  match g.blocks[tid / 256]? with
  | some (slot, _, _) => slot
  | none => 0

/-- The home warp of the core that holds a thread (R8). -/
def Group.warpOf (g : Group) (tid : Nat) : Nat :=
  match g.blocks[tid / 256]? with
  | some (_, first, _) => first + tid / 32 % 8
  | none => 0

/-- Lane registers of each thread (R194). -/
def Group.nregs (g : Group) : Nat := 8 * g.rec_.regs8

/-- Element `i` of a list replaced, or the list unchanged where it is shorter. -/
def setAt {α : Type} (l : List α) (i : Nat) (v : α) : List α := l.set i v

/-- The first `n` natural numbers from `a` up. -/
def upFrom (a n : Nat) : List Nat := (List.range n).map (a + ·)

end Sys2Proof.Machine
end

