-- ==== Sys2Proof/Machine/Ports.lean ====
section
/-! DEFINITION. What a scale-up port does to a payload (R184): its blocks, their encodings, and the block that an encoding
stands for. -/

namespace Sys2Proof.Machine

/-- Bit `i` of a number. -/
def bit (n i : Nat) : Bool := decide (n / 2 ^ i % 2 = 1)

/-- Bits `hi` to `lo` of a number. -/
def bits (n hi lo : Nat) : Nat := n / 2 ^ lo % 2 ^ (hi + 1 - lo)

/-- The bytes of a Sparse body (R184): the mask says which bytes of the block follow; none where the lengths disagree. -/
def sparseBytes (mask : Nat) : Nat → Nat → List Byte → Option (List Byte)
  | _, 0, [] => some []
  | _, 0, _ => none
  | i, n + 1, bs =>
    if bit mask i then match bs with
      | b :: rest => (sparseBytes mask (i + 1) n rest).map (b :: ·)
      | [] => none
    else (sparseBytes mask (i + 1) n bs).map (0 :: ·)

/-- The 256-byte block that a tag and a body stand for (R184). -/
def blockOf (tag : Byte) (body : List Byte) : Option (List Byte) :=
  if tag = 0 then (if body.length = 256 then some body else none)
  else if tag = 1 then (if body.isEmpty then some (List.replicate 256 0) else none)
  else if tag = 2 then (if body.length = 4 then some ((List.replicate 64 body).flatten) else none)
  else if tag = 3 then (if 32 ≤ body.length then sparseBytes (leNat (body.take 32)) 0 256 (body.drop 32) else none)
  else none

/-- The encodings of a block by tag, where the method reproduces it (R184). -/
def encodings (block : List Byte) : List (Nat × List Byte) :=
  let mask := leBytes 32 ((block.zipIdx).foldl (fun n (b, i) => if b = 0 then n else n + 2 ^ i) 0)
  let word := block.take 4
  [(0, block)] ++ (if block.all (· == 0) then [(1, [])] else []) ++
  (if (List.replicate 64 word).flatten = block then [(2, word)] else []) ++ [(3, mask ++ block.filter (· != 0))]

/-- What a sender sends for a block (R184): the shortest encoding, ties to the lower tag. -/
def sendBlock (block : List Byte) : Nat × List Byte :=
  ((encodings block).foldl (fun best e => match best with
    | none => some e
    | some b => if e.2.length < b.2.length then some e else some b) none).getD (0, block)

/-- The 256-byte blocks of a payload, the last padded with zeros. -/
def payloadBlocks (bs : List Byte) : List (List Byte) :=
  (List.range ((bs.length + 255) / 256)).map fun i =>
    let part := (bs.drop (256 * i)).take 256
    part ++ List.replicate (256 - part.length) 0

/-- A payload as a port sends it: one tag byte and a body for each block. -/
def wireOf (bs : List Byte) : List (List Byte) :=
  (payloadBlocks bs).map fun b => BitVec.ofNat 8 (sendBlock b).1 :: (sendBlock b).2

end Sys2Proof.Machine
end

