-- ==== Sys2Proof/Machine/Translate.lean ====
section
/-! DEFINITION. Translation: stage 2 (R101, R182), the stage-1 walk (R166, R168), the translation cache, and
reads and writes at a translated place, peers included. -/

namespace Sys2Proof.Machine

/-- The sorts of R167, and an uncorrectable error in a table entry at a place (R103). -/
inductive FaultSort
  | replayable | fatal
  | error (pa : Nat)
  deriving DecidableEq, Repr

/-- What stage 2 gives for a guest-physical address: a place with its permissions, or a fault. -/
inductive S2
  | ok (pa : Nat) (rd wr : Bool)
  | no (f : FaultSort)
  deriving DecidableEq, Repr

/-- Stage 2 of a tenant (R101); GPA[47] = 1 names a peer, where the fabric is enabled (R182).  DESIGN CHOICE (log 88): of an
operand of 2^48 or above (an RDMA address, a tenant's root) bits [47:0] alone count, R4 giving such addresses 48 bits. -/
def State.stage2 (s : State) (tenant gpa : Nat) : S2 :=
  match s.tenant tenant with
  | none => .no .fatal
  | some t =>
    if bit gpa 47 then
      if t.cfg.fabric && decide (bits gpa 46 39 < s.domain) then .ok (Config.peerBase + gpa % 2 ^ 47) true true
      else .no .fatal
    else
      let e := ((mget t.stage2 (gpa % 2 ^ 48 / Config.frameBytes)).getD 0).toNat
      if bit e 3 || !bit e 0 then .no .replayable
      else .ok (bits e 47 21 * Config.frameBytes + gpa % Config.frameBytes) (bit e 1) (bit e 2)

/-- Bytes at a translated place, as an ordinary load at device scope finds them; a peer's are free values. -/
def State.devRead (s : State) (k n : Nat) : List Byte :=
  if Config.peerBase ≤ k then (upFrom k n).map (Config.peerByte s.nextId) else s.bytes k n

/-- A little-endian number at a translated place. -/
def State.devNum (s : State) (k n : Nat) : Nat := leNat (s.devRead k n)

/-- The payload of a request to a peer. -/
def peerPayload : PeerOp → List Byte
  | .write bs => bs
  | .read _ => []
  | .atomic opt v => leBytes (if opt = 1 ∨ opt = 10 then 8 else 4) v.toNat
  | .cas w8 cmp new => let w := if w8 then 8 else 4; leBytes w cmp.toNat ++ leBytes w new.toNat
  | .add v => leBytes 4 v.toNat

/-- A request leaves the package for the peer at a translated place (R182, R184). -/
def State.sendPeer (s : State) (tenant k : Nat) (op : PeerOp) : State :=
  let off := k - Config.peerBase
  { s with peerOut := s.peerOut ++ [⟨tenant, bits off 46 39, bits off 38 0, op, wireOf (peerPayload op)⟩] }

/-- Places as runs of neighbours: first and length. -/
def runsOf : List Nat → List (Nat × Nat)
  | [] => []
  | p :: ps => match runsOf ps with
    | [] => [(p, 1)]
    | (q, n) :: rs => if q = p + 1 then (p, n + 1) :: rs else (p, 1) :: (q, n) :: rs

/-- The requests that a read of some places sends to peers, one for each run of neighbours (R182). -/
def State.askRun (s : State) (tenant : Nat) (ps : List Nat) : State :=
  (runsOf (ps.filter fun p => decide (Config.peerBase ≤ p))).foldl
    (fun (s : State) (k, n) => s.sendPeer tenant k (.read n)) s

/-- A peer's stage 2 refuses a place of this package's tables, engines, fetches or counters (R182): a free value (log 16). -/
def State.peerFault (s : State) (k : Nat) : Bool := decide (Config.peerBase ≤ k) && Config.peerFails s.nextId k

/-- Bytes written at a translated place; a write to a peer leaves the package (R182). -/
def State.devWrite (s : State) (tenant k : Nat) (bs : List Byte) : State :=
  if Config.peerBase ≤ k then s.sendPeer tenant k (.write bs) else s.write k bs

/-- The place names no memory (R85). -/
def absentKey (k : Nat) : Bool := decide (Config.frames * Config.frameBytes ≤ k) && decide (k < Config.padBase)

/-- A 64-byte unit that the run of bytes touches carries an uncorrectable error (R103). -/
def State.badAt (s : State) (k n : Nat) : Bool :=
  s.badUnits.any fun u => decide (u * 64 < k + n) && decide (k < u * 64 + 64)

/-! ### Columns that serve (R86, R88, R90) -/

/-- Live banks of a column, in ascending number (R86). -/
def Column.liveBanks (c : Column) : List Nat := (List.range 24).filter fun b => c.live.getLsbD b

/-- The bank of a row of a column (R86). -/
def Column.bankOf (c : Column) (pa : Nat) : Nat :=
  let live := c.liveBanks
  live.getD ((512 * (pa / Config.frameBytes % Config.framesPerColumn) + bits pa 20 12) % live.length) 0

/-- The column that holds a frame (R85). -/
def columnOf (pa : Nat) : Nat := pa / Config.frameBytes / Config.framesPerColumn

/-- The start of a row. -/
def rowOf (pa : Nat) : Nat := pa / 4096 * 4096

/-- Row slots of a core with their groups: group, slot index, slot. -/
def State.coreSlots (s : State) (core : Nat) : List (Nat × Nat × RowSlot) :=
  s.groups.flatMap fun (g, x) => if x.core = core then (x.rows.zipIdx).map fun (r, i) => (g, i, r) else []

/-- A slot holds its row open or activating. -/
def RowSlot.holds (r : RowSlot) : Bool := decide (r.state = .opened) || decide (r.state = .activating)

/-- The row that a bank of a column holds open or activating, for a slot or for a take not yet delivered (R90, R93,
R298). -/
def State.openRow (s : State) (col bank : Nat) : Option Nat :=
  match (s.coreSlots col).find? fun (_, _, r) => r.holds && decide ((s.column col).bankOf r.pa = bank) with
  | some (_, _, r) => some (rowOf r.pa)
  | none => ((s.takes.find? fun t => decide (t.core = col) && decide ((s.column col).bankOf t.pa = bank)).map (·.pa))

/-- An ordinary access may be served (R88, R90): the column is not in a remapping step, and the bank holds no other
row open. -/
def State.served (s : State) (pa : Nat) : Bool :=
  if Config.padBase ≤ pa then true
  else
    let c := s.column (columnOf pa)
    c.remap.isNone && (match s.openRow (columnOf pa) (c.bankOf pa) with
      | some r => decide (r = rowOf pa)
      | none => true)

/-- Every place of a list may be served. -/
def State.servedAll (s : State) (ps : List Nat) : Bool := ps.all s.served

/-- No column is in a remapping step.  While one is, accesses other than those of threads wait as if they met it (R88,
log 89). -/
def State.noRemap (s : State) : Bool := s.columns.all fun c => c.2.remap.isNone

/-- Units overwritten whole read correctly again (R103). -/
def State.cleanUnits (s : State) (k n : Nat) : State :=
  { s with badUnits := s.badUnits.filter fun u => !(decide (k ≤ u * 64) && decide (u * 64 + 64 ≤ k + n)) }

/-! ### The stage-1 tree -/

/-- A stage-1 entry with V = 1 is malformed by its own bits at a level (R166). -/
def s1Bad (level e : Nat) : Bool :=
  decide (bits e 63 48 ≠ 0) || decide (bits e 11 6 ≠ 0) ||
  (bit e 1 && decide (2 ≤ level)) || (!bit e 1 && decide (level = 0)) ||
  (bit e 1 && decide (level = 1) && decide (bits e 20 12 ≠ 0)) || (bit e 5 && decide (0 < level))

/-- A level-0 entry with C64 = 1 agrees with its group: the sixteen entries differ in their own 4 KiB part
alone, and the first names a 64 KiB-aligned page (R166). -/
def s1GroupOk (first : Nat) (entries : List Nat) : Bool :=
  decide (bits first 15 12 = 0) &&
  (entries.zipIdx).all fun (e, i) => decide (e = first + i * 4096)

/-- What a walk gives. -/
inductive WalkRes
  | page (e : TlbEntry)
  | no (f : FaultSort)
  deriving DecidableEq, Repr

/-- The page of a leaf: `size` bytes, at a guest-physical address, with the leaf's permissions; then stage 2. -/
def State.leafPage (s : State) (tenant va size gpa e : Nat) : WalkRes :=
  match s.stage2 tenant gpa with
  | .no f => .no f
  | .ok pa rd wr =>
    .page { tenant := tenant, va := va / size * size, size := size, pa := pa, rd := bit e 2 && rd,
            wr := bit e 3 && wr, ex := bit e 4 && rd, peer := bit gpa 47, gpa := gpa }

/-- The place of a table's entry for an address, at a level. -/
def entryPlace (pa va level : Nat) : Nat := pa + 8 * (va / 2 ^ (12 + 9 * level) % 512)

/-- The walk from a table at `level - 1` downwards (R166, R168); an entry that cannot be corrected ends it (R103), and so does
a peer's refusal (R182). -/
def State.walkFrom (s : State) (tenant va : Nat) : Nat → Nat → WalkRes
  | 0, _ => .no .fatal
  | level + 1, table =>
    match s.stage2 tenant table with
    | .no f => .no f
    | .ok pa rd _ =>
      if !rd || s.peerFault (entryPlace pa va level) then .no .fatal
      else if s.badAt (entryPlace pa va level) 8 then .no (.error (entryPlace pa va level))
      else
        let idx := va / 2 ^ (12 + 9 * level) % 512
        let e := s.devNum (pa + 8 * idx) 8
        let addr := bits e 47 12 * 4096
        if !bit e 0 then .no .replayable
        else if s1Bad level e then .no .fatal
        else if !bit e 1 then s.walkFrom tenant va level addr
        else if level = 1 then s.leafPage tenant va 0x200000 addr e
        else if bit e 5 then
          let group := (List.range 16).map fun i => s.devNum (pa + 8 * (idx / 16 * 16 + i)) 8
          if s.badAt (pa + 8 * (idx / 16 * 16)) 128 then .no (.error (pa + 8 * (idx / 16 * 16)))
          else if s1GroupOk (group.headD 0) group then s.leafPage tenant va 0x10000 (addr / 0x10000 * 0x10000) e
          else .no .fatal
        else s.leafPage tenant va 0x1000 addr e

/-- The places of the entries that a walk reads from a table at `level - 1` downwards. -/
def State.walkReach (s : State) (tenant va : Nat) : Nat → Nat → List Nat
  | 0, _ => []
  | level + 1, table =>
    match s.stage2 tenant table with
    | .no _ => []
    | .ok pa rd _ =>
      let e := s.devNum (entryPlace pa va level) 8
      if !rd then []
      else if bit e 0 && !s1Bad level e && !bit e 1 then
        entryPlace pa va level :: s.walkReach tenant va level (bits e 47 12 * 4096)
      else [entryPlace pa va level]

/-- The places that a whole walk of a tenant's tree reads. -/
def State.walkPlaces (s : State) (tenant va : Nat) : List Nat :=
  match s.tenant tenant with
  | none => []
  | some t => s.walkReach tenant va 5 t.cfg.root

/-- A whole walk of a tenant's tree. -/
def State.walkNow (s : State) (tenant va : Nat) : WalkRes :=
  match s.tenant tenant with
  | none => .no .fatal
  | some t => s.walkFrom tenant va 5 t.cfg.root

/-! ### Translation of an access; ACCESS is coded as in R169: 0 read, 1 write, 2 fetch, 3 row -/

/-- A page permits an access. -/
def TlbEntry.permits (e : TlbEntry) (access : Nat) : Bool :=
  match access with
  | 1 => e.wr
  | 2 => e.ex
  | _ => e.rd

/-- A page covers an address of a tenant. -/
def TlbEntry.covers (e : TlbEntry) (tenant va : Nat) : Bool :=
  decide (e.tenant = tenant) && decide (e.va ≤ va) && decide (va < e.va + e.size)

/-- What translation of one address gives. -/
inductive Xl
  | ok (pa : Nat)
  | miss
  | no (f : FaultSort)
  deriving DecidableEq, Repr

/-- An address on a page (R167: a missing permission is fatal). -/
def TlbEntry.at_ (e : TlbEntry) (access va : Nat) : Xl :=
  if e.permits access then .ok (e.pa + (va - e.va)) else .no .fatal

/-- Translation through a core's cache. -/
def State.xlate (s : State) (core tenant va access : Nat) : Xl :=
  if 2 ^ 57 ≤ va then .no .fatal
  else match (s.core core).tlb.find? (·.covers tenant va) with
    | some e => e.at_ access va
    | none => .miss

/-- A translation for a read or write made on the spot: a place that a peer refuses is a fatal fault (R182). -/
def State.peered (s : State) : Xl → Xl
  | .ok pa => if s.peerFault pa then .no .fatal else .ok pa
  | r => r

/-- Translation by the tables as they stand. -/
def State.xlateTables (s : State) (tenant va access : Nat) : Xl :=
  if 2 ^ 57 ≤ va then .no .fatal
  else match s.walkNow tenant va with
    | .page e => s.peered (e.at_ access va)
    | .no f => .no f

/-- Translation through a core's cache for a read made as an instruction issues. -/
def State.xlateRead (s : State) (core tenant va access : Nat) : Xl := s.peered (s.xlate core tenant va access)

/-- Translation for an engine of a core: through the cache, or by a walk made at once. -/
def State.xlateEng (s : State) (core tenant va access : Nat) : Xl :=
  match s.xlate core tenant va access with
  | .miss => s.xlateTables tenant va access
  | r => s.peered r

/-- The place of an address of a tenant for a core, whatever the page permits; that of a table entry on the way that cannot be
corrected. -/
def State.placeOf (s : State) (core tenant va : Nat) : Option Nat :=
  match (s.core core).tlb.find? (·.covers tenant va) with
  | some e => some (e.pa + (va - e.va))
  | none => match s.walkNow tenant va with
    | .page e => some (e.pa + (va - e.va))
    | .no (.error pa) => some pa
    | .no _ => none

/-- The places that a translation for a core reads and gives: those of the walk where its cache misses, and its own. -/
def State.reach (s : State) (core tenant va access : Nat) : List Nat :=
  match s.xlate core tenant va access with
  | .ok pa => [pa]
  | .miss => s.walkPlaces tenant va ++ (match s.xlateTables tenant va access with | .ok pa => [pa] | _ => [])
  | .no _ => []

/-- The places that a translation by the tables reads and gives. -/
def State.reachTables (s : State) (tenant va access : Nat) : List Nat :=
  s.walkPlaces tenant va ++ (match s.xlateTables tenant va access with | .ok pa => [pa] | _ => [])

/-- The start of each page of 4 KiB that a run of bytes touches, the run's own start first. -/
def pagesOf (va n : Nat) : List Nat :=
  if n = 0 then [] else va :: (List.range ((va + n - 1) / 4096 - va / 4096)).map fun i => (va / 4096 + 1 + i) * 4096

/-- Every place that `n` bytes of an engine of a core meet may be served (R88, R90); a row is 4 KiB. -/
def State.engServed (s : State) (core tenant va n access : Nat) : Bool :=
  (pagesOf va n).all fun p => s.servedAll (s.reach core tenant p access)

/-- The same by the tables alone. -/
def State.tablesServed (s : State) (tenant va n access : Nat) : Bool :=
  (pagesOf va n).all fun p => s.servedAll (s.reachTables tenant p access)

/-- A core's cache with a page added; the oldest leaves where there are 512 (log 12). -/
def Core.addTlb (c : Core) (e : TlbEntry) : Core := { c with tlb := (e :: c.tlb).take Config.tlbEntries }

/-- Translation of each page start of a run of bytes, for an engine: the first fault with its address, or the
place of every byte. -/
def State.xlateRun (s : State) (core tenant va n access : Nat) : Except (FaultSort × Nat) (List Nat) :=
  match (pagesOf va n).find? fun p => match s.xlateEng core tenant p access with | .ok _ => false | _ => true with
  | some p => match s.xlateEng core tenant p access with
    | .no f => .error (f, p)
    | _ => .error (.replayable, p)
  | none => .ok ((upFrom va n).map fun a => match s.xlateEng core tenant a access with | .ok pa => pa | _ => 0)

/-! ### Fault queues (R169, R322) -/

/-- CORE of an entry made on behalf of no core (R169). -/
def noCore : Nat := 1023

/-- The die whose queue takes the entries of a core; entries of no core go to die 0 (log 17). -/
def dieOfEntry (core : Nat) : Nat := if core = noCore then 0 else dieOf core

/-- The die's fault queue has room (R322). -/
def State.dieRoom (s : State) (die : Nat) : Bool :=
  decide ((s.dieQ.filter fun e => decide (e.1 = die)).length < Config.dieQueueLen)

/-- Room for an entry of a core. -/
def State.roomFor (s : State) (core : Nat) : Bool := s.dieRoom (dieOfEntry core)

/-- An entry that reports an uncorrectable data error (R103). -/
def FaultEntry.isData (e : FaultEntry) : Bool := decide (e.kind = 3) || (decide (e.kind = 2) && decide (e.cause = 0x21))

/-- The column of a place counts an uncorrectable error (R323). -/
def State.countErrorAt (s : State) (pa : Nat) : State :=
  if Config.padBase ≤ pa then s
  else
    let n := pa / Config.frameBytes / Config.framesPerColumn
    s.setColumn n { s.column n with uncorrectable := (s.column n).uncorrectable + 1 }

/-- The column of the address of a data error counts it, where its row holds the error (R323, log 22): one of a die network has no
column. -/
def State.countError (s : State) (e : FaultEntry) : State :=
  if !e.isData then s
  else match s.placeOf e.core e.tenant e.addr with
    | some pa => if s.badAt (rowOf pa) 4096 then s.countErrorAt pa else s
    | none => s

/-- A change that an error on a die network brings: no column counts it (R185, R323). -/
def State.uncounted (s t : State) : State := { t with columns := s.columns }

/-- Data on a die network is marked as met by an uncorrectable error (R185). -/
def State.marked (s : State) (m : NetMark) : Bool := s.netBad.contains m

/-- The state without a mark. -/
def State.unmark (s : State) (m : NetMark) : State :=
  if s.marked m then { s with netBad := s.netBad.filter fun x => decide (x ≠ m) } else s

/-- What a core reads as it issues cannot be corrected, in its units or on its way (R103, R185). -/
def State.readBad (s : State) (core k n : Nat) : Bool := s.badAt k n || s.marked (.core core)

/-- An entry placed in a die's queue, with a token of its own and %clock of the core. -/
def State.place_ (s : State) (die : Nat) (e : FaultEntry) : State :=
  let clock := if e.core = noCore then s.stime else s.clock e.core
  let placed : FaultEntry := { e with token := s.nextToken, clock := BitVec.ofNat 64 clock }
  { s with dieQ := s.dieQ ++ [(die, placed)], nextToken := s.nextToken + 1 }

/-- An entry placed in its die's queue; a data error is counted. -/
def State.addFault (s : State) (e : FaultEntry) : State := (s.place_ (dieOfEntry e.core) e).countError e

/-- An entry that firmware or the hub makes for a die: placed, or held until the die's queue has room (R322). -/
def State.postFault (s : State) (die : Nat) (e : FaultEntry) : State :=
  if s.dieRoom die && s.heldFaults.all (fun h => decide (h.1 ≠ die)) then s.place_ die e
  else { s with heldFaults := s.heldFaults ++ [(die, e)] }

/-- Held entries are placed in order as far as there is room (R322). -/
def State.placeHeld (s : State) : State :=
  s.heldFaults.foldl (fun (s : State) (die, e) => s.postFault die e) { s with heldFaults := [] }

/-- A blank entry. -/
def FaultEntry.blank : FaultEntry :=
  { kind := 0, cause := 0, tenant := 0, core := noCore, access := 0, gid := 0xFFFFFFFF#32, tid := 0xFFFFFFFF#32,
    addr := 0, pcause := 0, token := 0, clock := 0 }

/-- A KIND 3 entry: an uncorrectable data error (R103), with the ACCESS of what found it. -/
def State.dataError (s : State) (core tenant : Nat) (gid tid : Word) (addr access : Nat) : State :=
  s.addFault { FaultEntry.blank with kind := 3, cause := 0x21, tenant := tenant, core := core, access := access, gid := gid,
                                     tid := tid, addr := addr }

end Sys2Proof.Machine
end

