-- ==== Sys2Proof/WellFormed.lean ====
section
/-! DEFINITION. Which operand codes, counts and selectors an instruction may carry (R193 to R200, R203 and the
entries of the instruction reference), for a thread with `n` lane registers (R194).  An instruction that is
not well-formed traps 0x01 at issue (R208). -/

namespace Sys2Proof

/-- A code that may stand as a 32-bit source: a register below `n`, a latch, zero, the home lane or the
thread index (R193, R194). -/
def srcOk (n : Nat) (c : Code) : Bool :=
  decide (c.toNat < n) || decide (120 ≤ c.toNat && c.toNat ≤ 122) || decide (124 ≤ c.toNat && c.toNat ≤ 126)

/-- A code that may stand as a 32-bit destination: a register below `n`, or 124, which discards (R193). -/
def dstOk (n : Nat) (c : Code) : Bool :=
  decide (c.toNat < n) || decide (c.toNat = 124)

/-- A code that names a pair: an even register with its successor below `n`, or 124 (R194). -/
def pairOk (n : Nat) (c : Code) : Bool :=
  decide (c.toNat % 2 = 0 ∧ c.toNat + 1 < n) || decide (c.toNat = 124)

/-- A code that names four registers: a multiple of 4 with the last below `n`, or 124 (R194). -/
def quadOk (n : Nat) (c : Code) : Bool :=
  decide (c.toNat % 4 = 0 ∧ c.toNat + 3 < n) || decide (c.toNat = 124)

/-- Field B under BS: with BS 1 every code is a uniform register or an immediate (R193). -/
def opBOk (n : Nat) (bs : Bool) (b : Code) : Bool :=
  bs || srcOk n b

/-- K suppresses the write of D, and D must then be 124 (R204). -/
def kOk (k : Bool) (d : Code) : Bool :=
  !k || decide (d.toNat = 124)

/-- A uniform register named by an A.u field (R195, R302). -/
def uniOk (c : Code) : Bool :=
  decide (c.toNat < 64)

/-- Bits of one element of a format code (R44, R199); codes 12 to 15 have none. -/
def fmtBits (f : Nat) : Nat :=
  match f with
  | 0 => 32 | 1 => 16 | 2 => 16 | 3 => 8 | 4 => 8 | 5 => 4 | 6 => 8 | 7 => 32 | 8 => 8 | 9 => 4
  | 10 => 32 | 11 => 8 | _ => 0

/-- Elements of a format that one lane register holds (R45). -/
def fmtPerReg (f : Nat) : Nat :=
  if fmtBits f = 0 then 0 else 32 / fmtBits f

/-- The system registers: width in bits and whether SYSW may write them (R210). -/
def sregInfo (r : Nat) : Option (Nat × Bool) :=
  match r with
  | 0x000 => some (32, false) | 0x001 => some (32, false) | 0x002 => some (32, false)
  | 0x003 => some (32, false) | 0x004 => some (32, false) | 0x005 => some (32, false)
  | 0x006 => some (32, false) | 0x007 => some (32, false) | 0x008 => some (32, false)
  | 0x010 => some (32, false) | 0x011 => some (32, false) | 0x012 => some (64, false)
  | 0x013 => some (32, false) | 0x014 => some (32, false) | 0x015 => some (32, false)
  | 0x020 => some (64, true) | 0x021 => some (32, false) | 0x022 => some (64, true)
  | 0x023 => some (32, false) | 0x030 => some (32, true) | 0x031 => some (32, true)
  | 0x040 => some (64, false) | 0x041 => some (64, false)
  | _ => none

/-- Layout A with a 32-bit result. -/
def LA.ok (n : Nat) (f : LA) : Bool :=
  kOk f.k f.d && dstOk n f.d && srcOk n f.a && opBOk n f.bs f.b

/-- Layout A of one source. -/
def LA1.ok (n : Nat) (f : LA1) : Bool :=
  kOk f.k f.d && dstOk n f.d && srcOk n f.a

/-- Layout A of the special functions. -/
def LA2.ok (n : Nat) (f : LA2) : Bool :=
  dstOk n f.d && srcOk n f.a

/-- Layout A.u with two uniform sources (R302). -/
def LAu.ok (f : LAu) : Bool :=
  uniOk f.d && uniOk f.a

/-- The V field of a load or store of width code TY (R197): a register, a pair or four registers. -/
def widthOk (n : Nat) (single : Code → Bool) (ty : Nat) (v : Code) : Bool :=
  if ty ≤ 4 then single v else if ty = 5 then pairOk n v else if ty = 6 then quadOk n v else false

/-- ORD and TY of a load (R105, R197, R273). -/
def loadOk (n ty ord : Nat) (a v : Code) : Bool :=
  decide (ord ≤ 1) && srcOk n a && widthOk n (dstOk n) ty v

/-- ORD and TY of a store (R105, R308). -/
def storeOk (n ty ord : Nat) (a v : Code) : Bool :=
  decide (ord = 0 ∨ ord = 2) && decide (ty ≠ 1 ∧ ty ≠ 3) && srcOk n a && widthOk n (srcOk n) ty v

/-- ATOM and RED (R198, R243): the eight-byte operations need even D and B with B at most 118. -/
def atomOk (n : Nat) (f : LX) : Bool :=
  srcOk n f.a && (!f.space || decide (f.base.toNat = 0)) && decide (f.opt.toNat ≤ 13) &&
  (if f.opt.toNat = 1 ∨ f.opt.toNat = 10 then
    pairOk n f.d && decide (f.b.toNat % 2 = 0 ∧ f.b.toNat ≤ 118 ∧ f.b.toNat + 1 < n)
  else dstOk n f.d && srcOk n f.b)

/-- ACAS (R198, R241). -/
def acasOk (n : Nat) (f : LX) : Bool :=
  srcOk n f.a && (!f.space || decide (f.base.toNat = 0)) &&
  (if f.opt.toNat = 0 then dstOk n f.d && decide (f.b.toNat ≤ 118 ∧ f.b.toNat + 1 < n)
  else if f.opt.toNat = 1 then
    pairOk n f.d && decide (f.b.toNat % 2 = 0 ∧ f.b.toNat ≤ 116 ∧ f.b.toNat + 3 < n)
  else false)

/-- Counters (R256): BASE is 0 in scratchpad; `v` is the operand test. -/
def counterOk (n : Nat) (v : Code → Bool) (f : LAt) : Bool :=
  srcOk n f.a && (!f.space || decide (f.base.toNat = 0)) && v f.v

/-- The contribution named by B of an arrival of a kind (R200, R269). -/
def arriveOk (n kind : Nat) (b : Code) : Bool :=
  if kind = 0 then decide (b.toNat = 124)
  else if kind ≤ 3 then decide (b.toNat < 8)
  else if kind ≤ 12 then srcOk n b
  else false

/-- MMF (R275): `regs` registers for each of A and B, `scaled` when the format carries block scales. -/
def mmfOk (n regs : Nat) (scaled integer : Bool) (f : LG) : Bool :=
  pairOk n f.d &&
  (if regs = 4 then quadOk n f.a && quadOk n f.b
   else if regs = 2 then pairOk n f.a && pairOk n f.b
   else srcOk n f.a && srcOk n f.b) &&
  (if scaled then srcOk n f.sca && srcOk n f.scb
   else decide (f.sca.toNat = 124 ∧ f.scb.toNat = 124 ∧ f.sela.toNat = 0 ∧ f.selb.toNat = 0)) &&
  (integer || (!f.sga && !f.sgb))

/-- The KV forms (R156): X is even, the last register read is at most v119 and below `n`; vX+1 is written. -/
def kvOk (n last : Nat) (f : LEk) : Bool :=
  decide (f.x.toNat % 2 = 0 ∧ f.x.toNat + last ≤ 119 ∧ f.x.toNat + last < n ∧ f.x.toNat + 1 < n)

/-- Well-formedness of an instruction for a thread of `n` lane registers.  The steps of the other agents are
no instruction words and are well-formed as they stand. -/
def Instr.wf (n : Nat) : Instr → Bool
  | .nop | .exit | .yield | .xret | .ret => true
  | .trap _ | .bkpt _ => true
  | .evwait ev => decide (ev.toNat = 0)
  | .sysr f => match sregInfo f.sreg.toNat with
      | some (w, _) => if w = 64 then pairOk n f.v else dstOk n f.v
      | none => false
  | .sysw f => match sregInfo f.sreg.toNat with
      | some (w, true) => if w = 64 then pairOk n f.v else srcOk n f.v
      | _ => false
  | .bra _ | .call _ => true
  | .bru f => decide (f.p.toNat = 7) && !f.neg
  | .brx f => pairOk n f.a
  | .iadd f | .isub f | .imul f | .imulhS32 f | .imulhN32 f | .imad f | .iminS32 f | .iminN32 f
  | .imaxS32 f | .imaxN32 f => f.ok n
  | .iabs f => f.ok n
  | .icmp f => decide (f.cond.toNat ≤ 9) && srcOk n f.a && opBOk n f.bs f.b
  | .lea f => !f.k && pairOk n f.d && srcOk n f.a && (f.bs || pairOk n f.b)
  | .sel f => dstOk n f.d && opBOk n f.bs f.b
  | .mov f => kOk f.k f.d && dstOk n f.d && opBOk n f.bs f.b
  | .and f | .or f | .xor f | .shl f | .shr f | .sar f | .bfx f | .bfi f => f.ok n
  | .popc f | .clz f | .brev f => f.ok n
  | .plop _ => true
  | .movi f => kOk f.k f.d && dstOk n f.d
  | .movl f => dstOk n f.d
  | .fadd f | .fmul f | .ffma f | .fmin f | .fmax f => f.ok n
  | .fcmp f => decide (f.cond.toNat ≤ 5 ∨ f.cond.toNat = 10 ∨ f.cond.toNat = 11) && srcOk n f.a &&
      opBOk n f.bs f.b
  | .frnd f => !f.k && dstOk n f.d && srcOk n f.a && decide (f.rc.toNat ≤ 4)
  | .fexp2 f | .flog2 f | .frcp f | .frsq f | .fsqrt f => f.ok n
  | .cvt f => dstOk n f.d && srcOk n f.a && decide (f.b.toNat = 124) && decide (f.sfmt.toNat ≤ 11) &&
      decide (f.dfmt.toNat ≤ 11) && decide (f.rnd.toNat ≤ 4) &&
      decide (f.eidx.toNat < fmtPerReg f.sfmt.toNat)
  | .cvtp f => dstOk n f.d && srcOk n f.a && srcOk n f.b && decide (f.sfmt.toNat ≤ 11) &&
      decide (f.dfmt.toNat ≤ 11) && decide (f.rnd.toNat ≤ 4) &&
      decide (f.eidx.toNat + 1 < fmtPerReg f.dfmt.toNat)
  | .paddBf16 f | .paddF16 f | .pmulBf16 f | .pmulF16 f | .pfmaBf16 f | .pfmaF16 f => f.ok n
  | .dp4 f => kOk f.k f.d && dstOk n f.d && srcOk n f.a && opBOk n f.bs f.b
  | .dp8 f => f.ok n
  | .qxch f => dstOk n f.d && srcOk n f.a
  | .xlane f => dstOk n f.d && srcOk n f.a && opBOk n f.bs f.b
  | .wvote f => decide (f.k.toNat ≤ 1) && dstOk n f.d
  | .mmfBf16 f | .mmfF16 f => mmfOk n 4 false false f
  | .mmfE4m3 f | .mmfE5m2 f => mmfOk n 2 true false f
  | .mmfE2m1 f => mmfOk n 1 true false f
  | .mmfS8 f => mmfOk n 2 false true f
  | .sadd f | .ssub f | .smul f | .sand f | .sor f | .sxor f | .sshl f | .sshr f | .sld f => f.ok
  | .scmp f => decide (f.cond.toNat ≤ 9) && uniOk f.a
  | .smov f => uniOk f.d
  | .smovl f => decide (f.half.toNat ≤ 2) && uniOk f.d
  | .sfirst f => uniOk f.d && srcOk n f.a
  | .ld f => loadOk n f.ty.toNat f.ord.toNat f.a f.v
  | .st f => storeOk n f.ty.toNat f.ord.toNat f.a f.v
  | .lds f => loadOk n f.ty.toNat f.ord.toNat f.a f.v
  | .sts f => storeOk n f.ty.toNat f.ord.toNat f.a f.v
  | .atom f => atomOk n f
  | .acas f => acasOk n f
  | .red f => atomOk n f && decide (f.d.toNat = 124) && decide (f.opt.toNat ≠ 9 ∧ f.opt.toNat ≠ 10)
  | .fence _ => true
  | .promote f => dstOk n f.d && srcOk n f.a && srcOk n f.b
  | .ctadd f => counterOk n (srcOk n) f
  | .ctwait f | .ctread f => counterOk n (pairOk n) f
  | .cseal d => dstOk n d
  | .cwait a => srcOk n a
  | .cstat f => dstOk n f.d && srcOk n f.a
  | .ralloc f => dstOk n f.d && decide (f.a.toNat % 4 = 0 ∧ f.a.toNat ≤ 116 ∧ f.a.toNat + 3 < n)
  | .rfree f => srcOk n f.a
  | .rrank f => dstOk n f.d && srcOk n f.a
  | .rstat f | .rstatClaim f => dstOk n f.d && srcOk n f.a
  | .hcreate f => dstOk n f.d && pairOk n f.b
  | .hjoin f => srcOk n f.b
  | .hleave _ | .hdiss _ => true
  | .hbar f => dstOk n f.d
  | .harr f => arriveOk n f.kind.toNat f.b
  | .hwait f => pairOk n f.d
  | .hvote f => decide (1 ≤ f.kind.toNat ∧ f.kind.toNat ≤ 3) && pairOk n f.d && arriveOk n f.kind.toNat f.b
  | .hred f => decide (4 ≤ f.kind.toNat ∧ f.kind.toNat ≤ 12) && pairOk n f.d && arriveOk n f.kind.toNat f.b
  | .hquery f => pairOk n f.d
  | .hqueryHdl f => dstOk n f.d
  | .grangeRead f | .grangeTake f => pairOk n f.d
  | .cpy _ | .mx _ | .mxdrain _ | .attn _ | .attnMerge _ | .cbload _ => true
  | .enq f => (!f.ack || decide (f.u.toNat ≤ 62)) && (if f.lq then decide (f.a.toNat = 124) else srcOk n f.a)
  | .ropen f => srcOk n f.a
  | .rtake f => (f.try_ || decide (f.pd.toNat = 7)) &&
      (if f.dest then srcOk n f.a else decide (f.a.toNat = 124))
  | .rclose _ => true
  | .rpoll f => dstOk n f.a
  | .kvfind f | .kvins f | .kvdel f => kvOk n 2 f
  | .kvinsSeal f => kvOk n 0 f
  | .kvpfx f | .kvpfxDel f => kvOk n 3 f
  | .kvpfxIns f => kvOk n 4 f
  | .flitReceive port _ _ _ => decide (port < 36)
  | .rdmaSend port _ => decide (port < 4)
  | .kvTableAction _ | .doorbellWrite _ _ | .launchCommand _ _ | .budgetCommand _ _
  | .budgetCommandComplete _ | .tenantCreate _ _ _ | .tenantChange _ _ _ | .tenantDisable _ _
  | .mapCommand _ _ _ _ | .translationDrainComplete _ | .zeroCommand _ _ _ _ | .zeroFillComplete _
  | .keyCommand _ _ _ _ _ | .queryBudget _ | .queryCapacity _ | .queryTemperatures _ | .queryBankMaps _
  | .queryCounters _ | .debugHalt _ _ | .debugSingleStep _ _ | .debugThreadStep _ _ _ | .debugResume _ _
  | .debugReadContext _ _ _ _ | .debugWriteContext _ _ _ _ _ | .remapCompleteRetirement _ _ _
  | .remapReadmit _ _ _ | .remappingStepComplete _ | .invalidateRange _ _ _ | .invalidateAll _
  | .faultReplay _ _ | .faultAbort _ _ | .preemptCommand _ _ | .powerOnReset _ _ | .hostAccess _ _ _ _
  | .fabricLaunchPacket _ _ | .fabricPeerAccess _ _ _ _ | .rdmaWrite _ _ _
  | .rdmaRead _ _ _ | .launchQueueAccept _ | .taskRecordPlacement _ _ | .groupStart _
  | .coreRequest _ | .gangStart _ | .gangMigration _ | .classPreemption _ | .issueSlotSelect _ _
  | .mergeTick _ | .thermalSample _ | .repairRetirementPending _ _ | .plannedReduction _ _ _ | .lossPoint _
  | .thermalEmergency _ _ | .relight _ _ | .preemption _ | .resumption _ _ _ | .hangReport _
  | .translationWalk _ | .faultEntryTransfer _ | .hMessageApply _ | .promoteArrival _
  | .memoryAccessComplete _ _ | .copyChunkLanding _ _ | .mxComplete _ | .attnStepComplete _
  | .attnMergeComplete _ | .mxdrainChunkLanding _ _ | .mxdrainComplete _ | .cbloadInstall _
  | .rowActivation _ | .rowReady _ _ | .rtakeBeat _ | .refreshDue _ _ | .refreshGraceEnd _ _
  | .refreshEnd _ _ | .openLimitReached _ _ | .ramblerCheck _ | .parasolCapAndClockTrade _ _ => true

/-- A two-word instruction: the layouts L and B (R189). -/
def Instr.twoWords : Instr → Bool
  | .bra _ | .bru _ | .call _ | .movl _ | .smovl _ | .cvt _ | .cvtp _ | .dp4 _ | .mmfBf16 _ | .mmfF16 _
  | .mmfE4m3 _ | .mmfE5m2 _ | .mmfE2m1 _ | .mmfS8 _ | .atom _ | .acas _ | .red _ => true
  | _ => false

/-- A transfer instruction, which must be the last of its packet (R190). -/
def Instr.isTransfer : Instr → Bool
  | .bra _ | .bru _ | .call _ | .brx _ | .ret | .xret | .exit => true
  | _ => false

end Sys2Proof
end

