-- ==== Sys2Proof/Machine/Regions.lean ====
section
/-! DEFINITION. Scratchpad: the windows (R65), the check of R71, line states (R72), and the hamper (R67). -/

namespace Sys2Proof.Machine

/-- The core and local address that a scratchpad address names, from a core (R65). -/
def resolve (core addr : Nat) : Option (Nat × Nat) :=
  if addr < Config.padBytes then some (core, addr)
  else if Config.clusterWindow ≤ addr ∧ addr < Config.clusterWindow + Config.coresPerCluster * Config.padBytes then
    some (clusterOf core * Config.coresPerCluster + (addr - Config.clusterWindow) / Config.padBytes,
          (addr - Config.clusterWindow) % Config.padBytes)
  else none

/-- The memory key of a byte of a core's scratchpad (log 14). -/
def padKey (core a : Nat) : Nat := Config.padBase + core * Config.padBytes + a

/-- The core and local address of a scratchpad key. -/
def keyPlace (k : Nat) : Nat × Nat := ((k - Config.padBase) / Config.padBytes, (k - Config.padBase) % Config.padBytes)

/-- An address lies in a region's range (R66). -/
def Region.covers (r : Region) (a : Nat) : Bool := decide (r.base ≤ a) && decide (a < r.base + r.size)

/-- An entry of the region table with its index, where it holds an address. -/
def entryAt (a : Nat) (x : Option Region × Nat) : Option (Nat × Region) :=
  match x.1 with
  | some r => if r.covers a then some (x.2, r) else none
  | none => none

/-- The region of a group's table that holds an address, with its index. -/
def Group.regionAt (g : Group) (a : Nat) : Option (Nat × Region) := (g.regions.zipIdx).findSome? (entryAt a)

/-- Two resident groups are of one gang. -/
def sameGang (g h : Group) : Bool := g.gangOf.isSome && decide (g.gangOf = h.gangOf)

/-- The region visible to a group at a local address of a core (R71, R293), with its table index: the group's own
on its own core, else a SCOPE 1 region of a gang member on that core. -/
def State.visible (s : State) (g : Group) (core a : Nat) : Option (Nat × Region) :=
  if core = g.core then g.regionAt a
  else s.groups.findSome? fun (_, h) =>
    if decide (h.core = core) && sameGang g h then
      match h.regionAt a with
      | some (i, r) => if r.scope then some (i, r) else none
      | none => none
    else none

/-- An address lies in the spill area of a live synchronisation group of the core (R129). -/
def State.inSpill (s : State) (core a n : Nat) : Bool :=
  (s.core core).sync.any fun (_, slot) => match slot.group with
    | some y => decide (a < y.spill + (64 + 16 * y.cap)) && decide (y.spill < a + n)
    | none => false

/-- What the check of a scratchpad access gives (R71, R72): the memory key of its first byte, or the first
failing address, or a Lost line with its region's handler. -/
inductive Pad
  | ok (key : Nat)
  | bounds (addr : Nat)
  | lost (addr handler : Nat)
  deriving DecidableEq, Repr

/-- The offset of the first of `n` bytes at a local address that lies outside a region or in a spill area. -/
def State.firstOutside (s : State) (r : Region) (core a n : Nat) : Nat :=
  ((List.range n).find? fun i => decide (r.base + r.size ≤ a + i) || s.inSpill core (a + i) 1).getD 0

/-- The check of `n` bytes at a scratchpad address, for a thread or an engine command of a group. -/
def State.padCheck (s : State) (g : Group) (addr n : Nat) : Pad :=
  match resolve g.core addr with
  | none => .bounds addr
  | some (core, a) =>
    match s.visible g core a with
    | none => .bounds addr
    | some (_, r) =>
      if r.base + r.size < a + n ∨ s.inSpill core a n then .bounds (addr + s.firstOutside r core a n)
      else if r.lost then .lost addr r.handler
      else .ok (padKey core a)

/-- The check of a run of an engine command's bytes as a whole, every byte in one region (R71): one byte at a time would let a
run pass that spans two. -/
def State.padRun (s : State) (g : Group) (addr n : Nat) : Pad :=
  if n = 0 then .ok 0 else s.padCheck g addr n

/-- The 128-byte lines that a run of keys touches. -/
def linesOf (k n : Nat) : List Nat :=
  if n = 0 then [] else (List.range ((k + n - 1) / 128 - k / 128 + 1)).map fun i => (k / 128 + i) * 128

/-- The lines of the destination that an accepted take still owes beats to, or has failed to write (R72, R297). -/
def Take.owedLines (t : Take) : List Nat :=
  match t.dest with
  | .staging => []
  | .attn _ _ _ => []
  | .pad a => ((t.missed.flatMap fun b => linesOf (padKey t.core a + b * 512) 512) ++
      linesOf (padKey t.core a + t.beat * 512) (4096 - t.beat * 512)).filter fun l => !t.dead.contains l

/-- A chunk owed to a scratchpad line overlaps it. -/
def Chunk.owes (c : Chunk) (line : Nat) : Bool :=
  !c.dead && decide (c.addr < line + 128) && decide (line < c.addr + c.len)

/-- The chunks a drain owes. -/
def EngOp.owed : EngOp → List Chunk
  | .drain _ _ _ owed _ _ _ => owed
  | _ => []

/-- A line is Pending: a copy, a drain or a take owes it a landing (R72). -/
def State.linePending (s : State) (line : Nat) : Bool :=
  (s.copies.any fun c => c.dsp && c.owed.any (·.owes line)) ||
  (s.engs.any fun e => e.op.owed.any (·.owes line)) ||
  (s.takes.any fun t => t.owedLines.contains line)

/-- The first Pending line among those of a run of keys. -/
def State.pendingLine (s : State) (k n : Nat) : Option Nat := (linesOf k n).find? s.linePending

/-! ### The hamper (R67) -/

/-- A bank of a core is lit (R64). -/
def Core.bankLit (c : Core) (b : Nat) : Bool := c.lit.getLsbD b

/-- Lit banks of a core (R77). -/
def Core.litCount (c : Core) : Nat := ((List.range 64).filter c.bankLit).length

/-- A region reserves pages in a bank of its range (R72, R83). -/
def Region.reserves (r : Region) (b : Nat) : Bool :=
  !r.dropped && !r.darkened.contains b && decide (r.base < (b + 1) * Config.bankBytes) &&
  decide (b * Config.bankBytes < r.base + r.size)

/-- The banks that a region's range touches. -/
def Region.banks (r : Region) : List Nat :=
  if r.size = 0 then []
  else (List.range ((r.base + r.size - 1) / Config.bankBytes - r.base / Config.bankBytes + 1)).map
    fun i => r.base / Config.bankBytes + i

/-- The runs of a region's range that it still holds: all of it, but for the banks that went dark under it (R72). -/
def Region.runs (r : Region) : List (Nat × Nat) :=
  if r.dropped then []
  else if r.darkened.isEmpty then [(r.base, r.size)]
  else (r.banks.filter fun b => !r.darkened.contains b).map fun b =>
    let lo := max r.base (b * Config.bankBytes)
    (lo, min (r.base + r.size) ((b + 1) * Config.bankBytes) - lo)

/-- Every region of a core: the tables of its resident groups, and the regions held for a group away (R140). -/
def State.coreRegions (s : State) (core : Nat) : List Region :=
  (s.groups.flatMap fun (_, g) => if g.core = core then g.regions.filterMap id else []) ++
  (s.saved.flatMap fun v => if v.home = some core then v.held else [])

/-- The rank of a bank: that of a region that reserves pages in it; none when it is empty. -/
def bankRank (rs : List Region) (b : Nat) : Option Nat := (rs.find? (·.reserves b)).map (·.rank)

/-- Pages of one bank. -/
def pagesPerBank : Nat := 16

/-- The page from a local address may take part of a region of rank `k` (R67); `own` are the entries of the
requesting group. -/
def usablePage (c : Core) (rs own : List Region) (k page : Nat) : Bool :=
  let b := page / pagesPerBank
  let a := page * Config.pageBytes
  (if k = 7 then decide (b < 8) else decide (8 ≤ b) && decide (b < 64)) && c.bankLit b && !c.chosen.contains b &&
  !(rs.any fun r => r.covers a && r.reserves b) &&
  !(own.any fun r => r.lost && r.covers a) &&
  (match bankRank rs b with | none => true | some q => decide (q = k))

/-- The run of `p` pages from a page is usable. -/
def usableRun (c : Core) (rs own : List Region) (k page p : Nat) : Bool :=
  (List.range p).all fun i => usablePage c rs own k (page + i)

/-- Empty banks that a run of pages brings in. -/
def emptyBanksOf (rs : List Region) (page p : Nat) : Nat :=
  ((upFrom (page / pagesPerBank) ((page + p - 1) / pagesPerBank - page / pagesPerBank + 1)).filter
    fun b => decide (bankRank rs b = none)).length

/-- The better of two runs: fewest empty banks, then the lower start. -/
def betterRun (rs : List Region) (p : Nat) : Option Nat → Nat → Option Nat
  | none, a => some a
  | some b, a => if emptyBanksOf rs a p < emptyBanksOf rs b p then some a else some b

/-- Where the hamper places a region of rank `k` and `size` bytes on a core for a group with the entries `own`
(R67): the local address. -/
def State.place (s : State) (core : Nat) (own : List Region) (k size : Nat) : Option Nat :=
  let c := s.core core
  let rs := s.coreRegions core
  let p := size / Config.pageBytes
  let starts := if k = 7 then List.range 128 else upFrom 128 896
  ((starts.filter fun a => usableRun c rs own k a p).foldl (betterRun rs p) none).map (· * Config.pageBytes)

/-- The size of the largest region of a rank (R67). -/
def largestRegion (k : Nat) : Nat := if k = 7 then 0x80000 else 0x380000

/-- A fresh Live region. -/
def Region.fresh (base size rank handler : Nat) (scope : Bool) : Region :=
  { base := base, size := size, rank := rank, handler := handler, scope := scope, lost := false, claim := none,
    dropped := false, darkened := [] }

/-- Every line of a run of a core's scratchpad reads zero (R68). -/
def State.zeroPad (s : State) (core a n : Nat) : State :=
  { s with mem := memDrop s.mem (padKey core a) (padKey core a + n) }

/-! ### Freed and lost lines -/

/-- A chunk whose destination lies in a run of keys is dead from now on. -/
def Chunk.kill (c : Chunk) (k n : Nat) : Chunk :=
  if decide (c.addr < k + n) && decide (k < c.addr + c.len) then { c with dead := true } else c

/-- Two runs, each a start and a length, share a byte. -/
def overlaps (a n b m : Nat) : Bool := decide (a < b + m) && decide (b < a + n)

/-- Dimensions of a copy as used: missing ones take WIN = SIZE = 1 and stride 0 (R252). -/
def CopyDim.one : CopyDim := { win := 1, size := 1, int := 1, stride := 0 }

/-- Elements of a copy. -/
def copyCount (ds : List CopyDim) : Nat := ds.foldl (fun n d => n * d.win) 1

/-- The source element index of destination element `k`, or none where it samples padding (R252). -/
def copySource : List CopyDim → Nat → Option Int
  | [], _ => some 0
  | d :: ds, k =>
    let j := k % d.win * d.int
    if d.size ≤ j then none
    else match copySource ds (k / d.win) with
      | some e => some (Int.ofNat j * d.stride + e)
      | none => none

/-- The destination elements that a chunk holds a byte of: the first, and one past the last. -/
def Copy.elems (c : Copy) (ch : Chunk) : Nat × Nat :=
  let w := fmtBits c.dfmt
  (ch.off * 8 / w, min (copyCount c.dims) (((ch.off + ch.len) * 8 + w - 1) / w))

/-- The first byte's address of source element `e` (R45, R252). -/
def Copy.srcAddr (c : Copy) (e : Int) : Int := Int.ofNat c.saddr + (e * Int.ofNat (fmtBits c.sfmt)) / 8

/-- Bytes that hold one element. -/
def elemBytes (f : Nat) : Nat := (fmtBits f + 7) / 8

/-- Destination element `k` samples a scratchpad element in a run of keys. -/
def Copy.samplesIn (c : Copy) (k n i : Nat) : Bool :=
  match copySource c.dims i with
  | none => false
  | some e => match resolve c.core (c.srcAddr e).toNat with
    | some (core, a) => overlaps k n (padKey core a) (elemBytes c.sfmt)
    | none => false

/-- The scratchpad source of a chunk lies in a run of keys. -/
def Copy.sourceIn (c : Copy) (k n : Nat) (ch : Chunk) : Bool :=
  let (i, j) := c.elems ch
  c.ssp && (upFrom i (j - i)).any (c.samplesIn k n)

/-- A chunk whose scratchpad source lies in a run of keys will not be delivered (R73). -/
def Copy.loseSource (c : Copy) (k n : Nat) (ch : Chunk) : Chunk :=
  if c.sourceIn k n ch then { ch with srcGone := true } else ch

/-- A copy still reads from or writes to a run of keys. -/
def Copy.uses (c : Copy) (k n : Nat) : Bool :=
  c.owed.any fun ch => (c.dsp && overlaps k n ch.addr ch.len) || c.sourceIn k n ch

end Sys2Proof.Machine
end

