-- ==== Sys2Proof/Machine/Threads.lean ====
section
/-! DEFINITION. Arrivals, bundles and frontier entries (R11 to R16), counters and the cluster cache (R113, R120),
freed and lost scratchpad (R69, R72, R76, R139), and the ends of threads, groups and launches (R26, R30). -/

namespace Sys2Proof.Machine

/-! ### Arrivals, bundles, entries -/

/-- The group without a thread in any bundle. -/
def Group.unbundle (g : Group) (tid : Nat) : Group :=
  let without := g.bundles.map fun b => { b with tids := b.tids.filter fun t => decide (t ≠ tid) }
  { g with bundles := without.filter fun b => !b.tids.isEmpty }

/-- A thread arrives at a point as a new bundle of one (R12, R14). -/
def Group.arrive (g : Group) (now tid : Nat) (p : Point) : Group :=
  let h := (g.unbundle tid).onThread tid fun t => { t with run := .runnable, point := p, word := p.word, arrival := now }
  { h with bundles := h.bundles ++ [{ slot := g.slotOf tid, tids := [tid], collective := false }] }

/-- A thread arrives at a point. -/
def State.arrive (s : State) (g tid : Nat) (p : Point) : State := s.onGroup g fun x => x.arrive s.stime tid p

/-- The point at which a thread stands that makes an issue of a packet next, given by its first word: its own point in its
packet, else word 0 (R11). -/
def Thread.standing (t : Thread) (p : Point) : Point :=
  { p with word := if p.word = 0 ∨ p.pc ≠ t.point.pc then 0 else t.point.word }

/-- Where a thread makes its next issue: its packet and that issue's first word. -/
def Thread.here (t : Thread) : Point := { t.point with word := t.word }

/-- A thread is Runnable again at an issue of its packet or at a packet, as a new bundle of one (R12). -/
def Group.wake (g : Group) (now tid : Nat) (p : Point) : Group :=
  let h := (g.unbundle tid).onThread tid fun t =>
    { t with run := .runnable, point := t.standing p, word := p.word, arrival := now }
  { h with bundles := h.bundles ++ [{ slot := g.slotOf tid, tids := [tid], collective := false }] }

/-- A thread is Runnable again. -/
def State.wake (s : State) (g tid : Nat) (p : Point) : State := s.onGroup g fun x => x.wake s.stime tid p

/-- A thread leaves its bundle and parks (R12): `issue` is the issue that parked it, `resume` where it goes on, and `word` the
word that parked it. -/
def Group.park (g : Group) (tid : Nat) (w : Wait) (issue resume : Point) (word : Nat := issue.word) : Group :=
  (g.unbundle tid).onThread tid fun t =>
    { t with run := .parked w issue resume, point := t.standing issue, word := issue.word, parkWord := word }

/-- A parked thread becomes Runnable at its parked packet and takes a trap there (R76), with the word that parked it.  DESIGN CHOICE
(log 98): it takes the trap alone, so %tmask is 0 for its 0x10 too. -/
def State.wakeTrap (s : State) (g tid : Nat) (issue : Point) (code : Byte) (tval : Dword) (handler : Nat)
    (word : Option Nat := none) : State :=
  (s.wake g tid issue).onThread g tid fun t =>
    { t with due := some ⟨code, tval, 0, handler, some (word.getD t.parkWord)⟩, later := [] }

/-- A fresh frontier entry (R11). -/
def Entry.fresh (p : Point) : Entry := { point := p, passes := [0, 0, 0, 0], reached := [0, 0, 0, 0], holds := [] }

/-- Entries of the points of a list of threads that have none yet. -/
def addEntries : List Entry → List Thread → List Entry
  | es, [] => es
  | es, t :: ts =>
    if t.live && !(es.any fun e => decide (e.point = t.point)) then addEntries (es ++ [Entry.fresh t.point]) ts
    else addEntries es ts

/-- The frontier as the threads stand: entries cease with their last live thread, and new points get entries
(R11). -/
def Group.tidy (g : Group) : Group :=
  let kept := g.entries.filter fun e => g.threads.any fun t => t.live && decide (t.point = e.point)
  { g with entries := addEntries kept g.threads }

/-! ### Counters and the cluster cache -/

/-- The cluster's copies that overlap a run of bytes are dropped. -/
def State.dropLine (s : State) (cluster k n : Nat) : State :=
  { s with clines := s.clines.filter fun c =>
      !(decide (c.cluster = cluster) && overlaps k n (c.line * Config.clineBytes) Config.clineBytes) }

/-- Every copy of a cluster's cache is dropped: an acquire at device or system scope (R113). -/
def State.dropCluster (s : State) (cluster : Nat) : State :=
  { s with clines := s.clines.filter fun c => decide (c.cluster ≠ cluster) }

/-- An acquire at a scope by a thread of a core (R113). -/
def State.acquire (s : State) (core sc : Nat) : State := if 2 ≤ sc then s.dropCluster (clusterOf core) else s

/-- The sum that a counter takes: it saturates (R120). -/
def counterSum (old v : Nat) : Nat := min (old + v) (2 ^ 64 - 1)

/-- A number added to the counter at a key (R120), on behalf of a core. -/
def State.counterAdd (s : State) (core tenant k v : Nat) : State :=
  (s.devWrite tenant k (leBytes 8 (counterSum (s.devNum k 8) v))).dropLine (clusterOf core) k 8

/-- A signal-add of an engine command (R120, R320): by 1; an uncorrectable error leaves the counter unchanged and
places an entry of KIND 3. -/
def State.signalAdd (s : State) (core tenant k : Nat) (gid tid : Word) (va : Nat) : State :=
  if s.badAt k 8 then s.dataError core tenant gid tid va 1 else s.counterAdd core tenant k 1

/-! ### Waiters of freed and lost lines -/

/-- The scratchpad address by which a core reaches a key (R65). -/
def addrFrom (core k : Nat) : Nat :=
  let (c, a) := keyPlace k
  if c = core then a else Config.clusterWindow + c % Config.coresPerCluster * Config.padBytes + a

/-- The key a thread's wait hangs on, where it waits on a line (R72). -/
def Wait.onKey : Wait → Option Nat
  | .line k => some k
  | .counter k _ _ _ => some k
  | _ => none

/-- Threads of a state with what each waits for: group, thread, wait, issue point. -/
def State.waiters (s : State) : List (Nat × Nat × Wait × Point) :=
  s.groups.flatMap fun (g, x) => x.threads.filterMap fun t => match t.run with
    | .parked w p _ => some (g, t.tid, w, p)
    | _ => none

/-- A trap that a thread takes at its packet at once, wherever it stands (R76, R167): a parked or gathering thread becomes
Runnable to take it; one that is leaving takes no more. -/
def State.dueNow (s : State) (g tid : Nat) (code : Byte) (tval : Dword) (handler : Nat) : State :=
  match s.thread g tid with
  | none => s
  | some t => match t.run with
    | .parked .leaving _ _ => s
    | .parked _ p _ => s.wakeTrap g tid p code tval handler
    | .gathering => s.wakeTrap g tid t.here code tval handler (some t.word)
    | .runnable => s.onThread g tid fun u => { u with due := some ⟨code, tval, 0, handler, some u.word⟩ }
    | _ => s

/-- Keys of lines that threads wait on, now or later in the issue that parked them: group, thread, key, issue point and the
word that waits. -/
def State.keyWaiters (s : State) : List (Nat × Nat × Nat × Point × Nat) :=
  s.groups.flatMap fun (g, x) => x.threads.flatMap fun t => match t.run with
    | .parked w p _ => ((w, t.parkWord) :: t.later).filterMap fun (w, i) => w.onKey.map fun k => (g, t.tid, k, p, i)
    | _ => []

/-- Every thread parked on a line of a run of keys takes a trap at its packet (R72, R76). -/
def State.trapWaiters (s : State) (k n : Nat) (code : Byte) (handler : Nat) : State :=
  s.keyWaiters.foldl (fun s (g, tid, j, p, i) =>
    if k ≤ j ∧ j < k + n then
      let core := ((s.group g).map (·.core)).getD 0
      s.wakeTrap g tid p code (BitVec.ofNat 64 (addrFrom core j)) handler (some i)
    else s) s

/-- A handle register of a thread. -/
def Thread.handle (t : Thread) (h : Nat) : Word := t.handles.getD h 0

/-- The ticket of a handle register (R133). -/
def Ticket.fresh : Ticket := { out := 0, last := none, lost := none }

/-- The ticket of a handle register. -/
def Thread.ticket (t : Thread) (h : Nat) : Ticket := t.tickets.getD h Ticket.fresh

/-- The ticket of a handle register whose lost home has been reported starts afresh (R139). -/
def State.reported (s : State) (g tid : Nat) (ticket : Option Nat) : State :=
  match ticket with
  | none => s
  | some h => s.onThread g tid fun t => { t with tickets := setAt t.tickets h Ticket.fresh }

/-- What a lost home leaves for the HWAIT of a parked thread (R139): the handle register, the issue that parked the thread, and the
trap. -/
def State.lostFor (s : State) (g tid : Nat) : HOp → Option (Nat × Point × Byte × Dword × Nat)
  | .wait h => match s.thread g tid with
    | none => none
    | some t => match t.run, (t.ticket h).lost with
      | .parked _ p _, some (code, tval, handler) => some (h, p, code, tval, handler)
      | _, _ => none
  | _ => none

/-- A parked thread whose wait has ended (R12): it parks on the next wait of its issue, for an H instruction once its message
is sent, or arrives at the point at which it goes on (log 39). -/
def State.goOn (s : State) (g tid : Nat) (next : Point) : State :=
  let wait := fun (s : State) (w : Wait) (i : Nat) (ws : List (Wait × Nat)) => s.onThread g tid fun t => match t.run with
    | .parked _ p q => { t with run := .parked w p q, parkWord := i, later := ws }
    | _ => t
  match ((s.thread g tid).map (·.later)).getD [] with
  | (Wait.hSend home handle op then_, i) :: ws => match s.lostFor g tid op with
    | some (h, p, code, tval, handler) => (s.wakeTrap g tid p code tval handler (some i)).reported g tid (some h)
    | none =>
      let m : HMsg := { id := s.nextId, home := home, guid := g, tid := tid, handle := handle, op := op, then_ := then_ }
      wait { s.bump with hmsgs := s.hmsgs ++ [m] } (.hAck s.nextId) i ws
  | (w, i) :: ws => wait s w i ws
  | [] => s.wake g tid next

/-- An access that a thread issued before its command or message `id` is still in flight. -/
def State.behind (s : State) (guid tid id : Nat) : Bool :=
  s.accesses.any fun a => decide (a.guid = guid) && decide (a.id < id) && a.lanes.any fun l => decide (l.tid = tid)

/-- A saved thread, or a resident one, changed. -/
def State.onMember (s : State) (g tid : Nat) (f : Thread → Thread) : State :=
  { s.onThread g tid f with
    saved := s.saved.map fun v => if v.guid = g then { v with group := v.group.onThread tid f } else v }

/-- A resident or saved thread. -/
def State.member (s : State) (g tid : Nat) : Option Thread :=
  match s.thread g tid with
  | some t => some t
  | none => (s.saved.find? fun v => decide (v.guid = g)).bind fun v => v.group.thread tid

/-- Handle value of a slot (R126). -/
def handleOf (core slot tag : Nat) : Word := BitVec.ofNat 32 (core * 2 ^ 22 + slot * 2 ^ 14 + tag)

/-- A thread waits in an arrival's delivery on a handle register. -/
def Thread.waitsGen (t : Thread) (h : Nat) : Option Point :=
  match t.run with
  | .parked (.hGen j _) p _ => if j = h then some p else none
  | _ => none

/-- The message in flight by which a parked thread waits in HWAIT, HBAR, HVOTE or HRED on a handle. -/
def State.waitMsg (s : State) (g tid : Nat) (hv : Word) : Option (HMsg × Point) :=
  match s.thread g tid with
  | none => none
  | some t => match t.run with
    | .parked (.hAck i) p _ =>
      (s.hmsgs.find? fun m => decide (m.id = i) && decide (m.handle = hv) && m.then_.isSome).map fun m => (m, p)
    | _ => none

/-- The members of a synchronisation group lost with its spill area (R139): one parked in HWAIT, HBAR, HVOTE or HRED traps at
its packet, for the delivery as for the acknowledgement; another with an outstanding arrival traps at its next HWAIT. -/
def State.loseMember (s : State) (m : Member) (hv : Word) (code : Byte) (tval : Dword) (handler : Nat) : State :=
  match s.waitMsg m.guid m.tid hv with
  | some (q, p) =>
    ({ s with hmsgs := s.hmsgs.filter fun n => decide (n.id ≠ q.id) }.wakeTrap m.guid m.tid p code tval handler).reported
      m.guid m.tid (some m.h)
  | none =>
    match s.member m.guid m.tid with
    | none => s
    | some t =>
      if t.handle m.h ≠ hv ∨ (t.ticket m.h).out = 0 then s
      else
        match t.waitsGen m.h, s.thread m.guid m.tid with
        | some p, some _ => (s.wakeTrap m.guid m.tid p code tval handler).reported m.guid m.tid (some m.h)
        | _, _ =>
          s.onMember m.guid m.tid fun u =>
            { u with tickets := setAt u.tickets m.h { Ticket.fresh with lost := some (code, tval, handler) } }

/-- The synchronisation groups of a core whose spill area touches a run of local addresses dissolve (R139). -/
def State.loseSpills (s : State) (core a n : Nat) (code : Byte) (handler : Nat) : State :=
  (s.core core).sync.foldl (fun s (i, slot) => match slot.group with
    | none => s
    | some y =>
      if overlaps a n y.spill (64 + 16 * y.cap) then
        let freed := s.setCore core { s.core core with sync := mset (s.core core).sync i { slot with group := none } }
        y.members.foldl (fun s m => s.loseMember m (handleOf core i slot.lastTag) code
          (BitVec.ofNat 64 y.spill) handler) freed
      else s) s

/-- The formats whose operands carry scales (R278). -/
def mxScaled (f : Nat) : Bool := decide (f = 2 ∨ f = 3 ∨ f = 4 ∨ f = 6)

/-- The scratchpad runs an engine command reads: keys and lengths. -/
def EngOp.reads (core : Nat) : EngOp → List (Nat × Nat)
  | .mx p _ _ =>
    let w := fun f => match f with | 0 => 16 | 1 => 16 | 4 => 4 | 6 => 2 | _ => 8
    let scale := fun f a => if mxScaled f then [(a, 64 * ((p.k + 31) / 32))] else []
    let run := fun a n => match resolve core a with | some (c, x) => [(padKey c x, n)] | none => []
    run p.aaddr (8 * p.k * w p.af) ++ (if p.bsrc then [] else run p.baddr (8 * p.k * w p.bf)) ++
    (scale p.af p.sca ++ scale p.bf p.scb).flatMap fun (a, n) => run a n
  | .attn p _ _ _ =>
    let w := fun f => match f with | 0 => 16 | 1 => 16 | 4 => 4 | _ => 8
    let d := if p.d128 then 128 else 64
    let run := fun a n => match resolve core a with | some (c, x) => [(padKey c x, n)] | none => []
    run p.qaddr (64 * d * w p.qf / 8) ++ (if p.ksel then [] else run p.kaddr (64 * d * w p.kf / 8)) ++
    (if p.vsel then [] else run p.vaddr (64 * d * w p.vf / 8))
  | .merge p =>
    let run := fun a => match resolve core a with
      | some (c, x) => [(padKey c x, p.qn * ((if p.d128 then 128 else 64) * 4 + 8))] | none => []
    run p.a1 ++ run p.a2
  | .drain _ _ _ _ _ _ _ => []
  | .cbload _ keys => keys.map fun k => (k, 1)

/-- A run of keys lies in a region held for a group that is away (R140). -/
def Saved.holdsRun (v : Saved) (k n : Nat) : Bool :=
  v.home.isSome && v.held.any fun r => overlaps k n (padKey (v.home.getD 0) r.base) r.size

/-- A run of keys of a core's scratchpad that is freed or lost: landings there are dead, sources and operands
there are gone (R72, R73).  Of copies that are away with their group, those of a held region alone are met: other groups' regions
may stand where its carried ones stood. -/
def State.killRun (s : State) (k n : Nat) : State :=
  let eng := fun (e : EngCmd) =>
    let op := match e.op with
      | .drain p b d owed o f pz => EngOp.drain p b d (owed.map fun c => c.kill k n) o f pz
      | x => x
    { e with op := op, lost := e.lost || (e.op.reads e.core).any fun (a, m) => overlaps k n a m }
  let copy := fun (c : Copy) =>
    let killed := if c.dsp then c.owed.map fun x => x.kill k n else c.owed
    { c with owed := killed.map (c.loseSource k n) }
  let take := fun (t : Take) => { t with dead := t.dead ++ t.owedLines.filter fun l => overlaps k n l 128 }
  { s with copies := s.copies.map copy, engs := s.engs.map eng, takes := s.takes.map take,
           saved := s.saved.map fun v => if v.holdsRun k n then { v with copies := v.copies.map copy } else v }

/-- A region of a core is freed (R69): in what it still holds, landings are dead, its waiters trap 0x10, and synchronisation
groups homed there dissolve. -/
def State.freeRun (s : State) (core : Nat) (r : Region) : State :=
  r.runs.foldl (fun (s : State) (a, n) =>
    ((s.killRun (padKey core a) n).loseSpills core a n 0x10 0).trapWaiters (padKey core a) n 0x10 0) s

/-! ### Ends of threads, groups and launches -/

/-- A DONE signal-add that is to be made again: no entry has been placed for it. -/
def State.doneLater (s : State) (tenant addr : Nat) : State :=
  { s with dones := s.dones ++ [{ tenant := tenant, addr := addr, token := 0, queued := false }] }

/-- The dispatcher's signal-add to DONE (R30): it waits on a replayable fault and is dropped on a fatal one; it waits as well while
a place that it meets serves no access (R88, R90), and an uncorrectable error on its way drops it with an entry of KIND 3 (R103). -/
def State.doneSignal (s : State) (tenant addr : Nat) : State :=
  let entry := fun (e : FaultEntry) =>
    if s.dieRoom 0 then s.addFault { e with tenant := tenant, access := 1, addr := addr } else s.doneLater tenant addr
  if !s.tablesServed tenant addr 8 1 then s.doneLater tenant addr
  else match s.xlateTables tenant addr 1 with
  | .ok pa => if s.badAt pa 8 then entry { FaultEntry.blank with kind := 3, cause := 0x21 } else s.counterAdd 0 tenant pa 1
  | .no .fatal => entry { FaultEntry.blank with kind := 2, cause := 0x20 }
  | .no (.error _) => entry { FaultEntry.blank with kind := 3, cause := 0x21 }
  | _ =>
    if s.dieRoom 0 then
      { s.addFault { FaultEntry.blank with kind := 1, tenant := tenant, access := 1, addr := addr } with
        dones := s.dones ++ [{ tenant := tenant, addr := addr, token := s.nextToken, queued := true }] }
    else s.doneLater tenant addr

/-- An access of a group is in flight. -/
def State.hasAccess (s : State) (g : Nat) : Bool := s.accesses.any fun a => decide (a.guid = g)

/-- A launch completes when every index is taken and every group has ended (R30), with the accesses of its groups
performed (log 40). -/
def State.launchCheck (s : State) (l : Nat) : State :=
  match mget s.launches l with
  | none => s
  | some x =>
    if x.done || x.ended.any s.hasAccess || (s.ranges.any fun r => decide (r.launch = l) && decide (r.a < r.b)) ||
       (s.groups.any fun (_, g) => decide (g.launch = l)) || (s.saved.any fun v => decide (v.group.launch = l)) then s
    else
      let t := { s with launches := mset s.launches l { x with done := true } }
      if x.rec_.done = 0 then t else t.doneSignal x.rec_.tenant x.rec_.done

/-- A group ends (R26): its regions are freed and it leaves the core. -/
def State.endGroup (s : State) (g : Nat) : State :=
  match s.group g with
  | none => s
  | some x =>
    let freed := x.regions.foldl (fun s r => match r with
      | some r => s.freeRun x.core r
      | none => s) s
    let left := if s.hasAccess g then
        { freed with launches := freed.launches.map fun (k, l) =>
          (k, if k = x.launch then { l with ended := l.ended ++ [g] } else l) }
      else freed
    ({ left with groups := mdel left.groups g }).launchCheck x.launch

/-- Threads of a quad that have all exited are Retired (R12, R23). -/
def Group.retireQuads (g : Group) : Group :=
  { g with threads := g.threads.map fun t => match t.run with
      | .exited => if g.threads.any fun u => decide (u.tid / 4 = t.tid / 4) && u.live then t
          else { t with run := .retired }
      | _ => t }

/-- The messages by which a thread leaves the synchronisation groups it holds (R131). -/
def State.sendGone (s : State) (g tid : Nat) (t : Thread) : State :=
  (t.handles.zipIdx).foldl (fun s (h, _) =>
    if h = 0 then s
    else { s.bump with hmsgs := s.hmsgs ++
        [{ id := s.nextId, home := h.toNat / 2 ^ 22, guid := g, tid := tid, handle := h, op := .gone,
           then_ := none }] }) s

/-- An access gives its thread a result (R110). -/
def AccKind.loads : AccKind → Bool
  | .store => false
  | .ctadd => false
  | .atomic _ _ _ _ red => !red
  | _ => true

/-- A load of a thread is in flight. -/
def State.loading (s : State) (g tid : Nat) : Bool :=
  s.accesses.any fun a => decide (a.guid = g) && a.kind.loads && a.lanes.any fun l => decide (l.tid = tid)

/-- A thread ends (R12, R26): it leaves its bundle, its rebuild claims and its synchronisation groups; its registers freeze. -/
def State.exitNow (s : State) (g tid : Nat) : State :=
  match s.thread g tid with
  | none => s
  | some t =>
    let s1 := s.onGroup g fun x =>
      let y := (x.unbundle tid).onThread tid fun u => { u with run := .exited, due := none }
      let unclaim := fun (r : Region) => if r.claim = some tid then { r with claim := none } else r
      ({ y with regions := y.regions.map (Option.map unclaim) }).retireQuads
    let s2 := s1.sendGone g tid t
    match s2.group g with
    | some x => if x.threads.any Thread.live then s2 else s2.endGroup g
    | none => s2

/-- A thread ends, by EXIT or a fatal trap (R12, R26), once its loads in flight have been performed (R13). -/
def State.exitThread (s : State) (g tid : Nat) : State :=
  match s.thread g tid with
  | none => s
  | some t =>
    if s.loading g tid then
      let p : Point := t.here
      (s.onGroup g fun x => x.park tid .leaving p p).onThread g tid fun u => { u with due := none, later := [] }
    else s.exitNow g tid

end Sys2Proof.Machine
end

