-- ==== Sys2Proof/Machine/Ops.lean ====
section
/-! DEFINITION. The issue under way: its threads, its points, parking, and taking a trap and returning from one
(R159 to R165, R314). -/

namespace Sys2Proof.Machine

/-- What a meaning answers. -/
abbrev Out := Host.Outcome State Fault Refusal

/-! ### The issue under way -/

/-- The state with the issue under way changed. -/
def State.onCur (s : State) (f : Ctx → Ctx) : State := { s with cur := s.cur.map f }

/-- A function of the state, the issue under way and its group; without an issue or a group the state stands. -/
def State.issue (s : State) (f : Ctx → Group → State) : State :=
  match s.cur with
  | none => s
  | some c =>
    match s.group c.guid with
    | none => s
    | some g => f c g

/-- The first issue of what a trap or a repeated issue resumes at (R159, R160): the start of the issue, or of the
latch producer where the packet is the consumer of a pair. -/
def Ctx.restart (c : Ctx) (prio : BitVec 8) : Point :=
  if c.paired then { prio := prio, pc := c.pc - 1, word := 0 } else { prio := prio, pc := c.pc, word := c.first }

/-- Where a thread goes on after the issue: the rest of the packet, or the next packet. -/
def Ctx.resume (c : Ctx) (prio : BitVec 8) : Point :=
  if c.after < 3 then { prio := prio, pc := c.pc, word := c.after } else { prio := prio, pc := c.pc + 1, word := 0 }

/-- The issue goes on without a thread. -/
def State.leave (s : State) (tid : Nat) : State :=
  s.onCur fun c => { c with active := c.active.filter fun t => decide (t ≠ tid) }

/-! ### Traps (R159 to R165) -/

/-- %epc of a point (R165). -/
def epcOf (p : Point) : Dword := BitVec.ofNat 64 (p.prio.toNat * 2 ^ 56 + p.word % 4 * 2 ^ 54 + p.pc % 2 ^ 54)

/-- The point that an %epc or link word names (R165, R202). -/
def pointOf (e : Dword) : Point :=
  { prio := BitVec.ofNat 8 (e.toNat / 2 ^ 56), pc := e.toNat % 2 ^ 54, word := bits e.toNat 55 54 }

/-- A level of the trap stack as a trap pushes it. -/
def trapLevel (p : Point) (word : Nat) (code : Byte) (tval : Dword) (tmask : Word) : TrapLevel :=
  { epc := epcOf p, word := word, code := code, tval := tval, tmask := tmask }

/-- Where a trap goes: an entry (0 makes it fatal); or the read of the vector table meets a miss, a column or bank that serves no
access yet (R88, R90), or an uncorrectable error. -/
inductive Dest
  | entry (a : Nat)
  | miss (va : Nat)
  | wait (pa : Nat)
  | error (va : Nat)
  deriving DecidableEq, Repr

/-- Bytes overlaid by a store's. -/
def overlay (k : Nat) (bs : List Byte) (k' : Nat) (bs' : List Byte) : List Byte :=
  (bs.zipIdx).map fun (b, i) => if k' ≤ k + i ∧ k + i < k' + bs'.length then bs'.getD (k + i - k') b else b

/-- Bytes at a place with the pending stores of a thread among some accesses, oldest first (R110). -/
def withStores (as : List Access) (guid tid k : Nat) (bs : List Byte) : List Byte :=
  as.foldl (fun bs e =>
    if e.guid = guid ∧ e.kind = .store then
      e.lanes.foldl (fun bs l => if l.tid = tid then overlay k bs l.pa l.bytes else bs) bs
    else bs) bs

/-- The destination of a cause for a thread of a group (R162, R163): always fatal for 0x20 and 0x21, the region's handler for
0x11, ROWH for 0x30 to 0x32, else the vector table's entry, read as by an ordinary load. -/
def State.trapDest (s : State) (guid tid : Nat) (g : Group) (code handler : Nat) : Dest :=
  if code = 0x20 ∨ code = 0x21 then .entry 0
  else if code = 0x11 then .entry handler
  else if 0x30 ≤ code ∧ code ≤ 0x32 then .entry g.rec_.rowh
  else if g.rec_.tvt = 0 then .entry 0
  else
    let va := g.rec_.tvt + 8 * code
    match s.xlateRead g.core g.rec_.tenant va 0 with
    | .miss => match s.xlateTables g.rec_.tenant va 0 with
      | .no .fatal => .entry 0
      | .no (.error _) => .error va
      | _ => .miss va
    | .no _ => .entry 0
    | .ok pa =>
      let e := leNat (withStores s.accesses guid tid pa (s.devRead pa 8))
      if !s.served pa then .wait pa
      else if s.readBad g.core pa 8 then .error va
      else if bits e 63 57 ≠ 0 then .entry 0 else .entry (bits e 56 0)

/-- A walk begins for a thread of a group (R168). -/
def State.startWalk (s : State) (g tid : Nat) (x : Group) (va access : Nat) (at_ : Point)
    (sharers : List Nat := [tid]) : State :=
  let w : Walk := { id := s.nextId, core := x.core, guid := g, tid := tid, tenant := x.rec_.tenant, va := va,
                    access := access, at_ := at_, sharers := sharers }
  { s.bump with walks := s.walks ++ [w] }

/-- A thread whose trap meets a miss in the vector table parks on the walk (R163, R168). -/
def State.parkWalk (s : State) (g tid : Nat) (x : Group) (va access : Nat) (at_ : Point) : State :=
  (s.startWalk g tid x va access at_).onGroup g fun y => y.park tid (.walk s.nextId) at_ at_

/-- A trap that has to wait, for the vector table or the fault queue, is taken as it stands when the thread next
issues. -/
def State.keepDue (s : State) (g tid word : Nat) (code : Byte) (tval : Dword) (tmask : Word) (handler : Nat) : State :=
  s.onThread g tid fun t => match t.run with
    | .parked _ _ _ => { t with due := some ⟨code, tval, tmask, handler, some word⟩ }
    | _ => t

/-- A fatal trap (R162): an entry of KIND 2 and the end of the thread; without room the thread stays parked at its
packet (R322). -/
def State.fatalTrap (s : State) (g tid : Nat) (x : Group) (p : Point) (code : Byte) (tval : Dword)
    (access pcause : Nat) : State :=
  if s.roomFor x.core then
    (s.addFault { FaultEntry.blank with
      kind := 2, cause := code.toNat, tenant := x.rec_.tenant, core := x.core, access := access, gid := BitVec.ofNat 32 x.gid,
      tid := BitVec.ofNat 32 tid, addr := tval.toNat % 2 ^ 57, pcause := pcause }).exitThread g tid
  else s.onGroup g fun y => y.park tid .faultQueue p p

/-- A group halts (R175): its threads' stall times stand still, kept as elapsed time (R174). -/
def Group.halt (g : Group) (now : Nat) : Group :=
  if g.halted then g
  else { g with halted := true, threads := g.threads.map fun t => { t with lastIssue := now - t.lastIssue } }

/-- A BKPT of a group under debug (R175): no handler; the group halts with the thread at the packet, and an entry
of KIND 6 is made, with the address of the BKPT's packet. -/
def State.debugStop (s : State) (g tid : Nat) (x : Group) (p : Point) (pkt : Nat) : State :=
  if s.roomFor x.core then
    ((s.addFault { FaultEntry.blank with
      kind := 6, cause := 0x50, tenant := x.rec_.tenant, core := x.core, gid := BitVec.ofNat 32 x.gid,
      tid := BitVec.ofNat 32 tid, addr := pkt * 12 }).wake g tid p).onGroup g fun y => y.halt s.stime
  else s.onGroup g fun y => y.park tid .faultQueue p p

/-- The handle register that a trap 0x40 names, one above its number, is cleared with its ticket (R130). -/
def Thread.clearHandle (t : Thread) (code : Byte) (which : Nat) : Thread :=
  if code = 0x40 ∧ 0 < which then
    { t with handles := setAt t.handles (which - 1) 0, tickets := setAt t.tickets (which - 1) Ticket.fresh }
  else t

/-- ACCESS of a fatal trap's entry (R169, R187): that of the access that met the fault or the error, which comes with the
trap in place of a handler; 0 for the other causes. -/
def accessOf (code : Byte) (handler : Nat) : Nat := if code = 0x20 ∨ code = 0x21 then handler else 0

/-- The taking of a trap, or the thread's park where the vector table or the fault queue has to be waited for. -/
def State.tryTrap (s : State) (g tid : Nat) (p : Point) (word : Nat) (code : Byte) (tval : Dword) (tmask : Word)
    (handler : Nat) : State :=
  match s.group g with
  | none => s
  | some x =>
    match x.thread tid with
    | none => s
    | some t =>
      if x.underDebug ∧ code = 0x50 then s.debugStop g tid x p handler
      else if 4 ≤ t.traps.length then
        s.fatalTrap g tid x p code tval (accessOf code handler) ((t.traps.head?.map fun l => l.code.toNat).getD 0)
      else
        match s.trapDest g tid x code.toNat handler with
        | .miss va => s.parkWalk g tid x va 0 p
        | .wait pa => s.onGroup g fun y => y.park tid (.column pa) p p
        | .error va => s.fatalTrap g tid x p 0x21 (BitVec.ofNat 64 va) 0 0
        | .entry a =>
          let s1 := s.onThread g tid fun u => u.clearHandle code handler
          if a = 0 ∨ a % 12 ≠ 0 then s1.fatalTrap g tid x p code tval (accessOf code handler) 0
          else
            (s1.onThread g tid fun u => { u with traps := trapLevel p word code tval tmask :: u.traps }).arrive g tid
              { prio := p.prio, pc := a / 12, word := 0 }

/-- Taking a trap (R159, R162, R164): the thread leaves its bundle; a level is pushed with %epc, %cause, %tval and
%tmask, and the thread goes on at the handler's entry with the priority it held.  A destination of 0 or one that
is no multiple of 12, and a trap at depth 4, are fatal.  `handler` is the region's handler for 0x11, for 0x40 the
handle register to clear, for 0x20 and 0x21 the ACCESS of the entry, and for 0x50 the packet of the BKPT. -/
def State.takeTrap (s : State) (g tid : Nat) (p : Point) (word : Nat) (code : Byte) (tval : Dword) (tmask : Word)
    (handler : Nat) : State :=
  (s.tryTrap g tid p word code tval tmask handler).keepDue g tid word code tval tmask handler

/-- The return from a trap (R164, R314): one level is popped and the thread arrives at its %epc. -/
def State.returnTrap (s : State) (g tid : Nat) (l : TrapLevel) : State :=
  (s.onThread g tid fun u => { u with traps := u.traps.tail }).arrive g tid (pointOf l.epc)

/-- A thread of the issue under way traps (R159): at once where the issue holds one instruction; otherwise the
step settles it with the other instructions of the issue. -/
def State.raise (s : State) (tid : Nat) (code : Byte) (tval : Dword) (tmask : Word) (handler : Nat)
    (ticket : Option Nat := none) : State :=
  s.issue fun c g =>
    if c.chained then
      s.onCur fun c => { c with traps := c.traps ++ [⟨tid, c.here, code, tval, tmask, handler, ticket⟩] }
    else
      let prio := ((g.thread tid).map fun t => t.point.prio).getD 0
      ((s.takeTrap c.guid tid (c.restart prio) c.here code tval tmask handler).reported c.guid tid ticket).leave tid

/-- A thread of the issue under way parks and makes the issue again when it wakes (R161, R167). -/
def State.retry (s : State) (tid : Nat) (w : Wait) : State :=
  s.issue fun c g =>
    if c.chained then s.onCur fun c => { c with retries := c.retries ++ [(tid, w, c.here)] }
    else
      let p := c.restart (((g.thread tid).map fun t => t.point.prio).getD 0)
      (s.onGroup c.guid fun x => x.park tid w p p c.here).leave tid

/-- An access of a thread of the issue under way misses the translation cache (R168): the issue waits for its walks, and
is made when they have ended. -/
def State.missing (s : State) (tid va access : Nat) (sharers : List Nat := [tid]) : State :=
  s.onCur fun c => { c with misses := c.misses ++ [(tid, va, access, sharers)] }

/-- A thread of the issue under way parks once the issue has been made (R12); a chained issue is settled by the
step. -/
def State.await (s : State) (tid : Nat) (w : Wait) : State :=
  s.issue fun c g =>
    if c.chained then s.onCur fun c => { c with waits := c.waits ++ [(tid, w, c.here)] }
    else
      let prio := ((g.thread tid).map fun t => t.point.prio).getD 0
      (s.onGroup c.guid fun x => x.park tid w (c.restart prio) (c.resume prio) c.here).leave tid

/-- A thread of the issue under way goes to a point by a transfer (R12, R190). -/
def State.moveTo (s : State) (tid : Nat) (p : Point) : State :=
  s.issue fun c _ => (s.onThread c.guid tid fun t => { t with point := p }).onCur fun c =>
    { c with moves := c.moves ++ [(tid, p)] }

/-- A function for each active thread in ascending home-lane order (R25), with the thread as it stood before the
issue. -/
def State.eachActive (s : State) (f : State → Ctx → Group → Thread → State) : State :=
  s.issue fun c _ => c.active.foldl (fun s tid => s.issue fun c g => match g.thread tid with
    | some t => f s c g t
    | none => s) s

/-- A function of each active thread of the issue under way; no other thread changes. -/
def State.lanes (s : State) (f : Ctx → Group → Thread → Thread) : State :=
  s.issue fun c g => s.setGroup c.guid
    { g with threads := g.threads.map fun t => if c.active.contains t.tid then f c g t else t }

end Sys2Proof.Machine
end

