-- ==== Sys2Proof/Machine/Operands.lean ====
section
/-! DEFINITION. Operand forms (R20, R193, R194, R204, R240): reading registers, pairs, latches, uniform operands
and predicates, and writing results. -/

namespace Sys2Proof.Machine

/-- The thread as it stood before the issue (R189): instructions of one issue read before any of them writes. -/
def Ctx.source (c : Ctx) (t : Thread) : Thread :=
  if c.chained then (c.snap.find? fun u => decide (u.tid = t.tid)).getD t else t

/-- A latch of the packet before, as a thread's lane holds it (R204). -/
def Ctx.latch (c : Ctx) (k tid : Nat) : Word :=
  ((c.prev.find? fun (j, u, _) => decide (j = k) && decide (u = tid)).map fun (_, _, v) => v).getD 0

/-- A 32-bit source (R193): a register, a latch, zero, the home lane or the thread index. -/
def Ctx.val (c : Ctx) (t : Thread) (code : Code) : Word :=
  if code.toNat < 120 then (c.source t).regs.getD code.toNat 0
  else if code.toNat < 123 then c.latch (code.toNat - 120) t.tid
  else if code.toNat = 125 then BitVec.ofNat 32 (laneOf t.tid)
  else if code.toNat = 126 then BitVec.ofNat 32 t.tid
  else 0

/-- The register `k` after the one a code names; zero for code 124 (R194). -/
def Ctx.valAt (c : Ctx) (t : Thread) (code : Code) (k : Nat) : Word :=
  if code.toNat < 120 then (c.source t).regs.getD (code.toNat + k) 0 else 0

/-- A 64-bit source: an even/odd pair, low word first, or zero for code 124 (R194). -/
def Ctx.pair (c : Ctx) (t : Thread) (code : Code) : Dword := c.valAt t code 1 ++ c.valAt t code 0

/-- A uniform register as the issue reads it (R19, R189). -/
def Ctx.uni (c : Ctx) (g : Group) (i : Nat) : Dword := if c.chained then c.snapS.getD i 0 else g.sregs.getD i 0

/-- opB of a uniform instruction (R193, R302): s(B), or B − 64. -/
def Ctx.uniB (c : Ctx) (g : Group) (b : Code) : Dword :=
  if b.toNat < 64 then c.uni g b.toNat else BitVec.ofNat 64 (b.toNat - 64)

/-- opB of a lane instruction (R20, R240): under BS the low word of a uniform operand, else a register. -/
def Ctx.opB (c : Ctx) (g : Group) (t : Thread) (bs : Bool) (b : Code) : Word :=
  if bs then (c.uniB g b).setWidth 32 else c.val t b

/-- A predicate as the issue reads it; p7 reads true (R195). -/
def Ctx.pred (c : Ctx) (t : Thread) (p : Pred) : Bool :=
  if p.toNat = 7 then true else (c.source t).preds.getD p.toNat false

/-- A register written; code 124 discards (R193). -/
def Thread.setReg (t : Thread) (d : Code) (v : Word) : Thread :=
  if d.toNat < 120 then { t with regs := setAt t.regs d.toNat v } else t

/-- The register `k` after the one a code names, written; code 124 discards (R194). -/
def Thread.setRegAt (t : Thread) (d : Code) (k : Nat) (v : Word) : Thread :=
  if d.toNat < 120 then { t with regs := setAt t.regs (d.toNat + k) v } else t

/-- A pair written, low word first; code 124 discards (R194). -/
def Thread.setPair (t : Thread) (d : Code) (v : Dword) : Thread :=
  (t.setRegAt d 0 (v.setWidth 32)).setRegAt d 1 ((v >>> 32).setWidth 32)

/-- A predicate written; a write to p7 is discarded (R195). -/
def Thread.setPred (t : Thread) (p : Pred) (b : Bool) : Thread :=
  if p.toNat = 7 then t else { t with preds := setAt t.preds p.toNat b }

/-- The base uniform register of a DRAM access and its offset, added modulo 2^64 (R197). -/
def Ctx.dramAddr (c : Ctx) (g : Group) (t : Thread) (base : BitVec 2) (a : Code) : Nat :=
  (c.uni g (48 + base.toNat) + (c.val t a).setWidth 64).toNat

/-- The width of TY in bytes (R197). -/
def tyBytes (ty : Nat) : Nat :=
  match ty with
  | 0 => 1 | 1 => 1 | 2 => 2 | 3 => 2 | 4 => 4 | 5 => 8 | _ => 16

/-- A loaded value of TY into V (R273): zero-extended, sign-extended, a word, a pair or four registers. -/
def Thread.setLoad (t : Thread) (ty : Nat) (v : Code) (bs : List Byte) : Thread :=
  let x := leNat bs
  match ty with
  | 1 => t.setReg v ((BitVec.ofNat 8 x).signExtend 32)
  | 3 => t.setReg v ((BitVec.ofNat 16 x).signExtend 32)
  | 5 => t.setPair v (BitVec.ofNat 64 x)
  | 6 => (((t.setRegAt v 0 (BitVec.ofNat 32 x)).setRegAt v 1 (BitVec.ofNat 32 (x / 2 ^ 32))).setRegAt v 2
      (BitVec.ofNat 32 (x / 2 ^ 64))).setRegAt v 3 (BitVec.ofNat 32 (x / 2 ^ 96))
  | _ => t.setReg v (BitVec.ofNat 32 x)

/-- The bytes that a store of TY writes from V (R308). -/
def Ctx.storeBytes (c : Ctx) (t : Thread) (ty : Nat) (v : Code) : List Byte :=
  let word := fun k => leBytes 4 (c.valAt t v k).toNat
  match ty with
  | 5 => word 0 ++ word 1
  | 6 => word 0 ++ word 1 ++ word 2 ++ word 3
  | _ => (leBytes 4 (c.val t v).toNat).take (tyBytes ty)

/-- A lane result of an ALU instruction: written to D unless K, and put in the latch of its word (R204). -/
def Thread.result (t : Thread) (k : Bool) (d : Code) (v : Word) : Thread := if k then t else t.setReg d v

/-- The latch values of an ALU instruction's active threads (R204). -/
def State.latchResults (s : State) (f : Ctx → Group → Thread → Word) : State :=
  s.issue fun c g => s.onCur fun c' =>
    { c' with latches := c'.latches ++ c.active.filterMap fun tid =>
        (g.thread tid).map fun t => (c.here, tid, f c g t) }

/-- An ALU instruction with a 32-bit result `f` in each active thread. -/
def State.alu (s : State) (k : Bool) (d : Code) (f : Ctx → Group → Thread → Word) : State :=
  (s.latchResults f).lanes fun c g t => t.result k d (f c g t)

/-- An ALU instruction of layout A over A and opB. -/
def State.aluLA (s : State) (f : LA) (op : Word → Word → Word) : State :=
  s.alu f.k f.d fun c g t => op (c.val t f.a) (c.opB g t f.bs f.b)

/-- An ALU instruction of layout A over A, opB and D; under K the addend reads as zero (R204). -/
def State.aluLA3 (s : State) (f : LA) (op : Word → Word → Word → Word) : State :=
  s.alu f.k f.d fun c g t => op (c.val t f.a) (c.opB g t f.bs f.b) (c.val t f.d)

/-- An ALU instruction of one source. -/
def State.aluLA1 (s : State) (f : LA1) (op : Word → Word) : State :=
  s.alu f.k f.d fun c _ t => op (c.val t f.a)

end Sys2Proof.Machine
end

