-- ==== Sys2Proof/Machine/Flags.lean ====
section
/-! DEFINITION. %nflags (R53): sticky flags that lane instructions set and never clear; %fpmode.RND (R50). -/

namespace Sys2Proof.Machine

/-- Flags set in a thread's %nflags (R53). -/
def Thread.addFlags (t : Thread) (fl : Flags) : Thread := { t with nflags := t.nflags ||| fl }

/-- The rounding mode of lane arithmetic (R50), as the issue reads it. -/
def Ctx.mode (c : Ctx) (t : Thread) : Nat := (c.source t).fpmode.toNat

/-- A rounding code of CVT, FRND or a descriptor: 0 to 3, or 4 for %fpmode.RND (R50). -/
def Ctx.roundCode (c : Ctx) (t : Thread) (rc : Nat) : Nat := if rc = 4 then c.mode t else rc

/-- An ALU instruction with a result and flags in each active thread. -/
def State.fpAlu (s : State) (k : Bool) (d : Code) (f : Ctx → Group → Thread → Word × Flags) : State :=
  (s.latchResults fun c g t => (f c g t).1).lanes fun c g t => (t.result k d (f c g t).1).addFlags (f c g t).2

/-- An instruction outside the ALU pipe with a result and flags in each active thread. -/
def State.fpLane (s : State) (d : Code) (f : Ctx → Group → Thread → Word × Flags) : State :=
  s.lanes fun c g t => (t.setReg d (f c g t).1).addFlags (f c g t).2

/-- Bits and flags as a word and flags. -/
def asWord (r : Nat × Flags) : Word × Flags := (BitVec.ofNat 32 r.1, r.2)

/-- Both 16-bit halves of a packed operation in format `f` (R285). -/
def packed (op : Nat → Nat → Nat → Nat × Flags) (a b d : Word) : Word × Flags :=
  let half := fun (x : Word) (h : Nat) => bits x.toNat (16 * h + 15) (16 * h)
  let lo := op (half a 0) (half b 0) (half d 0)
  let hi := op (half a 1) (half b 1) (half d 1)
  (BitVec.ofNat 32 (lo.1 + hi.1 * 2 ^ 16), lo.2 ||| hi.2)

/-- A packed instruction of layout A: over A, opB and D. -/
def State.packedLA (s : State) (f : LA) (op : Nat → Nat → Nat → Nat → Nat × Flags) : State :=
  s.fpAlu f.k f.d fun c g t => packed (op (c.mode t)) (c.val t f.a) (c.opB g t f.bs f.b) (c.val t f.d)

/-- The element `i` of format `f` in a register (R45). -/
def element (f i : Nat) (x : Word) : Nat := x.toNat / 2 ^ (fmtBits f * i) % 2 ^ fmtBits f

/-- B4 when an element read is the INT4 code 0b1000 (R46). -/
def b4Of (f x : Nat) : Flags := if f = 9 ∧ x = 8 then fB4 else fNone

/-- One element converted, with the flags of reading and rounding it (R257). -/
def convertElem (sf df mode : Nat) (sat : Bool) (x : Nat) : Nat × Flags :=
  let (y, fl) := convert df mode sat (dec sf x)
  (y, fl ||| b4Of sf x)

/-- Element `i` of format `f` replaced in a register. -/
def putElement (f i : Nat) (d : Word) (y : Nat) : Word :=
  let mask : Word := BitVec.ofNat 32 ((2 ^ fmtBits f - 1) * 2 ^ (fmtBits f * i))
  (d &&& ~~~mask) ||| BitVec.ofNat 32 (y * 2 ^ (fmtBits f * i))

/-- An accumulation into a signed word with saturation (R259): the word, and SAT when clamped. -/
def accClamp (d : Word) (sum : Int) : Word × Flags :=
  let t := d.toInt + sum
  if t < -2 ^ 31 then (0x80000000#32, fSAT) else if 2 ^ 31 - 1 < t then (0x7FFFFFFF#32, fSAT)
  else (BitVec.ofInt 32 t, fNone)

/-- An integer element as an integer. -/
def intOf (f x : Nat) : Int :=
  match dec f x with
  | .fin neg m _ => signed neg m
  | _ => 0

/-- The sum of `n` products of the elements of two registers in integer formats (R259). -/
def dotSum (fa fb n : Nat) (a b : Word) : Int :=
  (List.range n).foldl (fun s k => s + intOf fa (element fa k a) * intOf fb (element fb k b)) 0

/-- B4 when any INT4 element of a register is 0b1000. -/
def anyB4 (x : Word) : Flags := (List.range 8).foldl (fun fl k => fl ||| b4Of 9 (element 9 k x)) fNone

end Sys2Proof.Machine
end

