-- ==== Sys2Proof/Machine/Collective.lean ====
section
/-! DEFINITION. Collective instructions: quad exchange, home-warp exchange, vote and fragment multiply (R22, R23,
R275, R276, R289, R311, R312). -/

namespace Sys2Proof.Machine

/-- The thread at a home lane of a thread's home warp. -/
def Group.atLane (g : Group) (tid lane : Nat) : Option Thread := g.thread (tid / 32 * 32 + lane)

/-- What an exited member of a quad supplies for a source (R23, R289): its registers as they stood at exit, zero for
a latch. -/
def Ctx.helperVal (c : Ctx) (u : Thread) (a : Code) : Word :=
  if 120 ≤ a.toNat ∧ a.toNat ≤ 122 ∧ u.live = false then 0 else c.val u a

/-- QXCH (R289): D := A of member SEL[2q+1:2q]; a home lane without a thread supplies zero. -/
def execQxch (f : LI) (s : State) : Out :=
  .next (s.lanes fun c g t =>
    let from_ := bits f.sel.toNat (2 * (t.tid % 4) + 1) (2 * (t.tid % 4))
    t.setReg f.d (match g.thread (t.tid / 4 * 4 + from_) with
      | some u => c.helperVal u f.a
      | none => 0))

/-- A live thread's value of a source, zero for an exited one or none (R22). -/
def Ctx.liveVal (c : Ctx) (u : Option Thread) (a : Code) : Word :=
  match u with
  | some u => if u.live then c.val u a else 0
  | none => 0

/-- XLANE (R312): D := A of the thread at home lane opB[4:0]. -/
def execXlane (f : LXlane) (s : State) : Out :=
  .next (s.lanes fun c g t =>
    t.setReg f.d (c.liveVal (g.atLane t.tid ((c.opB g t f.bs f.b).toNat % 32)) f.a))

/-- The ballot of a thread's home warp (R311). -/
def Ctx.ballot (c : Ctx) (g : Group) (tid : Nat) (pa : Pred) : Word :=
  (List.range 32).foldl (fun w h => match g.atLane tid h with
    | some u => if u.live && c.pred u pa then w ||| (1#32 <<< h) else w
    | none => w) 0

/-- The home lanes of a thread's home warp that hold a thread (R8). -/
def Group.warpMask (g : Group) (tid : Nat) : Word :=
  (List.range 32).foldl (fun w h => if (g.atLane tid h).isSome then w ||| (1#32 <<< h) else w) 0

/-- WVOTE (R311). -/
def execWvote (f : LAw) (s : State) : Out :=
  .next (s.lanes fun c g t =>
    let b := c.ballot g t.tid f.pa
    (t.setReg f.d b).setPred f.pd (if f.k.toNat = 0 then b == g.warpMask t.tid else b != 0))

/-! ### Fragment multiply (R275, R276) -/

/-- The live value of the register `k` after a code at a home lane, zero for an exited thread. -/
def Ctx.fragReg (c : Ctx) (g : Group) (tid lane : Nat) (a : Code) (k : Nat) : Word :=
  match g.atLane tid lane with
  | some u => if u.live then (if k = 0 then c.val u a else c.valAt u a k) else 0
  | none => 0

/-- The K element `k` of row (or column) `r` of an operand in format `f` (R275): home lane 4r + k div 8 holds eight
elements in ascending order. -/
def Ctx.fragElem (c : Ctx) (g : Group) (tid : Nat) (f : Nat) (a : Code) (r k : Nat) : Val :=
  let per := fmtPerReg f
  dec f (element f (k % 8 % per) (c.fragReg g tid (4 * r + k / 8) a (k % 8 / per)))

/-- The exact block sum of row `r` of A and column `col` of B (R276). -/
def Ctx.fragSum (c : Ctx) (g : Group) (tid fa fb : Nat) (f : LG) (r col : Nat) : Val × Flags :=
  dotVals ((List.range 32).map (c.fragElem g tid fa f.a r)) ((List.range 32).map (c.fragElem g tid fb f.b col))

/-- One C element of a floating-point MMF, with block scales where the format has them. -/
def Ctx.fragFp (c : Ctx) (g : Group) (tid fmt : Nat) (scaled : Bool) (f : LG) (r col : Nat) (acc : Word) :
    Word × Flags :=
  let code := fun (reg : Code) (row : Nat) (sel : BitVec 2) =>
    if scaled then (c.fragReg g tid (4 * row) reg 0).toNat / 2 ^ (8 * sel.toNat) % 256 else 0x7F
  accBlock acc (c.fragSum g tid fmt fmt f r col) (code f.sca r f.sela) (code f.scb col f.selb)

/-- One C element of the integer MMF. -/
def Ctx.fragInt (c : Ctx) (g : Group) (tid : Nat) (f : LG) (r col : Nat) (acc : Word) : Word × Flags :=
  let fmt := fun (n : Bool) => if n then 11 else 8
  match (c.fragSum g tid (fmt f.sga) (fmt f.sgb) f r col).1 with
  | .fin neg m e => accClamp acc (signed neg m * 2 ^ e.toNat)
  | _ => (acc, fNone)

/-- A thread's pair of C elements: row L div 4, columns 2(L mod 4) and the next. -/
def State.mmf (s : State) (f : LG) (elem : Ctx → Group → Nat → Nat → Nat → Word → Word × Flags) : State :=
  s.lanes fun c g t =>
    let l := laneOf t.tid
    let lo := elem c g t.tid (l / 4) (2 * (l % 4)) (c.valAt t f.d 0)
    let hi := elem c g t.tid (l / 4) (2 * (l % 4) + 1) (c.valAt t f.d 1)
    (((t.setRegAt f.d 0 lo.1).setRegAt f.d 1 hi.1).addFlags (lo.2 ||| hi.2))

/-- MMF.bf16 (R276). -/
def execMmfBf16 (f : LG) (s : State) : Out :=
  .next (s.mmf f fun c g tid r col acc => c.fragFp g tid 1 false f r col acc)

/-- MMF.f16 (R276). -/
def execMmfF16 (f : LG) (s : State) : Out :=
  .next (s.mmf f fun c g tid r col acc => c.fragFp g tid 2 false f r col acc)

/-- MMF.e4m3 (R276). -/
def execMmfE4m3 (f : LG) (s : State) : Out :=
  .next (s.mmf f fun c g tid r col acc => c.fragFp g tid 3 true f r col acc)

/-- MMF.e5m2 (R276). -/
def execMmfE5m2 (f : LG) (s : State) : Out :=
  .next (s.mmf f fun c g tid r col acc => c.fragFp g tid 4 true f r col acc)

/-- MMF.e2m1 (R276). -/
def execMmfE2m1 (f : LG) (s : State) : Out :=
  .next (s.mmf f fun c g tid r col acc => c.fragFp g tid 5 true f r col acc)

/-- MMF.s8 (R276). -/
def execMmfS8 (f : LG) (s : State) : Out :=
  .next (s.mmf f fun c g tid r col acc => c.fragInt g tid f r col acc)

end Sys2Proof.Machine
end

