-- ==== Sys2Proof/Decode.lean ====
section
/-! DEFINITION. Decoding and encoding of the instruction words (R187 to R207). -/

namespace Sys2Proof

/-- Why words are no instruction; each traps 0x01 at issue (R208). -/
inductive Reject
  /-- OP names an unassigned slot of the opcode map (R206). -/
  | unassigned
  /-- A field that must hold a fixed value holds another (R195). -/
  | fixedField
  /-- A KIND, SUB, X or K value that no entry lists (R201, R203, R293). -/
  | selector
  /-- An operand code, count or selector out of range (R193, R194, R208). -/
  | operand
  /-- A two-word instruction begins in word 2 (R190). -/
  | cutOff
  deriving DecidableEq, Repr

/-- The `n` bits of `w` from bit `lo` up, as a number. -/
def num (n w lo : Nat) : Nat :=
  w / 2 ^ lo % 2 ^ n

/-- The `n` bits of `w` from bit `lo` up, as a field. -/
def fld (n w lo : Nat) : BitVec n :=
  BitVec.ofNat n (w / 2 ^ lo)

/-- Bit `lo` of `w`. -/
def flag (w lo : Nat) : Bool :=
  decide (w / 2 ^ lo % 2 = 1)

/-! ### Reading the fields of each layout (R195); the second word stands above bit 31 -/

/-- The fields of layout LA. -/
def readLA (w : Nat) : LA :=
  { k := flag w 22, bs := flag w 21, d := fld 7 w 14, a := fld 7 w 7, b := fld 7 w 0 }

/-- The fields of layout LA1. -/
def readLA1 (w : Nat) : LA1 :=
  { k := flag w 22, d := fld 7 w 14, a := fld 7 w 7 }

/-- The fields of layout LA2. -/
def readLA2 (w : Nat) : LA2 :=
  { d := fld 7 w 14, a := fld 7 w 7 }

/-- The fields of layout LFrnd. -/
def readLFrnd (w : Nat) : LFrnd :=
  { k := flag w 22, d := fld 7 w 14, a := fld 7 w 7, rc := fld 7 w 0 }

/-- The fields of layout LMov. -/
def readLMov (w : Nat) : LMov :=
  { k := flag w 22, bs := flag w 21, d := fld 7 w 14, b := fld 7 w 0 }

/-- The fields of layout LXlane. -/
def readLXlane (w : Nat) : LXlane :=
  { bs := flag w 21, d := fld 7 w 14, a := fld 7 w 7, b := fld 7 w 0 }

/-- The fields of layout LAc. -/
def readLAc (w : Nat) : LAc :=
  { bs := flag w 21, pd := fld 3 w 18, cond := fld 4 w 14, a := fld 7 w 7, b := fld 7 w 0 }

/-- The fields of layout LAs. -/
def readLAs (w : Nat) : LAs :=
  { p := fld 3 w 20, neg := flag w 19, bs := flag w 14, d := fld 7 w 7, b := fld 7 w 0 }

/-- The fields of layout LAq. -/
def readLAq (w : Nat) : LAq :=
  { pd := fld 3 w 20, pa := fld 3 w 17, pb := fld 3 w 14, pc := fld 3 w 11, tt := fld 8 w 0 }

/-- The fields of layout LAu. -/
def readLAu (w : Nat) : LAu :=
  { d := fld 7 w 14, a := fld 7 w 7, b := fld 7 w 0 }

/-- The fields of layout LSmov. -/
def readLSmov (w : Nat) : LSmov :=
  { d := fld 7 w 14, b := fld 7 w 0 }

/-- The fields of layout LSfirst. -/
def readLSfirst (w : Nat) : LSfirst :=
  { d := fld 7 w 14, a := fld 7 w 7 }

/-- The fields of layout LAuc. -/
def readLAuc (w : Nat) : LAuc :=
  { pd := fld 3 w 18, cond := fld 4 w 14, a := fld 7 w 7, b := fld 7 w 0 }

/-- The fields of layout LAm. -/
def readLAm (w : Nat) : LAm :=
  { ty := fld 3 w 20, sc := fld 2 w 18, ord := fld 2 w 16, base := fld 2 w 14, a := fld 7 w 7, v := fld 7 w 0 }

/-- The fields of layout LAms. -/
def readLAms (w : Nat) : LAms :=
  { ty := fld 3 w 20, sc := fld 2 w 18, ord := fld 2 w 16, a := fld 7 w 7, v := fld 7 w 0 }

/-- The fields of layout LAp. -/
def readLAp (w : Nat) : LAp :=
  { sc := fld 2 w 21, d := fld 7 w 14, a := fld 7 w 7, b := fld 7 w 0 }

/-- The fields of layout LAt. -/
def readLAt (w : Nat) : LAt :=
  { sc := fld 2 w 21, space := flag w 20, base := fld 2 w 18, a := fld 7 w 7, v := fld 7 w 0 }

/-- The fields of layout LAf. -/
def readLAf (w : Nat) : LAf :=
  { sc := fld 2 w 21, kind := fld 2 w 19 }

/-- The fields of layout LRalloc. -/
def readLRalloc (w : Nat) : LRalloc :=
  { p := fld 3 w 20, g := flag w 14, d := fld 7 w 7, a := fld 7 w 0 }

/-- The fields of layout LRfree. -/
def readLRfree (w : Nat) : LRfree :=
  { p := fld 3 w 20, a := fld 7 w 0 }

/-- The fields of layout LRrank. -/
def readLRrank (w : Nat) : LRrank :=
  { p := fld 3 w 20, x := fld 3 w 14, d := fld 7 w 7, a := fld 7 w 0 }

/-- The fields of layout LDA. -/
def readLDA (w : Nat) : LDA :=
  { d := fld 7 w 7, a := fld 7 w 0 }

/-- The fields of layout LGrange. -/
def readLGrange (w : Nat) : LGrange :=
  { p := fld 3 w 20, d := fld 7 w 7 }

/-- The fields of layout LHcreate. -/
def readLHcreate (w : Nat) : LHcreate :=
  { pd := fld 3 w 20, h := fld 3 w 16, d := fld 7 w 7, b := fld 7 w 0 }

/-- The fields of layout LHb. -/
def readLHb (w : Nat) : LHb :=
  { h := fld 3 w 16, b := fld 7 w 0 }

/-- The fields of layout LHd. -/
def readLHd (w : Nat) : LHd :=
  { h := fld 3 w 16, d := fld 7 w 7 }

/-- The fields of layout LHarr. -/
def readLHarr (w : Nat) : LHarr :=
  { kind := fld 4 w 19, h := fld 3 w 16, b := fld 7 w 0 }

/-- The fields of layout LHkdb. -/
def readLHkdb (w : Nat) : LHkdb :=
  { kind := fld 4 w 19, h := fld 3 w 16, d := fld 7 w 7, b := fld 7 w 0 }

/-- The fields of layout LAw. -/
def readLAw (w : Nat) : LAw :=
  { pd := fld 3 w 20, k := fld 2 w 18, pa := fld 3 w 14, d := fld 7 w 7 }

/-- The fields of layout LAx. -/
def readLAx (w : Nat) : LAx :=
  { prio := fld 8 w 15, a := fld 7 w 7 }

/-- The fields of layout LAy. -/
def readLAy (w : Nat) : LAy :=
  { v := fld 7 w 16, sreg := fld 10 w 0 }

/-- The fields of layout LI. -/
def readLI (w : Nat) : LI :=
  { d := fld 7 w 15, a := fld 7 w 8, sel := fld 8 w 0 }

/-- The fields of layout LIw. -/
def readLIw (w : Nat) : LIw :=
  { k := flag w 22, d := fld 7 w 15, imm := fld 15 w 0 }

/-- The fields of layout LMovl. -/
def readLMovl (w : Nat) : LMovl :=
  { d := fld 7 w 14, lit := fld 32 w 32 }

/-- The fields of layout LSmovl. -/
def readLSmovl (w : Nat) : LSmovl :=
  { half := fld 2 w 21, d := fld 7 w 14, lit := fld 32 w 32 }

/-- The fields of layout LX. -/
def readLX (w : Nat) : LX :=
  { sc := fld 2 w 21, d := fld 7 w 14, a := fld 7 w 7, b := fld 7 w 0, space := flag w 41, base := fld 2 w 39, ord := fld 2 w 37, opt := fld 5 w 32 }

/-- The fields of layout LV. -/
def readLV (w : Nat) : LV :=
  { sat := flag w 21, d := fld 7 w 14, a := fld 7 w 7, b := fld 7 w 0, sfmt := fld 4 w 44, dfmt := fld 4 w 40, rnd := fld 3 w 37, eidx := fld 3 w 34 }

/-- The fields of layout LDp4. -/
def readLDp4 (w : Nat) : LDp4 :=
  { k := flag w 22, bs := flag w 21, d := fld 7 w 14, a := fld 7 w 7, b := fld 7 w 0, sga := flag w 33, sgb := flag w 32 }

/-- The fields of layout LG. -/
def readLG (w : Nat) : LG :=
  { d := fld 7 w 14, a := fld 7 w 7, b := fld 7 w 0, sca := fld 7 w 46, scb := fld 7 w 39, sela := fld 2 w 37, selb := fld 2 w 35, sga := flag w 34, sgb := flag w 33 }

/-- The fields of layout LB. -/
def readLB (w : Nat) : LB :=
  { p := fld 3 w 20, neg := flag w 19, tprio := fld 8 w 11, fprio := fld 8 w 3, off := fld 32 w 32 }

/-- The fields of layout LE. -/
def readLE (w : Nat) : LE :=
  { u := fld 6 w 10 }

/-- The fields of layout LCbload. -/
def readLCbload (w : Nat) : LCbload :=
  { u := fld 6 w 10, space := flag w 0 }

/-- The fields of layout LEq. -/
def readLEq (w : Nat) : LEq :=
  { pd := fld 3 w 20, lq := flag w 17, ack := flag w 16, u := fld 6 w 10, a := fld 7 w 0 }

/-- The fields of layout LRopen. -/
def readLRopen (w : Nat) : LRopen :=
  { u := fld 6 w 10, slot := fld 3 w 7, a := fld 7 w 0 }

/-- The fields of layout LRtake. -/
def readLRtake (w : Nat) : LRtake :=
  { pd := fld 3 w 20, try_ := flag w 19, dest := flag w 18, slot := fld 3 w 7, a := fld 7 w 0 }

/-- The fields of layout LRpoll. -/
def readLRpoll (w : Nat) : LRpoll :=
  { slot := fld 3 w 7, a := fld 7 w 0 }

/-- The fields of layout LEk. -/
def readLEk (w : Nat) : LEk :=
  { u := fld 6 w 10, x := fld 7 w 0 }

/-! ### Writing the fields of each layout -/

/-- The bits of layout LA. -/
def LA.bits (f : LA) : Nat :=
  f.k.toNat * 2 ^ 22 + f.bs.toNat * 2 ^ 21 + f.d.toNat * 2 ^ 14 + f.a.toNat * 2 ^ 7 + f.b.toNat

/-- The bits of layout LA1. -/
def LA1.bits (f : LA1) : Nat :=
  f.k.toNat * 2 ^ 22 + f.d.toNat * 2 ^ 14 + f.a.toNat * 2 ^ 7

/-- The bits of layout LA2. -/
def LA2.bits (f : LA2) : Nat :=
  f.d.toNat * 2 ^ 14 + f.a.toNat * 2 ^ 7

/-- The bits of layout LFrnd. -/
def LFrnd.bits (f : LFrnd) : Nat :=
  f.k.toNat * 2 ^ 22 + f.d.toNat * 2 ^ 14 + f.a.toNat * 2 ^ 7 + f.rc.toNat

/-- The bits of layout LMov. -/
def LMov.bits (f : LMov) : Nat :=
  f.k.toNat * 2 ^ 22 + f.bs.toNat * 2 ^ 21 + f.d.toNat * 2 ^ 14 + f.b.toNat

/-- The bits of layout LXlane. -/
def LXlane.bits (f : LXlane) : Nat :=
  f.bs.toNat * 2 ^ 21 + f.d.toNat * 2 ^ 14 + f.a.toNat * 2 ^ 7 + f.b.toNat

/-- The bits of layout LAc. -/
def LAc.bits (f : LAc) : Nat :=
  f.bs.toNat * 2 ^ 21 + f.pd.toNat * 2 ^ 18 + f.cond.toNat * 2 ^ 14 + f.a.toNat * 2 ^ 7 + f.b.toNat

/-- The bits of layout LAs. -/
def LAs.bits (f : LAs) : Nat :=
  f.p.toNat * 2 ^ 20 + f.neg.toNat * 2 ^ 19 + f.bs.toNat * 2 ^ 14 + f.d.toNat * 2 ^ 7 + f.b.toNat

/-- The bits of layout LAq. -/
def LAq.bits (f : LAq) : Nat :=
  f.pd.toNat * 2 ^ 20 + f.pa.toNat * 2 ^ 17 + f.pb.toNat * 2 ^ 14 + f.pc.toNat * 2 ^ 11 + f.tt.toNat

/-- The bits of layout LAu. -/
def LAu.bits (f : LAu) : Nat :=
  f.d.toNat * 2 ^ 14 + f.a.toNat * 2 ^ 7 + f.b.toNat

/-- The bits of layout LSmov. -/
def LSmov.bits (f : LSmov) : Nat :=
  f.d.toNat * 2 ^ 14 + f.b.toNat

/-- The bits of layout LSfirst. -/
def LSfirst.bits (f : LSfirst) : Nat :=
  f.d.toNat * 2 ^ 14 + f.a.toNat * 2 ^ 7

/-- The bits of layout LAuc. -/
def LAuc.bits (f : LAuc) : Nat :=
  f.pd.toNat * 2 ^ 18 + f.cond.toNat * 2 ^ 14 + f.a.toNat * 2 ^ 7 + f.b.toNat

/-- The bits of layout LAm. -/
def LAm.bits (f : LAm) : Nat :=
  f.ty.toNat * 2 ^ 20 + f.sc.toNat * 2 ^ 18 + f.ord.toNat * 2 ^ 16 + f.base.toNat * 2 ^ 14 +
  f.a.toNat * 2 ^ 7 + f.v.toNat

/-- The bits of layout LAms. -/
def LAms.bits (f : LAms) : Nat :=
  f.ty.toNat * 2 ^ 20 + f.sc.toNat * 2 ^ 18 + f.ord.toNat * 2 ^ 16 + f.a.toNat * 2 ^ 7 + f.v.toNat

/-- The bits of layout LAp. -/
def LAp.bits (f : LAp) : Nat :=
  f.sc.toNat * 2 ^ 21 + f.d.toNat * 2 ^ 14 + f.a.toNat * 2 ^ 7 + f.b.toNat

/-- The bits of layout LAt. -/
def LAt.bits (f : LAt) : Nat :=
  f.sc.toNat * 2 ^ 21 + f.space.toNat * 2 ^ 20 + f.base.toNat * 2 ^ 18 + f.a.toNat * 2 ^ 7 + f.v.toNat

/-- The bits of layout LAf. -/
def LAf.bits (f : LAf) : Nat :=
  f.sc.toNat * 2 ^ 21 + f.kind.toNat * 2 ^ 19

/-- The bits of layout LRalloc. -/
def LRalloc.bits (f : LRalloc) : Nat :=
  f.p.toNat * 2 ^ 20 + f.g.toNat * 2 ^ 14 + f.d.toNat * 2 ^ 7 + f.a.toNat

/-- The bits of layout LRfree. -/
def LRfree.bits (f : LRfree) : Nat :=
  f.p.toNat * 2 ^ 20 + f.a.toNat

/-- The bits of layout LRrank. -/
def LRrank.bits (f : LRrank) : Nat :=
  f.p.toNat * 2 ^ 20 + f.x.toNat * 2 ^ 14 + f.d.toNat * 2 ^ 7 + f.a.toNat

/-- The bits of layout LDA. -/
def LDA.bits (f : LDA) : Nat :=
  f.d.toNat * 2 ^ 7 + f.a.toNat

/-- The bits of layout LGrange. -/
def LGrange.bits (f : LGrange) : Nat :=
  f.p.toNat * 2 ^ 20 + f.d.toNat * 2 ^ 7

/-- The bits of layout LHcreate. -/
def LHcreate.bits (f : LHcreate) : Nat :=
  f.pd.toNat * 2 ^ 20 + f.h.toNat * 2 ^ 16 + f.d.toNat * 2 ^ 7 + f.b.toNat

/-- The bits of layout LHb. -/
def LHb.bits (f : LHb) : Nat :=
  f.h.toNat * 2 ^ 16 + f.b.toNat

/-- The bits of layout LHd. -/
def LHd.bits (f : LHd) : Nat :=
  f.h.toNat * 2 ^ 16 + f.d.toNat * 2 ^ 7

/-- The bits of layout LHarr. -/
def LHarr.bits (f : LHarr) : Nat :=
  f.kind.toNat * 2 ^ 19 + f.h.toNat * 2 ^ 16 + f.b.toNat

/-- The bits of layout LHkdb. -/
def LHkdb.bits (f : LHkdb) : Nat :=
  f.kind.toNat * 2 ^ 19 + f.h.toNat * 2 ^ 16 + f.d.toNat * 2 ^ 7 + f.b.toNat

/-- The bits of layout LAw. -/
def LAw.bits (f : LAw) : Nat :=
  f.pd.toNat * 2 ^ 20 + f.k.toNat * 2 ^ 18 + f.pa.toNat * 2 ^ 14 + f.d.toNat * 2 ^ 7

/-- The bits of layout LAx. -/
def LAx.bits (f : LAx) : Nat :=
  f.prio.toNat * 2 ^ 15 + f.a.toNat * 2 ^ 7

/-- The bits of layout LAy. -/
def LAy.bits (f : LAy) : Nat :=
  f.v.toNat * 2 ^ 16 + f.sreg.toNat

/-- The bits of layout LI. -/
def LI.bits (f : LI) : Nat :=
  f.d.toNat * 2 ^ 15 + f.a.toNat * 2 ^ 8 + f.sel.toNat

/-- The bits of layout LIw. -/
def LIw.bits (f : LIw) : Nat :=
  f.k.toNat * 2 ^ 22 + f.d.toNat * 2 ^ 15 + f.imm.toNat

/-- The bits of layout LMovl. -/
def LMovl.bits (f : LMovl) : Nat :=
  f.d.toNat * 2 ^ 14 + f.lit.toNat * 2 ^ 32

/-- The bits of layout LSmovl. -/
def LSmovl.bits (f : LSmovl) : Nat :=
  f.half.toNat * 2 ^ 21 + f.d.toNat * 2 ^ 14 + f.lit.toNat * 2 ^ 32

/-- The bits of layout LX. -/
def LX.bits (f : LX) : Nat :=
  f.sc.toNat * 2 ^ 21 + f.d.toNat * 2 ^ 14 + f.a.toNat * 2 ^ 7 + f.b.toNat + f.space.toNat * 2 ^ 41 +
  f.base.toNat * 2 ^ 39 + f.ord.toNat * 2 ^ 37 + f.opt.toNat * 2 ^ 32

/-- The bits of layout LV. -/
def LV.bits (f : LV) : Nat :=
  f.sat.toNat * 2 ^ 21 + f.d.toNat * 2 ^ 14 + f.a.toNat * 2 ^ 7 + f.b.toNat + f.sfmt.toNat * 2 ^ 44 +
  f.dfmt.toNat * 2 ^ 40 + f.rnd.toNat * 2 ^ 37 + f.eidx.toNat * 2 ^ 34

/-- The bits of layout LDp4. -/
def LDp4.bits (f : LDp4) : Nat :=
  f.k.toNat * 2 ^ 22 + f.bs.toNat * 2 ^ 21 + f.d.toNat * 2 ^ 14 + f.a.toNat * 2 ^ 7 + f.b.toNat +
  f.sga.toNat * 2 ^ 33 + f.sgb.toNat * 2 ^ 32

/-- The bits of layout LG. -/
def LG.bits (f : LG) : Nat :=
  f.d.toNat * 2 ^ 14 + f.a.toNat * 2 ^ 7 + f.b.toNat + f.sca.toNat * 2 ^ 46 + f.scb.toNat * 2 ^ 39 +
  f.sela.toNat * 2 ^ 37 + f.selb.toNat * 2 ^ 35 + f.sga.toNat * 2 ^ 34 + f.sgb.toNat * 2 ^ 33

/-- The bits of layout LB. -/
def LB.bits (f : LB) : Nat :=
  f.p.toNat * 2 ^ 20 + f.neg.toNat * 2 ^ 19 + f.tprio.toNat * 2 ^ 11 + f.fprio.toNat * 2 ^ 3 +
  f.off.toNat * 2 ^ 32

/-- The bits of layout LE. -/
def LE.bits (f : LE) : Nat :=
  f.u.toNat * 2 ^ 10

/-- The bits of layout LCbload. -/
def LCbload.bits (f : LCbload) : Nat :=
  f.u.toNat * 2 ^ 10 + f.space.toNat

/-- The bits of layout LEq. -/
def LEq.bits (f : LEq) : Nat :=
  f.pd.toNat * 2 ^ 20 + f.lq.toNat * 2 ^ 17 + f.ack.toNat * 2 ^ 16 + f.u.toNat * 2 ^ 10 + f.a.toNat

/-- The bits of layout LRopen. -/
def LRopen.bits (f : LRopen) : Nat :=
  f.u.toNat * 2 ^ 10 + f.slot.toNat * 2 ^ 7 + f.a.toNat

/-- The bits of layout LRtake. -/
def LRtake.bits (f : LRtake) : Nat :=
  f.pd.toNat * 2 ^ 20 + f.try_.toNat * 2 ^ 19 + f.dest.toNat * 2 ^ 18 + f.slot.toNat * 2 ^ 7 + f.a.toNat

/-- The bits of layout LRpoll. -/
def LRpoll.bits (f : LRpoll) : Nat :=
  f.slot.toNat * 2 ^ 7 + f.a.toNat

/-- The bits of layout LEk. -/
def LEk.bits (f : LEk) : Nat :=
  f.u.toNat * 2 ^ 10 + f.x.toNat

/-- Row 0x0_ of the opcode map (R206), by the opcode `op`. -/
def decodeRow0 (op w : Nat) : Except Reject Instr :=
  if op = 0x01 then
    if num 23 w 0 = 0 then .ok (.nop) else .error .fixedField
  else if op = 0x02 then
    if num 23 w 0 = 0 then .ok (.exit) else .error .fixedField
  else if op = 0x03 then
    if num 23 w 0 = 0 then .ok (.yield) else .error .fixedField
  else if op = 0x04 then
    if num 7 w 16 = 0 then .ok (.trap (fld 16 w 0)) else .error .fixedField
  else if op = 0x05 then
    if num 7 w 16 = 0 then .ok (.bkpt (fld 16 w 0)) else .error .fixedField
  else if op = 0x06 then
    if num 23 w 0 = 0 then .ok (.xret) else .error .fixedField
  else if op = 0x07 then
    if num 19 w 4 = 0 then .ok (.evwait (fld 4 w 0)) else .error .fixedField
  else if op = 0x08 then
    if num 6 w 10 = 0 then .ok (.sysr (readLAy w)) else .error .fixedField
  else if op = 0x09 then
    if num 6 w 10 = 0 then .ok (.sysw (readLAy w)) else .error .fixedField
  else if op = 0x0A then
    if num 3 w 0 = 0 then .ok (.bra (readLB w))
    else if num 3 w 0 = 1 then .ok (.bru (readLB w))
    else if num 3 w 0 = 2 then .ok (.call (readLB w))
    else .error .selector
  else if op = 0x0B then
    if num 1 w 14 = 0 ∧ num 7 w 0 = 0 then .ok (.brx (readLAx w)) else .error .fixedField
  else if op = 0x0C then
    if num 23 w 0 = 0 then .ok (.ret) else .error .fixedField
  else .error .unassigned

/-- Row 0x1_ of the opcode map (R206), by the opcode `op`. -/
def decodeRow1 (op w : Nat) : Except Reject Instr :=
  if op = 0x10 then .ok (.iadd (readLA w))
  else if op = 0x11 then .ok (.isub (readLA w))
  else if op = 0x12 then .ok (.imul (readLA w))
  else if op = 0x13 then .ok (.imulhS32 (readLA w))
  else if op = 0x14 then .ok (.imulhN32 (readLA w))
  else if op = 0x15 then .ok (.imad (readLA w))
  else if op = 0x16 then .ok (.iminS32 (readLA w))
  else if op = 0x17 then .ok (.iminN32 (readLA w))
  else if op = 0x18 then .ok (.imaxS32 (readLA w))
  else if op = 0x19 then .ok (.imaxN32 (readLA w))
  else if op = 0x1A then
    if num 1 w 21 = 0 ∧ num 7 w 0 = 124 then .ok (.iabs (readLA1 w)) else .error .fixedField
  else if op = 0x1B then
    if num 1 w 22 = 0 then .ok (.icmp (readLAc w)) else .error .fixedField
  else if op = 0x1C then .ok (.lea (readLA w))
  else if op = 0x1D then
    if num 4 w 15 = 0 then .ok (.sel (readLAs w)) else .error .fixedField
  else if op = 0x1E then
    if num 7 w 7 = 124 then .ok (.mov (readLMov w)) else .error .fixedField
  else .error .unassigned

/-- Row 0x2_ of the opcode map (R206), by the opcode `op`. -/
def decodeRow2 (op w : Nat) : Except Reject Instr :=
  if op = 0x20 then .ok (.and (readLA w))
  else if op = 0x21 then .ok (.or (readLA w))
  else if op = 0x22 then .ok (.xor (readLA w))
  else if op = 0x23 then .ok (.shl (readLA w))
  else if op = 0x24 then .ok (.shr (readLA w))
  else if op = 0x25 then .ok (.sar (readLA w))
  else if op = 0x26 then .ok (.bfx (readLA w))
  else if op = 0x27 then .ok (.bfi (readLA w))
  else if op = 0x28 then
    if num 1 w 21 = 0 ∧ num 7 w 0 = 124 then .ok (.popc (readLA1 w)) else .error .fixedField
  else if op = 0x29 then
    if num 1 w 21 = 0 ∧ num 7 w 0 = 124 then .ok (.clz (readLA1 w)) else .error .fixedField
  else if op = 0x2A then
    if num 1 w 21 = 0 ∧ num 7 w 0 = 124 then .ok (.brev (readLA1 w)) else .error .fixedField
  else if op = 0x2B then
    if num 3 w 8 = 0 then .ok (.plop (readLAq w)) else .error .fixedField
  else if op = 0x2C then .ok (.movi (readLIw w))
  else if op = 0x2D then
    if num 2 w 21 = 0 ∧ num 14 w 0 = 0 then .ok (.movl (readLMovl w)) else .error .fixedField
  else .error .unassigned

/-- Row 0x3_ of the opcode map (R206), by the opcode `op`. -/
def decodeRow3 (op w : Nat) : Except Reject Instr :=
  if op = 0x30 then .ok (.fadd (readLA w))
  else if op = 0x31 then .ok (.fmul (readLA w))
  else if op = 0x32 then .ok (.ffma (readLA w))
  else if op = 0x33 then .ok (.fmin (readLA w))
  else if op = 0x34 then .ok (.fmax (readLA w))
  else if op = 0x35 then
    if num 1 w 22 = 0 then .ok (.fcmp (readLAc w)) else .error .fixedField
  else if op = 0x36 then
    if num 1 w 21 = 0 then .ok (.frnd (readLFrnd w)) else .error .fixedField
  else if op = 0x37 then
    if num 2 w 21 = 0 ∧ num 7 w 0 = 124 then .ok (.fexp2 (readLA2 w)) else .error .fixedField
  else if op = 0x38 then
    if num 2 w 21 = 0 ∧ num 7 w 0 = 124 then .ok (.flog2 (readLA2 w)) else .error .fixedField
  else if op = 0x39 then
    if num 2 w 21 = 0 ∧ num 7 w 0 = 124 then .ok (.frcp (readLA2 w)) else .error .fixedField
  else if op = 0x3A then
    if num 2 w 21 = 0 ∧ num 7 w 0 = 124 then .ok (.frsq (readLA2 w)) else .error .fixedField
  else if op = 0x3B then
    if num 2 w 21 = 0 ∧ num 7 w 0 = 124 then .ok (.fsqrt (readLA2 w)) else .error .fixedField
  else if op = 0x3C then
    if num 1 w 22 = 0 ∧ num 16 w 48 = 0 ∧ num 2 w 32 = 0 then .ok (.cvt (readLV w)) else .error .fixedField
  else if op = 0x3D then
    if num 1 w 22 = 0 ∧ num 16 w 48 = 0 ∧ num 2 w 32 = 0 then .ok (.cvtp (readLV w)) else .error .fixedField
  else .error .unassigned

/-- Row 0x4_ of the opcode map (R206), by the opcode `op`. -/
def decodeRow4 (op w : Nat) : Except Reject Instr :=
  if op = 0x40 then .ok (.paddBf16 (readLA w))
  else if op = 0x41 then .ok (.paddF16 (readLA w))
  else if op = 0x42 then .ok (.pmulBf16 (readLA w))
  else if op = 0x43 then .ok (.pmulF16 (readLA w))
  else if op = 0x44 then .ok (.pfmaBf16 (readLA w))
  else if op = 0x45 then .ok (.pfmaF16 (readLA w))
  else if op = 0x46 then
    if num 30 w 34 = 0 then .ok (.dp4 (readLDp4 w)) else .error .fixedField
  else if op = 0x47 then .ok (.dp8 (readLA w))
  else if op = 0x48 then
    if num 1 w 22 = 0 then .ok (.qxch (readLI w)) else .error .fixedField
  else if op = 0x49 then
    if num 1 w 22 = 0 then .ok (.xlane (readLXlane w)) else .error .fixedField
  else if op = 0x4A then
    if num 1 w 17 = 0 ∧ num 7 w 0 = 0 then .ok (.wvote (readLAw w)) else .error .fixedField
  else .error .unassigned

/-- Row 0x5_ of the opcode map (R206), by the opcode `op`. -/
def decodeRow5 (op w : Nat) : Except Reject Instr :=
  if op = 0x50 then
    if num 2 w 21 = 0 ∧ num 11 w 53 = 0 ∧ num 1 w 32 = 0 then .ok (.mmfBf16 (readLG w)) else .error .fixedField
  else if op = 0x51 then
    if num 2 w 21 = 0 ∧ num 11 w 53 = 0 ∧ num 1 w 32 = 0 then .ok (.mmfF16 (readLG w)) else .error .fixedField
  else if op = 0x52 then
    if num 2 w 21 = 0 ∧ num 11 w 53 = 0 ∧ num 1 w 32 = 0 then .ok (.mmfE4m3 (readLG w)) else .error .fixedField
  else if op = 0x53 then
    if num 2 w 21 = 0 ∧ num 11 w 53 = 0 ∧ num 1 w 32 = 0 then .ok (.mmfE5m2 (readLG w)) else .error .fixedField
  else if op = 0x54 then
    if num 2 w 21 = 0 ∧ num 11 w 53 = 0 ∧ num 1 w 32 = 0 then .ok (.mmfE2m1 (readLG w)) else .error .fixedField
  else if op = 0x55 then
    if num 2 w 21 = 0 ∧ num 11 w 53 = 0 ∧ num 1 w 32 = 0 then .ok (.mmfS8 (readLG w)) else .error .fixedField
  else .error .unassigned

/-- Row 0x6_ of the opcode map (R206), by the opcode `op`. -/
def decodeRow6 (op w : Nat) : Except Reject Instr :=
  if op = 0x60 then
    if num 2 w 21 = 0 then .ok (.sadd (readLAu w)) else .error .fixedField
  else if op = 0x61 then
    if num 2 w 21 = 0 then .ok (.ssub (readLAu w)) else .error .fixedField
  else if op = 0x62 then
    if num 2 w 21 = 0 then .ok (.smul (readLAu w)) else .error .fixedField
  else if op = 0x63 then
    if num 2 w 21 = 0 then .ok (.sand (readLAu w)) else .error .fixedField
  else if op = 0x64 then
    if num 2 w 21 = 0 then .ok (.sor (readLAu w)) else .error .fixedField
  else if op = 0x65 then
    if num 2 w 21 = 0 then .ok (.sxor (readLAu w)) else .error .fixedField
  else if op = 0x66 then
    if num 2 w 21 = 0 then .ok (.sshl (readLAu w)) else .error .fixedField
  else if op = 0x67 then
    if num 2 w 21 = 0 then .ok (.sshr (readLAu w)) else .error .fixedField
  else if op = 0x68 then
    if num 2 w 21 = 0 then .ok (.scmp (readLAuc w)) else .error .fixedField
  else if op = 0x69 then
    if num 2 w 21 = 0 ∧ num 7 w 7 = 0 then .ok (.smov (readLSmov w)) else .error .fixedField
  else if op = 0x6A then
    if num 14 w 0 = 0 then .ok (.smovl (readLSmovl w)) else .error .fixedField
  else if op = 0x6B then
    if num 2 w 21 = 0 then .ok (.sld (readLAu w)) else .error .fixedField
  else if op = 0x6C then
    if num 2 w 21 = 0 ∧ num 7 w 0 = 0 then .ok (.sfirst (readLSfirst w)) else .error .fixedField
  else .error .unassigned

/-- Row 0x7_ of the opcode map (R206), by the opcode `op`. -/
def decodeRow7 (op w : Nat) : Except Reject Instr :=
  if op = 0x70 then .ok (.ld (readLAm w))
  else if op = 0x71 then .ok (.st (readLAm w))
  else if op = 0x72 then
    if num 2 w 14 = 0 then .ok (.lds (readLAms w)) else .error .fixedField
  else if op = 0x73 then
    if num 2 w 14 = 0 then .ok (.sts (readLAms w)) else .error .fixedField
  else if op = 0x74 then
    if num 22 w 42 = 0 then .ok (.atom (readLX w)) else .error .fixedField
  else if op = 0x75 then
    if num 22 w 42 = 0 then .ok (.acas (readLX w)) else .error .fixedField
  else if op = 0x76 then
    if num 22 w 42 = 0 then .ok (.red (readLX w)) else .error .fixedField
  else if op = 0x77 then
    if num 19 w 0 = 0 then .ok (.fence (readLAf w)) else .error .fixedField
  else if op = 0x78 then .ok (.promote (readLAp w))
  else if op = 0x79 then
    if num 4 w 14 = 0 then .ok (.ctadd (readLAt w)) else .error .fixedField
  else if op = 0x7A then
    if num 4 w 14 = 0 then .ok (.ctwait (readLAt w)) else .error .fixedField
  else if op = 0x7B then
    if num 4 w 14 = 0 then .ok (.ctread (readLAt w)) else .error .fixedField
  else if op = 0x7C then
    if num 3 w 20 = 7 ∧ num 6 w 14 = 0 ∧ num 7 w 0 = 124 then .ok (.cseal (fld 7 w 7)) else .error .fixedField
  else if op = 0x7D then
    if num 3 w 20 = 7 ∧ num 6 w 14 = 0 ∧ num 7 w 7 = 124 then .ok (.cwait (fld 7 w 0)) else .error .fixedField
  else if op = 0x7E then
    if num 3 w 20 = 7 ∧ num 6 w 14 = 0 then .ok (.cstat (readLDA w)) else .error .fixedField
  else .error .unassigned

/-- Row 0x8_ of the opcode map (R206), by the opcode `op`. -/
def decodeRow8 (op w : Nat) : Except Reject Instr :=
  if op = 0x80 then
    if num 5 w 15 = 0 then .ok (.ralloc (readLRalloc w)) else .error .fixedField
  else if op = 0x81 then
    if num 6 w 14 = 0 ∧ num 7 w 7 = 124 then .ok (.rfree (readLRfree w)) else .error .fixedField
  else if op = 0x82 then
    if num 3 w 17 = 0 then .ok (.rrank (readLRrank w)) else .error .fixedField
  else if op = 0x83 then
    if num 3 w 20 = 7 ∧ num 6 w 14 = 0 then .ok (.rstat (readLDA w))
    else if num 3 w 20 = 7 ∧ num 6 w 14 = 1 then .ok (.rstatClaim (readLDA w))
    else .error .selector
  else if op = 0x84 then
    if num 1 w 19 = 0 ∧ num 2 w 14 = 0 then .ok (.hcreate (readLHcreate w)) else .error .fixedField
  else if op = 0x85 then
    if num 4 w 19 = 0 ∧ num 2 w 14 = 0 ∧ num 7 w 7 = 124 then .ok (.hjoin (readLHb w)) else .error .fixedField
  else if op = 0x86 then
    if num 4 w 19 = 0 ∧ num 2 w 14 = 0 ∧ num 7 w 7 = 124 ∧ num 7 w 0 = 124 then .ok (.hleave (fld 3 w 16)) else .error .fixedField
  else if op = 0x87 then
    if num 4 w 19 = 0 ∧ num 2 w 14 = 0 ∧ num 7 w 0 = 124 then .ok (.hbar (readLHd w)) else .error .fixedField
  else if op = 0x88 then
    if num 2 w 14 = 0 ∧ num 7 w 7 = 124 then .ok (.harr (readLHarr w)) else .error .fixedField
  else if op = 0x89 then
    if num 4 w 19 = 0 ∧ num 2 w 14 = 0 ∧ num 7 w 0 = 124 then .ok (.hwait (readLHd w)) else .error .fixedField
  else if op = 0x8A then
    if num 2 w 14 = 0 then .ok (.hvote (readLHkdb w)) else .error .fixedField
  else if op = 0x8B then
    if num 2 w 14 = 0 then .ok (.hred (readLHkdb w)) else .error .fixedField
  else if op = 0x8C then
    if num 4 w 19 = 0 ∧ num 2 w 14 = 0 ∧ num 7 w 0 = 124 then .ok (.hquery (readLHd w))
    else if num 4 w 19 = 1 ∧ num 2 w 14 = 0 ∧ num 7 w 0 = 124 then .ok (.hqueryHdl (readLHd w))
    else .error .selector
  else if op = 0x8D then
    if num 4 w 19 = 0 ∧ num 2 w 14 = 0 ∧ num 7 w 7 = 124 ∧ num 7 w 0 = 124 then .ok (.hdiss (fld 3 w 16)) else .error .fixedField
  else if op = 0x8E then
    if num 6 w 14 = 0 ∧ num 7 w 0 = 124 then .ok (.grangeRead (readLGrange w))
    else if num 6 w 14 = 1 ∧ num 7 w 0 = 124 then .ok (.grangeTake (readLGrange w))
    else .error .selector
  else .error .unassigned

/-- Row 0x9_ of the opcode map (R206), by the opcode `op`. -/
def decodeRow9 (op w : Nat) : Except Reject Instr :=
  if op = 0x90 then
    if num 7 w 16 = 0 ∧ num 10 w 0 = 0 then .ok (.cpy (readLE w)) else .error .fixedField
  else if op = 0x91 then
    if num 7 w 16 = 0 ∧ num 10 w 0 = 0 then .ok (.mx (readLE w)) else .error .fixedField
  else if op = 0x92 then
    if num 7 w 16 = 0 ∧ num 10 w 0 = 0 then .ok (.mxdrain (readLE w)) else .error .fixedField
  else if op = 0x93 then
    if num 7 w 16 = 0 ∧ num 10 w 0 = 0 then .ok (.attn (readLE w))
    else if num 7 w 16 = 1 ∧ num 10 w 0 = 0 then .ok (.attnMerge (readLE w))
    else .error .selector
  else if op = 0x94 then
    if num 7 w 16 = 0 ∧ num 9 w 1 = 0 then .ok (.cbload (readLCbload w)) else .error .fixedField
  else if op = 0x95 then
    if num 2 w 18 = 0 ∧ num 3 w 7 = 0 then .ok (.enq (readLEq w)) else .error .fixedField
  else if op = 0x96 then
    if num 7 w 16 = 0 then .ok (.ropen (readLRopen w)) else .error .fixedField
  else if op = 0x97 then
    if num 2 w 16 = 0 ∧ num 6 w 10 = 0 then .ok (.rtake (readLRtake w)) else .error .fixedField
  else if op = 0x98 then
    if num 7 w 16 = 0 ∧ num 6 w 10 = 0 ∧ num 7 w 0 = 124 then .ok (.rclose (fld 3 w 7)) else .error .fixedField
  else if op = 0x99 then
    if num 7 w 16 = 0 ∧ num 6 w 10 = 0 then .ok (.rpoll (readLRpoll w)) else .error .fixedField
  else if op = 0x9A then
    if num 7 w 16 = 0 ∧ num 3 w 7 = 0 then .ok (.kvfind (readLEk w)) else .error .fixedField
  else if op = 0x9B then
    if num 7 w 16 = 0 ∧ num 3 w 7 = 0 then .ok (.kvins (readLEk w))
    else if num 7 w 16 = 1 ∧ num 3 w 7 = 0 then .ok (.kvinsSeal (readLEk w))
    else .error .selector
  else if op = 0x9C then
    if num 7 w 16 = 0 ∧ num 3 w 7 = 0 then .ok (.kvdel (readLEk w)) else .error .fixedField
  else if op = 0x9D then
    if num 7 w 16 = 0 ∧ num 3 w 7 = 0 then .ok (.kvpfx (readLEk w))
    else if num 7 w 16 = 1 ∧ num 3 w 7 = 0 then .ok (.kvpfxIns (readLEk w))
    else if num 7 w 16 = 2 ∧ num 3 w 7 = 0 then .ok (.kvpfxDel (readLEk w))
    else .error .selector
  else .error .unassigned

/-- The instruction that the words `w` hold, the first word in bits [31:0] and the word after it above: the
opcode map (R206, R207), the fixed fields of each layout (R195) and the selectors of R201, R269, R272, R293.
CHAIN, bit 31, is no part of it. -/
def decodeRaw (w : Nat) : Except Reject Instr :=
  let op := num 8 w 23
  if op / 16 = 0 then decodeRow0 op w
  else if op / 16 = 1 then decodeRow1 op w
  else if op / 16 = 2 then decodeRow2 op w
  else if op / 16 = 3 then decodeRow3 op w
  else if op / 16 = 4 then decodeRow4 op w
  else if op / 16 = 5 then decodeRow5 op w
  else if op / 16 = 6 then decodeRow6 op w
  else if op / 16 = 7 then decodeRow7 op w
  else if op / 16 = 8 then decodeRow8 op w
  else if op / 16 = 9 then decodeRow9 op w
  else .error .unassigned

/-- The words of an instruction as one number, CHAIN 0: a numeral for the opcode and the fixed fields (R195, R206),
and the layout's fields. -/
def encodeBits : Instr → Nat
  | .nop => 0x00800000
  | .exit => 0x01000000
  | .yield => 0x01800000
  | .trap imm => 0x02000000 + imm.toNat
  | .bkpt imm => 0x02800000 + imm.toNat
  | .xret => 0x03000000
  | .evwait ev => 0x03800000 + ev.toNat
  | .sysr f => 0x04000000 + f.bits
  | .sysw f => 0x04800000 + f.bits
  | .bra f => 0x05000000 + f.bits
  | .bru f => 0x05000001 + f.bits
  | .call f => 0x05000002 + f.bits
  | .brx f => 0x05800000 + f.bits
  | .ret => 0x06000000
  | .iadd f => 0x08000000 + f.bits
  | .isub f => 0x08800000 + f.bits
  | .imul f => 0x09000000 + f.bits
  | .imulhS32 f => 0x09800000 + f.bits
  | .imulhN32 f => 0x0A000000 + f.bits
  | .imad f => 0x0A800000 + f.bits
  | .iminS32 f => 0x0B000000 + f.bits
  | .iminN32 f => 0x0B800000 + f.bits
  | .imaxS32 f => 0x0C000000 + f.bits
  | .imaxN32 f => 0x0C800000 + f.bits
  | .iabs f => 0x0D00007C + f.bits
  | .icmp f => 0x0D800000 + f.bits
  | .lea f => 0x0E000000 + f.bits
  | .sel f => 0x0E800000 + f.bits
  | .mov f => 0x0F003E00 + f.bits
  | .and f => 0x10000000 + f.bits
  | .or f => 0x10800000 + f.bits
  | .xor f => 0x11000000 + f.bits
  | .shl f => 0x11800000 + f.bits
  | .shr f => 0x12000000 + f.bits
  | .sar f => 0x12800000 + f.bits
  | .bfx f => 0x13000000 + f.bits
  | .bfi f => 0x13800000 + f.bits
  | .popc f => 0x1400007C + f.bits
  | .clz f => 0x1480007C + f.bits
  | .brev f => 0x1500007C + f.bits
  | .plop f => 0x15800000 + f.bits
  | .movi f => 0x16000000 + f.bits
  | .movl f => 0x16800000 + f.bits
  | .fadd f => 0x18000000 + f.bits
  | .fmul f => 0x18800000 + f.bits
  | .ffma f => 0x19000000 + f.bits
  | .fmin f => 0x19800000 + f.bits
  | .fmax f => 0x1A000000 + f.bits
  | .fcmp f => 0x1A800000 + f.bits
  | .frnd f => 0x1B000000 + f.bits
  | .fexp2 f => 0x1B80007C + f.bits
  | .flog2 f => 0x1C00007C + f.bits
  | .frcp f => 0x1C80007C + f.bits
  | .frsq f => 0x1D00007C + f.bits
  | .fsqrt f => 0x1D80007C + f.bits
  | .cvt f => 0x1E000000 + f.bits
  | .cvtp f => 0x1E800000 + f.bits
  | .paddBf16 f => 0x20000000 + f.bits
  | .paddF16 f => 0x20800000 + f.bits
  | .pmulBf16 f => 0x21000000 + f.bits
  | .pmulF16 f => 0x21800000 + f.bits
  | .pfmaBf16 f => 0x22000000 + f.bits
  | .pfmaF16 f => 0x22800000 + f.bits
  | .dp4 f => 0x23000000 + f.bits
  | .dp8 f => 0x23800000 + f.bits
  | .qxch f => 0x24000000 + f.bits
  | .xlane f => 0x24800000 + f.bits
  | .wvote f => 0x25000000 + f.bits
  | .mmfBf16 f => 0x28000000 + f.bits
  | .mmfF16 f => 0x28800000 + f.bits
  | .mmfE4m3 f => 0x29000000 + f.bits
  | .mmfE5m2 f => 0x29800000 + f.bits
  | .mmfE2m1 f => 0x2A000000 + f.bits
  | .mmfS8 f => 0x2A800000 + f.bits
  | .sadd f => 0x30000000 + f.bits
  | .ssub f => 0x30800000 + f.bits
  | .smul f => 0x31000000 + f.bits
  | .sand f => 0x31800000 + f.bits
  | .sor f => 0x32000000 + f.bits
  | .sxor f => 0x32800000 + f.bits
  | .sshl f => 0x33000000 + f.bits
  | .sshr f => 0x33800000 + f.bits
  | .scmp f => 0x34000000 + f.bits
  | .smov f => 0x34800000 + f.bits
  | .smovl f => 0x35000000 + f.bits
  | .sld f => 0x35800000 + f.bits
  | .sfirst f => 0x36000000 + f.bits
  | .ld f => 0x38000000 + f.bits
  | .st f => 0x38800000 + f.bits
  | .lds f => 0x39000000 + f.bits
  | .sts f => 0x39800000 + f.bits
  | .atom f => 0x3A000000 + f.bits
  | .acas f => 0x3A800000 + f.bits
  | .red f => 0x3B000000 + f.bits
  | .fence f => 0x3B800000 + f.bits
  | .promote f => 0x3C000000 + f.bits
  | .ctadd f => 0x3C800000 + f.bits
  | .ctwait f => 0x3D000000 + f.bits
  | .ctread f => 0x3D800000 + f.bits
  | .cseal d => 0x3E70007C + d.toNat * 2 ^ 7
  | .cwait a => 0x3EF03E00 + a.toNat
  | .cstat f => 0x3F700000 + f.bits
  | .ralloc f => 0x40000000 + f.bits
  | .rfree f => 0x40803E00 + f.bits
  | .rrank f => 0x41000000 + f.bits
  | .rstat f => 0x41F00000 + f.bits
  | .rstatClaim f => 0x41F04000 + f.bits
  | .hcreate f => 0x42000000 + f.bits
  | .hjoin f => 0x42803E00 + f.bits
  | .hleave h => 0x43003E7C + h.toNat * 2 ^ 16
  | .hbar f => 0x4380007C + f.bits
  | .harr f => 0x44003E00 + f.bits
  | .hwait f => 0x4480007C + f.bits
  | .hvote f => 0x45000000 + f.bits
  | .hred f => 0x45800000 + f.bits
  | .hquery f => 0x4600007C + f.bits
  | .hqueryHdl f => 0x4608007C + f.bits
  | .hdiss h => 0x46803E7C + h.toNat * 2 ^ 16
  | .grangeRead f => 0x4700007C + f.bits
  | .grangeTake f => 0x4700407C + f.bits
  | .cpy f => 0x48000000 + f.bits
  | .mx f => 0x48800000 + f.bits
  | .mxdrain f => 0x49000000 + f.bits
  | .attn f => 0x49800000 + f.bits
  | .attnMerge f => 0x49810000 + f.bits
  | .cbload f => 0x4A000000 + f.bits
  | .enq f => 0x4A800000 + f.bits
  | .ropen f => 0x4B000000 + f.bits
  | .rtake f => 0x4B800000 + f.bits
  | .rclose slot => 0x4C00007C + slot.toNat * 2 ^ 7
  | .rpoll f => 0x4C800000 + f.bits
  | .kvfind f => 0x4D000000 + f.bits
  | .kvins f => 0x4D800000 + f.bits
  | .kvinsSeal f => 0x4D810000 + f.bits
  | .kvdel f => 0x4E000000 + f.bits
  | .kvpfx f => 0x4E800000 + f.bits
  | .kvpfxIns f => 0x4E810000 + f.bits
  | .kvpfxDel f => 0x4E820000 + f.bits
  | .kvTableAction _ | .doorbellWrite _ _ | .launchCommand _ _ | .budgetCommand _ _
  | .budgetCommandComplete _ | .tenantCreate _ _ _ | .tenantChange _ _ _ | .tenantDisable _ _
  | .mapCommand _ _ _ _ | .translationDrainComplete _ | .zeroCommand _ _ _ _ | .zeroFillComplete _
  | .keyCommand _ _ _ _ _ | .queryBudget _ | .queryCapacity _ | .queryTemperatures _ | .queryBankMaps _
  | .queryCounters _ | .debugHalt _ _ | .debugSingleStep _ _ | .debugThreadStep _ _ _ | .debugResume _ _
  | .debugReadContext _ _ _ _ | .debugWriteContext _ _ _ _ _ | .remapCompleteRetirement _ _ _
  | .remapReadmit _ _ _ | .remappingStepComplete _ | .invalidateRange _ _ _ | .invalidateAll _
  | .faultReplay _ _ | .faultAbort _ _ | .preemptCommand _ _ | .powerOnReset _ _ | .hostAccess _ _ _ _
  | .fabricLaunchPacket _ _ | .fabricPeerAccess _ _ _ _ | .flitReceive _ _ _ _ | .rdmaWrite _ _ _
  | .rdmaRead _ _ _ | .rdmaSend _ _ | .launchQueueAccept _ | .taskRecordPlacement _ _ | .groupStart _
  | .coreRequest _ | .gangStart _ | .gangMigration _ | .classPreemption _ | .issueSlotSelect _ _
  | .mergeTick _ | .thermalSample _ | .repairRetirementPending _ _ | .plannedReduction _ _ _ | .lossPoint _
  | .thermalEmergency _ _ | .relight _ _ | .preemption _ | .resumption _ _ _ | .hangReport _
  | .translationWalk _ | .faultEntryTransfer _ | .hMessageApply _ | .promoteArrival _
  | .memoryAccessComplete _ _ | .copyChunkLanding _ _ | .mxComplete _ | .attnStepComplete _
  | .attnMergeComplete _ | .mxdrainChunkLanding _ _ | .mxdrainComplete _ | .cbloadInstall _
  | .rowActivation _ | .rowReady _ _ | .rtakeBeat _ | .refreshDue _ _ | .refreshGraceEnd _ _
  | .refreshEnd _ _ | .openLimitReached _ _ | .ramblerCheck _ | .parasolCapAndClockTrade _ _ => 0

/-- The decoder: the instruction that a first word and the word after it hold, for a thread of `n` lane
registers; `w1` is none when the first word is word 2 of its packet.  Total on any words. -/
def decode (n : Nat) (w0 : Word) (w1 : Option Word) : Except Reject Instr :=
  match decodeRaw (w0.toNat + (w1.getD 0).toNat * 2 ^ 32) with
  | .error e => .error e
  | .ok i =>
    if i.twoWords && w1.isNone then .error .cutOff
    else if i.wf n then .ok i else .error .operand

/-- CHAIN of a first word (R188). -/
def chainBit (w0 : Word) : Bool :=
  w0.getLsbD 31

/-- The words of an instruction with a given CHAIN bit (R188): the first word and, for the layouts L and B,
the second. -/
def encode (chain : Bool) (i : Instr) : Word × Option Word :=
  let b := encodeBits i
  (BitVec.ofNat 32 (b % 2 ^ 32 + chain.toNat * 2 ^ 31),
   if i.twoWords then some (BitVec.ofNat 32 (b / 2 ^ 32)) else none)

/-- Word `k` of a little-endian run of bytes (R187). -/
def wordOfBytes (bs : List Byte) (k : Nat) : Word :=
  BitVec.ofNat 32 ((bs.getD (4 * k) 0).toNat + (bs.getD (4 * k + 1) 0).toNat * 2 ^ 8 +
    (bs.getD (4 * k + 2) 0).toNat * 2 ^ 16 + (bs.getD (4 * k + 3) 0).toNat * 2 ^ 24)

/-- The bytes of a word, low byte first (R187). -/
def bytesOfWord (w : Word) : List Byte :=
  [BitVec.ofNat 8 w.toNat, BitVec.ofNat 8 (w.toNat / 2 ^ 8), BitVec.ofNat 8 (w.toNat / 2 ^ 16),
   BitVec.ofNat 8 (w.toNat / 2 ^ 24)]

/-- Decoding from the bytes of a packet, at word `k` of it (R187, R190). -/
def decodeAt (n : Nat) (bytes : List Byte) (k : Nat) : Except Reject Instr :=
  decode n (wordOfBytes bytes k) (if k < 2 then some (wordOfBytes bytes (k + 1)) else none)

/-- The instruction of an opcode-table word of `nbits` bits, the bits above them 0: its two words are laid out
as the hardware stores them and given to the decoder for a thread of 120 registers. -/
def decodeTableWord (nbits w : Nat) : Option Instr :=
  let v := w % 2 ^ nbits
  let bytes := bytesOfWord (BitVec.ofNat 32 v) ++ bytesOfWord (BitVec.ofNat 32 (v / 2 ^ 32))
  match decodeAt 120 bytes 0 with
  | .ok i => some i
  | .error _ => none

end Sys2Proof
end

