-- ==== Sys2Proof/Machine/Sregs.lean ====
section
/-! DEFINITION. The system registers as SYSR reads them and SYSW writes them (R50, R53, R77, R87, R99, R100, R165,
R210, R211). -/

namespace Sys2Proof.Machine

/-- %capacity (R77, R319): LIT, TARGET, PEND and ETA in units of 1,024 ck, saturating at 255. -/
def State.capacityWord (s : State) (core : Nat) : Nat :=
  let c := s.core core
  let lit := c.litCount
  if c.chosen.isEmpty then lit + lit * 2 ^ 8
  else lit + (lit - c.chosen.length) * 2 ^ 8 + 2 ^ 15 + min 255 ((c.due - s.stime) / 1024) * 2 ^ 16

/-- The temperature code of R99. -/
def tempCode (t : Nat) : Nat := min 31 (t - 75)

/-- The hottest temperature of a list. -/
def hottest (ts : List Nat) : Nat := ts.foldl max 0

/-- %thermal (R99). -/
def Column.thermal (c : Column) : Nat :=
  let hot := (c.temps.zipIdx.find? fun (t, _) => decide (t = hottest c.temps)).map (·.2)
  (c.temps.zipIdx).foldl (fun n (t, j) => n + tempCode t * 2 ^ (5 * j)) 0 + hot.getD 0 * 2 ^ 60

/-- A layer of the column stands at its hottest temperature in doubled mode. -/
def Column.hotDoubled (c : Column) : Bool :=
  (c.temps.zip c.doubled).any fun (t, d) => decide (t = hottest c.temps) && d.isSome

/-- CAPT (R98), the cap of the hottest layer: 12 above 105 °C, 24 above 95 °C, 48 while it is in doubled mode, else 96; of several
equally hot ones the least. -/
def Column.capt (c : Column) : Nat :=
  if 105 < hottest c.temps then 12
  else if 95 < hottest c.temps then 24
  else if c.hotDoubled then 48 else 96

/-- ALLOW (R100). -/
def Column.allow (c : Column) : Nat :=
  let m := min c.capb c.capt
  if c.neigh then min m (c.capt / 2) else m

/-- %rowallow (R100). -/
def Column.rowallow (c : Column) : Nat :=
  c.allow + c.capt * 2 ^ 8 + c.capb * 2 ^ 16 + (decide (c.capt < 96)).toNat * 2 ^ 24 +
  (decide (c.capb < 96)).toNat * 2 ^ 25 + c.neigh.toNat * 2 ^ 26

/-- %bankmap (R87). -/
def Column.bankmap (c : Column) : Nat := c.live.toNat + c.liveBanks.length * 2 ^ 24

/-- %iclock (R211): in the core clock in which the island's clock changes, SYSR still reads the values before. -/
def State.iclock (s : State) (core : Nat) : Nat :=
  let i := s.island (islandOf core)
  if s.clock core = i.count then i.wasMhz + i.wasCut.toNat * 2 ^ 16 else i.mhz + i.cut.toNat * 2 ^ 16

/-- %cause (R165). -/
def Thread.cause (t : Thread) : Nat :=
  match t.traps with
  | [] => 0
  | l :: _ => l.code.toNat + l.word * 2 ^ 8 + t.traps.length * 2 ^ 24

/-- The system register `r` as a thread reads it (R210); at depth 0 the trap registers read 0 (R309). -/
def State.sreg (s : State) (g : Group) (t : Thread) (r : Nat) : Dword :=
  let core := g.core
  let top := t.traps.head?
  match r with
  | 0x000 => BitVec.ofNat 64 t.tid
  | 0x001 => BitVec.ofNat 64 g.gid
  | 0x002 => BitVec.ofNat 64 (laneOf t.tid)
  | 0x003 => BitVec.ofNat 64 (g.warpOf t.tid)
  | 0x004 => BitVec.ofNat 64 (core % Config.coresPerCluster)
  | 0x005 => BitVec.ofNat 64 (clusterOf core)
  | 0x006 => BitVec.ofNat 64 (dieOf core)
  | 0x007 => BitVec.ofNat 64 (s.core core).lo
  | 0x008 => BitVec.ofNat 64 (s.core core).hi
  | 0x010 => BitVec.ofNat 64 (s.capacityWord core)
  | 0x011 => BitVec.ofNat 64 (s.core core).floor
  | 0x012 => BitVec.ofNat 64 (s.column core).thermal
  | 0x013 => BitVec.ofNat 64 (s.column core).rowallow
  | 0x014 => BitVec.ofNat 64 (s.column core).bankmap
  | 0x015 => BitVec.ofNat 64 (s.iclock core)
  | 0x020 => (top.map (·.epc)).getD 0
  | 0x021 => BitVec.ofNat 64 t.cause
  | 0x022 => (top.map (·.tval)).getD 0
  | 0x023 => (top.map fun l => l.tmask.setWidth 64).getD 0
  | 0x030 => t.fpmode.setWidth 64
  | 0x031 => t.nflags.setWidth 64
  | 0x040 => BitVec.ofNat 64 (s.clock core)
  | 0x041 => BitVec.ofNat 64 s.stime
  | _ => 0

/-- The top level of the trap stack changed. -/
def Thread.onTop (t : Thread) (f : TrapLevel → TrapLevel) : Thread :=
  match t.traps with
  | [] => t
  | l :: ls => { t with traps := f l :: ls }

/-- A SYSW to a register that may be written (R210): reserved fields stay as they read. -/
def Thread.setSreg (t : Thread) (r : Nat) (v : Dword) : Thread :=
  match r with
  | 0x020 => t.onTop fun l => { l with epc := v }
  | 0x022 => t.onTop fun l => { l with tval := v }
  | 0x030 => { t with fpmode := v.setWidth 2 }
  | 0x031 => { t with nflags := v.setWidth 7 }
  | _ => t

/-- A SYSW that traps 0x01 (R165, R309): %epc or %tval at depth 0, or %epc with WORD = 3. -/
def Thread.badSysw (t : Thread) (r : Nat) (v : Dword) : Bool :=
  (decide (r = 0x020) && (t.traps.isEmpty || decide (bits v.toNat 55 54 = 3))) ||
  (decide (r = 0x022) && t.traps.isEmpty)

end Sys2Proof.Machine
end

