-- ==== Sys2Proof/Machine/System.lean ====
section
/-! DEFINITION. Control flow and system instructions (R201, R202, R246, R247, R249, R261, R262, R283, R301, R309,
R310, R314, R315). -/

namespace Sys2Proof.Machine

/-- The first word of the instruction under way, which an illegal form leaves in %tval (R208). -/
def Ctx.word (c : Ctx) : Dword := (wordOfBytes c.bytes c.here).setWidth 64

/-- A thread traps 0x01 with the trapping word. -/
def State.illegal (s : State) (c : Ctx) (tid : Nat) : State := s.raise tid 0x01 c.word 0 0

/-- NOP (R283). -/
def execNop (s : State) : Out :=
  .next s

/-- EXIT (R262).  In an issue of several instructions the thread ends once the waits of the other words have ended, and their
loads been performed (R13, log 39). -/
def execExit (s : State) : Out :=
  .next (s.eachActive fun s c _ t =>
    if c.chained then s.await t.tid .leaving else (s.exitThread c.guid t.tid).leave t.tid)

/-- YIELD (R315): the entries at which the bundle's threads stand once the packet has issued are held; the step
makes the hold when the packet ends. -/
def execYield (s : State) : Out :=
  .next (s.onCur fun c => { c with yielded := true })

/-- TRAP: trap 0x51 with the immediate (R310). -/
def execTrap (imm : BitVec 16) (s : State) : Out :=
  .next (s.eachActive fun s _ _ t => s.raise t.tid 0x51 (imm.setWidth 64) 0 0)

/-- BKPT: trap 0x50 with the immediate; a group under debug halts (R246, R175). -/
def execBkpt (imm : BitVec 16) (s : State) : Out :=
  .next (s.eachActive fun s c _ t => s.raise t.tid 0x50 (imm.setWidth 64) 0 c.pc)

/-- XRET (R314); at depth 0 it traps 0x01. -/
def execXret (s : State) : Out :=
  .next (s.eachActive fun s c _ t =>
    match t.traps.head? with
    | none => s.illegal c t.tid
    | some l => ((s.returnTrap c.guid t.tid l).leave t.tid).onCur fun c =>
      { c with moves := c.moves ++ [(t.tid, pointOf l.epc)] })

/-- EVWAIT 0 (R261): the capacity flag set, it clears the flag and goes on; otherwise the thread parks. -/
def execEvwait (_ev : BitVec 4) (s : State) : Out :=
  .next (s.eachActive fun s c _ t =>
    if t.capFlag then s.onThread c.guid t.tid fun u => { u with capFlag := false }
    else s.await t.tid .capacity)

/-- A value written to a register or, for a 64-bit system register, to a pair (R210). -/
def Thread.setSized (t : Thread) (wide : Bool) (d : Code) (v : Dword) : Thread :=
  if wide then t.setPair d v else t.setReg d (v.setWidth 32)

/-- A system register is 64 bits wide (R210). -/
def sregWide (r : Nat) : Bool := match sregInfo r with | some (w, _) => decide (w = 64) | none => false

/-- SYSR (R309). -/
def execSysr (f : LAy) (s : State) : Out :=
  .next (s.lanes fun c g t => t.setSized (sregWide f.sreg.toNat) f.v (s.sreg g (c.source t) f.sreg.toNat))

/-- The value that SYSW takes from V (R210). -/
def Ctx.syswVal (c : Ctx) (t : Thread) (f : LAy) : Dword :=
  if sregWide f.sreg.toNat then c.pair t f.v else (c.val t f.v).setWidth 64

/-- SYSW (R309). -/
def execSysw (f : LAy) (s : State) : Out :=
  .next (s.eachActive fun s c _ t =>
    let v := c.syswVal t f
    if t.badSysw f.sreg.toNat v then s.illegal c t.tid
    else s.onThread c.guid t.tid fun u => u.setSreg f.sreg.toNat v)

/-! ### Branches -/

/-- The packet that a branch of the packet `pc` names, as an exact integer (R247). -/
def branchPkt (pc : Nat) (off : Word) : Int := Int.ofNat pc + off.toInt

/-- A packet index whose address lies in [0, 2^57). -/
def pktOk (p : Int) : Bool := decide (0 ≤ p) && decide (p * 12 < 2 ^ 57)

/-- A thread goes to a branch target with a priority, or traps 0x20 at the branch, with the ACCESS of a fetch (R187, R247). -/
def State.goPkt (s : State) (tid : Nat) (p : Int) (prio : BitVec 8) : State :=
  if pktOk p then s.moveTo tid { prio := prio, pc := p.toNat, word := 0 }
  else s.raise tid 0x20 (BitVec.ofInt 64 (p * 12)) 0 2

/-- A Form B branch is taken in a thread where p(P) differs from NEG (R201). -/
def Ctx.taken (c : Ctx) (t : Thread) (f : LB) : Bool := c.pred t f.p != f.neg

/-- A thread of a Form B branch: to the target with TPRIO, or to the next packet with FPRIO (R201). -/
def State.branchLane (s : State) (c : Ctx) (t : Thread) (f : LB) : State :=
  if c.taken t f then s.goPkt t.tid (branchPkt c.pc f.off) f.tprio
  else s.moveTo t.tid { prio := f.fprio, pc := c.pc + 1, word := 0 }

/-- BRA (R247). -/
def execBra (f : LB) (s : State) : Out :=
  .next (s.eachActive fun s c _ t => s.branchLane c t f)

/-- BRU (R247): always taken. -/
def execBru (f : LB) (s : State) : Out :=
  .next (s.eachActive fun s c _ t => s.goPkt t.tid (branchPkt c.pc f.off) f.tprio)

/-- The link word of a call (R202). -/
def linkWord (pc : Nat) (fprio : BitVec 8) : Dword := epcOf { prio := fprio, pc := pc + 1, word := 0 }

/-- The pair v(n − 2), v(n − 1) written (R202). -/
def Thread.setLink (t : Thread) (n : Nat) (v : Dword) : Thread :=
  { t with regs := setAt (setAt t.regs (n - 2) (v.setWidth 32)) (n - 1) ((v >>> 32).setWidth 32) }

/-- CALL (R202, R247): a taken call whose target is sound writes the link word. -/
def execCall (f : LB) (s : State) : Out :=
  .next (s.eachActive fun s c g t =>
    if c.taken t f && pktOk (branchPkt c.pc f.off) then
      (s.onThread c.guid t.tid fun u => u.setLink g.nregs (linkWord c.pc f.fprio)).branchLane c t f
    else s.branchLane c t f)

/-- BRX (R249). -/
def execBrx (f : LAx) (s : State) : Out :=
  .next (s.eachActive fun s c _ t =>
    let target := c.pair t f.a
    if target.toNat % 12 ≠ 0 then s.raise t.tid 0x01 target 0 0
    else if 2 ^ 57 ≤ target.toNat then s.raise t.tid 0x20 target 0 2
    else s.moveTo t.tid { prio := f.prio, pc := target.toNat / 12, word := 0 })

/-- The link word that RET reads (R301). -/
def Ctx.link (c : Ctx) (g : Group) (t : Thread) : Dword :=
  (c.source t).regs.getD (g.nregs - 1) 0 ++ (c.source t).regs.getD (g.nregs - 2) 0

/-- RET (R301). -/
def execRet (s : State) : Out :=
  .next (s.eachActive fun s c g t =>
    let l := c.link g t
    if bits l.toNat 55 54 ≠ 0 then s.illegal c t.tid
    else if 2 ^ 57 ≤ (pointOf l).pc * 12 then s.raise t.tid 0x20 (BitVec.ofNat 64 ((pointOf l).pc * 12)) 0 2
    else s.moveTo t.tid { pointOf l with word := 0 })

end Sys2Proof.Machine
end

