-- ==== Sys2Proof/Machine/RegionOps.lean ====
section
/-! DEFINITION. The region instructions and the batch instructions (R66 to R70, R80, R81, R117, R118, R254, R255, R258,
R290 to R293). -/

namespace Sys2Proof.Machine

/-! ### Regions -/

/-- What RALLOC reads from its four registers (R290): SIZE, the rank word, HANDLER. -/
structure RallocArgs where
  size : Nat
  rankWord : Word
  handler : Dword
  deriving DecidableEq, Repr

/-- The registers of RALLOC. -/
def Ctx.rallocArgs (c : Ctx) (t : Thread) (a : Code) : RallocArgs :=
  { size := (c.valAt t a 0).toNat, rankWord := c.valAt t a 1, handler := c.valAt t a 3 ++ c.valAt t a 2 }

/-- The live entries of a region table. -/
def Group.entriesOf (g : Group) : List Region := g.regions.filterMap id

/-- The lowest free entry of the table. -/
def Group.freeEntry (g : Group) : Option Nat := g.regions.findIdx? Option.isNone

/-- RALLOC's failure code in the order 4, 2, 3, 1, or the base of the placed region and its entry (R68, R290). -/
def State.rallocTry (s : State) (g : Group) (k size : Nat) : Except Nat (Nat × Nat) :=
  if size = 0 ∨ size % Config.pageBytes ≠ 0 ∨ largestRegion k < size then .error 4
  else if k < (s.core g.core).floor then .error 2
  else match g.freeEntry with
    | none => .error 3
    | some i => match s.place g.core g.entriesOf k size with
      | none => .error 1
      | some base => .ok (i, base)

/-- A placed region stands in its entry, Live, and its lines read zero (R68). -/
def State.putRegion (s : State) (guid i : Nat) (r : Region) (core : Nat) : State :=
  (s.zeroPad core r.base r.size).onGroup guid fun x => { x with regions := setAt x.regions i (some r) }

/-- One thread of RALLOC. -/
def State.rallocLane (s : State) (c : Ctx) (g : Group) (t : Thread) (f : LRalloc) : State :=
  let args := c.rallocArgs t f.a
  if 8 ≤ args.rankWord.toNat then s.raise t.tid 0x01 (args.rankWord.setWidth 64) 0 0
  else if args.handler.toNat % 12 ≠ 0 ∨ 2 ^ 57 ≤ args.handler.toNat then s.raise t.tid 0x01 args.handler 0 0
  else match s.rallocTry g args.rankWord.toNat args.size with
    | .error code => s.onThread c.guid t.tid fun u => (u.setReg f.d (BitVec.ofNat 32 code)).setPred f.p false
    | .ok (i, base) =>
      (s.putRegion c.guid i (Region.fresh base args.size args.rankWord.toNat args.handler.toNat f.g) g.core).onThread
        c.guid t.tid fun u => (u.setReg f.d (BitVec.ofNat 32 base)).setPred f.p true

/-- RALLOC (R68, R290). -/
def execRalloc (f : LRalloc) (s : State) : Out :=
  .next (s.eachActive fun s c g t => s.rallocLane c g t f)

/-- The region of the issuing group that holds a scratchpad address by its own core (R291). -/
def Group.ownRegion (g : Group) (addr : Nat) : Option (Nat × Region) :=
  match resolve g.core addr with
  | some (core, a) => if core = g.core then g.regionAt a else none
  | none => none

/-- One thread of RFREE. -/
def State.rfreeLane (s : State) (c : Ctx) (g : Group) (t : Thread) (f : LRfree) : State :=
  match g.ownRegion (c.val t f.a).toNat with
  | none => s.onThread c.guid t.tid fun u => u.setPred f.p false
  | some (i, r) =>
    ((s.onGroup c.guid fun x => { x with regions := setAt x.regions i none }).freeRun g.core r).onThread c.guid t.tid
      fun u => u.setPred f.p true

/-- RFREE (R69, R291). -/
def execRfree (f : LRfree) (s : State) : Out :=
  .next (s.eachActive fun s c g t => s.rfreeLane c g t f)

/-- Another region shares one of a region's banks (R70). -/
def State.sharesBank (s : State) (core : Nat) (r : Region) : Bool :=
  (s.coreRegions core).any fun q => decide (q.base ≠ r.base) && r.banks.any fun b => r.reserves b && q.reserves b

/-- RRANK's result code (R292): the lowest that holds. -/
def State.rrankCode (s : State) (g : Group) (r : Region) (k : Nat) : Nat :=
  if s.sharesBank g.core r then 1
  else if k = 7 ∨ r.rank = 7 then 2
  else if k < (s.core g.core).floor then 3
  else if r.lost then 4 else 0

/-- One thread of RRANK. -/
def State.rrankLane (s : State) (c : Ctx) (g : Group) (t : Thread) (f : LRrank) : State :=
  match g.ownRegion (c.val t f.a).toNat with
  | none => s.onThread c.guid t.tid fun u => (u.setReg f.d 5).setPred f.p false
  | some (i, r) =>
    let code := s.rrankCode g r f.x.toNat
    let s1 := if code = 0 then
        s.onGroup c.guid fun x => { x with regions := setAt x.regions i (some { r with rank := f.x.toNat }) }
      else s
    s1.onThread c.guid t.tid fun u => (u.setReg f.d (BitVec.ofNat 32 code)).setPred f.p (code == 0)

/-- RRANK (R70, R292). -/
def execRrank (f : LRrank) (s : State) : Out :=
  .next (s.eachActive fun s c g t => s.rrankLane c g t f)

/-- The word of R80 for an address. -/
def State.rstatWord (s : State) (g : Group) (addr : Nat) : Word :=
  match resolve g.core addr with
  | none => 0xFF03#32
  | some (core, a) => match s.visible g core a with
    | none => 0xFF03#32
    | some (i, r) =>
      let state := if r.lost then 2 else if s.linePending (padKey core a / 128 * 128) then 1 else 0
      BitVec.ofNat 32 (state + r.rank * 2 ^ 3 + r.scope.toNat * 2 ^ 6 + r.claim.isSome.toNat * 2 ^ 7 + i * 2 ^ 8)

/-- RSTAT (R80, R293). -/
def execRstat (f : LDA) (s : State) : Out :=
  .next (s.lanes fun c g t => t.setReg f.d (s.rstatWord g (c.val t f.a).toNat))

/-- One thread of RSTAT.claim (R81). -/
def State.claimLane (s : State) (c : Ctx) (g : Group) (t : Thread) (f : LDA) : State :=
  let put := fun (s : State) (code : Word) => s.onThread c.guid t.tid fun u => u.setReg f.d code
  match g.ownRegion (c.val t f.a).toNat with
  | none => put s 3
  | some (i, r) =>
    if !r.lost then put s 0
    else if r.claim.isNone || decide (r.claim = some t.tid) then
      put (s.onGroup c.guid fun x => { x with regions := setAt x.regions i (some { r with claim := some t.tid }) }) 1
    else put s 2

/-- RSTAT.claim (R81, R293). -/
def execRstatClaim (f : LDA) (s : State) : Out :=
  .next (s.eachActive fun s c g t => s.claimLane c g t f)

/-! ### Batches -/

/-- A batch of a thread is complete: none of its copies and takes remains (R117, R297). -/
def State.batchDone (s : State) (g tid : Nat) (n : Word) : Bool :=
  s.copies.all (fun c => !(decide (c.guid = g ∧ c.tid = tid ∧ c.batch = some n))) &&
  s.takes.all fun t => !(decide (t.guid = g ∧ t.tid = tid ∧ t.batch = some n))

/-- The batch number after one: 1 follows 0xFFFF_FFFF (R117). -/
def nextBatch (n : Word) : Word := if n = 0xFFFFFFFF#32 then 1 else n + 1

/-- The record 64 batches back is incomplete (R254). -/
def State.oldBatchOpen (s : State) (g : Nat) (t : Thread) : Bool :=
  match t.batches[63]? with
  | some b => !s.batchDone g t.tid b.num
  | none => false

/-- A take into scratchpad, which joins a batch (R297). -/
def TakeDest.isPad : TakeDest → Bool
  | .pad _ => true
  | _ => false

/-- The thread's open copies and takes are closed into a batch. -/
def State.sealCopies (s : State) (g tid : Nat) (n : Word) : State :=
  { s with copies := s.copies.map fun c =>
             if c.guid = g ∧ c.tid = tid ∧ c.batch = none then { c with batch := some n } else c,
           takes := s.takes.map fun t =>
             if t.guid = g ∧ t.tid = tid ∧ t.batch = none ∧ t.dest.isPad then { t with batch := some n } else t }

/-- The thread's records with a new batch, 64 kept (R254). -/
def Thread.addBatch (t : Thread) (n : Word) : Thread :=
  { t with batch := n, batches := (⟨n, t.openOutcome, t.openFlags⟩ :: t.batches).take 64, openOutcome := 0,
           openFlags := 0 }

/-- One thread of CSEAL (R117, R254). -/
def State.csealLane (s : State) (c : Ctx) (t : Thread) (d : Code) : State :=
  if s.oldBatchOpen c.guid t then s.retry t.tid .oldBatch
  else
    let n := nextBatch t.batch
    (s.sealCopies c.guid t.tid n).onThread c.guid t.tid fun u => (u.addBatch n).setReg d n

/-- CSEAL (R254). -/
def execCseal (d : Code) (s : State) : Out :=
  .next (s.eachActive fun s c _ t => s.csealLane c t d)

/-- A batch number is `n` or earlier (R118). -/
def batchUpTo (n m : Word) : Bool := decide ((n - m).toNat ≤ 0x7FFFFFFF)

/-- Every batch of a thread up to `n` is complete (R118). -/
def State.batchesDone (s : State) (g : Nat) (t : Thread) (n : Word) : Bool :=
  decide (n = 0) || t.batches.all fun b => !batchUpTo n b.num || s.batchDone g t.tid b.num

/-- CWAIT of a thread of a core returns (R118): what the copies wrote happens before the thread's later accesses, so no older copy
of a line serves them. -/
def State.batchesMet (s : State) (core : Nat) : State := s.dropCluster (clusterOf core)

/-- One thread of CWAIT. -/
def State.cwaitLane (s : State) (c : Ctx) (g : Group) (t : Thread) (a : Code) : State :=
  if s.batchesDone c.guid t (c.val t a) then s.batchesMet g.core else s.await t.tid (.batches (c.val t a))

/-- CWAIT (R118, R258). -/
def execCwait (a : Code) (s : State) : Out :=
  .next (s.eachActive fun s c g t => s.cwaitLane c g t a)

/-- The status word of a batch (R255). -/
def State.batchWord (s : State) (g : Nat) (t : Thread) (n : Word) : Word :=
  match t.batches.find? fun b => decide (b.num = n) with
  | none => 0
  | some b =>
    let outcome := if s.batchDone g t.tid n then b.outcome else 15
    let flags := s.copies.foldl (fun fl c =>
      if c.guid = g ∧ c.tid = t.tid ∧ c.batch = some n then fl ||| c.flags else fl) b.flags
    BitVec.ofNat 32 (flags.toNat + outcome * 2 ^ 8 + 2 ^ 12)

/-- CSTAT (R255). -/
def execCstat (f : LDA) (s : State) : Out :=
  .next (s.lanes fun c _ t => t.setReg f.d (s.batchWord c.guid t (c.val t f.a)))

end Sys2Proof.Machine
end

