-- ==== Sys2Proof/Machine/Launch.lean ====
section
/-! DEFINITION. Launch records and their acceptance (R28 to R33, R260), range pools and requests (R34 to R36, R231),
group starts, gangs, migration and classes (R37 to R40), task queues (R42, R43), and GRANGE (R268). -/

namespace Sys2Proof.Machine

/-! ### The record (R28) -/

/-- The fields of a launch record; the reserved bits are [511:505], [447:441], [383:377], [319:308], [287:284],
[255:249], [191:185] and [63:57]. -/
def LaunchRec.ofNat (n : Nat) : LaunchRec :=
  { entry := bits n 56 0, lo := bits n 95 64, hi := bits n 127 96, tvt := bits n 184 128, rgns := bits n 248 192,
    threads := bits n 266 256, regs8 := bits n 270 267, gang := bits n 275 271, rows := bits n 279 276,
    acc := bits n 283 280, cls := bits n 289 288, tenant := bits n 293 290, nrgn := bits n 297 294,
    pthr := bits n 300 298, nuni := bits n 307 301, rowh := bits n 376 320, uimg := bits n 440 384,
    done := bits n 504 448,
    reserved := [(511, 505), (447, 441), (383, 377), (319, 308), (287, 284), (255, 249), (191, 185), (63, 57)].any
      fun (hi, lo) => decide (bits n hi lo ≠ 0) }

/-- The conditions of R30 on the record's own fields. -/
def LaunchRec.sound (r : LaunchRec) : Bool :=
  !r.reserved && decide (r.entry % 12 = 0) &&
  decide (1 ≤ r.threads ∧ r.threads ≤ 1024 ∧ 1 ≤ r.regs8 ∧ 1 ≤ r.gang ∧ r.gang ≤ 24 ∧ r.rows ≤ 8 ∧ r.acc ≤ 8 ∧
    r.nrgn ≤ 8 ∧ r.nuni ≤ 64) &&
  decide (r.lo ≤ r.hi) && decide (r.gang = 1 ∨ (r.hi - r.lo) % r.gang = 0) && decide (r.done % 8 = 0)

/-- An entry of the initial region list is sound (R29, R30). -/
def listEntryOk (e : Nat) : Bool :=
  decide (bits e 63 35 = 0) && decide (bits e 127 121 = 0) && decide (bits e 31 0 ≠ 0) && decide (bits e 31 0 % 4096 = 0)

/-- An entry as SIZE, RANK, HANDLER. -/
def listEntry (e : Nat) : Nat × Nat × Nat := (bits e 31 0, bits e 34 32, bits e 120 64)

/-- Rank-7 bytes of an initial region list. -/
def pinnedBytes (es : List (Nat × Nat × Nat)) : Nat :=
  es.foldl (fun n (size, rank, _) => if rank = 7 then n + size else n) 0

/-- Bytes read by the dispatcher as loads at device scope (R29); none on any fault. -/
def State.readTables (s : State) (tenant va n : Nat) : Option (List Byte) :=
  let place := fun p => match s.xlateTables tenant p 0 with | .ok pa => some pa | _ => none
  if (pagesOf va n).all fun p => (place p).isSome then
    (upFrom va n).foldr (fun a r => match place a, r with
      | some pa, some bs => if s.badAt pa 1 then none else some (s.devRead pa 1 ++ bs)
      | _, _ => none) (some [])
  else none

/-- A run that the dispatcher reads cannot be corrected, in its own units or in a table on its way (R103). -/
def State.tablesBad (s : State) (tenant va n : Nat) : Bool :=
  (upFrom va n).any fun p => match s.xlateTables tenant p 0 with
    | .ok pa => s.badAt pa 1
    | .no (.error _) => true
    | _ => false

/-- The groups of `n` bytes of a run, as numbers. -/
def numbersOf (n : Nat) : Nat → List Byte → List Nat
  | 0, _ => []
  | k + 1, bs => leNat (bs.take n) :: numbersOf n k (bs.drop n)

/-- A record that R30 accepts for a source of a tenant, with its uniform image and region list read (R29). -/
def State.checkLaunch (s : State) (r : LaunchRec) (tenant : Nat) : Option Launch :=
  if !r.sound || decide (r.tenant ≠ tenant) then none
  else match s.readTables tenant r.uimg (8 * r.nuni), s.readTables tenant r.rgns (16 * r.nrgn) with
    | some ub, some rb =>
      let es := numbersOf 16 r.nrgn rb
      if es.all listEntryOk && decide (pinnedBytes (es.map listEntry) ≤ 0x80000) then
        some { rec_ := r, uimg := (numbersOf 8 r.nuni ub).map (BitVec.ofNat 64), regions := es.map listEntry,
               seen := [], ended := [], done := false, hidden := [] }
      else none
    | _, _ => none

/-- The uniform image or the region list of a record, which the dispatcher reads, cannot be corrected, in memory or on its way: the
address of that run (R103, R185). -/
def State.recordBad (s : State) (r : LaunchRec) (tenant : Nat) : Option Nat :=
  if !r.sound || decide (r.tenant ≠ tenant) then none
  else if s.tablesBad tenant r.uimg (8 * r.nuni) || (s.marked .outside && decide (0 < r.nuni)) then some r.uimg
  else if s.tablesBad tenant r.rgns (16 * r.nrgn) || (s.marked .outside && decide (0 < r.nrgn)) then some r.rgns else none

/-- What the dispatcher makes of a record whose image and list it reads (R30, R103). -/
def State.acceptRecord (s : State) (r : LaunchRec) (tenant : Nat) : Option Launch :=
  if (s.recordBad r tenant).isSome then none else s.checkLaunch r tenant

/-- The entry of KIND 3 for what the dispatcher could not correct (R103), counted where it is stored (R323). -/
def State.recordError (s : State) (core tenant : Nat) (gid tid : Word) (bad : Option Nat) : State :=
  match bad with
  | none => s
  | some va =>
    let e : FaultEntry := { FaultEntry.blank with kind := 3, cause := 0x21, tenant := tenant, core := core, gid := gid, tid := tid,
                                                  addr := va }
    ((s.postFault (dieOfEntry core) e).countError e).unmark .outside

/-- The dispatcher's reads of a record's uniform image and region list may be served (R88, R90). -/
def State.recordServed (s : State) (r : LaunchRec) (tenant : Nat) : Bool :=
  s.tablesServed tenant r.uimg (8 * r.nuni) 0 && s.tablesServed tenant r.rgns (16 * r.nrgn) 0

/-- A sender's counter may be reached (R88, R90). -/
def State.ackServed (s : State) (core tenant : Nat) (ack : Option Nat) : Bool :=
  match ack with
  | none => true
  | some va => s.engServed core tenant va 8 1

/-! ### Placing a launch (R33) -/

/-- Untaken indices of a pool. -/
def State.poolSize (s : State) (cluster : Nat) : Nat :=
  s.ranges.foldl (fun n r => if r.cluster = cluster then n + (r.b - r.a) else n) 0

/-- The clusters of a tenant. -/
def State.clustersOf (s : State) (tenant : Nat) : List Nat := ((s.tenant tenant).map (·.cfg.clusters)).getD []

/-- The pool of a tenant with the fewest untaken indices; ties go to the lowest cluster number. -/
def State.leastPool (s : State) (tenant : Nat) : Nat :=
  ((List.range Config.clusters).filter (s.clustersOf tenant).contains).foldl
    (fun best c => if best = Config.clusters ∨ s.poolSize c < s.poolSize best then c else best) Config.clusters

/-- Ranges that hold an index. -/
def State.trimRanges (s : State) : State := { s with ranges := s.ranges.filter fun r => decide (r.a < r.b) }

/-- An accepted launch stands in a pool, free or as the local range of a core; one with HI = LO completes at once. -/
def State.addLaunch (s : State) (l : Launch) (cluster : Nat) (owner task : Option Nat) : State :=
  let r : Range := { cluster := cluster, launch := s.nextId, a := l.rec_.lo, b := l.rec_.hi, owner := owner,
                     task := task }
  ({ s.bump with launches := mset s.launches s.nextId l, ranges := s.ranges ++ [r] }).trimRanges.launchCheck s.nextId

/-- An entry of KIND 4 (R31, R169). -/
def State.rejectEntry (s : State) (tenant core : Nat) (gid tid : Word) (va : Nat) : State :=
  s.addFault { FaultEntry.blank with kind := 4, tenant := tenant, core := core, gid := gid, tid := tid, addr := va }

/-- The sender's counter is signal-added (R43, R260).  DESIGN CHOICE (log 92): any fault of its translation, a replayable one
too, makes an entry of KIND 2 and drops the signal. -/
def State.ackSignal (s : State) (core tenant : Nat) (gid tid : Nat) (ack : Option Nat) : State :=
  match ack with
  | none => s
  | some va => match s.xlateEng core tenant va 1 with
    | .ok pa => s.signalAdd core tenant pa (BitVec.ofNat 32 gid) (BitVec.ofNat 32 tid) va
    | .no (.error _) => s.dataError core tenant (BitVec.ofNat 32 gid) (BitVec.ofNat 32 tid) va 1
    | _ => s.postFault (dieOf core) { FaultEntry.blank with
        kind := 2, cause := 0x20, tenant := tenant, core := core, access := 1, gid := BitVec.ofNat 32 gid,
        tid := BitVec.ofNat 32 tid, addr := va }

/-- LAUNCH_QUEUE_ACCEPT (R30, R31, R260): the oldest record of a tenant's launch queue, accepted into the pool of the
issuing core's cluster or rejected with an entry of KIND 4; acknowledged either way.  It is taken once the accesses before its
ENQ have been performed and the columns serve what it reads and signals (R88, R90). -/
def execLaunchQueueAccept (tenant : Nat) (s : State) : Out :=
  .next (match s.tenant tenant with
    | none => s
    | some t => match t.launchQ with
      | [] => s
      | q :: rest =>
        if s.behind q.guid q.tid q.id || !(s.recordServed q.rec_ tenant && s.ackServed q.core tenant q.ack) then s
        else match s.acceptRecord q.rec_ tenant with
        | some l =>
          ((s.setTenant tenant { t with launchQ := rest }).addLaunch l (clusterOf q.core) none none).ackSignal
            q.core tenant q.gid q.tid q.ack
        | none =>
          if s.roomFor q.core then
            let s1 := (s.setTenant tenant { t with launchQ := rest }).rejectEntry tenant q.core (BitVec.ofNat 32 q.gid)
              (BitVec.ofNat 32 q.tid) q.va
            (s1.recordError q.core tenant (BitVec.ofNat 32 q.gid) (BitVec.ofNat 32 q.tid) (s.recordBad q.rec_ tenant)).ackSignal
              q.core tenant q.gid q.tid q.ack
          else s)

/-- The sender's slot in a receiver's task queue is occupied (R42).  DESIGN CHOICE (log 92): until every index of its last record
is taken, or freed by heat. -/
def State.slotBusy (s : State) (sender receiver : Nat) : Bool :=
  s.ranges.any fun r => decide (r.owner = some receiver) && decide (r.task = some sender)

/-- TASK_RECORD_PLACEMENT (R42, R43): the oldest record from a sender to a receiver is placed in the sender's slot,
checked, becomes the receiver's local range, and is acknowledged.  A gang launch, of which no core holds a local range (R38),
stands free in the pool of the receiver's cluster. -/
def execTaskRecordPlacement (sender receiver : Nat) (s : State) : Out :=
  .next (match s.tasks.find? fun t => decide (t.sender = sender) && decide (t.receiver = receiver) with
    | none => s
    | some q =>
      if s.slotBusy sender receiver || s.behind q.guid q.tid q.id ||
          !(s.recordServed q.rec_ q.tenant && s.ackServed sender q.tenant q.ack) then s
      else
        let s1 := { s with tasks := s.tasks.erase q }
        match s.acceptRecord q.rec_ q.tenant with
        | some l =>
          (if (s.core receiver).hot || decide (1 < l.rec_.gang) then s1.addLaunch l (clusterOf receiver) none none
           else s1.addLaunch l (clusterOf receiver) (some receiver) (some sender)).ackSignal sender q.tenant q.gid q.tid
            q.ack
        | none =>
          if s.roomFor sender then
            ((s1.rejectEntry q.tenant sender (BitVec.ofNat 32 q.gid) (BitVec.ofNat 32 q.tid) q.va).recordError sender q.tenant
              (BitVec.ofNat 32 q.gid) (BitVec.ofNat 32 q.tid) (s.recordBad q.rec_ q.tenant)).ackSignal sender q.tenant q.gid
              q.tid q.ack
          else s)

/-! ### Room (R8, R34) -/

/-- Runs of home warps that the resident groups of a core hold: first and count. -/
def State.warpRuns (s : State) (core : Nat) : List (Nat × Nat) :=
  s.groups.flatMap fun (_, g) => if g.core = core then g.blocks.map fun (_, a, n) => (a, n) else []

/-- The lowest run of `n` free home warps in a slot. -/
def freeRunIn (runs : List (Nat × Nat)) (slot n : Nat) : Option Nat :=
  (upFrom (64 * slot) (65 - n)).find? fun a => runs.all fun (b, m) => !overlaps a n b m

/-- Blocks placed in ascending order, given the slots taken (R8). -/
def placeBlocks (runs : List (Nat × Nat)) : List Nat → List Nat → Option (List (Nat × Nat × Nat))
  | _, [] => some []
  | used, n :: ns =>
    match (List.range 4).findSome? fun slot =>
        if used.contains slot then none else (freeRunIn runs slot n).map fun a => (slot, a, n) with
    | none => none
    | some b => (placeBlocks runs (b.1 :: used) ns).map (b :: ·)

/-- Home warps of each block of a group of `t` threads (R8). -/
def blockSizes (t : Nat) : List Nat :=
  let w := (t + 31) / 32
  (List.range ((w + 7) / 8)).map fun b => min 8 (w - 8 * b)

/-- Regions placed one after another by the hamper, as RALLOC would place them (R29): SIZE, RANK, HANDLER. -/
def State.placeList (s : State) (core : Nat) : List Region → List (Nat × Nat × Nat) → Option (List Region)
  | done, [] => some done
  | done, (size, rank, handler) :: rest =>
    if largestRegion rank < size || decide (rank < (s.core core).floor) then none
    else
      let rs := s.coreRegions core ++ done
      let c := s.core core
      let p := size / Config.pageBytes
      let starts := if rank = 7 then List.range 128 else upFrom 128 896
      match (starts.filter fun a => usableRun c rs done rank a p).foldl (betterRun rs p) none with
      | none => none
      | some a => s.placeList core (done ++ [Region.fresh (a * Config.pageBytes) size rank handler false]) rest

/-- Row slots and tiles that the resident groups of a core hold. -/
def State.rowsTiles (s : State) (core : Nat) : Nat × Nat :=
  s.groups.foldl (fun (r, t) (_, g) => if g.core = core then (r + g.rec_.rows, t + g.rec_.acc) else (r, t)) (0, 0)

/-- Room of a core for a group of a record with regions to place (R34): its home-warp blocks and its regions.  The
lane registers of a home warp are its own (R8), so a free home warp has them free. -/
def State.roomWith (s : State) (core : Nat) (r : LaunchRec) (regions : List (Nat × Nat × Nat)) :
    Option (List (Nat × Nat × Nat) × List Region) :=
  let (rows, tiles) := s.rowsTiles core
  if 8 < rows + r.rows ∨ 8 < tiles + r.acc then none
  else match placeBlocks (s.warpRuns core) [] (blockSizes r.threads), s.placeList core [] regions with
    | some bs, some rs => some (bs, rs)
    | _, _ => none

/-- Room of a core for a group of a launch. -/
def State.room (s : State) (core : Nat) (l : Launch) : Option (List (Nat × Nat × Nat) × List Region) :=
  s.roomWith core l.rec_ l.regions

/-! ### A group becomes resident (R9, R29, R34) -/

/-- A thread at its start (R9, R126, R261). -/
def Thread.start (tid nregs now : Nat) (p : Point) : Thread :=
  { tid := tid, run := .runnable, point := p, word := p.word, parkWord := 0, arrival := now, regs := List.replicate nregs 0,
    preds := List.replicate 7 false, handles := List.replicate 8 0, tickets := List.replicate 8 Ticket.fresh,
    fpmode := 0, nflags := 0, batch := 0, batches := [], openOutcome := 0, openFlags := 0, traps := [],
    capFlag := false, lastIssue := now, issuedSince := false, due := none,
    grant := none, later := [], quad := false }

/-- A free row slot. -/
def RowSlot.free : RowSlot := { state := .free, reason := 0, va := 0, pa := 0, since := 0 }

/-- A tile in its initial state (R280): O and l +0, m −∞, a product. -/
def Tile.fresh : Tile := { o := [], m := [], l := [], attention := false }

/-- Staging of a group that has made no take (R279). -/
def Staging.fresh : Staging := { data := [], take := none, empty := true, fill := none, bad := false }

/-- One bundle per home warp, in ascending order (R9). -/
def firstBundles (blocks : List (Nat × Nat × Nat)) (threads : Nat) : List Bundle :=
  (List.range ((threads + 31) / 32)).map fun w =>
    { slot := ((blocks[w / 8]?).map (·.1)).getD 0, tids := (upFrom (32 * w) 32).filter fun t => decide (t < threads),
      collective := false }

/-- Uniform registers of a new group (R9, R29). -/
def firstUniforms (uimg : List Dword) (regions : List Region) : List Dword :=
  let base := (uimg ++ List.replicate 64 0).take 64
  (regions.zipIdx).foldl (fun u (r, k) => setAt u (56 + k) (BitVec.ofNat 64 r.base)) base

/-- A new group of a launch. -/
def Group.start (now core gid launch : Nat) (l : Launch) (gang : Option Nat) (blocks : List (Nat × Nat × Nat))
    (regions : List Region) : Group :=
  let p : Point := { prio := 0, pc := l.rec_.entry / 12, word := 0 }
  { gid := gid, launch := launch, core := core, rec_ := l.rec_, gangOf := gang, blocks := blocks,
    threads := (List.range l.rec_.threads).map fun t => Thread.start t (8 * l.rec_.regs8) now p,
    sregs := firstUniforms l.uimg regions,
    regions := (regions.map some ++ List.replicate 32 none).take 32,
    rows := List.replicate l.rec_.rows RowSlot.free, tiles := List.replicate l.rec_.acc Tile.fresh, cb2 := [],
    staging := Staging.fresh, entries := [Entry.fresh p], bundles := firstBundles blocks l.rec_.threads,
    passes := [0, 0, 0, 0], issues := [0, 0, 0, 0], since := now, underDebug := false, halted := false,
    hangReported := false, stopping := false, moveTo := none }

/-- The core's instruction cache is emptied where this is the launch's first group on it (R192). -/
def State.firstOnCore (s : State) (core launch : Nat) : State :=
  match mget s.launches launch with
  | none => s
  | some l =>
    if l.seen.contains core then s
    else { s.setCore core { s.core core with icache := [] } with
             launches := mset s.launches launch { l with seen := l.seen ++ [core] } }

/-- A group starts on a core with room; without room nothing starts.  Its cluster's cached lines are dropped: what happened
before the ENQ of its record happens before its first packet (R260). -/
def State.startGroup (s : State) (core launch gid : Nat) (gang : Option Nat) : State :=
  match mget s.launches launch with
  | none => s
  | some l => match s.room core l with
    | none => s
    | some (blocks, regions) =>
      let s1 := regions.foldl (fun (s : State) r => s.zeroPad core r.base r.size)
        ((s.firstOnCore core launch).dropCluster (clusterOf core))
      (s1.bump).setGroup s.nextId (Group.start s.stime core gid launch l gang blocks regions)

/-! ### Starts and requests (R34 to R36) -/

/-- The launch of a range. -/
def State.launchOf (s : State) (r : Range) : Option Launch := mget s.launches r.launch

/-- A pre-empted class-0 group of a launch waits to resume (R40). -/
def State.awayOf (s : State) (launch : Nat) : Bool :=
  s.saved.any fun v => decide (v.group.launch = launch) && decide (v.group.rec_.cls = 0)

/-- A core could start an index of a range: a single group, in a pool and on a core of its tenant's clusters (R33, R36), and room. -/
def State.couldRun (s : State) (core : Nat) (r : Range) : Bool :=
  match s.launchOf r with
  | none => false
  | some l => decide (l.rec_.gang = 1) && (s.clustersOf l.rec_.tenant).contains (clusterOf core) &&
      (s.clustersOf l.rec_.tenant).contains r.cluster && !s.awayOf r.launch && (s.room core l).isSome

/-- The class of a range's launch. -/
def State.classOf (s : State) (r : Range) : Nat := ((s.launchOf r).map (·.rec_.cls)).getD 0

/-- The order in which a core starts its ranges (R34): the highest class, then its task queue, then the oldest
accepted, then the lowest index. -/
def State.startsBefore (s : State) (r q : Range) : Bool :=
  if s.classOf r ≠ s.classOf q then decide (s.classOf q < s.classOf r)
  else if r.task.isSome ≠ q.task.isSome then r.task.isSome
  else if r.launch ≠ q.launch then decide (r.launch < q.launch) else decide (r.a < q.a)

/-- The first of a list by an order. -/
def firstBy {α : Type} (before : α → α → Bool) : List α → Option α
  | [] => none
  | x :: xs => match firstBy before xs with
    | none => some x
    | some y => if before y x then some y else some x

/-- Untaken indices of a core's own. -/
def State.ownRanges (s : State) (core : Nat) : List Range := s.ranges.filter fun r => decide (r.owner = some core)

/-- A range of a pool changed. -/
def State.setRange (s : State) (r q : Range) : State :=
  ({ s with ranges := s.ranges.map fun x => if x = r then q else x }).trimRanges

/-- GROUP_START (R34): a core that is not hot starts the lowest untaken index of the launch chosen from its own
ranges. -/
def execGroupStart (core : Nat) (s : State) : Out :=
  .next (if (s.core core).hot then s
    else match firstBy s.startsBefore ((s.ownRanges core).filter (s.couldRun core)) with
      | none => s
      | some r => (s.startGroup core r.launch r.a none).setRange r { r with a := r.a + 1 })

/-- The largest of a launch's ranges in a pool; ties go to the lower start (R35). -/
def State.largestRange (s : State) (cluster launch : Nat) : Option Range :=
  firstBy (fun r q => if r.b - r.a ≠ q.b - q.a then decide (q.b - q.a < r.b - r.a) else decide (r.a < q.a))
    (s.ranges.filter fun r => decide (r.cluster = cluster) && decide (r.launch = launch))

/-- A request of a core for a launch is served from a pool (R35); %lo and %hi show the given range. -/
def State.serveFrom (s : State) (core cluster launch : Nat) : State :=
  match s.largestRange cluster launch with
  | none => s
  | some u =>
    let h := (u.b - u.a + 1) / 2
    let (a, b, left) := match u.owner with
      | none => (u.a, u.a + h, { u with a := u.a + h })
      | some _ => (u.b - h, u.b, { u with b := u.b - h })
    let given : Range := { cluster := clusterOf core, launch := launch, a := a, b := b, owner := some core,
                           task := none }
    let s1 := s.setRange u left
    ({ s1 with ranges := s1.ranges ++ [given] }).setCore core { s.core core with lo := a, hi := b }

/-- The launch a core asks a pool for among those it could run: the highest class, then the oldest accepted. -/
def State.wanted (s : State) (cluster : Nat) (ok : Range → Bool) : Option Nat :=
  (firstBy (fun r q => if s.classOf r ≠ s.classOf q then decide (s.classOf q < s.classOf r)
    else decide (r.launch < q.launch))
    (s.ranges.filter fun r => decide (r.cluster = cluster) && ok r)).map (·.launch)

/-- The longest range of a pool among those that pass a test. -/
def State.longest (s : State) (cluster : Nat) (ok : Range → Bool) : Nat :=
  (s.ranges.filter fun r => decide (r.cluster = cluster) && ok r).foldl (fun n r => max n (r.b - r.a)) 0

/-- The pool and the launch that serve a request of a core for a range that passes a test (R35, R36): its own pool, else the other
cluster whose largest such range is longest, ties to the lowest cluster. -/
def State.server (s : State) (core : Nat) (ok : Range → Bool) : Option (Nat × Nat) :=
  match s.wanted (clusterOf core) ok with
  | some l => some (clusterOf core, l)
  | none =>
    let best := (List.range Config.clusters).foldl
      (fun best c => if s.longest best ok < s.longest c ok then c else best) 0
    (s.wanted best ok).map fun l => (best, l)

/-- A request of a core for a range that passes a test (R35, R36). -/
def State.request (s : State) (core : Nat) (ok : Range → Bool) : State :=
  match s.server core ok with
  | some (c, l) => s.serveFrom core c l
  | none => s

/-- A request that is served is the core's one request of the clock (R34). -/
def State.askOnce (s t : State) (core : Nat) : State :=
  if (t.ownRanges core).isEmpty then t
  else { t.setCore core { t.core core with asks := s.stime + 1, served := s.stime + 1 } with servedAt := s.stime + 1 }

/-- The local range of a launch on a core; none for a gang launch. -/
def State.localRange (s : State) (core launch : Nat) : Option Range :=
  firstBy (fun r q => decide (r.a < q.a)) ((s.ownRanges core).filter fun r => decide (r.launch = launch))

/-- The result of GRANGE.take (R268): the index and the end of the local range after the take, or the failure pair. -/
def Thread.setTake (t : Thread) (d : Code) (p : Pred) (r : Option Range) : Thread :=
  match r with
  | some r => ((t.setRegAt d 0 (BitVec.ofNat 32 r.a)).setRegAt d 1 (BitVec.ofNat 32 r.b)).setPred p true
  | none => ((t.setRegAt d 0 0xFFFFFFFF#32).setRegAt d 1 0).setPred p false

/-- A thread takes the lowest untaken index of a range, or finds none. -/
def State.takeFrom (s : State) (guid tid : Nat) (d : Code) (p : Pred) (got : Option Range) : State :=
  let s1 := match got with
    | some r => s.setRange r { r with a := r.a + 1 }
    | none => s
  s1.onThread guid tid fun u => u.setTake d p got

/-- A thread takes the lowest untaken index of its core's local range of its launch, none where there is none. -/
def State.takeLocal (s : State) (guid tid : Nat) (g : Group) (d : Code) (p : Pred) : State :=
  s.takeFrom guid tid d p (s.localRange g.core g.launch)

/-- A thread parked on a request by GRANGE.take: when it issued, its slot and home lane; its group and index, its destination, and
where it goes on. -/
structure GrangeWait where
  issued : Nat
  slot : Nat
  lane : Nat
  taker : Nat × Group × Nat × Code × Pred × Point

/-- Threads parked on a request by GRANGE.take are served in the order in which they issued, those of one bundle by home lane
(R19, R268). -/
def GrangeWait.before (a b : GrangeWait) : Bool :=
  if a.issued ≠ b.issued then decide (a.issued < b.issued)
  else if a.slot ≠ b.slot then decide (a.slot < b.slot) else decide (a.lane < b.lane)

/-- The threads of a group that wait on a request by GRANGE.take. -/
def Group.grangeWaits (guid : Nat) (g : Group) : List GrangeWait :=
  g.threads.filterMap fun t => match t.run with
    | .parked (.grange d p) _ next => some ⟨t.lastIssue, g.slotOf t.tid, laneOf t.tid, (guid, g, t.tid, d, p, next)⟩
    | _ => none

/-- The first thread of a core that waits on a request by GRANGE.take: its group and index, its destination, and where it goes
on. -/
def State.grangeWaiter (s : State) (core : Nat) : Option (Nat × Group × Nat × Code × Pred × Point) :=
  (firstBy GrangeWait.before (s.groups.flatMap fun (guid, g) => if g.core = core then g.grangeWaits guid else [])).map (·.taker)

/-- The request of a thread parked in GRANGE.take is served by R35 and R36, none being made by a hot core, and the thread goes on
with the lowest index of what it was given. -/
def State.serveGrange (s : State) (guid : Nat) (g : Group) (tid : Nat) (d : Code) (p : Pred) (next : Point) : State :=
  let ok := fun (r : Range) => decide (r.launch = g.launch) && (s.clustersOf g.rec_.tenant).contains r.cluster
  let s1 := if (s.core g.core).hot || (s.server g.core ok).isNone then s.takeFrom guid tid d p none
    else
      let given := s.request g.core ok
      State.takeFrom { given.setCore g.core { given.core g.core with served := s.stime + 1 } with servedAt := s.stime + 1 }
        guid tid d p given.ranges.getLast?
  s1.goOn guid tid next

/-- CORE_REQUEST (R34 to R36): the request of a thread parked in GRANGE.take; else a core with no untaken index of its own that
is not hot and has room requests, once in a clock. -/
def execCoreRequest (core : Nat) (s : State) : Out :=
  .next (match s.grangeWaiter core with
    | some (guid, g, tid, d, p, next) => s.serveGrange guid g tid d p next
    | none =>
    if (s.core core).hot || !(s.ownRanges core).isEmpty || decide (s.stime < (s.core core).asks) then s
    else s.askOnce (s.request core (s.couldRun core)) core)

/-! ### Gangs and classes (R38 to R40) -/

/-- A window of cores of the launch's tenant (R33), each not hot and with room for a launch (R38). -/
def State.windowOk (s : State) (l : Launch) (c : Nat) : Bool :=
  (s.clustersOf l.rec_.tenant).contains (clusterOf c) && (upFrom c l.rec_.gang).all fun core => !(s.core core).hot && (s.room core l).isSome

/-- The first cores of the windows of a cluster for a gang of `g`. -/
def windowsOf (cluster g : Nat) : List Nat := upFrom (cluster * Config.coresPerCluster) (Config.coresPerCluster + 1 - g)

/-- The gang ranges of a cluster's pool, by class and age. -/
def State.gangRanges (s : State) (cluster : Nat) : List (Range × Launch) :=
  s.ranges.filterMap fun r => match s.launchOf r with
    | some l => if decide (r.cluster = cluster) && decide (1 < l.rec_.gang) then some (r, l) else none
    | none => none

/-- Gangs by class, then age, then index.  DESIGN CHOICE (log 92): R38 orders the gangs of one launch alone. -/
def gangBefore (p q : Range × Launch) : Bool :=
  if p.2.rec_.cls ≠ q.2.rec_.cls then decide (q.2.rec_.cls < p.2.rec_.cls)
  else if p.1.launch ≠ q.1.launch then decide (p.1.launch < q.1.launch) else decide (p.1.a < q.1.a)

/-- A gang's members start on the cores of a window, all resident in the same clock. -/
def State.startGang (s : State) (r : Range) (l : Launch) (c : Nat) : State :=
  ((List.range l.rec_.gang).foldl (fun (t : State) m => t.startGroup (c + m) r.launch (r.a + m) (some s.nextId)) s).setRange
    r { r with a := r.a + l.rec_.gang }

/-- GANG_START (R38). -/
def execGangStart (cluster : Nat) (s : State) : Out :=
  .next (match firstBy gangBefore ((s.gangRanges cluster).filter fun (r, l) =>
      !s.awayOf r.launch && (windowsOf cluster l.rec_.gang).any (s.windowOk l)) with
    | none => s
    | some (r, l) => match (windowsOf cluster l.rec_.gang).find? (s.windowOk l) with
      | none => s
      | some c => s.startGang r l c)

/-- A region after its group has left the core (R83, R84): carried with CLAIM clear, or a Lost entry that reserves no pages.  A
claim of a region Lost before is held on (R81).  DESIGN CHOICE (log 102): such a region too reserves no pages from then on. -/
def Region.afterLeave (pthr : Nat) (r : Region) : Region :=
  if !r.lost && decide (pthr ≤ r.rank ∨ r.rank = 7) then { r with claim := none }
  else { r with lost := true, dropped := true, claim := if r.lost then r.claim else none }

/-- A region's pages at its former address are usable on a core (R83). -/
def State.canReturn (s : State) (core : Nat) (own : List Region) (r : Region) : Bool :=
  usableRun (s.core core) (s.coreRegions core) own r.rank (r.base / Config.pageBytes) (r.size / Config.pageBytes)

/-- Room of a core for a group that comes back or moves (R83, R172): its rows, tiles and home-warp blocks, and each
carried region at its former address. -/
def State.roomBack (s : State) (core : Nat) (g : Group) (held : List Region) : Option (List (Nat × Nat × Nat)) :=
  let (rows, tiles) := s.rowsTiles core
  let carried := g.entriesOf.filter fun r => !r.lost && decide (g.rec_.pthr ≤ r.rank ∨ r.rank = 7) && !held.contains r
  if 8 < rows + g.rec_.rows ∨ 8 < tiles + g.rec_.acc then none
  else if carried.all (s.canReturn core []) then placeBlocks (s.warpRuns core) [] (blockSizes g.rec_.threads)
  else none

/-- The group owns a live synchronisation group of its core, whose spill area keeps it at home (R140). -/
def State.homes (s : State) (guid : Nat) (g : Group) : Bool :=
  (s.core g.core).sync.any fun (_, slot) => match slot.group with
    | some y => decide (y.owner = guid)
    | none => false

/-- A region holds the spill area of a live synchronisation group of its core (R140), a Lost one in a bank that stays lit
too (log 70). -/
def State.holdsSpill (s : State) (core : Nat) (r : Region) : Bool :=
  (s.core core).sync.any fun (_, slot) => match slot.group with
    | some y => (r.covers y.spill) && !r.dropped && !r.darkened.contains (y.spill / Config.bankBytes)
    | none => false

/-- A region is carried when its group leaves its core (R83): not lost, not held, and of rank PTHR or above. -/
def State.carries (s : State) (g : Group) (r : Region) : Bool :=
  !r.lost && !s.holdsSpill g.core r && decide (g.rec_.pthr ≤ r.rank ∨ r.rank = 7)

/-- Bytes of the save area of a group (R170). -/
def State.saveSize (s : State) (g : Group) : Nat :=
  4096 + g.rec_.threads * (256 + 32 * g.rec_.regs8) + 16896 * g.rec_.acc +
  (g.entriesOf.filter (s.carries g)).foldl (fun n r => n + r.size) 0

/-- The save pool of a tenant has room for some more bytes (R170). -/
def State.poolRoom (s : State) (tenant n : Nat) : Bool :=
  match s.tenant tenant with
  | some t => decide (t.saveUsed + n ≤ t.cfg.saveBytes)
  | none => false

/-- Groups of a core, by guid. -/
def State.groupsOn (s : State) (core : Nat) : List (Nat × Group) := s.groups.filter fun (_, g) => decide (g.core = core)

/-- An element put into a sorted list. -/
def insertBy {α : Type} (le : α → α → Bool) (x : α) : List α → List α
  | [] => [x]
  | y :: ys => if le x y then x :: y :: ys else y :: insertBy le x ys

/-- A list sorted by an order, equal elements in the order they stood. -/
def sortBy {α : Type} (le : α → α → Bool) : List α → List α
  | [] => []
  | x :: xs => insertBy le x (sortBy le xs)

/-- Groups of one window in the order of R39. -/
def State.windowGroups (s : State) (c g : Nat) : List (Nat × Group) :=
  (upFrom c g).flatMap fun core => sortBy (fun p q => decide (p.2.gid ≤ q.2.gid)) (s.groupsOn core)

/-- The window holds only cores that are not hot and groups that may move (R39). -/
def State.windowMovable (s : State) (l : Launch) (c : Nat) : Bool :=
  ((upFrom c l.rec_.gang).all fun core => !(s.core core).hot) &&
  (s.windowGroups c l.rec_.gang).all fun (guid, g) =>
    g.gangOf.isNone && decide (g.rec_.cls ≤ l.rec_.cls) && !g.stopping && !s.homes guid g &&
    s.poolRoom g.rec_.tenant (s.saveSize g)

/-- Cores for the groups of a window, each outside it, not hot, and with room beside the groups placed before (R39). -/
def State.planMoves (s : State) (cluster c g : Nat) : List (Nat × Group) → Option (List (Nat × Nat))
  | [] => some []
  | (guid, x) :: rest =>
    let outside := (upFrom (cluster * Config.coresPerCluster) Config.coresPerCluster).filter
      fun core => decide (core < c) || decide (c + g ≤ core)
    match outside.find? fun core => !(s.core core).hot && (s.roomBack core x []).isSome with
    | none => none
    | some core => match s.roomBack core x [] with
      | none => none
      | some blocks =>
        let moved : Group := { x with core := core, blocks := blocks,
                                      regions := x.regions.map (Option.map (Region.afterLeave x.rec_.pthr)) }
        ((s.setGroup guid moved).planMoves cluster c g rest).map ((guid, core) :: ·)

/-- Groups set to stop and to resume on named cores. -/
def State.setMoves (s : State) (ms : List (Nat × Nat)) : State :=
  ms.foldl (fun (s : State) (guid, core) => s.onGroup guid fun g => { g with stopping := true, moveTo := some core }) s

/-- GANG_MIGRATION (R39): for the first gang of a pool with no free window, the clearable window with the fewest groups
is cleared. -/
def execGangMigration (cluster : Nat) (s : State) : Out :=
  .next (match firstBy gangBefore (s.gangRanges cluster) with
    | none => s
    | some (_, l) =>
      let ws := windowsOf cluster l.rec_.gang
      if ws.any (s.windowOk l) || (s.groups.any fun (_, g) => decide (clusterOf g.core = cluster) && g.moveTo.isSome) then s
      else
        let plans := ws.filterMap fun c =>
          if s.windowMovable l c then s.planMoves cluster c l.rec_.gang (s.windowGroups c l.rec_.gang) else none
        match firstBy (fun (p q : List (Nat × Nat)) => decide (p.length < q.length)) plans with
        | none => s
        | some ms => s.setMoves ms)

/-- Some core of a launch's tenant has room for it (R40), a hot one too: heat is no part of the room of R34. -/
def State.someRoom (s : State) (l : Launch) : Bool :=
  (s.clustersOf l.rec_.tenant).any fun cl => (upFrom (cl * Config.coresPerCluster) Config.coresPerCluster).any
    fun core => (s.room core l).isSome

/-- The class-0 groups that class 3 may pre-empt: on clusters of the tenant, not stopping yet.  DESIGN CHOICE (log 92): one whose
save pool has no room is passed over for the next. -/
def State.victims (s : State) (l : Launch) : List (Nat × Group) :=
  s.groups.filter fun (_, g) => decide (g.rec_.cls = 0) && !g.stopping &&
    s.poolRoom g.rec_.tenant (s.saveSize g) && (s.clustersOf l.rec_.tenant).contains (clusterOf g.core)

/-- A group, with the members of its gang, is told to stop (R40, R171 step 1). -/
def State.stopGroup (s : State) (guid : Nat) : State :=
  match s.group guid with
  | none => s
  | some x => { s with groups := s.groups.map fun (k, g) =>
      (k, if k = guid ∨ sameGang x g then { g with stopping := true } else g) }

/-- CLASS_PREEMPTION (R40): a class-3 launch with untaken indices and no room anywhere pre-empts the class-0 group that
has been resident longest, once that is 120,000 ck, and so on until a core has room.  DESIGN CHOICE (log 92): of groups resident
equally long the one that started first is taken. -/
def execClassPreemption (launch : Nat) (s : State) : Out :=
  .next (match mget s.launches launch with
    | none => s
    | some l =>
      if decide (l.rec_.cls ≠ 3) || !(s.ranges.any fun r => decide (r.launch = launch)) || s.someRoom l then s
      else match firstBy (fun (p q : Nat × Group) => decide (p.2.since < q.2.since)) (s.victims l) with
        | none => s
        | some (guid, g) => if g.since + 120000 ≤ s.stime then s.stopGroup guid else s)

/-- A core becomes hot (R37): its remainder and the records waiting in its task queue become free ranges. -/
def State.freeRanges (s : State) (core : Nat) : State :=
  { s with ranges := s.ranges.map fun r => if r.owner = some core then { r with owner := none, task := none } else r }

/-! ### GRANGE (R268) -/

/-- GRANGE.read. -/
def execGrangeRead (f : LGrange) (s : State) : Out :=
  .next (s.eachActive fun s c g t =>
    let (a, b) := match s.localRange g.core g.launch with | some r => (r.a, r.b) | none => (0, 0)
    s.onThread c.guid t.tid fun u =>
      ((u.setRegAt f.d 0 (BitVec.ofNat 32 a)).setRegAt f.d 1 (BitVec.ofNat 32 b)).setPred f.p (decide (a < b)))

/-- One thread of GRANGE.take: from the local range; else it parks for a request for its launch, which CORE_REQUEST serves
(R231), or, on a hot core, finds nothing. -/
def State.grangeLane (s : State) (c : Ctx) (g : Group) (t : Thread) (f : LGrange) : State :=
  if (s.localRange g.core g.launch).isNone && !(s.core g.core).hot then s.await t.tid (.grange f.d f.p)
  else s.takeLocal c.guid t.tid g f.d f.p

/-- GRANGE.take; in a gang launch it traps 0x01. -/
def execGrangeTake (f : LGrange) (s : State) : Out :=
  .next (s.eachActive fun s c g t => if 1 < g.rec_.gang then s.illegal c t.tid else s.grangeLane c g t f)

/-! ### ENQ (R260) -/

/-- The 64-byte record at a DRAM address, for the thread that enqueues it: translated like its own loads. -/
inductive RecRead
  | ok (r : LaunchRec)
  | miss (va : Nat)
  | fatal (code : Byte) (va : Nat)

/-- Reading the record. -/
def State.readRecord (s : State) (g : Group) (va : Nat) : RecRead :=
  match (pagesOf va 64).find? fun p => match s.xlateRead g.core g.rec_.tenant p 0 with | .ok _ => false | _ => true with
  | some p => match s.xlateRead g.core g.rec_.tenant p 0 with
    | .miss => .miss p
    | _ => .fatal 0x20 p
  | none =>
    let place := fun a => match s.xlate g.core g.rec_.tenant a 0 with | .ok pa => pa | _ => 0
    if (upFrom va 64).any fun a => s.readBad g.core (place a) 1 then .fatal 0x21 va
    else .ok (LaunchRec.ofNat (leNat ((upFrom va 64).flatMap fun a => s.devRead (place a) 1)))

/-- The record goes to the launch queue or the outbound buffer; PD says whether there was room. -/
def State.enqueue (s : State) (c : Ctx) (g : Group) (t : Thread) (f : LEq) (va : Nat) (r : LaunchRec)
    (ack : Option Nat) : State :=
  let put := fun (s : State) (b : Bool) => s.onThread c.guid t.tid fun u => u.setPred f.pd b
  if f.lq then
    match s.tenant g.rec_.tenant with
    | none => put s false
    | some x =>
      if Config.launchQueueLen ≤ x.launchQ.length then put s false
      else
        let q : QueuedLaunch := { rec_ := r, va := va, core := g.core, gid := g.gid, tid := t.tid, ack := ack,
                                  guid := c.guid, id := s.nextId }
        put (s.bump.setTenant g.rec_.tenant { x with launchQ := x.launchQ ++ [q] }) true
  else if Config.outboundLen ≤ (s.tasks.filter fun q => decide (q.sender = g.core)).length then put s false
  else
    let q : TaskRec := { sender := g.core, receiver := (c.val t f.a).toNat, tenant := g.rec_.tenant, rec_ := r,
                         va := va, gid := g.gid, tid := t.tid, ack := ack, guid := c.guid, id := s.nextId }
    put { s.bump with tasks := s.tasks ++ [q] } true

/-- A core of the issuing tenant, as A names it. -/
def State.coreOf (s : State) (tenant a : Nat) : Bool :=
  decide (a < Config.cores) && (s.clustersOf tenant).contains (a / Config.coresPerCluster)

/-- One thread of ENQ: alignment, the named core, the record, the queue. -/
def State.enqLane (s : State) (c : Ctx) (g : Group) (t : Thread) (f : LEq) : State :=
  let va := (c.uni g f.u.toNat).toNat
  let ack := (c.uni g (f.u.toNat + 1)).toNat
  if va % 8 ≠ 0 then s.raise t.tid 0x01 (BitVec.ofNat 64 va) 0 0
  else if f.ack ∧ ack % 8 ≠ 0 then s.raise t.tid 0x01 (BitVec.ofNat 64 ack) 0 0
  else if !f.lq && !s.coreOf g.rec_.tenant (c.val t f.a).toNat then s.raise t.tid 0x01 ((c.val t f.a).setWidth 64) 0 0
  else match s.readRecord g va with
    | .miss p => s.missing t.tid p 0
    | .fatal code a => s.raise t.tid code (BitVec.ofNat 64 a) 0 0
    | .ok r => s.enqueue c g t f va r (if f.ack then some ack else none)

/-- ENQ (R260). -/
def execEnq (f : LEq) (s : State) : Out :=
  .next (s.eachActive fun s c g t => s.enqLane c g t f)

end Sys2Proof.Machine
end

