-- ==== Sys2Proof/Machine/Copies.lean ====
section
/-! DEFINITION. Engine commands in general (R25, R71, R320), and the copy engine (R72, R73, R116, R121, R251 to R253). -/

namespace Sys2Proof.Machine

/-! ### One engine command per active thread -/

/-- What the checks of one engine command at issue give. -/
inductive EngRes (α : Type)
  | go (a : α)
  | trap (code : Byte) (tval : Dword) (handler : Nat)
  | miss (va access : Nat)
  | wait (w : Wait)

/-- A further check after one that passed. -/
def EngRes.andThen {α β : Type} (r : EngRes α) (f : α → EngRes β) : EngRes β :=
  match r with
  | .go a => f a
  | .trap code tval h => .trap code tval h
  | .miss va access => .miss va access
  | .wait w => .wait w

/-- A condition whose breach traps 0x01. -/
def EngRes.require (b : Bool) (tval : Dword) : EngRes Unit := if b then .go () else .trap 0x01 tval 0

/-- The home lanes whose command fails the bounds check in this issue (R71). -/
def boundsMask {α : Type} (check : Ctx → Group → Thread → EngRes α) (c : Ctx) (g : Group) : Word :=
  c.active.foldl (fun m tid => match (g.thread tid).map (check c g) with
    | some (.trap 0x10 _ _) => m ||| (1#32 <<< laneOf tid)
    | _ => m) 0

/-- A command of each active thread in ascending home-lane order (R25): checked, then started, or its thread traps or
parks. -/
def State.engEach {α : Type} (s : State) (check : State → Ctx → Group → Thread → EngRes α)
    (act : State → Ctx → Group → Thread → α → State) : State :=
  s.issue fun c0 g0 =>
    let mask := boundsMask (check s) c0 g0
    s.eachActive fun s c g t => match check s c g t with
      | .go a => act s c g t a
      | .trap code tval h => s.raise t.tid code tval (if code = 0x10 then mask else 0) h
      | .miss va access => s.missing t.tid va access
      | .wait w => s.retry t.tid w

/-- Bytes that an engine instruction reads when it issues, by loads at device scope: `n` bytes within one page. -/
def State.engRead (s : State) (g : Group) (va n : Nat) : EngRes (List Byte) :=
  match s.xlateRead g.core g.rec_.tenant va 0 with
  | .miss => .miss va 0
  | .no _ => .trap 0x20 (BitVec.ofNat 64 va) 0
  | .ok pa => if s.readBad g.core pa n then .trap 0x21 (BitVec.ofNat 64 va) 0 else .go (s.devRead pa n)

/-- A scratchpad run in bounds, every byte in one region, else 0x10 with its first failing address (R71). -/
def State.inBounds (s : State) (g : Group) (addr n : Nat) : EngRes Unit :=
  match s.padRun g addr n with
  | .bounds a => .trap 0x10 (BitVec.ofNat 64 a) 0
  | _ => .go ()

/-- A scratchpad run not Lost, else 0x11 with its first Lost address. -/
def State.notLost (s : State) (g : Group) (addr n : Nat) : EngRes Unit :=
  match s.padRun g addr n with
  | .lost a h => .trap 0x11 (BitVec.ofNat 64 a) h
  | _ => .go ()

/-- The memory key of a scratchpad address from a core. -/
def keyOf (core addr : Nat) : Nat :=
  match resolve core addr with
  | some (c, a) => padKey c a
  | none => 0

/-! ### The descriptor (R251) -/

/-- A 56-bit two's complement field. -/
def signed56 (n : Nat) : Int := if n < 2 ^ 55 then Int.ofNat n else Int.ofNat n - 2 ^ 56

/-- The dimensions of a descriptor and its geometry record, NDIM of them. -/
def copyDims (d geo : Nat) : List CopyDim :=
  let dim := fun (i : Nat) => match i with
    | 0 => { win := bits d 399 384, size := bits d 415 400, int := bits d 255 248, stride := 1 : CopyDim }
    | 1 => { win := bits d 431 416, size := bits d 447 432, int := bits d 319 312, stride := signed56 (bits d 247 192) }
    | 2 => { win := bits d 463 448, size := bits d 479 464, int := bits d 487 480, stride := signed56 (bits d 311 256) }
    | i =>
      let w := 256 + 32 * (i - 3)
      { win := bits geo (w + 15) w, size := bits geo (w + 31) (w + 16), int := 1,
        stride := signed56 (bits geo (64 * (i - 3) + 55) (64 * (i - 3))) }
  (List.range (bits d 127 125)).map dim

/-- A dimension is in range (R251). -/
def CopyDim.ok (d : CopyDim) : Bool :=
  decide (1 ≤ d.int) && decide (1 ≤ d.size) && decide (1 ≤ d.win) && decide (d.win ≤ d.size)

/-- The fields of dimensions 1 and 2 are 0 where the copy does not use them, and GEO keeps its rule. -/
def unusedOk (d : Nat) : Bool :=
  let nd := bits d 127 125
  decide (2 ≤ nd ∨ (bits d 431 416 = 0 ∧ bits d 447 432 = 0 ∧ bits d 319 312 = 0 ∧ bits d 247 192 = 0)) &&
  decide (3 ≤ nd ∨ (bits d 463 448 = 0 ∧ bits d 479 464 = 0 ∧ bits d 487 480 = 0 ∧ bits d 311 256 = 0)) &&
  (if 4 ≤ nd then decide (bits d 376 320 % 64 = 0) else decide (bits d 376 320 = 0))

/-- A geometry record's reserved fields are 0, and so are those of dimensions it does not use (R251). -/
def geoOk (nd geo : Nat) : Bool :=
  decide (bits geo 511 384 = 0) && (List.range 4).all fun i =>
    decide (bits geo (64 * i + 63) (64 * i + 56) = 0) &&
    decide (i + 3 < nd ∨ (bits geo (64 * i + 55) (64 * i) = 0 ∧ bits geo (256 + 32 * i + 31) (256 + 32 * i) = 0))

/-- The descriptor's own fields are sound (R253). -/
def descOk (d : Nat) : Bool :=
  decide (bits d 511 488 = 0 ∧ bits d 383 377 = 0 ∧ bits d 191 189 = 0) && decide (1 ≤ bits d 127 125) &&
  decide (bits d 63 60 < 12 ∧ bits d 188 185 < 12 ∧ bits d 124 122 < 5) && decide (bits d 184 128 % 8 = 0) &&
  (!bit d 57 || decide (bits d 56 32 = 0)) && (!bit d 58 || decide (bits d 120 96 = 0)) &&
  (!bit d 59 || decide (bits d 184 160 = 0)) && unusedOk d

/-- The chunks of a destination run of `n` bytes from `daddr` (R253); `place` gives a chunk's place. -/
def chunksOf (daddr n : Nat) (place : Nat → Nat) : List Chunk :=
  if n = 0 then []
  else (List.range ((daddr + n - 1) / 256 - daddr / 256 + 1)).map fun i =>
    let a := if i = 0 then daddr else (daddr / 256 + i) * 256
    let e := min (daddr + n) ((daddr / 256 + i + 1) * 256)
    { num := i, off := a - daddr, addr := place a, len := e - a, dead := false, srcGone := false, void := false }

/-- A copy of a descriptor, its chunks cut. -/
def Copy.make (s : State) (c : Ctx) (g : Group) (t : Thread) (d geo : Nat) : Copy :=
  let dims := copyDims d geo
  let dsp := bit d 58
  let daddr := bits d 120 64
  let run := (copyCount dims * fmtBits (bits d 188 185) + 7) / 8
  let rnd := bits d 124 122
  { id := s.nextId, core := g.core, guid := c.guid, tid := t.tid, tenant := g.rec_.tenant, gid := g.gid, dims := dims,
    saddr := bits d 56 0, daddr := daddr, ctr := bits d 184 128, ssp := bit d 57, dsp := dsp, csp := bit d 59,
    sfmt := bits d 63 60, dfmt := bits d 188 185, rnd := if rnd = 4 then (c.source t).fpmode.toNat else rnd,
    sat := bit d 121, owed := chunksOf daddr run fun a => if dsp then keyOf g.core a else a, batch := none,
    outcome := 0, flags := 0, paused := none, kept := [] }

/-- Bytes of the destination run. -/
def Copy.run (c : Copy) : Nat := (copyCount c.dims * fmtBits c.dfmt + 7) / 8

/-- The first sampled scratchpad byte of the source that passes a test of one address. -/
def Copy.firstSource {α : Type} (c : Copy) (test : Int → Option α) : Option α :=
  (List.range (copyCount c.dims)).findSome? fun k => match copySource c.dims k with
    | none => none
    | some e => (List.range (elemBytes c.sfmt)).findSome? fun i => test (c.srcAddr e + Int.ofNat i)

/-- The region that a scratchpad address of a group lies in: the core and the base. -/
def State.regionOf (s : State) (g : Group) (addr : Nat) : Option (Nat × Nat) :=
  (resolve g.core addr).bind fun (core, a) => (s.visible g core a).map fun (_, r) => (core, r.base)

/-- A sampled source byte fails R71: it lies in no region, in a spill area, or in another region than the copy's first. -/
def State.sourceOut (s : State) (g : Group) (home : Option (Nat × Nat)) (a : Int) : Option Int :=
  if a < 0 then some a
  else match s.padCheck g a.toNat 1 with
    | .bounds _ => some a
    | _ => if s.regionOf g a.toNat = home then none else some a

/-- The copy has a completion counter (R251; log 93): CTR is not 0, or names scratchpad. -/
def Copy.counts (c : Copy) : Bool := c.csp || decide (c.ctr ≠ 0)

/-- The scratchpad checks of a copy (R253): bounds of source, destination and counter, then Lost source or counter. -/
def Copy.padChecks (s : State) (g : Group) (c : Copy) : EngRes Unit :=
  let home := (c.firstSource some).bind fun a => s.regionOf g a.toNat
  let lost := fun (a : Int) => match s.padCheck g a.toNat 1 with | .lost x h => some (x, h) | _ => none
  let source : EngRes Unit := if !c.ssp then .go () else match c.firstSource (s.sourceOut g home) with
    | some a => .trap 0x10 (BitVec.ofInt 64 a) 0
    | none => .go ()
  let sourceLost : EngRes Unit := if !c.ssp then .go () else match c.firstSource lost with
    | some (a, h) => .trap 0x11 (BitVec.ofNat 64 a) h
    | none => .go ()
  let counter := c.csp
  source.andThen fun _ => (if c.dsp then s.inBounds g c.daddr c.run else .go ()).andThen fun _ =>
    (if counter then s.inBounds g c.ctr 8 else .go ()).andThen fun _ => sourceLost.andThen fun _ =>
      if counter then s.notLost g c.ctr 8 else .go ()

/-- The checks of CPY at issue (R253): the descriptor and its geometry are read and checked, then the scratchpad runs,
then room among the core's copies. -/
def State.cpyCheck (s : State) (f : LE) (c : Ctx) (g : Group) (t : Thread) : EngRes Copy :=
  let va := (c.uni g f.u.toNat).toNat
  let bad : Dword := BitVec.ofNat 64 va
  (EngRes.require (va % 64 == 0) bad).andThen fun _ => (s.engRead g va 64).andThen fun bs =>
    let d := leNat bs
    (EngRes.require (descOk d) bad).andThen fun _ =>
      (if 4 ≤ bits d 127 125 then s.engRead g (bits d 376 320) 64 else .go []).andThen fun gs =>
        let geo := leNat gs
        (EngRes.require (geoOk (bits d 127 125) geo && (copyDims d geo).all CopyDim.ok) bad).andThen fun _ =>
          let x := Copy.make s c g t d geo
          (x.padChecks s g).andThen fun _ =>
            if Config.copiesPerCore ≤ (s.copies.filter fun y => decide (y.core = g.core)).length then .wait .copyRoom
            else .go x

/-- A chunk whose destination is Lost is not made Pending and will be discarded (R72). -/
def State.markLost (s : State) (g : Group) (c : Copy) : Copy :=
  if !c.dsp then c
  else { c with owed := c.owed.map fun ch => match s.padCheck g (c.daddr + ch.off) 1 with
    | .lost _ _ => { ch with dead := true }
    | _ => ch }

/-- CPY (R251 to R253): once per active thread, the copy starts and its destination lines become Pending. -/
def execCpy (f : LE) (s : State) : Out :=
  .next (s.engEach (fun s c g t => s.cpyCheck f c g t) fun s _ g _ x =>
    { s.bump with copies := s.copies ++ [s.markLost g { x with id := s.nextId }] })

/-! ### Landings -/

/-- Outcomes of CSTAT (R255). -/
def outDest : Nat := 1
/-- Source lost. -/
def outSource : Nat := 2
/-- Cancelled. -/
def outCancelled : Nat := 3
/-- Fault. -/
def outFault : Nat := 4
/-- Data error. -/
def outData : Nat := 5

/-- An outcome and flags met by a thread's copy go to its batch's record, or to the batch still open (R117, R255). -/
def Thread.meet (t : Thread) (batch : Option Word) (outcome : Nat) (flags : BitVec 7) : Thread :=
  match batch with
  | none => { t with openOutcome := max t.openOutcome outcome, openFlags := t.openFlags ||| flags }
  | some n => { t with batches := t.batches.map fun b =>
      if b.num = n then { b with outcome := max b.outcome outcome, flags := b.flags ||| flags } else b }

/-- A copy ends: what it met goes to its batch. -/
def State.endCopy (s : State) (c : Copy) : State :=
  { s with copies := s.copies.filter fun x => decide (x.id ≠ c.id) }.onMember c.guid c.tid
    fun t => t.meet c.batch c.outcome c.flags

/-- A copy changed; it ends once every chunk has landed or will not be delivered (R72, R117). -/
def State.putCopy (s : State) (c : Copy) : State :=
  if c.owed.all (·.void) then s.endCopy c
  else { s with copies := s.copies.map fun x => if x.id = c.id then c else x }

/-- What a landing meets. -/
inductive Land (α : Type)
  | ok (a : α)
  | fault (f : FaultSort) (va access : Nat)
  | bad (va access : Nat)

/-- The bits of a source element with the addresses it lies at. -/
def Copy.readElem (s : State) (c : Copy) (e : Int) : Land Nat :=
  let a := c.srcAddr e
  let n := elemBytes c.sfmt
  let pick := fun (bs : List Byte) =>
    if fmtBits c.sfmt = 4 then leNat bs / (if e % 2 = 0 then 1 else 16) % 16 else leNat bs
  if c.ssp then .ok (pick (s.bytes (keyOf c.core a.toNat) n))
  else
    let va := if a < 0 then (a % 2 ^ 64).toNat else a.toNat
    match s.xlateRun c.core c.tenant va n 0 with
    | .error (f, p) => .fault f p 0
    | .ok ps =>
      if ps.any fun p => s.badAt p 1 then .bad va 0 else .ok (pick (ps.flatMap fun p => s.devRead p 1))

/-- The bits of destination element `k` with the flags it raises (R252, R51). -/
def Copy.elem (s : State) (c : Copy) (k : Nat) : Land (Nat × BitVec 7) :=
  match c.kept.find? fun x => decide (x.1 = k) with
  | some (_, y) => .ok (y, 0)
  | none => match copySource c.dims k with
    | none => .ok (if c.sfmt = c.dfmt then (0, 0) else convert c.dfmt c.rnd c.sat (dec 0 0))
    | some e => match c.readElem s e with
      | .ok x => .ok (if c.sfmt = c.dfmt then (x, 0) else convertElem c.sfmt c.dfmt c.rnd c.sat x)
      | .fault f a w => .fault f a w
      | .bad a w => .bad a w

/-- The bits of a run of elements, first lowest, with the flags they raise. -/
def Copy.elemRun (s : State) (c : Copy) : Nat → Nat → Land (List Nat × BitVec 7)
  | _, 0 => .ok ([], 0)
  | k, n + 1 => match c.elem s k with
    | .fault f a w => .fault f a w
    | .bad a w => .bad a w
    | .ok (y, fl) => match Copy.elemRun s c (k + 1) n with
      | .ok (ys, fs) => .ok (y :: ys, fl ||| fs)
      | .fault f a w => .fault f a w
      | .bad a w => .bad a w

/-- Elements of `w` bits packed from bit 0 upwards (R45). -/
def packBits (w : Nat) : List Nat → Nat
  | [] => 0
  | y :: ys => y % 2 ^ w + 2 ^ w * packBits w ys

/-- The places of a chunk's bytes. -/
def Copy.places (s : State) (c : Copy) (ch : Chunk) : Land (List Nat) :=
  if c.dsp then .ok (upFrom ch.addr ch.len)
  else match s.xlateRun c.core c.tenant ch.addr ch.len 1 with
    | .error (f, p) => .fault f p 1
    | .ok ps => .ok ps

/-- The place of the copy's counter, none without one. -/
def Copy.counter (s : State) (c : Copy) : Land (Option Nat) :=
  if !c.counts then .ok none
  else if c.csp then .ok (some (keyOf c.core c.ctr))
  else match s.xlateEng c.core c.tenant c.ctr 1 with
    | .ok pa => .ok (some pa)
    | .no f => .fault f c.ctr 1
    | .miss => .fault .replayable c.ctr 1

/-- A run of places that a landing writes covers only part of a bad unit (R103). -/
def State.partlyBad (s : State) (ps : List Nat) : Bool :=
  s.badUnits.any fun u => ps.any (fun p => decide (p / 64 = u)) && !((upFrom (u * 64) 64).all ps.contains)

/-- Bytes written at their places; units overwritten whole are good again (R103). -/
def State.writePlaces (s : State) (core tenant : Nat) (ps : List Nat) (bs : List Byte) : State :=
  let s1 := (ps.zip bs).foldl (fun (s : State) (p, b) => (s.devWrite tenant p [b]).dropLine (clusterOf core) p 1) s
  { s1 with badUnits := s1.badUnits.filter fun u => !((upFrom (u * 64) 64).all ps.contains) }

/-- A scratchpad counter of a copy still stands: a lost or freed line counts nothing (R72).  DESIGN CHOICE (log 103): nor does a
counter in a carried region of a group that is away. -/
def State.counterLive (s : State) (guid : Nat) (k : Nat) : Bool :=
  if k < Config.padBase ∨ Config.hostBase ≤ k then true
  else match s.group guid with
    | none => s.saved.any fun v => decide (v.guid = guid) && v.held.any fun r =>
        !r.lost && decide (v.home = some (keyPlace k).1) && r.covers (keyPlace k).2
    | some g => match s.padCheck g (addrFrom g.core k) 8 with
      | .ok _ => true
      | _ => false

/-- What a whole landing needs. -/
structure Landing where
  bytes : List Byte
  flags : BitVec 7
  places : List Nat
  counter : Option Nat
  kept : List (Nat × Nat)
  deriving Repr

/-- The source elements of a chunk, converted. -/
def Copy.readChunk (s : State) (c : Copy) (ch : Chunk) : Land (List Nat × BitVec 7) :=
  c.elemRun s (c.elems ch).1 ((c.elems ch).2 - (c.elems ch).1)

/-- The parts of a landing in the order source, destination, counter. -/
def Copy.landing (s : State) (c : Copy) (ch : Chunk) : Land Landing :=
  let (i, j) := c.elems ch
  let w := fmtBits c.dfmt
  match c.readChunk s ch with
  | .fault f a x => .fault f a x
  | .bad a w => .bad a w
  | .ok (ys, fl) => match c.places s ch with
    | .fault f a x => .fault f a x
    | .bad a w => .bad a w
    | .ok ps => if !c.dsp && s.partlyBad ps then .bad ch.addr 1 else match c.counter s with
      | .fault f a x => .fault f a x
      | .bad a w => .bad a w
      | .ok ctr =>
        let straddles := fun (k : Nat) => decide (k * w < ch.off * 8) || decide ((ch.off + ch.len) * 8 < (k + 1) * w)
        .ok { bytes := leBytes ch.len (packBits w ys / 2 ^ (ch.off * 8 - i * w)), flags := fl, places := ps,
              counter := ctr, kept := ((upFrom i (j - i)).zip ys).filter fun (k, _) => straddles k }

/-- A copy without one chunk. -/
def Copy.without (c : Copy) (ch : Chunk) : Copy := { c with owed := c.owed.filter fun x => decide (x.num ≠ ch.num) }

/-- A saved thread as it stands with a trap that it takes when its group is back (R167, R173). -/
def Thread.dueAway (t : Thread) (code : Byte) (va access : Nat) : Thread :=
  let trapAt := fun (p : Point) (word : Nat) =>
    { t with run := .runnable, point := t.standing p, word := p.word, later := [],
             due := some ⟨code, BitVec.ofNat 64 va, 0, access, some word⟩ }
  match t.run with
  | .parked .leaving _ _ => t
  | .parked _ p _ => trapAt p t.parkWord
  | .gathering => trapAt t.here t.word
  | .runnable => trapAt t.here t.word
  | _ => t

/-- The issuing thread of an engine command traps 0x20 at once (R121, R167, R320), or as soon as its group is back; one that has
ended traps nothing. -/
def State.dueTrap (s : State) (guid tid : Nat) (code : Byte) (va access : Nat) : State :=
  match s.thread guid tid with
  | some _ => s.dueNow guid tid code (BitVec.ofNat 64 va) access
  | none => s.onMember guid tid fun t => t.dueAway code va access

/-- A copy meets an uncorrectable error (R103). -/
def State.copyError (s : State) (c : Copy) (va access : Nat) : State :=
  (s.dataError c.core c.tenant (BitVec.ofNat 32 c.gid) 0xFFFFFFFF#32 va access).endCopy
    { c with outcome := max c.outcome outData }

/-- A copy meets a fault as its data moves (R121): a replayable one pauses it, a fatal one traps its thread and ends
it; a table entry that cannot be corrected is a data error (R103). -/
def State.copyFault (s : State) (c : Copy) (f : FaultSort) (va access : Nat) : State :=
  match f with
  | .replayable =>
    { s.addFault { FaultEntry.blank with kind := 1, tenant := c.tenant, core := c.core, access := access,
                                         gid := BitVec.ofNat 32 c.gid, addr := va } with
      copies := s.copies.map fun x => if x.id = c.id then { x with paused := some s.nextToken } else x }
  | .fatal => (s.dueTrap c.guid c.tid 0x20 va access).endCopy { c with outcome := max c.outcome outFault }
  | .error _ => s.copyError c va access

/-- A chunk is delivered and counted (R72, R120, R253). -/
def State.deliverChunk (s : State) (c : Copy) (ch : Chunk) (l : Landing) : State :=
  let s1 := s.writePlaces c.core c.tenant l.places l.bytes
  let c1 := { c.without ch with flags := c.flags ||| l.flags, kept := c.kept ++ l.kept }
  match l.counter with
  | none => s1.putCopy c1
  | some k =>
    if s1.badAt k 8 then
      (s1.dataError c.core c.tenant (BitVec.ofNat 32 c.gid) 0xFFFFFFFF#32 c.ctr 1).endCopy
        { c1 with outcome := max c.outcome outData }
    else if s1.counterLive c.guid k then (s1.counterAdd c.core c.tenant k 1).putCopy c1
    else s1.putCopy c1

/-- Where an entry about a copy's data points: its DRAM source, else its destination, with the ACCESS. -/
def Copy.errorAt (c : Copy) : Nat × Nat := if c.ssp then (c.daddr, 1) else (c.saddr, 0)

/-- One chunk of a copy lands, or is discarded (R72, R73, R121, R253); one that is discarded at its destination has read
its source all the same (log 85). -/
def State.landChunk (s : State) (c : Copy) (ch : Chunk) : State :=
  if ch.srcGone then
    if ch.dead then s.putCopy { c.without ch with outcome := max c.outcome outSource }
    else s.putCopy { c with outcome := max c.outcome outSource,
                            owed := c.owed.map fun x => if x.num = ch.num then { x with void := true } else x }
  else if ch.dead then match c.readChunk s ch with
    | .fault f va access => s.copyFault c f va access
    | .bad va access => s.copyError c va access
    | .ok _ => s.putCopy { c.without ch with outcome := max c.outcome outDest }
  else match c.landing s ch with
    | .fault f va access => s.copyFault c f va access
    | .bad va access => s.copyError c va access
    | .ok l => s.deliverChunk c ch l

/-- A copy whose scratchpad side went away with its group, or with another member of its gang: it restarts when the
group resumes (R171, R172). -/
def State.copyAway (s : State) (c : Copy) : Bool :=
  match s.saved.find? fun v => decide (v.guid = c.guid) with
  | none => false
  | some w => s.saved.any fun v => (decide (v.guid = w.guid) || sameGang v.group w.group) &&
      v.group.regions.any fun r => match r with
        | some r => !v.held.contains r && c.uses (padKey v.group.core r.base) r.size
        | none => false

/-- The DRAM addresses of a chunk's source elements. -/
def Copy.sources (c : Copy) (ch : Chunk) : List Nat :=
  if c.ssp then []
  else (upFrom (c.elems ch).1 ((c.elems ch).2 - (c.elems ch).1)).filterMap fun k => (copySource c.dims k).map fun e =>
    if c.srcAddr e < 0 then (c.srcAddr e % 2 ^ 64).toNat else (c.srcAddr e).toNat

/-- Columns and banks serve what a landing meets: its source, its destination and its counter (R88, R90). -/
def State.landServed (s : State) (c : Copy) (ch : Chunk) : Bool :=
  ((c.sources ch).all fun va => s.engServed c.core c.tenant va (elemBytes c.sfmt) 0) &&
  (c.dsp || s.engServed c.core c.tenant ch.addr ch.len 1) &&
  (!c.counts || c.csp || s.engServed c.core c.tenant c.ctr 8 1)

/-- The places of a chunk's source, for the requests that go to peers (R182). -/
def State.sourcePlaces (s : State) (c : Copy) (ch : Chunk) : List Nat :=
  (c.sources ch).flatMap fun va => (upFrom va (elemBytes c.sfmt)).filterMap fun a => match s.xlateEng c.core c.tenant a 0 with
    | .ok pa => some pa
    | _ => none

/-- A copy's chunk may land: the copy is not paused and not away, no column it may meet is in a remapping step (R88) and each bank
serves it (R90), the die's fault queue has room for what the landing may meet, and the thread's accesses before the copy have been
performed (R122). -/
def State.mayLand (s : State) (c : Copy) (ch : Chunk) : Bool :=
  c.paused.isNone && !ch.void && !s.copyAway c && s.noRemap && s.landServed c ch && s.roomFor c.core &&
  !s.behind c.guid c.tid c.id

/-- COPY_CHUNK_LANDING (R253): chunk `chunk` of copy `id`.  An error on a die network stops the copy (R103, R185). -/
def execCopyChunkLanding (id chunk : Nat) (s : State) : Out :=
  .next (match s.copies.find? fun c => decide (c.id = id) with
    | none => s
    | some c => match c.owed.find? fun ch => decide (ch.num = chunk) with
      | none => s
      | some ch =>
        if !s.mayLand c ch then s
        else if s.marked (.item id) then (s.uncounted (s.copyError c c.errorAt.1 c.errorAt.2)).unmark (.item id)
        else (s.askRun c.tenant (s.sourcePlaces c ch)).landChunk c ch)

end Sys2Proof.Machine
end

