-- ==== Sys2Proof/Machine/Alu.lean ====
section
/-! DEFINITION. Integer, bitwise, shift, move, select and predicate instructions (R242 to R248, R270 to R277,
R284 to R287, R306, R307, R313). -/

namespace Sys2Proof.Machine

/-- The comparison COND of two values (R196): equality, then signed and unsigned order. -/
def condInt {w : Nat} (cond : Nat) (a b : BitVec w) : Bool :=
  match cond with
  | 0 => a == b
  | 1 => a != b
  | 2 => a.slt b
  | 3 => a.sle b
  | 4 => b.slt a
  | 5 => b.sle a
  | 6 => a.ult b
  | 7 => a.ule b
  | 8 => b.ult a
  | 9 => b.ule a
  | _ => false

/-- High word of the signed product (R270). -/
def mulHighS (a b : Word) : Word := ((a.signExtend 64 * b.signExtend 64) >>> 32).setWidth 32

/-- High word of the unsigned product (R270). -/
def mulHighN (a b : Word) : Word := ((a.setWidth 64 * b.setWidth 64) >>> 32).setWidth 32

/-- The lesser, compared signed. -/
def minS (a b : Word) : Word := if b.slt a then b else a

/-- The lesser, compared unsigned. -/
def minN (a b : Word) : Word := if b.ult a then b else a

/-- The greater, compared signed. -/
def maxS (a b : Word) : Word := if a.slt b then b else a

/-- The greater, compared unsigned. -/
def maxN (a b : Word) : Word := if a.ult b then b else a

/-- |A|; of 0x8000_0000 it is 0x8000_0000 (R270). -/
def absS (a : Word) : Word := if a.msb then -a else a

/-- Arithmetic right shift; 32 or more fill with the sign (R306). -/
def sarBy (a n : Word) : Word := if 32 ≤ n.toNat then (if a.msb then BitVec.allOnes 32 else 0) else a.sshiftRight n.toNat

/-- POS of a field control word (R245). -/
def fieldPos (c : Word) : Nat := c.toNat % 32

/-- L of a field control word: min(LEN, 32 − POS) (R245). -/
def fieldLen (c : Word) : Nat := min (bits c.toNat 13 8) (32 - fieldPos c)

/-- BFX (R245). -/
def bitExtract (a c : Word) : Word :=
  let l := fieldLen c
  let f := a.toNat / 2 ^ fieldPos c % 2 ^ l
  if c.getLsbD 16 && decide (0 < l) && bit f (l - 1) then BitVec.ofInt 32 (Int.ofNat f - 2 ^ l)
  else BitVec.ofNat 32 f

/-- BFI (R245). -/
def bitInsert (a c d : Word) : Word :=
  let mask : Word := BitVec.ofNat 32 (2 ^ fieldLen c - 1)
  (d &&& ~~~(mask <<< fieldPos c)) ||| ((a &&& mask) <<< fieldPos c)

/-- The 1 bits of a word (R287). -/
def popCount (a : Word) : Word := BitVec.ofNat 32 ((List.range 32).filter fun i => a.getLsbD i).length

/-- Leading zeros; 32 of zero (R248). -/
def leadingZeros (a : Word) : Word :=
  BitVec.ofNat 32 ((List.range 32).takeWhile fun i => !a.getLsbD (31 - i)).length

/-- Bit `i` of the result is bit 31 − i of A (R248). -/
def bitReverse (a : Word) : Word :=
  (List.range 32).foldl (fun r i => if a.getLsbD (31 - i) then r ||| (1#32 <<< i) else r) 0

/-- IADD: D := A + opB (R270). -/
def execIadd (f : LA) (s : State) : Out :=
  .next (s.aluLA f (· + ·))

/-- ISUB: D := A − opB (R270). -/
def execIsub (f : LA) (s : State) : Out :=
  .next (s.aluLA f (· - ·))

/-- IMUL: the low 32 bits of A × opB (R270). -/
def execImul (f : LA) (s : State) : Out :=
  .next (s.aluLA f (· * ·))

/-- IMULH.s32 (R270). -/
def execImulhS32 (f : LA) (s : State) : Out :=
  .next (s.aluLA f mulHighS)

/-- IMULH.n32 (R270). -/
def execImulhN32 (f : LA) (s : State) : Out :=
  .next (s.aluLA f mulHighN)

/-- IMAD: A × opB + D, low 32 bits (R270). -/
def execImad (f : LA) (s : State) : Out :=
  .next (s.aluLA3 f fun a b d => a * b + d)

/-- IMIN.s32 (R270). -/
def execIminS32 (f : LA) (s : State) : Out :=
  .next (s.aluLA f minS)

/-- IMIN.n32 (R270). -/
def execIminN32 (f : LA) (s : State) : Out :=
  .next (s.aluLA f minN)

/-- IMAX.s32 (R270). -/
def execImaxS32 (f : LA) (s : State) : Out :=
  .next (s.aluLA f maxS)

/-- IMAX.n32 (R270). -/
def execImaxN32 (f : LA) (s : State) : Out :=
  .next (s.aluLA f maxN)

/-- IABS (R270). -/
def execIabs (f : LA1) (s : State) : Out :=
  .next (s.aluLA1 f absS)

/-- ICMP: p(PD) := the comparison COND of A and opB (R271). -/
def execIcmp (f : LAc) (s : State) : Out :=
  .next (s.lanes fun c g t => t.setPred f.pd (condInt f.cond.toNat (c.val t f.a) (c.opB g t f.bs f.b)))

/-- The base of LEA (R274): all 64 bits of s(B) or the immediate under BS, else the pair B. -/
def Ctx.leaBase (c : Ctx) (g : Group) (t : Thread) (f : LA) : Dword := if f.bs then c.uniB g f.b else c.pair t f.b

/-- LEA: the pair D := base + zext(A) modulo 2^64 (R274). -/
def execLea (f : LA) (s : State) : Out :=
  .next (s.lanes fun c g t => t.setPair f.d (c.leaBase g t f + (c.val t f.a).setWidth 64))

/-- SEL's value of D (R307): opB where p(P) differs from NEG, else D as it stood. -/
def Ctx.selected (c : Ctx) (g : Group) (t : Thread) (f : LAs) : Word :=
  if c.pred t f.p != f.neg then c.opB g t f.bs f.b else c.val t f.d

/-- SEL (R307); its latch holds D as it stands after. -/
def execSel (f : LAs) (s : State) : Out :=
  .next (s.alu false f.d fun c g t => c.selected g t f)

/-- MOV: D := opB (R277). -/
def execMov (f : LMov) (s : State) : Out :=
  .next (s.alu f.k f.d fun c g t => c.opB g t f.bs f.b)

/-- AND (R242). -/
def execAnd (f : LA) (s : State) : Out :=
  .next (s.aluLA f (· &&& ·))

/-- OR (R284). -/
def execOr (f : LA) (s : State) : Out :=
  .next (s.aluLA f (· ||| ·))

/-- XOR (R313). -/
def execXor (f : LA) (s : State) : Out :=
  .next (s.aluLA f (· ^^^ ·))

/-- SHL: 0 for shifts of 32 or more (R306). -/
def execShl (f : LA) (s : State) : Out :=
  .next (s.aluLA f (fun a n => a <<< n.toNat))

/-- SHR: 0 for shifts of 32 or more (R306). -/
def execShr (f : LA) (s : State) : Out :=
  .next (s.aluLA f (fun a n => a >>> n.toNat))

/-- SAR (R306). -/
def execSar (f : LA) (s : State) : Out :=
  .next (s.aluLA f sarBy)

/-- BFX (R245). -/
def execBfx (f : LA) (s : State) : Out :=
  .next (s.aluLA f bitExtract)

/-- BFI: D is a source (R245). -/
def execBfi (f : LA) (s : State) : Out :=
  .next (s.aluLA3 f bitInsert)

/-- POPC (R287). -/
def execPopc (f : LA1) (s : State) : Out :=
  .next (s.aluLA1 f popCount)

/-- CLZ (R248). -/
def execClz (f : LA1) (s : State) : Out :=
  .next (s.aluLA1 f leadingZeros)

/-- BREV (R248). -/
def execBrev (f : LA1) (s : State) : Out :=
  .next (s.aluLA1 f bitReverse)

/-- PLOP: p(PD) := bit 4a + 2b + c of TT (R286); it writes no latch. -/
def execPlop (f : LAq) (s : State) : Out :=
  .next (s.lanes fun c _ t => t.setPred f.pd
    (f.tt.getLsbD (4 * (c.pred t f.pa).toNat + 2 * (c.pred t f.pb).toNat + (c.pred t f.pc).toNat)))

/-- MOVI: the immediate sign-extended (R277). -/
def execMovi (f : LIw) (s : State) : Out :=
  .next (s.alu f.k f.d fun _ _ _ => f.imm.signExtend 32)

/-- MOVL: the literal (R277). -/
def execMovl (f : LMovl) (s : State) : Out :=
  .next (s.alu false f.d fun _ _ _ => f.lit)

end Sys2Proof.Machine
end

