-- ==== Sys2Proof/Machine/Memops.lean ====
section
/-! DEFINITION. Loads, stores, atomics, fences, promotion and counters (R104 to R115, R120, R197, R198, R241, R243,
R256, R265, R273, R288, R300, R305, R308).  Scratchpad accesses are performed as they issue; ordinary-path accesses
are performed by MEMORY_ACCESS_COMPLETE. -/

namespace Sys2Proof.Machine

/-! ### The check of one lane -/

/-- What the check of one lane's access gives. -/
inductive Lane
  | ok (key : Nat)
  | trap (code : Byte) (tval : Nat) (handler : Nat)
  | miss (va : Nat)
  | pending (key : Nat)
  deriving DecidableEq, Repr

/-- A DRAM access of a lane (R167, R197): alignment, then translation. -/
def State.dramLane (s : State) (g : Group) (va w access : Nat) : Lane :=
  if va % w ≠ 0 then .trap 0x01 va 0
  else match s.xlate g.core g.rec_.tenant va access with
    | .ok pa => .ok pa
    | .miss => .miss va
    | .no _ => .trap 0x20 va access

/-- A DRAM atomic of a lane, which reads its location and writes it (R108): both permissions are needed (R166).  ACCESS of a
missing one is that of the permission (log 91). -/
def State.atomicLane (s : State) (g : Group) (va w : Nat) : Lane :=
  match s.dramLane g va w 1 with
  | .ok _ => s.dramLane g va w 0
  | l => l

/-- A scratchpad access of a lane (R71, R72, R197); `waits` for accesses that park on a Pending line. -/
def State.padLane (s : State) (g : Group) (addr w : Nat) (waits : Bool) : Lane :=
  if addr % w ≠ 0 then .trap 0x01 addr 0
  else match s.padCheck g addr w with
    | .bounds a => .trap 0x10 a 0
    | .lost a h => .trap 0x11 a h
    | .ok k => if waits && s.linePending (k / 128 * 128) then .pending k else .ok k

/-- A check failed the bounds check (R71). -/
def Lane.outside : Lane → Bool
  | .trap code _ _ => decide (code = 0x10)
  | _ => false

/-- %tmask of the issue (R71): the home lanes whose access failed the bounds check. -/
def tmaskOf (ls : List (Nat × Lane)) : Word :=
  ls.foldl (fun m x => if x.2.outside then m ||| (1#32 <<< laneOf x.1) else m) 0

/-- The checks of the active threads. -/
def Ctx.checks (c : Ctx) (g : Group) (f : Thread → Lane) : List (Nat × Lane) :=
  c.active.filterMap fun tid => (g.thread tid).map fun t => (tid, f t)

/-- A thread whose check failed traps or parks (R71, R159, R167). -/
def State.failLane (s : State) (mask : Word) (access tid : Nat) : Lane → State
  | .ok _ => s
  | .trap code tval h => s.raise tid code (BitVec.ofNat 64 tval) (if code = 0x10 then mask else 0) h
  | .miss va => s.missing tid va access
  | .pending k => s.retry tid (.line k)

/-- Threads whose check failed trap or park. -/
def State.failLanes (s : State) (ls : List (Nat × Lane)) (access : Nat) : State :=
  ls.foldl (fun s x => s.failLane (tmaskOf ls) access x.1 x.2) s

/-- An action for each thread whose check passed, in ascending home-lane order. -/
def State.okLanes (s : State) (ls : List (Nat × Lane)) (f : State → Ctx → Group → Thread → Nat → State) : State :=
  ls.foldl (fun s (tid, l) => match l with
    | .ok k => s.issue fun c g => match g.thread tid with
      | some t => f s c g t k
      | none => s
    | _ => s) s

/-- A scratchpad access in each active thread. -/
def State.padAccess (s : State) (addr : Ctx → Thread → Nat) (w : Nat) (waits : Bool)
    (f : State → Ctx → Group → Thread → Nat → State) : State :=
  s.issue fun c g =>
    let ls := c.checks g fun t => s.padLane g (addr c t) w waits
    (s.okLanes ls f).failLanes ls 0

/-- One lane of an ordinary access. -/
def laneAcc (t : Thread) (va pa : Nat) (arg arg2 : Dword) (bytes : List Byte) : LaneAcc :=
  { tid := t.tid, va := va, pa := pa, peer := decide (Config.peerBase ≤ pa), arg := arg, arg2 := arg2,
    bytes := bytes }

/-- The lane of one thread whose check passed. -/
def checkedLane (g : Group) (addr : Thread → Nat) (mk : Thread → Dword × Dword × List Byte) (x : Nat × Lane) :
    Option LaneAcc :=
  match x.2, g.thread x.1 with
  | .ok pa, some t => some (laneAcc t (addr t) pa (mk t).1 (mk t).2.1 (mk t).2.2)
  | _, _ => none

/-- An ordinary-path access of some lanes of the issue's group stands in flight (R90). -/
def State.addAccess (s : State) (c : Ctx) (g : Group) (kind : AccKind) (lanes : List LaneAcc) : State :=
  if lanes.isEmpty then s
  else { s.bump with accesses := s.accesses ++
    [{ id := s.nextId, core := g.core, guid := c.guid, tenant := g.rec_.tenant, gid := g.gid, kind := kind, lanes := lanes,
       launch := g.launch, netBad := false }] }

/-- An ordinary-path access of the active threads is issued (R90): the lanes whose check passed stand in one
record until they are performed. -/
def State.checkedAccess (s : State) (kind : AccKind) (addr : Ctx → Group → Thread → Nat) (check : Group → Nat → Lane)
    (access : Nat) (mk : Ctx → Thread → Dword × Dword × List Byte) : State :=
  s.issue fun c g =>
    let ls := c.checks g fun t => check g (addr c g t)
    (s.addAccess c g kind (ls.filterMap (checkedLane g (addr c g) (mk c)))).failLanes ls access

/-- A load or store of the active threads. -/
def State.dramAccess (s : State) (kind : AccKind) (addr : Ctx → Group → Thread → Nat) (w access : Nat)
    (mk : Ctx → Thread → Dword × Dword × List Byte) : State :=
  s.checkedAccess kind addr (fun g va => s.dramLane g va w access) access mk

/-- An atomic of the active threads. -/
def State.atomicAccess (s : State) (kind : AccKind) (addr : Ctx → Group → Thread → Nat) (w : Nat)
    (mk : Ctx → Thread → Dword × Dword × List Byte) : State :=
  s.checkedAccess kind addr (fun g va => s.atomicLane g va w) 1 mk

/-! ### Loads and stores -/

/-- LD (R273): performed at the column; the destination is not ready until then. -/
def execLd (f : LAm) (s : State) : Out :=
  .next (s.dramAccess (.load f.ty.toNat f.v f.sc.toNat (f.ord.toNat % 2 = 1)) (fun c g t => c.dramAddr g t f.base f.a)
    (tyBytes f.ty.toNat) 0 fun _ _ => (0, 0, []))

/-- ST (R308): translated at issue with WR; performed in the thread's program order. -/
def execSt (f : LAm) (s : State) : Out :=
  .next (s.dramAccess .store (fun c g t => c.dramAddr g t f.base f.a) (tyBytes f.ty.toNat) 1
    fun c t => (0, 0, c.storeBytes t f.ty.toNat f.v))

/-- LDS (R273); ORD 1 acquires at SC. -/
def execLds (f : LAms) (s : State) : Out :=
  .next (s.padAccess (fun c t => (c.val t f.a).toNat) (tyBytes f.ty.toNat) true fun s c g t k =>
    let s := s.onThread c.guid t.tid fun u => u.setLoad f.ty.toNat f.v (s.bytes k (tyBytes f.ty.toNat))
    if f.ord.toNat % 2 = 1 then s.acquire g.core f.sc.toNat else s)

/-- STS (R308). -/
def execSts (f : LAms) (s : State) : Out :=
  .next (s.padAccess (fun c t => (c.val t f.a).toNat) (tyBytes f.ty.toNat) false fun s c _ t k =>
    s.write k (c.storeBytes t f.ty.toNat f.v))

/-- SLD (R305): one read for the bundle; every active thread shares its faults, and its miss is walked once. -/
def execSld (f : LAu) (s : State) : Out :=
  .next (s.issue fun c g =>
    let addr := (c.uni g f.a.toNat + c.uniB g f.b).toNat
    match s.dramLane g addr 8 0 with
    | .ok pa => s.addAccess c g (.sload f.d.toNat)
        (c.active.filterMap fun tid => (g.thread tid).map fun t => laneAcc t addr pa 0 0 [])
    | .miss va => match c.active with
      | [] => s
      | t :: _ => s.missing t va 0 c.active
    | l => c.active.foldl (fun (s : State) t => s.failLane 0 0 t l) s)

/-! ### Atomics -/

/-- The width of an OPT of ATOM and RED (R198, R243). -/
def optBytes (opt : Nat) : Nat := if opt = 1 ∨ opt = 10 then 8 else 4

/-- f(old, v) of ATOM and RED (R243). -/
def atomFn (opt old v : Nat) : Nat :=
  let a : Word := BitVec.ofNat 32 old
  let b : Word := BitVec.ofNat 32 v
  match opt with
  | 0 => (a + b).toNat
  | 1 => (old + v) % 2 ^ 64
  | 2 => (minS a b).toNat
  | 3 => (minN a b).toNat
  | 4 => (maxS a b).toNat
  | 5 => (maxN a b).toNat
  | 6 => (a &&& b).toNat
  | 7 => (a ||| b).toNat
  | 8 => (a ^^^ b).toNat
  | 11 => (fpAdd 0 0 old v).1
  | 12 => (fpMin a b).toNat
  | 13 => (fpMax a b).toNat
  | _ => v

/-- The operand of an atomic of `w` bytes: a register or a pair. -/
def Ctx.sized (c : Ctx) (t : Thread) (w : Nat) (b : Code) : Dword :=
  if w = 8 then c.pair t b else (c.val t b).setWidth 64

/-- ACAS's comparand and new value (R241). -/
def Ctx.casArgs (c : Ctx) (t : Thread) (w : Nat) (b : Code) : Dword × Dword :=
  if w = 8 then (c.pair t b, c.valAt t b 3 ++ c.valAt t b 2)
  else ((c.val t b).setWidth 64, (c.valAt t b 1).setWidth 64)

/-- ORD's acquire bit: codes 1 and 3 (R104). -/
def ordAcq (ord : BitVec 2) : Bool := decide (ord.toNat % 2 = 1)

/-- ATOM (R243): a scratchpad atomic executes at the bank, a DRAM one at the column. -/
def execAtom (f : LX) (s : State) : Out :=
  let w := optBytes f.opt.toNat
  .next (if f.space then
      s.padAccess (fun c t => (c.val t f.a).toNat) w false fun s c g t k =>
        let old := s.num k w
        let s' := (s.write k (leBytes w (atomFn f.opt.toNat old (c.sized t w f.b).toNat))).onThread c.guid t.tid
          fun u => u.setSized (w == 8) f.d (BitVec.ofNat 64 old)
        if ordAcq f.ord then s'.acquire g.core f.sc.toNat else s'
    else
      s.atomicAccess (.atomic f.opt.toNat f.d f.sc.toNat (ordAcq f.ord) false)
        (fun c g t => c.dramAddr g t f.base f.a) w fun c t => (c.sized t w f.b, 0, []))

/-- The width of ACAS (R198). -/
def casBytes (opt : Nat) : Nat := if opt = 1 then 8 else 4

/-- ACAS (R241). -/
def execAcas (f : LX) (s : State) : Out :=
  let w := casBytes f.opt.toNat
  .next (if f.space then
      s.padAccess (fun c t => (c.val t f.a).toNat) w false fun s c g t k =>
        let old := s.num k w
        let (cmp, new) := c.casArgs t w f.b
        let s1 := if old = cmp.toNat then s.write k (leBytes w new.toNat) else s
        let s' := s1.onThread c.guid t.tid fun u => u.setSized (w == 8) f.d (BitVec.ofNat 64 old)
        if ordAcq f.ord then s'.acquire g.core f.sc.toNat else s'
    else
      s.atomicAccess (.cas (w == 8) f.d f.sc.toNat (ordAcq f.ord)) (fun c g t => c.dramAddr g t f.base f.a) w
        fun c t => ((c.casArgs t w f.b).1, (c.casArgs t w f.b).2, []))

/-- RED (R300): as ATOM, with no result. -/
def execRed (f : LX) (s : State) : Out :=
  let w := optBytes f.opt.toNat
  .next (if f.space then
      s.padAccess (fun c t => (c.val t f.a).toNat) w false fun s c g t k =>
        let s' := s.write k (leBytes w (atomFn f.opt.toNat (s.num k w) (c.sized t w f.b).toNat))
        if ordAcq f.ord then s'.acquire g.core f.sc.toNat else s'
    else
      s.atomicAccess (.atomic f.opt.toNat f.d f.sc.toNat (ordAcq f.ord) true)
        (fun c g t => c.dramAddr g t f.base f.a) w fun c t => (c.sized t w f.b, 0, []))

/-! ### Fences, promotion, counters -/

/-- An ordinary access writes memory, as the thread's later fence.sc waits for (R114). -/
def AccKind.stores : AccKind → Bool
  | .store => true
  | .atomic _ _ _ _ _ => true
  | .cas _ _ _ _ => true
  | .ctadd => true
  | _ => false

/-- A thread's earlier stores are all visible. -/
def State.drained (s : State) (g tid : Nat) : Bool :=
  s.accesses.all fun a => !(decide (a.guid = g) && a.kind.stores && a.lanes.any fun l => decide (l.tid = tid))

/-- FENCE (R114, R265): .acq, .ar and .sc at device or system scope drop the cluster's cache lines; .sc parks until
the thread's earlier stores are visible.  A fence of these kinds issues once the thread's earlier loads have been performed
(Instr.follows), so that each of them stands before the acquire. -/
def execFence (f : LAf) (s : State) : Out :=
  .next (s.eachActive fun s c g t =>
    let s1 := if f.kind.toNat = 1 then s else s.acquire g.core f.sc.toNat
    if f.kind.toNat = 3 ∧ s1.drained c.guid t.tid = false then s1.await t.tid .drained else s1)

/-- The owner core that a lane of PROMOTE names takes no part (R115): the scope is .core, the owner is none or the issuing
core. -/
def promoteHere (core sc owner : Nat) : Bool :=
  decide (sc = 0) || decide (owner = core) || decide (Config.cores ≤ owner)

/-- PROMOTE (R115, R288): each lane travels by itself to the owner its B names. -/
def execPromote (f : LAp) (s : State) : Out :=
  .next (s.issue fun c g =>
    let addr := fun (t : Thread) => c.dramAddr g t 0 f.a
    let ls := c.checks g fun t => s.dramLane g (addr t) 4 0
    let lanes := ls.filterMap (checkedLane g addr fun t => ((c.val t f.b).setWidth 64, 0, []))
    (lanes.foldl (fun (s : State) l =>
      s.addAccess c g (.promote f.d f.sc.toNat (promoteHere g.core f.sc.toNat l.arg.toNat)) [l]) s).failLanes ls 0)

/-- The address of a counter (R197, R256). -/
def Ctx.ctAddr (c : Ctx) (g : Group) (t : Thread) (f : LAt) : Nat :=
  if f.space then (c.val t f.a).toNat else c.dramAddr g t f.base f.a

/-- CTADD (R120, R256), a read-modify-write (R108). -/
def execCtadd (f : LAt) (s : State) : Out :=
  .next (if f.space then
      s.padAccess (fun c t => (c.val t f.a).toNat) 8 false fun s c g t k =>
        s.counterAdd g.core g.rec_.tenant k (c.val t f.v).toNat
    else
      s.atomicAccess .ctadd (fun c g t => c.dramAddr g t f.base f.a) 8 fun c t => ((c.val t f.v).setWidth 64, 0, []))

/-- A thread whose CTWAIT on the counter at a key is met (R120): it acquires, and no older copy of the counter's line serves it
(R107). -/
def State.ctwaitMet (s : State) (core sc k : Nat) : State := (s.acquire core sc).dropLine (clusterOf core) k 8

/-- A thread of CTWAIT on the counter at a key (R120): met, it acquires and goes on; otherwise it parks. -/
def State.ctwaitLane (s : State) (c : Ctx) (g : Group) (t : Thread) (f : LAt) (k : Nat) : State :=
  if (c.pair t f.v).toNat ≤ s.devNum k 8 then s.ctwaitMet g.core f.sc.toNat k
  else s.await t.tid (.counter k (c.ctAddr g t f) (c.pair t f.v) f.sc.toNat)

/-- CTWAIT (R256); a DRAM counter that cannot be corrected traps its thread (R103), and one that a peer refuses traps 0x20 (R182). -/
def execCtwait (f : LAt) (s : State) : Out :=
  .next (if f.space then
      s.padAccess (fun c t => (c.val t f.a).toNat) 8 true fun s c g t k => s.ctwaitLane c g t f k
    else
      s.issue fun c g =>
        let ls := c.checks g fun t => s.dramLane g (c.ctAddr g t f) 8 0
        (s.okLanes ls fun s c g t k =>
          if s.peerFault k then s.raise t.tid 0x20 (BitVec.ofNat 64 (c.ctAddr g t f)) 0 0
          else if s.readBad g.core k 8 then s.raise t.tid 0x21 (BitVec.ofNat 64 (c.ctAddr g t f)) 0 0
          else s.ctwaitLane c g t f k).failLanes ls 0)

/-- CTREAD (R256). -/
def execCtread (f : LAt) (s : State) : Out :=
  .next (if f.space then
      s.padAccess (fun c t => (c.val t f.a).toNat) 8 true fun s c g t k =>
        (s.onThread c.guid t.tid fun u => u.setPair f.v (BitVec.ofNat 64 (s.num k 8))).acquire g.core f.sc.toNat
    else
      s.dramAccess (.ctread f.v f.sc.toNat) (fun c g t => c.dramAddr g t f.base f.a) 8 0 fun _ _ => (0, 0, []))

/-! ### The column performs an access (R90) -/

/-- A fatal trap that finds its thread wherever it stands (R103); PCAUSE at depth 4 (R164).  During a pre-emption the thread
takes it when it resumes (R173). -/
def State.fatalAt (s : State) (g tid : Nat) (code : Byte) (va access : Nat) : State :=
  match s.group g, s.thread g tid with
  | some x, some t =>
    if !t.live then s
    else if x.stopping then s.dueNow g tid code (BitVec.ofNat 64 va) access
    else
      (s.fatalTrap g tid x t.here code (BitVec.ofNat 64 va) access
        (if 4 ≤ t.traps.length then (t.traps.head?.map fun l => l.code.toNat).getD 0 else 0)).keepDue g tid t.word code
        (BitVec.ofNat 64 va) 0 access
  | _, _ => s

/-- The thread's later loads wait until an access has been performed (R110): a load's, an atomic's, and a RED's that acquires
(R300). -/
def AccKind.holdsLoads : AccKind → Bool
  | .atomic _ _ _ acq red => !red || acq
  | k => k.loads

/-- Two accesses share a thread. -/
def Access.sharesThread (a b : Access) : Bool :=
  decide (a.guid = b.guid) && a.lanes.any fun l => b.lanes.any fun m => decide (m.tid = l.tid)

/-- A lane of an access lies within 16 bytes of a lane of an earlier one of its thread. -/
def Access.meets (a e : Access) : Bool :=
  a.lanes.any fun l => e.lanes.any fun m => decide (m.tid = l.tid) && overlaps l.pa 16 m.pa 16

/-- An access must wait for an earlier one (R110, R316): a load passes earlier stores and atomics without a result, but for a
read-modify-write of the bytes it reads; CTREAD and PROMOTE, which take no pending store's bytes, wait for stores there too; an
access that writes waits for every earlier one. -/
def Access.waitsFor (a e : Access) : Bool :=
  a.sharesThread e &&
  (match a.kind with
    | .load _ _ _ _ => e.kind.holdsLoads || (decide (e.kind ≠ .store) && a.meets e)
    | .sload _ => e.kind.holdsLoads || (decide (e.kind ≠ .store) && a.meets e)
    | .ctread _ _ => e.kind.holdsLoads || a.meets e
    | .promote _ _ _ => e.kind.holdsLoads || a.meets e
    | _ => true)

/-- The accesses issued before one. -/
def State.earlier (s : State) (a : Access) : List Access := s.accesses.takeWhile fun e => decide (e.id ≠ a.id)

/-- An access may be performed. -/
def State.performable (s : State) (a : Access) : Bool :=
  (a.lanes.all fun l => s.served l.pa) && !((s.earlier a).any fun e => a.waitsFor e) && s.roomFor a.core &&
  (match a.kind with
    | .promote _ _ arrived => arrived
    | _ => true)

/-- The bytes a lane's load returns, its own pending stores included. -/
def State.forwarded (s : State) (a : Access) (tid k : Nat) (bs : List Byte) : List Byte :=
  withStores (s.earlier a) a.guid tid k bs

/-- Lines that a cluster's cache holds: 12 MiB (R2). -/
def clineRoom : Nat := 0xC00000 / Config.clineBytes

/-- A line copied into a cluster's cache; the oldest leaves where the cache is full (log 12). -/
def State.addLine (s : State) (x : CLine) : State :=
  let own := s.clines.filter fun c => decide (c.cluster = x.cluster)
  match own with
  | old :: _ => if clineRoom ≤ own.length then { s with clines := s.clines.erase old ++ [x] }
      else { s with clines := s.clines ++ [x] }
  | [] => { s with clines := s.clines ++ [x] }

/-- A read through the cluster cache (R113): a copied line where there is one; else the column, and the line is
copied. -/
def State.cachedRead (s : State) (cluster k n : Nat) : State × List Byte :=
  if Config.padBase ≤ k then (s, s.devRead k n)
  else
    let line := k / Config.clineBytes
    match s.clines.find? fun c => decide (c.cluster = cluster) && decide (c.line = line) with
    | some c => (s, (c.bytes.drop (k % Config.clineBytes)).take n)
    | none =>
      let fresh : CLine := { cluster := cluster, line := line,
                             bytes := s.bytes (line * Config.clineBytes) Config.clineBytes }
      (s.addLine fresh, s.bytes k n)

/-- A store from a core of a cluster updates that cluster's copies (R113). -/
def State.updateLines (s : State) (cluster k : Nat) (bs : List Byte) : State :=
  { s with clines := s.clines.map fun c =>
      if c.cluster = cluster then { c with bytes := overlay (c.line * Config.clineBytes) c.bytes k bs } else c }

/-- The reply of a peer to a read of `n` bytes (R182), or what the column holds. -/
def State.readPlace (s : State) (l : LaneAcc) (n : Nat) (reply : List Byte) : List Byte :=
  if l.peer then (reply ++ List.replicate n 0).take n else s.devRead l.pa n

/-- The request that an access at a peer's place sends there (R182). -/
def State.ask (s : State) (a : Access) (l : LaneAcc) (op : PeerOp) : State :=
  if l.peer then s.sendPeer a.tenant l.pa op else s

/-- Bytes of memory as they stand before a store of the launch, kept for its fetches (R192). -/
def State.hide (s : State) (launch k n : Nat) : State :=
  match mget s.launches launch with
  | none => s
  | some x =>
    let keep := fun (m : SMap Byte) i => if (mget m i).isSome then m else mset m i (s.byte i)
    { s with launches := mset s.launches launch { x with hidden := (upFrom k n).foldl keep x.hidden } }

/-- A store's unit of 512 bytes, which it reads where it is narrower (R102), carries an uncorrectable error. -/
def State.mergeBad (s : State) (k : Nat) : Bool := s.badAt (k / 512 * 512) 512

/-- One lane's store (R103, R113, R308): dropped with an entry of KIND 3 where its unit cannot be corrected. -/
def State.performStore (s : State) (a : Access) (l : LaneAcc) : State :=
  if a.netBad || s.mergeBad l.pa then
    s.dataError a.core a.tenant (BitVec.ofNat 32 a.gid) (BitVec.ofNat 32 l.tid) l.va 1
  else if l.peer then s.devWrite a.tenant l.pa l.bytes
  else ((s.hide a.launch l.pa l.bytes.length).devWrite a.tenant l.pa l.bytes).updateLines (clusterOf a.core) l.pa l.bytes

/-- A read-modify-write of `w` bytes at a place by a core: the old value and the state after.  A peer's column performs it
there, as `op` asks (R182). -/
def State.rmw (s : State) (a : Access) (l : LaneAcc) (w : Nat) (f : Nat → Nat) (op : PeerOp) (reply : List Byte) :
    Nat × State :=
  let old := leNat (s.readPlace l w reply)
  if l.peer then (old, s.ask a l op)
  else (old, ((s.hide a.launch l.pa w).devWrite a.tenant l.pa (leBytes w (f old))).dropLine (clusterOf a.core) l.pa w)

/-- The data of an access cannot be corrected, in its units or on its way (R103, R185). -/
def State.spoilt (s : State) (a : Access) (l : LaneAcc) (n : Nat) : Bool := a.netBad || s.badAt l.pa n

/-- ACCESS of an access in a fault entry (R169): 1 where it writes. -/
def AccKind.access (k : AccKind) : Nat := if k.stores then 1 else 0

/-- One lane of an access is performed. -/
def State.performLane (s : State) (a : Access) (l : LaneAcc) (reply : List Byte) : State :=
  let set := fun (s : State) (f : Thread → Thread) => s.onThread a.guid l.tid f
  let acq := fun (s : State) (q : Bool) (sc : Nat) => if q then s.acquire a.core sc else s
  match a.kind with
  | .load ty v sc q =>
    let n := tyBytes ty
    if s.spoilt a l n then s.fatalAt a.guid l.tid 0x21 l.va 0
    else
      let (s1, bs) := if l.peer then (s.ask a l (.read n), s.readPlace l n reply)
        else if 2 ≤ sc then (s.dropLine (clusterOf a.core) l.pa n, s.devRead l.pa n)
        else s.cachedRead (clusterOf a.core) l.pa n
      acq (set s1 fun u => u.setLoad ty v (s1.forwarded a l.tid l.pa bs)) q sc
  | .sload _ => s
  | .store => s.performStore a l
  | .atomic opt d sc q red =>
    let w := optBytes opt
    if s.spoilt a l w then
      if red then s.dataError a.core a.tenant (BitVec.ofNat 32 a.gid) (BitVec.ofNat 32 l.tid) l.va 1
      else s.fatalAt a.guid l.tid 0x21 l.va 1
    else
      let (old, s1) := s.rmw a l w (fun old => atomFn opt old l.arg.toNat) (.atomic opt l.arg) reply
      acq (if red then s1 else set s1 fun u => u.setSized (w == 8) d (BitVec.ofNat 64 old)) q sc
  | .cas w8 d sc q =>
    let w := if w8 then 8 else 4
    if s.spoilt a l w then s.fatalAt a.guid l.tid 0x21 l.va 1
    else
      let old := leNat (s.readPlace l w reply)
      let s1 := if l.peer then s.ask a l (.cas w8 l.arg l.arg2)
        else if old = l.arg.toNat then (s.rmw a l w (fun _ => l.arg2.toNat) (.cas w8 l.arg l.arg2) reply).2
        else s.dropLine (clusterOf a.core) l.pa w
      acq (set s1 fun u => u.setSized w8 d (BitVec.ofNat 64 old)) q sc
  | .ctadd =>
    if s.spoilt a l 8 then s.fatalAt a.guid l.tid 0x21 l.va 1
    else (s.rmw a l 8 (fun old => counterSum old l.arg.toNat) (.add l.arg) reply).2
  | .ctread v sc =>
    if s.spoilt a l 8 then s.fatalAt a.guid l.tid 0x21 l.va 0
    else
      let bs := s.readPlace l 8 reply
      ((set (s.ask a l (.read 8)) fun u => u.setPair v (BitVec.ofNat 64 (leNat bs))).dropLine (clusterOf a.core) l.pa
        8).acquire a.core sc
  | .promote d sc _ =>
    if s.spoilt a l 4 then s.fatalAt a.guid l.tid 0x21 l.va 0
    else
      let bs := s.readPlace l 4 reply
      ((set (s.ask a l (.read 4)) fun u => u.setReg d (BitVec.ofNat 32 (leNat bs))).dropLine (clusterOf a.core) l.pa
        4).acquire a.core sc

/-- SLD's one read for its bundle (R305): with the pending stores of its threads (R110), or 0x21 in each of them. -/
def State.performSload (s : State) (a : Access) (d : Nat) (l : LaneAcc) (reply : List Byte) : State :=
  if s.spoilt a l 8 then a.lanes.foldl (fun (s : State) m => s.fatalAt a.guid m.tid 0x21 m.va 0) s
  else
    let (s1, bs) := if l.peer then (s.ask a l (.read 8), s.readPlace l 8 reply)
      else s.cachedRead (clusterOf a.core) l.pa 8
    let own := (s1.earlier a).foldl (fun bs e => a.lanes.foldl (fun bs m => withStores [e] a.guid m.tid l.pa bs) bs) bs
    s1.onGroup a.guid fun g => { g with sregs := setAt g.sregs d (BitVec.ofNat 64 (leNat own)) }

/-- A lane with its reply: at a peer whose stage 2 gives a fault there is none, and the thread traps 0x20 (log 90). -/
def State.performOne (s : State) (a : Access) (l : LaneAcc) (reply : Option (List Byte)) : State :=
  match reply with
  | some bs => s.performLane a l bs
  | none => if l.peer then s.fatalAt a.guid l.tid 0x20 l.va a.kind.access else s.performLane a l []

/-- An access is performed, its lanes in ascending home-lane order (R109, R110), each with its own reply where its place is at a
peer. -/
def State.perform (s : State) (a : Access) (replies : List (Option (List Byte))) : State :=
  let s1 := match a.kind, a.lanes with
    | .sload d, l :: _ => match l.peer, replies.headD (some []) with
      | true, none => a.lanes.foldl (fun (s : State) (m : LaneAcc) => s.fatalAt a.guid m.tid 0x20 m.va 0) s
      | _, r => s.performSload a d l (r.getD [])
    | _, _ => (a.lanes.zipIdx).foldl (fun (s : State) (l, i) => s.performOne a l (replies.getD i (some []))) s
  let s2 := if a.netBad then s.uncounted s1 else s1
  { s2 with accesses := s2.accesses.filter fun e => decide (e.id ≠ a.id) }

/-- MEMORY_ACCESS_COMPLETE (R90): the access `id` is performed at its column, or at its peers, whose replies, one for each lane,
come from outside.  A place that names no memory is the model's one fault (R85). -/
def execMemoryAccessComplete (id : Nat) (replies : List (Option (List Byte))) (s : State) : Out :=
  match s.accesses.find? fun a => decide (a.id = id) with
  | none => .next s
  | some a =>
    match a.lanes.find? fun l => absentKey l.pa with
    | some l => .fault (.absentMemory l.pa)
    | none => if s.performable a then .next (s.perform a replies) else .next s

/-- The reads of SLDs of the issue under way, those numbered `from_` and above, are made at once: a later word of the issue waits for
them (R110, R114).  One that cannot be corrected traps its threads as the issue's words do (R103). -/
def State.sloadsNow (s : State) (from_ : Nat) : State :=
  (s.accesses.filter fun a => decide (from_ ≤ a.id)).foldl (fun (s : State) a => match a.kind, a.lanes with
    | .sload _, l :: _ =>
      if s.spoilt a l 8 then
        let s1 := { s with accesses := s.accesses.filter fun e => decide (e.id ≠ a.id) }
        a.lanes.foldl (fun (s : State) m => s.raise m.tid 0x21 (BitVec.ofNat 64 m.va) 0 0) s1
      else s.perform a [some (s.devRead l.pa 8)]
    | _, _ => s) s

/-- PROMOTE_ARRIVAL (R115): PROMOTE reaches its owner cores.  A store of the model takes its place in its core's store
order when it is performed, and is then visible to every party (log 19), so the stores before the arrival point are
visible throughout the domain of any scope. -/
def execPromoteArrival (id : Nat) (s : State) : Out :=
  .next { s with accesses := s.accesses.map fun e =>
            if e.id = id then match e.kind with
              | .promote d sc _ => { e with kind := .promote d sc true }
              | _ => e
            else e }

end Sys2Proof.Machine
end

