-- ==== Sys2Proof/Machine/Rows.lean ====
section
/-! DEFINITION. The row path: row slots (R91, R92, R96, R97, R295 to R299), activations (R93), refresh (R94) and takes
(R95, R297). -/

namespace Sys2Proof.Machine

/-! ### Slots -/

/-- %tval of a row trap (R97): a row address with the slot number and the slot's REASON. -/
def rowTval (va slot reason : Nat) : Dword := BitVec.ofNat 64 (va / 4096 * 4096 + slot % 8 + reason * 16)

/-- A row slot of a group; none at or above its ROWS (R91). -/
def Group.slot (g : Group) (i : Nat) : Option RowSlot := g.rows[i]?

/-- A row slot of a group set. -/
def State.setSlotOf (s : State) (guid i : Nat) (r : RowSlot) : State :=
  s.onGroup guid fun g => { g with rows := setAt g.rows i r }

/-- A queued request of a slot is withdrawn. -/
def State.unqueue (s : State) (core guid i : Nat) : State :=
  let c := s.column core
  s.setColumn core { c with queue := c.queue.filter fun q => !(decide (q.guid = guid) && decide (q.slot = i)) }

/-- A wait of RTAKE, ATTN or MX for a slot, or for room to take it. -/
def Wait.onSlot (i : Nat) : Wait → Bool
  | .row j _ => decide (j = i)
  | .refill j _ => decide (j = i)
  | .takeRoom js => js.contains i
  | _ => false

/-- The virtual address that a trap 0x30 names for a thread parked on a slot (R97): for an MX that refills staging the row that the
fill record names (R279), else the slot's own. -/
def State.trapRow (s : State) (guid i va : Nat) (w : Wait) : Nat :=
  match w, (s.group guid).map (·.staging.fill) with
  | .refill _ _, some (some (j, old)) => if i = j then old else va
  | _, _ => va

/-- Threads of a group parked by RTAKE, ATTN or MX on a slot wake and trap 0x30 (R91, R297, R298); `reason` is that of the slot, none
where it has been made Free. -/
def State.trapRowWaiters (s : State) (guid i va : Nat) (reason : Option Nat) : State :=
  s.waiters.foldl (fun s (g, tid, w, p) =>
    if g = guid ∧ w.onSlot i then
      s.wakeTrap g tid p 0x30 (match reason with
        | some k => rowTval (s.trapRow guid i va w) i k
        | none => rowTval 0 i 0) 0
    else s) s

/-- One slot is closed by force (R91, R92). -/
def State.closeSlot (s : State) (core guid i reason : Nat) (r : RowSlot) : State :=
  ((s.setSlotOf guid i { r with state := .closed, reason := reason }).unqueue core guid i).trapRowWaiters guid i r.va
    (some reason)

/-- A slot stands Queued, Activating or Open. -/
def RowSlot.pending (r : RowSlot) : Bool := r.holds || decide (r.state = .queued)

/-- Rows among a list of slots, each once. -/
def rowsOf (l : List (Nat × Nat × RowSlot)) : List Nat :=
  l.foldl (fun rows (_, _, r) => if rows.contains (rowOf r.pa) then rows else rows ++ [rowOf r.pa]) []

/-- The pending slots of a column's core that pass a test are closed by force; the column counts the rows closed
(R92, R323). -/
def State.closeRows (s : State) (core reason : Nat) (test : Nat → Nat → RowSlot → Bool) : State :=
  let hit := (s.coreSlots core).filter fun (g, i, r) => r.pending && test g i r
  let n := (rowsOf (hit.filter fun (_, _, r) => r.holds)).length
  let s1 := hit.foldl (fun s (g, i, r) => s.closeSlot core g i reason r) s
  s1.setColumn core { s1.column core with closes := (s1.column core).closes + n }

/-- The layer of a bank is in doubled mode (R98). -/
def Column.doubledBank (c : Column) (b : Nat) : Bool := ((c.doubled[b / 2]?).bind id).isSome

/-- A bank is in doubled mode at a stack time: a change of its layer's mode applies from the next refresh to fall due under the new
rule (R98). -/
def Column.doubledAt (c : Column) (b t : Nat) : Bool := if t < c.modeAt.getD b 0 then !c.doubledBank b else c.doubledBank b

/-- The open limit of a bank's rows (R92). -/
def Column.openLimit (c : Column) (b t : Nat) : Nat := if c.doubledAt b t then 4680 else 9360

/-- A refresh grace runs on a bank (R94). -/
def Column.inGrace (c : Column) (b : Nat) : Bool :=
  match mget c.refresh b with
  | some (.grace _) => true
  | _ => false

/-! ### ROPEN, RCLOSE, RPOLL -/

/-- The trap of a slot outside the grant: 0x01 with the trapping word (R91). -/
def EngRes.grant (c : Ctx) (g : Group) (i : Nat) : EngRes RowSlot :=
  match g.slot i with
  | some r => .go r
  | none => .trap 0x01 c.word 0

/-- ROPEN's checks (R91, R296): the slot exists; the address translates with RD; the row is of the core's own column;
the slot is Free or Closed.  Gives the address and its place. -/
def State.ropenCheck (s : State) (f : LRopen) (c : Ctx) (g : Group) (t : Thread) : EngRes (Nat × Nat × RowSlot) :=
  let i := f.slot.toNat
  let x := (c.uni g f.u.toNat + (c.val t f.a).setWidth 64).toNat
  (EngRes.grant c g i).andThen fun r =>
    match s.xlate g.core g.rec_.tenant x 3 with
    | .miss => .miss x 3
    | .no _ => .trap 0x20 (BitVec.ofNat 64 x) 3
    | .ok pa =>
      if Config.padBase ≤ pa ∨ columnOf pa ≠ g.core then .trap 0x31 (rowTval x i r.reason) 0
      else if r.pending then .trap 0x32 (rowTval x i r.reason) 0
      else .go (x, pa, r)

/-- ROPEN (R296): the slot becomes Queued and the request is accepted at the column. -/
def execRopen (f : LRopen) (s : State) : Out :=
  .next (s.engEach (fun s c g t => s.ropenCheck f c g t) fun s c g _ (x, pa, r) =>
    let s1 := s.setSlotOf c.guid f.slot.toNat { r with state := .queued, va := x / 4096 * 4096, pa := rowOf pa }
    s1.setColumn g.core { s1.column g.core with
      queue := (s1.column g.core).queue ++ [{ guid := c.guid, slot := f.slot.toNat }] })

/-- A slot made Free (R91, R298); on Free, nothing. -/
def State.freeSlotOf (s : State) (core guid i : Nat) (r : RowSlot) : State :=
  if r.state = .free then s
  else ((s.setSlotOf guid i { r with state := .free, reason := 0 }).unqueue core guid i).trapRowWaiters guid i 0
    none

/-- RCLOSE (R298). -/
def execRclose (slot : BitVec 3) (s : State) : Out :=
  .next (s.engEach (fun _ c g _ => EngRes.grant c g slot.toNat) fun s c g _ r =>
    s.freeSlotOf g.core c.guid slot.toNat r)

/-- Number of a slot state (R96). -/
def RowState.num : RowState → Nat
  | .free => 0
  | .queued => 1
  | .activating => 2
  | .opened => 3
  | .closed => 4

/-- RPOLL's word (R96). -/
def State.pollWord (s : State) (core : Nat) (r : RowSlot) : Word :=
  let c := s.column core
  let b := c.bankOf r.pa
  let left := if r.state = .opened then (r.since + c.openLimit b s.stime - s.stime) / 16 else 0
  let due := r.holds && c.inGrace b
  BitVec.ofNat 32 (r.state.num + r.reason * 2 ^ 4 + due.toNat * 2 ^ 7 + left * 2 ^ 16)

/-- RPOLL (R298). -/
def execRpoll (f : LRpoll) (s : State) : Out :=
  .next (s.engEach (fun _ c g _ => EngRes.grant c g f.slot.toNat) fun s c g t r =>
    s.onThread c.guid t.tid fun u => u.setReg f.a (s.pollWord g.core r))

/-! ### Takes -/

/-- Room for `n` more accepted takes on a core (R297). -/
def State.takeRoom (s : State) (core n : Nat) : Bool :=
  decide ((s.takes.filter fun t => decide (t.core = core)).length + n ≤ Config.takesPerCore)

/-- A take of an Open slot is accepted (R297): a scratchpad destination's lines become Pending, those of a Lost or freed
region excepted, whose beats will be discarded; a staging take starts a new fill (R279). -/
def State.acceptTake (s : State) (core guid tid i : Nat) (r : RowSlot) (dest : TakeDest) : State :=
  match s.group guid with
  | none => s
  | some g =>
    let dead := match dest with
      | .pad a => (linesOf (padKey core a) 4096).filter fun l => match s.padCheck g (addrFrom core l) 128 with
        | .ok _ => false
        | _ => true
      | _ => []
    let t : Take := { id := s.nextId, core := core, guid := guid, tid := tid, slot := i, va := r.va, pa := r.pa,
                      dest := dest, beat := 0, nextAt := s.stime, dead := dead, data := [], bad := false, missed := [],
                      batch := none, outcome := 0 }
    let s1 := { s.bump with takes := s.takes ++ [t] }
    match dest with
    | .staging => s1.onGroup guid fun x =>
        { x with staging := { x.staging with take := some s.nextId, empty := false, fill := some (i, r.va) } }
    | _ => s1

/-- What RTAKE finds. -/
inductive TakeAct
  /-- Its parked take was accepted already. -/
  | granted
  | busy
  | accept (r : RowSlot)

/-- RTAKE's scratchpad destination: 4,096 bytes from a multiple of 128 in the local window, by R71. -/
def State.takeDestOk (s : State) (g : Group) (a : Nat) : EngRes Unit :=
  if a % 128 ≠ 0 ∨ Config.padBytes < a + 4096 then .trap 0x10 (BitVec.ofNat 64 a) 0 else s.inBounds g a 4096

/-- RTAKE's checks (R91, R297), the lower cause first (R161). -/
def State.rtakeCheck (s : State) (f : LRtake) (c : Ctx) (g : Group) (t : Thread) : EngRes TakeAct :=
  let i := f.slot.toNat
  let a := (c.val t f.a).toNat
  (EngRes.grant c g i).andThen fun r =>
    if t.grant = some i then .go .granted
    else (if f.dest then s.takeDestOk g a else .go ()).andThen fun _ =>
      if r.state = .free then .trap 0x30 (rowTval 0 i 0) 0
      else if r.state = .closed then .trap 0x30 (rowTval r.va i r.reason) 0
      else if r.state = .opened then
        if s.takeRoom g.core 1 then .go (.accept r)
        else if f.try_ then .go .busy else .wait (.takeRoom [i])
      else if f.try_ then .go .busy
      else .wait (.row i (some (if f.dest then some a else none)))

/-- Where RTAKE delivers. -/
def Ctx.takeDest (c : Ctx) (t : Thread) (f : LRtake) : TakeDest :=
  if f.dest then .pad (c.val t f.a).toNat else .staging

/-- RTAKE (R297): accepted, p(PD) is set under TRY; busy, it is cleared. -/
def execRtake (f : LRtake) (s : State) : Out :=
  .next (s.engEach (fun s c g t => s.rtakeCheck f c g t) fun s c g t act =>
    let put := fun (s : State) (b : Bool) => s.onThread c.guid t.tid fun u => u.setPred f.pd b
    match act with
    | .granted => put (s.onThread c.guid t.tid fun u => { u with grant := none }) true
    | .busy => put s false
    | .accept r => put (s.acceptTake g.core c.guid t.tid f.slot.toNat r (c.takeDest t f)) true)

/-- A take ends (R297): its outcome goes to its batch where it has one; what it brought to staging stands there, unless a later
take fills it already, and goes to an MX of the group that waits for its own fill (R279). -/
def State.endTake (s : State) (t : Take) : State :=
  let s1 := { s with takes := s.takes.filter fun x => decide (x.id ≠ t.id) }
  let fill := fun (e : EngCmd) => if e.guid ≠ t.guid then e else match e.op with
    | .mx p none _ => { e with op := .mx p (some t.data) t.bad }
    | _ => e
  match t.dest with
  | .pad _ => s1.onMember t.guid t.tid fun u => u.meet t.batch t.outcome 0
  | .attn _ _ _ => s1
  | .staging => { s1 with engs := s1.engs.map fill }.onGroup t.guid fun g =>
      if g.staging.take = some t.id then { g with staging := { g.staging with data := t.data, bad := t.bad } } else g

/-- A beat's bytes go to where the take delivers: beat `k`, and whether it was good. -/
def State.deliverBeat (s : State) (t : Take) (bs : List Byte) (good : Bool) : State :=
  match t.dest with
  | .staging => s
  | .pad a =>
    if !good then s
    else (List.range 4).foldl (fun (s : State) j =>
      let k := padKey t.core (a + t.beat * 512 + j * 128)
      if t.dead.contains k then s else s.write k ((bs.drop (j * 128)).take 128)) s
  | .attn cmd v i => { s with engs := s.engs.map fun e =>
      if e.id = cmd then match e.op with
        | .attn p ks vs bad =>
          let b := (i * 8 + t.beat, bs)
          { e with op := .attn p (if v then ks else b :: ks) (if v then b :: vs else vs) (bad || !good) }
        | _ => e
      else e }

/-- A take after its next beat, read at a stack time: what it met, what it has gathered for staging, and the lines it leaves
Pending (R72, R279). -/
def Take.after (t : Take) (now : Nat) (bs : List Byte) (good : Bool) : Take :=
  let lost := (List.range 4).any fun j => match t.dest with
    | .pad a => t.dead.contains (padKey t.core (a + t.beat * 512 + j * 128))
    | _ => false
  let met := max t.outcome (if !good then outData else if lost then outDest else 0)
  { t with beat := t.beat + 1, nextAt := now + 1, outcome := met, bad := t.bad || !good,
           data := if t.dest = .staging ∧ good = true then (t.beat, bs) :: t.data else t.data,
           missed := if good then t.missed else t.missed ++ [t.beat] }

/-- The next beat of a take is delivered (R95, R297); one that cannot be corrected closes its row with REASON 6 (R103). -/
def State.beatAs (s : State) (t : Take) (good : Bool) : State :=
  let bs := s.bytes (t.pa + t.beat * 512) 512
  let s1 := s.deliverBeat t bs good
  let s2 := if good then s1 else
    let gid := match s1.group t.guid with | some g => BitVec.ofNat 32 g.gid | none => 0xFFFFFFFF#32
    let tenant := match s1.group t.guid with | some g => g.rec_.tenant | none => 0
    (s1.dataError t.core tenant gid 0xFFFFFFFF#32 (t.va + t.beat * 512) 3).closeRows t.core 6
      fun _ _ r => r.holds && decide (rowOf r.pa = rowOf t.pa)
  let t1 := t.after s.stime bs good
  if t1.beat = 8 then s2.endTake t1
  else { s2 with takes := s2.takes.map fun x => if x.id = t.id then t1 else x }

/-- The next beat of a take as its row holds it; an error on a die network on its way is no column's (R185, R323). -/
def State.beat (s : State) (t : Take) : State :=
  if s.marked (.item t.id) then (s.uncounted (s.beatAs t false)).unmark (.item t.id)
  else s.beatAs t (!s.badAt (t.pa + t.beat * 512) 512)

/-- The next beat of a take cannot be corrected (R103, R185). -/
def State.beatBad (s : State) (t : Take) : Bool := s.badAt (t.pa + t.beat * 512) 512 || s.marked (.item t.id)

/-- An earlier access of the thread that the beats of its take follow is in flight (R95, R110, R316): one that later loads wait for,
or a write to the row. -/
def State.beforeTake (s : State) (t : Take) : Bool :=
  s.accesses.any fun a => decide (a.guid = t.guid) && decide (a.id < t.id) && a.lanes.any fun l =>
    decide (l.tid = t.tid) && (a.kind.holdsLoads || overlaps (rowOf t.pa) 4096 l.pa 16)

/-- No earlier take of the group still fills staging (R279). -/
def State.firstFill (s : State) (t : Take) : Bool :=
  s.takes.all fun x => !(decide (x.id < t.id) && decide (x.guid = t.guid) && decide (x.dest = .staging))

/-- The next beat of a take may be delivered now (R95): one beat of a take in a ck, after the accesses that it follows; one that
cannot be corrected waits for room in the die's fault queue.  DESIGN CHOICE (log 50): takes of several rows deliver their beats beside one another. -/
def State.beatReady (s : State) (t : Take) : Bool :=
  decide (t.nextAt ≤ s.stime) && (s.roomFor t.core || !s.beatBad t) && !s.beforeTake t &&
  (decide (t.dest ≠ .staging) || s.firstFill t)

/-- RTAKE_BEAT (R95): the next 512-byte beat of take `id`. -/
def execRtakeBeat (id : Nat) (s : State) : Out :=
  .next (match s.takes.find? fun t => decide (t.id = id) with
    | none => s
    | some t => if s.beatReady t then s.beat t else s)

/-! ### Activation and opening (R91, R93) -/

/-- ck since the latest refresh of a bank fell due (R94). -/
def Column.sinceDue (c : Column) (b t : Nat) : Nat :=
  if c.doubledAt b t then (t + 4680 - 195 * b % 4680) % 4680 else (t + 9360 - 390 * b % 9360) % 9360

/-- The first stack time from `t` on at which a bank's refresh falls due, doubled or not (R94). -/
def nextDue (doubled : Bool) (b t : Nat) : Nat :=
  if doubled then t + (195 * b + 4680 - t % 4680) % 4680 else t + (390 * b + 9360 - t % 9360) % 9360

/-- A refresh of a bank runs that the model keeps no record of (log 26): it fell due within 280 ck by the mode that holds, and since
that mode or the bank's life began. -/
def Column.refreshing (c : Column) (b now : Nat) : Bool :=
  decide (c.sinceDue b now < 280) && (decide (now < c.modeAt.getD b 0) || decide (c.modeAt.getD b 0 + c.sinceDue b now ≤ now))

/-- A bank is busy for a row (R93): it refreshes, its grace has run out, or it holds another row open. -/
def State.bankBusy (s : State) (col bank row : Nat) : Bool :=
  (match mget (s.column col).refresh bank with
    | some (.busy _) => true
    | some (.grace e) => decide (e ≤ s.stime)
    | none => (s.openRow col bank).isNone && (s.column col).refreshing bank s.stime) ||
  (match s.openRow col bank with
    | some r => decide (r ≠ row)
    | none => false)

/-- The windows of R93 let one more activation of a column go now. -/
def Column.windowOpen (c : Column) (now : Nat) : Bool :=
  decide ((c.acts.filter fun a => decide (now < a + 100)).length < 4) &&
  decide ((c.acts.filter fun a => decide (now / 2400 = a / 2400)).length < c.allow)

/-- The slot of a request. -/
def State.reqSlot (s : State) (q : ActReq) : Option RowSlot := (s.group q.guid).bind fun g => g.slot q.slot

/-- The first request of a column whose bank is not busy (R93), with its slot. -/
def State.nextRequest (s : State) (col : Nat) : Option (ActReq × RowSlot) :=
  (s.column col).queue.findSome? fun q => match s.reqSlot q with
    | some r => if s.bankBusy col ((s.column col).bankOf r.pa) (rowOf r.pa) then none else some (q, r)
    | none => none

/-- Another slot of the core that holds a row open or activating (R91). -/
def State.holder (s : State) (col : Nat) (q : ActReq) (row : Nat) : Option RowSlot :=
  ((s.coreSlots col).find? fun (g, i, r) =>
    !(decide (g = q.guid) && decide (i = q.slot)) && r.holds && decide (rowOf r.pa = row)).map fun (_, _, r) => r

/-- The activation that may be made on a column now. -/
def State.activation (s : State) (col : Nat) : Option (ActReq × RowSlot) :=
  if (s.column col).remap.isSome || !(s.column col).windowOpen s.stime then none else s.nextRequest col

/-- ROW_ACTIVATION (R93): the first request that may go is activated, or follows the slot that holds its row. -/
def execRowActivation (column : Nat) (s : State) : Out :=
  .next (match s.activation column with
    | none => s
    | some (q, r) =>
      let s1 := s.unqueue column q.guid q.slot
      match s.holder column q (rowOf r.pa) with
      | some h => s1.setSlotOf q.guid q.slot { r with state := .activating, since := h.since }
      | none =>
        let c := s1.column column
        (s1.setSlotOf q.guid q.slot { r with state := .activating, since := s.stime }).setColumn column
          { c with acts := s.stime :: c.acts.filter (fun a => decide (s.stime < a + 2400)),
                   activations := c.activations + 1 })

/-- An RTAKE parked on a slot that has become Open is accepted (R297); where sixteen takes are in flight the thread goes
on waiting for one to end. -/
def State.acceptParked (s : State) (guid i : Nat) (w : Nat × Nat × Wait × Point) : State :=
  let (g, tid, wait, p) := w
  match wait, s.group guid with
  | .row j take, some x =>
    if g ≠ guid ∨ j ≠ i then s
    else match take, x.slot i with
      | some dest, some r =>
        if s.takeRoom x.core 1 then
          let d : TakeDest := match dest with | some a => .pad a | none => .staging
          ((s.acceptTake x.core guid tid i r d).wake guid tid p).onThread guid tid fun t => { t with grant := some i }
        else s.onThread guid tid fun t => match t.run with
          | .parked _ a b => { t with run := .parked (.takeRoom [i]) a b }
          | _ => t
      | _, _ => s.wake guid tid p
  | .refill j false, some _ => if g = guid ∧ j = i then s.wake guid tid p else s
  | _, _ => s

/-- ROW_READY (R91): 36 ck after its activation the slot is Open and parked threads wake. -/
def execRowReady (group slot : Nat) (s : State) : Out :=
  .next (match (s.group group).bind fun g => g.slot slot with
    | none => s
    | some r =>
      if r.state = .activating ∧ r.since + 36 ≤ s.stime then
        let s1 := s.setSlotOf group slot { r with state := .opened }
        s1.waiters.foldl (fun s w => s.acceptParked group slot w) s1
      else s)

/-! ### Closing: refresh and open limit (R92, R94) -/

/-- A refresh of a bank falls due at a stack time (R94). -/
def Column.refreshAt (c : Column) (b t : Nat) : Bool :=
  decide (c.sinceDue b t = 0)

/-- A refresh of a live bank falls due now and has not begun. -/
def State.refreshDueNow (s : State) (col b : Nat) : Bool :=
  (s.column col).refreshAt b s.stime && (s.column col).live.getLsbD b && (mget (s.column col).refresh b).isNone

/-- The column with a bank's refresh state set. -/
def State.setRefresh (s : State) (col b : Nat) (r : Option RefreshState) : State :=
  let c := s.column col
  s.setColumn col { c with refresh := match r with | some x => mset c.refresh b x | none => mdel c.refresh b }

/-- REFRESH_DUE (R94): with a row open on the bank a grace of 200 ck runs; otherwise the refresh begins. -/
def execRefreshDue (column bank : Nat) (s : State) : Out :=
  .next (if !s.refreshDueNow column bank then s
    else match s.openRow column bank with
      | some _ => s.setRefresh column bank (some (.grace (s.stime + 200)))
      | none => s.setRefresh column bank (some (.busy (s.stime + 280))))

/-- Takes of a bank are still to deliver. -/
def State.bankTaking (s : State) (col bank : Nat) : Bool :=
  s.takes.any fun t => decide (t.core = col) && decide ((s.column col).bankOf t.pa = bank)

/-- The end of a grace has something to do now: the close point, or the start of the refresh. -/
def State.graceEnds (s : State) (col bank : Nat) : Bool :=
  match mget (s.column col).refresh bank with
  | some (.grace e) => decide (e ≤ s.stime) &&
      (!s.bankTaking col bank || (s.coreSlots col).any fun (_, _, r) =>
        r.holds && decide ((s.column col).bankOf r.pa = bank))
  | _ => false

/-- REFRESH_GRACE_END (R94): at the close point the bank's row closes with REASON 1; the refresh begins once the
accepted takes have delivered. -/
def execRefreshGraceEnd (column bank : Nat) (s : State) : Out :=
  .next (if !s.graceEnds column bank then s
    else
      let s1 := s.closeRows column 1 fun _ _ r => r.holds && decide ((s.column column).bankOf r.pa = bank)
      if s1.bankTaking column bank then s1 else s1.setRefresh column bank (some (.busy (s.stime + 280))))

/-- REFRESH_END (R94): 280 ck after it began, the refresh ends. -/
def execRefreshEnd (column bank : Nat) (s : State) : Out :=
  .next (match mget (s.column column).refresh bank with
    | some (.busy e) => if e ≤ s.stime then s.setRefresh column bank none else s
    | _ => s)

/-- A slot has reached its open limit (R92). -/
def State.limitReached (s : State) (core : Nat) (r : RowSlot) : Bool :=
  let c := s.column core
  decide (r.state = .opened) && decide (r.since + c.openLimit (c.bankOf r.pa) s.stime ≤ s.stime)

/-- OPEN_LIMIT_REACHED (R92): the row closes with REASON 2 in every slot that holds it. -/
def execOpenLimitReached (group slot : Nat) (s : State) : Out :=
  .next (match s.group group with
    | none => s
    | some g => match g.slot slot with
      | none => s
      | some r =>
        if s.limitReached g.core r then s.closeRows g.core 2 fun _ _ x => x.holds && decide (rowOf x.pa = rowOf r.pa)
        else s)

end Sys2Proof.Machine
end

