-- ==== Sys2Proof/Machine/Engines.lean ====
section
/-! DEFINITION. The pair array: MX (R59, R60, R278 to R280), ATTN and ATTN.MERGE (R62, R142 to R149, R244), MXDRAIN (R61,
R281, R282), and CBLOAD (R48, R49, R250). -/

namespace Sys2Proof.Machine

/-! ### What every command shares -/

/-- The parameter block at s(U) (R244, R280): aligned to 64 bytes, read by a load at device scope; checked by `ok`. -/
def State.engBlock (s : State) (c : Ctx) (g : Group) (u : BitVec 6) (ok : Nat → Bool) : EngRes Nat :=
  let va := (c.uni g u.toNat).toNat
  (EngRes.require (va % 64 == 0) (BitVec.ofNat 64 va)).andThen fun _ =>
    (s.engRead g va 64).andThen fun bs =>
      (EngRes.require (ok (leNat bs)) (BitVec.ofNat 64 va)).andThen fun _ => .go (leNat bs)

/-- The completion counter's translation at issue (R320): 0 for none. -/
def State.ctrPlace (s : State) (g : Group) (ctr : Nat) : EngRes Nat :=
  if ctr = 0 then .go 0
  else match s.xlate g.core g.rec_.tenant ctr 1 with
    | .ok pa => .go pa
    | .miss => .miss ctr 1
    | .no _ => .trap 0x20 (BitVec.ofNat 64 ctr) 1

/-- Several scratchpad runs in bounds, the first failing address first. -/
def State.allInBounds (s : State) (g : Group) : List (Nat × Nat) → EngRes Unit
  | [] => .go ()
  | (a, n) :: rs => (s.inBounds g a n).andThen fun _ => s.allInBounds g rs

/-- Several scratchpad runs not Lost. -/
def State.noneLost (s : State) (g : Group) : List (Nat × Nat) → EngRes Unit
  | [] => .go ()
  | (a, n) :: rs => (s.notLost g a n).andThen fun _ => s.noneLost g rs

/-- A command that starts. -/
def EngCmd.make (s : State) (c : Ctx) (g : Group) (t : Thread) (op : EngOp) (fin : Finish) : EngCmd :=
  { id := s.nextId, core := g.core, guid := c.guid, tid := t.tid, tenant := g.rec_.tenant, gid := g.gid, op := op,
    fin := fin, lost := false }

/-- A command is issued. -/
def State.startEng (s : State) (c : Ctx) (g : Group) (t : Thread) (op : EngOp) (fin : Finish) : State :=
  { s.bump with engs := s.engs ++ [EngCmd.make s c g t op fin] }

/-- The tiles a command names. -/
def EngOp.tiles : EngOp → List Nat
  | .mx p _ _ => [p.acc]
  | .attn p _ _ _ => if p.d128 then [p.acc, p.acc + 1] else [p.acc]
  | .drain p _ _ _ _ _ _ => if p.d128 then [p.acc, p.acc + 1] else [p.acc]
  | .merge _ => []
  | .cbload _ _ => []

/-- A command whose operands the CB2 table gives. -/
def EngOp.readsCb2 : EngOp → Bool
  | .mx p _ _ => decide (p.bf = 6)
  | _ => false

/-- A command that waits for an earlier CBLOAD to install its table, whatever its formats (R49). -/
def EngOp.needsCb2 : EngOp → Bool
  | .mx _ _ _ => true
  | .attn _ _ _ _ => true
  | _ => false

/-- A command is a CBLOAD. -/
def EngOp.isCbload : EngOp → Bool
  | .cbload _ _ => true
  | _ => false

/-- A command takes effect only after an earlier one of its group (R49, R123). -/
def EngOp.follows (a b : EngOp) : Bool :=
  (a.tiles.any b.tiles.contains) || (a.needsCb2 && b.isCbload) || (a.isCbload && (b.readsCb2 || b.isCbload))

/-- A command may take effect: no earlier command that it follows remains. -/
def State.engTurn (s : State) (e : EngCmd) : Bool :=
  s.engs.all fun x => !(decide (x.id < e.id) && decide (x.guid = e.guid) && e.op.follows x.op)

/-- A command leaves. -/
def State.dropEng (s : State) (id : Nat) : State := { s with engs := s.engs.filter fun e => decide (e.id ≠ id) }

/-- Bytes written to the scratchpad from a command's core, where its group still holds the place. -/
def State.engWrite (s : State) (e : EngCmd) (addr : Nat) (bs : List Byte) : State :=
  match s.group e.guid with
  | none => s
  | some g => match s.padCheck g addr bs.length with
    | .ok k => s.write k bs
    | _ => s

/-- A command ends (R147, R320): the status word where STATEN asks for it, then the signal-add; one that meets an error on a die
network is reported and counts nothing (R185). -/
def State.finishEng (s : State) (e : EngCmd) (outcome : Nat) (flags : Flags) : State :=
  let s1 := if e.fin.staten then s.engWrite e e.fin.stat (leBytes 4 (flags.toNat + outcome * 2 ^ 8)) else s
  let s2 := if e.fin.ctr = 0 then s1
    else if s1.marked (.item e.id) then
      s1.uncounted (s1.dataError e.core e.tenant (BitVec.ofNat 32 e.gid) 0xFFFFFFFF#32 e.fin.ctr 1)
    else s1.signalAdd e.core e.tenant e.fin.ctrPa (BitVec.ofNat 32 e.gid) 0xFFFFFFFF#32 e.fin.ctr
  (s2.dropEng e.id).unmark (.item e.id)

/-- −∞ in FP32. -/
def negInf32 : Word := 0xFF800000#32

/-- Element `i` of a tile's O, row by row. -/
def Tile.oAt (t : Tile) (i : Nat) : Word := t.o.getD i 0

/-- A tile of a group. -/
def Group.tile (g : Group) (i : Nat) : Tile := g.tiles.getD i Tile.fresh

/-- A tile of a group set. -/
def State.setTile (s : State) (guid i : Nat) (t : Tile) : State :=
  s.onGroup guid fun g => { g with tiles := setAt g.tiles i t }

/-- The bits of element `i` of a packed array (R45), its bytes given by their offset. -/
def elemOf (f : Nat) (byte : Nat → Byte) (i : Nat) : Nat :=
  let w := fmtBits f
  if w = 4 then (byte (i / 2)).toNat / (if i % 2 = 0 then 1 else 16) % 16
  else leNat ((List.range (w / 8)).map fun k => byte (i * (w / 8) + k))

/-! ### MX -/

/-- The format code of R199 of an MX format field with its signedness. -/
def mxFmt (f : Nat) (n : Bool) : Nat :=
  match f with | 0 => 1 | 1 => 2 | 2 => 3 | 3 => 4 | 4 => 5 | _ => if n then 11 else 8

/-- Bits of an element of an MX format field; 2 for CB2. -/
def mxBits (f : Nat) : Nat := match f with | 0 => 16 | 1 => 16 | 4 => 4 | 6 => 2 | _ => 8

/-- The MX block's fields (R278). -/
def MxBlk.ofNat (n : Nat) : MxBlk :=
  { aaddr := bits n 31 0, baddr := bits n 63 32, sca := bits n 95 64, scb := bits n 127 96, k := bits n 140 128,
    af := bits n 143 141, bf := bits n 146 144, sga := bit n 147, sgb := bit n 148, bsrc := bit n 149,
    zero := bit n 150, acc := bits n 153 151 }

/-- STATEN, STAT and CTR of an MX, ATTN or MXDRAIN block, with the counter's place. -/
def Finish.ofBlock (n ctrPa : Nat) : Finish :=
  { staten := bit n 352, stat := bits n 351 320, ctr := bits n 312 256, ctrPa := ctrPa }

/-- The common part of the checks of a block (R145, R278, R320). -/
def tailOk (n : Nat) : Bool :=
  decide (bits n 511 353 = 0) && decide (bits n 319 313 = 0) && decide (bits n 351 320 % 4 = 0) &&
  decide (bits n 312 256 % 8 = 0)

/-- R280's conditions on an MX block for a group. -/
def MxBlk.ok (n : Nat) (g : Group) : Bool :=
  let p := MxBlk.ofNat n
  tailOk n && decide (bits n 255 154 = 0) && decide (8 ≤ p.k ∧ p.k ≤ 4096 ∧ p.k % 8 = 0) &&
  decide (p.af < 6 ∧ p.bf < 7 ∧ (p.af = 5 ↔ p.bf = 5)) && (decide (p.af = 5) || (!p.sga && !p.sgb)) &&
  (mxScaled p.af || decide (p.sca = 0)) && (mxScaled p.bf || decide (p.scb = 0)) &&
  decide (p.aaddr % 128 = 0 ∧ p.baddr % 128 = 0) && (!p.bsrc || decide (p.baddr = 0)) &&
  decide (p.acc < g.rec_.acc) && (!p.bsrc || decide (8 * p.k * mxBits p.bf = 4096))

/-- Blocks of 32 along K. -/
def MxBlk.blocks (p : MxBlk) : Nat := (p.k + 31) / 32

/-- The scratchpad operands of an MX (R278). -/
def MxBlk.runs (p : MxBlk) : List (Nat × Nat) :=
  [(p.aaddr, 8 * p.k * mxBits p.af)] ++ (if p.bsrc then [] else [(p.baddr, 8 * p.k * mxBits p.bf)]) ++
  (if mxScaled p.af then [(p.sca, 64 * p.blocks)] else []) ++ (if mxScaled p.bf then [(p.scb, 64 * p.blocks)] else [])

/-- The status word's place where the block asks for it. -/
def statRun (n : Nat) : List (Nat × Nat) := if bit n 352 then [(bits n 351 320, 4)] else []

/-- What MX does about staging (R279): none of its business, read it, wait for its fill, or take the recorded slot. -/
inductive StageUse
  | unused
  | read
  | refill (slot : Nat) (r : RowSlot)

/-- The staging an MX finds (R279). -/
def State.stageCheck (s : State) (g : Group) (bsrc : Bool) (blk : Dword) : EngRes StageUse :=
  if !bsrc then .go .unused
  else if !g.staging.empty then .go .read
  else match g.staging.fill with
    | none => .trap 0x01 blk 0
    | some (i, va) => match g.slot i with
      | none => .trap 0x01 blk 0
      | some r => match r.state with
        | .free => .trap 0x30 (rowTval 0 i 0) 0
        | .closed => .trap 0x30 (rowTval va i r.reason) 0
        | .opened => if s.takeRoom g.core 1 then .go (.refill i r) else .wait (.refill i true)
        | _ => .wait (.refill i false)

/-- An MX reads staging that is empty and records no fill, or none of a slot of the group (R279). -/
def Group.noFill (g : Group) (bsrc : Bool) : Bool :=
  bsrc && g.staging.empty && ((g.staging.fill.bind fun x => g.slot x.1).isNone)

/-- MX's checks at issue (R280, R320), the lower cause first (R161): the block, staging without a fill, bounds, Lost lines, the
counter, the slot that staging takes. -/
def State.mxCheck (s : State) (f : LE) (c : Ctx) (g : Group) : EngRes (Nat × Nat × StageUse) :=
  (s.engBlock c g f.u fun n => MxBlk.ok n g).andThen fun n =>
    let p := MxBlk.ofNat n
    (EngRes.require (!g.noFill p.bsrc) (c.uni g f.u.toNat)).andThen fun _ =>
    (s.allInBounds g (p.runs ++ statRun n)).andThen fun _ => (s.noneLost g p.runs).andThen fun _ =>
      (s.ctrPlace g (bits n 312 256)).andThen fun pa =>
        (s.stageCheck g p.bsrc (c.uni g f.u.toNat)).andThen fun u => .go (n, pa, u)

/-- The latest take to staging has delivered all its beats. -/
def State.stageReady (s : State) (g : Group) : Bool :=
  match g.staging.take with
  | none => true
  | some id => s.takes.all fun t => decide (t.id ≠ id)

/-- MX (R280): the command starts; one that fills staging itself reads it when that fill is delivered. -/
def execMx (f : LE) (s : State) : Out :=
  .next (s.engEach (fun s c g _ => s.mxCheck f c g) fun s c g t (n, pa, u) =>
    let p := MxBlk.ofNat n
    let fin := Finish.ofBlock n pa
    match u with
    | .unused => s.startEng c g t (.mx p (some []) false) fin
    | .read =>
      s.startEng c g t (.mx p (if s.stageReady g then some g.staging.data else none) g.staging.bad) fin
    | .refill i r =>
      (s.startEng c g t (.mx p none false) fin).acceptTake g.core c.guid t.tid i r .staging)

/-- A byte of 512-byte beats by its offset; a byte that no beat brought is a free value. -/
def beatByte (beats : List (Nat × List Byte)) (i : Nat) : Byte :=
  match beats.find? fun b => decide (b.1 = i / 512) with
  | some (_, bs) => bs.getD (i % 512) 0
  | none => Config.stagingByte i

/-- One magnitude of a CB2 index with its sign and coset (R48). -/
def cb2Val (tbl : Nat → Nat) (w e : Nat) : Val :=
  let ent := tbl (w / 256 % 256)
  let neg := (List.range 7).foldl (fun n i => n + (bit w (1 + i)).toNat) 0
  let sign := if e < 7 then bit w (1 + e) else decide (neg % 2 = 1)
  let twice := 2 * bits ent (2 * e + 1) (2 * e) + 1 - w % 2
  .fin (decide (twice ≠ 0) && sign) twice (-1)

/-- The exact value of an operand element by its index along K within its row or column. -/
def mxElem (f : Nat) (n : Bool) (tbl : Nat → Nat) (byte : Nat → Byte) (k line e : Nat) : Val :=
  if f = 6 then
    let i := (line * k / 8 + e / 8) * 2
    cb2Val tbl ((byte i).toNat + 256 * (byte (i + 1)).toNat) (e % 8)
  else dec (mxFmt f n) (elemOf (mxFmt f n) byte (line * k + e))

/-- The readers of an MX: bytes of A and B by offset, scale codes of a line's block. -/
structure MxRead where
  a : Nat → Byte
  b : Nat → Byte
  sa : Nat → Nat → Nat
  sb : Nat → Nat → Nat
  tbl : Nat → Nat

/-- One accumulator element (R60). -/
def mxAcc (p : MxBlk) (rd : MxRead) (r c : Nat) (acc : Word) : Word × Flags :=
  (List.range p.blocks).foldl (fun (acc, fl) k =>
    let es := (upFrom (32 * k) 32).filter fun e => decide (e < p.k)
    let sum := dotVals (es.map (mxElem p.af p.sga rd.tbl rd.a p.k r)) (es.map (mxElem p.bf p.sgb rd.tbl rd.b p.k c))
    let (w, f) := accBlock acc sum (rd.sa r k) (rd.sb c k)
    (w, fl ||| f)) (if p.zero then 0 else acc, fNone)

/-- What an MX of a core reads. -/
def State.mxRead (s : State) (e : EngCmd) (g : Group) (p : MxBlk) (stage : List (Nat × List Byte)) : MxRead :=
  let pad := fun (addr i : Nat) => s.byte (keyOf e.core addr + i)
  let scale := fun (f addr line k : Nat) => if mxScaled f then (pad addr (line * p.blocks + k)).toNat else 0x7F
  { a := pad p.aaddr, b := if p.bsrc then beatByte stage else pad p.baddr, sa := scale p.af p.sca,
    sb := scale p.bf p.scb, tbl := fun i => (g.cb2.getD i 0).toNat }

/-- A tile made a product with new O. -/
def Tile.product (t : Tile) (o : List Word) : Tile := { t with o := o, attention := false }

/-- MX takes effect on its tile (R60, R73, R279, R280): OUTCOME 1 makes it canonical NaNs; under OUTCOME 2 its elements
are free values. -/
def State.runMx (s : State) (e : EngCmd) (g : Group) (p : MxBlk) (stage : List (Nat × List Byte)) (bad : Bool) : State :=
  let t := g.tile p.acc
  if e.lost then (s.setTile e.guid p.acc (t.product (List.replicate 4096 Config.nan32))).finishEng e 1 fNone
  else if bad && p.bsrc then
    (s.setTile e.guid p.acc (t.product ((List.range 4096).map (Config.freeWord e.id)))).finishEng e 2 fNone
  else
    let rs := (List.range 4096).map fun i => mxAcc p (s.mxRead e g p stage) (i / 64) (i % 64) (t.oAt i)
    (s.setTile e.guid p.acc (t.product (rs.map (·.1)))).finishEng e 0 (rs.foldl (fun fl r => fl ||| r.2) fNone)

/-- A command that may take effect now, with its group if that is resident: its turn has come, the accesses of its thread before it
have been performed (R122), no column that it may reach is in a remapping step (R88, log 89), the bank of its counter serves it
(R90), and the die's fault queue has room. -/
def State.engNow (s : State) (id : Nat) : Option (EngCmd × Option Group) :=
  match s.engs.find? fun e => decide (e.id = id) with
  | none => none
  | some e =>
    if s.engTurn e && !s.behind e.guid e.tid e.id && s.noRemap && (decide (e.fin.ctr = 0) || s.served e.fin.ctrPa) &&
        s.roomFor e.core then some (e, s.group e.guid) else none

/-- MX_COMPLETE (R280).  A command whose group has ended has no tile left: it reports a lost operand. -/
def execMxComplete (id : Nat) (s : State) : Out :=
  .next (match s.engNow id with
    | none => s
    | some (e, g) => match e.op, g with
      | .mx p (some stage) bad, some g => s.runMx e g p stage bad
      | .mx _ _ _, none => s.finishEng e 1 fNone
      | _, _ => s)

/-! ### ATTN -/

/-- The ATTN block's fields (R143). -/
def AttnBlk.ofNat (n : Nat) : AttnBlk :=
  { qaddr := bits n 31 0, kaddr := bits n 63 32, vaddr := bits n 95 64, scale := BitVec.ofNat 32 (bits n 127 96),
    qbase := bits n 159 128, kbase := bits n 191 160, win := bits n 215 192, klen := bits n 222 216,
    causal := bit n 223, qn := bits n 230 224, d128 := bit n 231, acc := bits n 234 232, init := bit n 235,
    qf := bits n 237 236, kf := bits n 239 238, vf := bits n 241 240, ksel := bit n 242, kslot := bits n 245 243,
    vsel := bit n 246, vslot := bits n 249 247 }

/-- Columns d. -/
def AttnBlk.d (p : AttnBlk) : Nat := if p.d128 then 128 else 64

/-- Bytes of an element of a QF, KF or VF code. -/
def attnBytes (f : Nat) : Nat := if f = 2 then 1 else 2

/-- Format code of R199. -/
def attnFmt (f : Nat) : Nat := match f with | 0 => 1 | 1 => 2 | _ => 3

/-- Row slots of a tile of 64 rows (R144). -/
def AttnBlk.slots (p : AttnBlk) (f : Nat) : Nat := 64 * p.d * attnBytes f / 4096

/-- The slots an ATTN takes: of K, then of V, each with its place in the operand. -/
def AttnBlk.takes (p : AttnBlk) : List (Nat × Bool × Nat) :=
  (if p.ksel then (List.range (p.slots p.kf)).map fun i => (p.kslot + i, false, i) else []) ++
  (if p.vsel then (List.range (p.slots p.vf)).map fun i => (p.vslot + i, true, i) else [])

/-- R145's conditions on an ATTN block for a group. -/
def AttnBlk.ok (n : Nat) (g : Group) : Bool :=
  let p := AttnBlk.ofNat n
  tailOk n && decide (bits n 255 250 = 0) && decide (p.qf < 3 ∧ p.kf < 3 ∧ p.vf < 3) &&
  decide (1 ≤ p.qn ∧ p.qn ≤ 64 ∧ 1 ≤ p.klen ∧ p.klen ≤ 64) &&
  (if p.d128 then decide (p.acc % 2 = 0 ∧ p.acc + 1 < g.rec_.acc) else decide (p.acc < g.rec_.acc)) &&
  (p.takes.all fun (i, _, _) => decide (i < g.rec_.rows)) &&
  decide (p.qaddr % 128 = 0 ∧ p.kaddr % 128 = 0 ∧ p.vaddr % 128 = 0)

/-- The scratchpad operands of an ATTN step. -/
def AttnBlk.runs (p : AttnBlk) : List (Nat × Nat) :=
  [(p.qaddr, 64 * p.d * attnBytes p.qf)] ++ (if p.ksel then [] else [(p.kaddr, 64 * p.d * attnBytes p.kf)]) ++
  (if p.vsel then [] else [(p.vaddr, 64 * p.d * attnBytes p.vf)])

/-- The slots in order: the first that is not Open traps or parks (R144). -/
def slotsOpen (g : Group) : List (Nat × Bool × Nat) → EngRes Unit
  | [] => .go ()
  | (i, _, _) :: rest => match g.slot i with
    | none => .go ()
    | some r => match r.state with
      | .free => .trap 0x30 (rowTval 0 i 0) 0
      | .closed => .trap 0x30 (rowTval r.va i r.reason) 0
      | .opened => slotsOpen g rest
      | _ => .wait (.row i none)

/-- ATTN's checks at issue (R144, R145, R244, R320). -/
def State.attnCheck (s : State) (f : LE) (c : Ctx) (g : Group) : EngRes (Nat × Nat) :=
  (s.engBlock c g f.u fun n => AttnBlk.ok n g).andThen fun n =>
    let p := AttnBlk.ofNat n
    (s.allInBounds g (p.runs ++ statRun n)).andThen fun _ => (s.noneLost g p.runs).andThen fun _ =>
      (s.ctrPlace g (bits n 312 256)).andThen fun pa => (slotsOpen g p.takes).andThen fun _ =>
        if s.takeRoom g.core p.takes.length then .go (n, pa) else .wait (.takeRoom (p.takes.map (·.1)))

/-- ATTN (R144, R244): the step starts and its takes are accepted. -/
def execAttn (f : LE) (s : State) : Out :=
  .next (s.engEach (fun s c g _ => s.attnCheck f c g) fun s c g t (n, pa) =>
    let p := AttnBlk.ofNat n
    let id := s.nextId
    p.takes.foldl (fun (s : State) (i, v, k) => match g.slot i with
      | some r => s.acceptTake g.core c.guid t.tid i r (.attn id v k)
      | none => s) (s.startEng c g t (.attn p [] [] false) (Finish.ofBlock n pa)))

/-- −x. -/
def Val.neg : Val → Val
  | .nan => .nan
  | .inf n => .inf !n
  | .fin n m e => .fin (!n) m e

/-- round_fp32_rne of x − y. -/
def sub32 (x y : Word) : Word × Flags :=
  let r := (dec32 x).add 0 (dec32 y).neg
  let (w, fl) := round32 0 r
  (w, fl ||| madeNan r [dec32 x, dec32 y])

/-- round_fp32_rne of x × y. -/
def mul32 (x y : Word) : Word × Flags :=
  let r := (dec32 x).mul (dec32 y)
  let (w, fl) := round32 0 r
  (w, fl ||| madeNan r [dec32 x, dec32 y])

/-- round_fp32_rne of x + v for an exact v. -/
def addVal32 (x : Word) (v : Val) : Word × Flags :=
  let r := (dec32 x).add 0 v
  let (w, fl) := round32 0 r
  (w, fl ||| madeNan r [dec32 x, v])

/-- An FP32 NaN. -/
def isNan32 (x : Word) : Bool := decide (dec32 x = .nan)

/-- The state of one query row: m, l and O. -/
structure RowState64 where
  m : Word
  l : Word
  o : List Word
  deriving DecidableEq, Repr

/-- A row of canonical NaNs. -/
def RowState64.allNan (d : Nat) : RowState64 :=
  { m := Config.nan32, l := Config.nan32, o := List.replicate d Config.nan32 }

/-- The score of a key (R146): SCALE times the exact dot product, rounded once. -/
def score (scale : Word) (q k : List Val) : Word × Flags :=
  let (sum, fl) := dotVals q k
  let r := (dec32 scale).mul sum
  let (w, f) := round32 0 r
  (w, fl ||| f ||| madeNan r [dec32 scale, sum])

/-- The weight of a score below the maximum: bits of BF16. -/
def weight (s mn : Word) : Nat × Flags :=
  let (d, f1) := sub32 s mn
  let (e, f2) := fpExp2 0 d
  let (b, f3) := roundFloat 1 0 false (dec32 e)
  (b, f1 ||| f2 ||| f3)

/-- All flags of a list. -/
def orFlags {α : Type} (l : List (α × Flags)) : Flags := l.foldl (fun fl x => fl ||| x.2) fNone

/-- The new row from its weights (R146): the first keys of a row, or a row scaled by `a`. -/
def weighRow (st : RowState64) (mn : Word) (ps : List Val) (vs : List (List Val)) (d : Nat) : RowState64 × Flags :=
  let lb := ps.foldl (Val.add 0) (.fin false 0 0)
  let ob := (List.range d).map fun c => dotVals ps (vs.map fun v => v.getD c (.fin false 0 0))
  if st.m = negInf32 then
    let l := round32 0 lb
    let os := ob.map fun b => let r := round32 0 b.1; (r.1, r.2 ||| b.2)
    ({ m := mn, l := l.1, o := os.map (·.1) }, l.2 ||| orFlags os)
  else
    let dm := sub32 st.m mn
    let a := fpExp2 0 dm.1
    let la := mul32 st.l a.1
    let l := addVal32 la.1 lb
    let os := (st.o.zip ob).map fun (o, b) =>
      let x := mul32 o a.1
      let y := addVal32 x.1 b.1
      (y.1, x.2 ||| y.2 ||| b.2)
    ({ m := mn, l := l.1, o := os.map (·.1) }, dm.2 ||| a.2 ||| la.2 ||| l.2 ||| orFlags os)

/-- One row of the step (R146): its unmasked keys as pairs of a key row and a value row. -/
def attnRow (scale : Word) (q : List Val) (kvs : List (List Val × List Val)) (d : Nat) (st : RowState64) :
    RowState64 × Flags :=
  if kvs.isEmpty then (st, fNone)
  else
    let ss := kvs.map fun (k, _) => score scale q k
    let mb := (ss.map (·.1)).foldl (fun m s => if m = negInf32 then s else fpMax m s) negInf32
    let mn := if st.m = negInf32 then mb else fpMax st.m mb
    let ws := ss.map fun s => weight s.1 mn
    let (r, fl) := weighRow st mn (ws.map fun w => dec 1 w.1) (kvs.map (·.2)) d
    let flags := fl ||| orFlags ss ||| orFlags ws
    let nan := isNan32 mn || isNan32 r.l || r.o.any isNan32 || (ss.any fun s => isNan32 s.1) ||
      (ws.any fun w => decide (dec 1 w.1 = .nan)) || flags.getLsbD 0
    (if nan then RowState64.allNan d else r, flags)

/-- A key is unmasked for a row (R146). -/
def AttnBlk.unmasked (p : AttnBlk) (r j : Nat) : Bool :=
  decide (j < p.klen) && (!p.causal || decide (p.kbase + j ≤ p.qbase + r)) &&
  (decide (p.win = 0) || decide (p.qbase + r < p.kbase + j + p.win))

/-- A row of `d` elements of an operand. -/
def attnVals (f d : Nat) (byte : Nat → Byte) (row : Nat) : List Val :=
  (List.range d).map fun c => dec (attnFmt f) (elemOf (attnFmt f) byte (row * d + c))

/-- Row `r` of the tiles of a step: m and l with tile ACC, O across both where d = 128 (R142). -/
def Group.tileRow (g : Group) (acc d r : Nat) : RowState64 :=
  let t := g.tile acc
  { m := t.m.getD r negInf32, l := t.l.getD r 0,
    o := (List.range d).map fun c => (g.tile (acc + c / 64)).oAt (64 * r + c % 64) }

/-- The rows of a step put back into its tiles, which become attention tiles (R280). -/
def State.putRows (s : State) (guid acc d : Nat) (rows : List RowState64) : State :=
  (List.range (d / 64)).foldl (fun (s : State) h => s.onGroup guid fun g =>
    let old := g.tile (acc + h)
    let o := rows.flatMap fun r => (r.o.drop (64 * h)).take 64
    let t : Tile := { o := o, m := if h = 0 then rows.map (·.m) else old.m, l := if h = 0 then rows.map (·.l) else old.l,
                      attention := true }
    { g with tiles := setAt g.tiles (acc + h) t }) s

/-- The identity partial. -/
def RowState64.identity (d : Nat) : RowState64 := { m := negInf32, l := 0, o := List.replicate d 0 }

/-- The step takes effect (R146, R147). -/
def State.runAttn (s : State) (e : EngCmd) (g : Group) (p : AttnBlk) (ks vs : List (Nat × List Byte)) (bad : Bool) :
    State :=
  let d := p.d
  if e.lost || bad then
    (s.putRows e.guid p.acc d (List.replicate 64 (RowState64.allNan d))).finishEng e (if e.lost then 1 else 2) fNone
  else
    let pad := fun (addr i : Nat) => s.byte (keyOf e.core addr + i)
    let q := pad p.qaddr
    let k := if p.ksel then beatByte ks else pad p.kaddr
    let v := if p.vsel then beatByte vs else pad p.vaddr
    let row := fun (r : Nat) =>
      let st := if p.init then RowState64.identity d else g.tileRow p.acc d r
      if p.qn ≤ r then (st, fNone)
      else
        let keys := (List.range 64).filter (p.unmasked r)
        attnRow p.scale (attnVals p.qf d q r) (keys.map fun j => (attnVals p.kf d k j, attnVals p.vf d v j)) d st
    let rs := (List.range 64).map row
    (s.putRows e.guid p.acc d (rs.map (·.1))).finishEng e 0 (orFlags rs)

/-- The takes of an ATTN command have delivered. -/
def State.takesDone (s : State) (id : Nat) : Bool :=
  s.takes.all fun t => match t.dest with | .attn c _ _ => decide (c ≠ id) | _ => true

/-- ATTN_STEP_COMPLETE (R147). -/
def execAttnStepComplete (id : Nat) (s : State) : Out :=
  .next (match s.engNow id with
    | none => s
    | some (e, g) => match e.op, g with
      | .attn p ks vs bad, some g => if s.takesDone id then s.runAttn e g p ks vs bad else s
      | .attn _ _ _ _, none => if s.takesDone id then s.finishEng e 1 fNone else s
      | _, _ => s)

/-! ### ATTN.MERGE -/

/-- The merge block's fields (R149). -/
def MergeBlk.ofNat (n : Nat) : MergeBlk :=
  { a1 := bits n 31 0, a2 := bits n 63 32, aout := bits n 95 64, qn := bits n 102 96, d128 := bit n 103 }

/-- Columns d. -/
def MergeBlk.d (p : MergeBlk) : Nat := if p.d128 then 128 else 64

/-- Bytes of one array of records. -/
def MergeBlk.len (p : MergeBlk) : Nat := p.qn * (8 + 4 * p.d)

/-- Two scratchpad addresses of a core name one byte: equal ones, or one through each window (R65). -/
def sameByte (core a b : Nat) : Bool :=
  decide (a = b) || ((resolve core a).isSome && decide (resolve core a = resolve core b))

/-- Two arrays of a core overlap, by their addresses or by the bytes these name. -/
def MergeBlk.meet (p : MergeBlk) (core a b : Nat) : Bool :=
  overlaps a p.len b p.len ||
  ((resolve core a).isSome && (resolve core b).isSome && overlaps (keyOf core a) p.len (keyOf core b) p.len)

/-- R149's conditions on a merge block. -/
def MergeBlk.ok (n core : Nat) : Bool :=
  let p := MergeBlk.ofNat n
  decide (bits n 511 225 = 0 ∧ bits n 191 185 = 0 ∧ bits n 127 104 = 0) && decide (1 ≤ p.qn ∧ p.qn ≤ 64) &&
  decide (p.a1 % 8 = 0 ∧ p.a2 % 8 = 0 ∧ p.aout % 8 = 0 ∧ bits n 223 192 % 4 = 0 ∧ bits n 184 128 % 8 = 0) &&
  !p.meet core p.a1 p.a2 && (sameByte core p.aout p.a1 || !p.meet core p.aout p.a1) &&
  (sameByte core p.aout p.a2 || !p.meet core p.aout p.a2)

/-- ATTN.MERGE's checks at issue. -/
def State.mergeCheck (s : State) (f : LE) (c : Ctx) (g : Group) : EngRes (Nat × Nat) :=
  (s.engBlock c g f.u fun n => MergeBlk.ok n g.core).andThen fun n =>
    let p := MergeBlk.ofNat n
    let ins := [(p.a1, p.len), (p.a2, p.len)]
    let stat := if bit n 224 then [(bits n 223 192, 4)] else []
    (s.allInBounds g (ins ++ [(p.aout, p.len)] ++ stat)).andThen fun _ => (s.noneLost g ins).andThen fun _ =>
      (s.ctrPlace g (bits n 184 128)).andThen fun pa => .go (n, pa)

/-- ATTN.MERGE (R149, R244). -/
def execAttnMerge (f : LE) (s : State) : Out :=
  .next (s.engEach (fun s c g _ => s.mergeCheck f c g) fun s c g t (n, pa) =>
    s.startEng c g t (.merge (MergeBlk.ofNat n))
      { staten := bit n 224, stat := bits n 223 192, ctr := bits n 184 128, ctrPa := pa })

/-- Two partials merged (R62).  DESIGN CHOICE (log 94): of a NaN m, and of zeros of opposite sign, the maximum is FMAX's. -/
def mergeRow (p1 p2 : RowState64) : RowState64 × Flags :=
  if p1.m = negInf32 then (p2, fNone)
  else if p2.m = negInf32 then (p1, fNone)
  else
    let m := fpMax p1.m p2.m
    let d1 := sub32 p1.m m
    let d2 := sub32 p2.m m
    let s1 := fpExp2 0 d1.1
    let s2 := fpExp2 0 d2.1
    let both := fun (x y : Word) =>
      let a := mul32 x s1.1
      let b := mul32 y s2.1
      let r := addVal32 a.1 (dec32 b.1)
      (r.1, a.2 ||| b.2 ||| r.2)
    let l := both p1.l p2.l
    let os := (p1.o.zip p2.o).map fun (x, y) => both x y
    ({ m := m, l := l.1, o := os.map (·.1) }, d1.2 ||| d2.2 ||| s1.2 ||| s2.2 ||| l.2 ||| orFlags os)

/-- A record at a memory key (R148). -/
def State.readRow (s : State) (k d : Nat) : RowState64 :=
  let word := fun i => BitVec.ofNat 32 (s.num (k + 4 * i) 4)
  { m := word 0, l := word 1, o := (List.range d).map fun c => word (2 + c) }

/-- The bytes of a record. -/
def RowState64.bytes (r : RowState64) : List Byte := (r.m :: r.l :: r.o).flatMap fun w => leBytes 4 w.toNat

/-- The merge takes effect: every record is read before any is written. -/
def State.runMerge (s : State) (e : EngCmd) (p : MergeBlk) : State :=
  let rec_ := 8 + 4 * p.d
  if e.lost then
    (s.engWrite e p.aout ((List.replicate p.qn (RowState64.allNan p.d)).flatMap RowState64.bytes)).finishEng e 1 fNone
  else
    let rs := (List.range p.qn).map fun r =>
      mergeRow (s.readRow (keyOf e.core p.a1 + r * rec_) p.d) (s.readRow (keyOf e.core p.a2 + r * rec_) p.d)
    (s.engWrite e p.aout (rs.flatMap fun r => r.1.bytes)).finishEng e 0 (orFlags rs)

/-- ATTN_MERGE_COMPLETE (R149). -/
def execAttnMergeComplete (id : Nat) (s : State) : Out :=
  .next (match s.engNow id with
    | none => s
    | some (e, _) => match e.op with
      | .merge p => s.runMerge e p
      | _ => s)

/-! ### MXDRAIN -/

/-- The drain block's fields (R281); rounding code 4 is the issuing thread's mode. -/
def DrainBlk.ofNat (n mode : Nat) : DrainBlk :=
  { oaddr := if bit n 57 then bits n 31 0 else bits n 56 0, osp := bit n 57, stride := bits n 95 64,
    sa := BitVec.ofNat 32 (bits n 127 96), sb := BitVec.ofNat 32 (bits n 159 128), ofmt := bits n 163 160,
    rnd := if bits n 166 164 = 4 then mode else bits n 166 164, sat := bit n 167, mode := bits n 169 168,
    acc := bits n 172 170, d128 := bit n 173 }

/-- Output columns W. -/
def DrainBlk.w (p : DrainBlk) : Nat := if p.d128 then 128 else 64

/-- Bytes of an output row. -/
def DrainBlk.rowBytes (p : DrainBlk) : Nat := if p.mode = 1 then 8 + 4 * p.w else (p.w * fmtBits p.ofmt + 7) / 8

/-- Bytes from one output row to the next. -/
def DrainBlk.step (p : DrainBlk) : Nat := if p.mode = 1 then 8 + 4 * p.w else p.stride

/-- R282's conditions on a drain block for a group. -/
def DrainBlk.ok (n : Nat) (g : Group) : Bool :=
  let p := DrainBlk.ofNat n 0
  tailOk n && decide (bits n 255 174 = 0 ∧ bits n 63 58 = 0) && decide (p.ofmt < 12 ∧ bits n 166 164 < 5 ∧ p.mode < 2) &&
  (if p.d128 then decide (p.acc % 2 = 0 ∧ p.acc + 1 < g.rec_.acc) else decide (p.acc < g.rec_.acc)) &&
  (if p.mode = 1 then decide (p.oaddr % 8 = 0 ∧ p.stride = 0 ∧ p.ofmt = 0 ∧ bits n 166 164 = 0) && !p.sat
   else decide (p.oaddr % 4 = 0 ∧ p.stride % 4 = 0 ∧ p.rowBytes ≤ p.stride))

/-- The output rows of a drain: address and length. -/
def DrainBlk.rows (p : DrainBlk) : List (Nat × Nat) := (List.range 64).map fun r => (p.oaddr + r * p.step, p.rowBytes)

/-- The scratchpad rows of a drain in bounds, all in one region, the first failing address first (R71, R282). -/
def State.rowsInBounds (s : State) (g : Group) (home : Option (Nat × Nat)) : List (Nat × Nat) → EngRes Unit
  | [] => .go ()
  | (a, n) :: rs => (s.inBounds g a n).andThen fun _ =>
      if s.regionOf g a = home then s.rowsInBounds g home rs else .trap 0x10 (BitVec.ofNat 64 a) 0

/-- MXDRAIN's checks at issue (R280, R282, R320). -/
def State.drainCheck (s : State) (f : LE) (c : Ctx) (g : Group) : EngRes (Nat × Nat) :=
  (s.engBlock c g f.u fun n => DrainBlk.ok n g).andThen fun n =>
    let p := DrainBlk.ofNat n 0
    (if p.osp then s.rowsInBounds g (s.regionOf g p.oaddr) p.rows else .go ()).andThen fun _ =>
      (s.allInBounds g (statRun n)).andThen fun _ => (s.ctrPlace g (bits n 312 256)).andThen fun pa => .go (n, pa)

/-- The chunks of a drain's output: each row cut at 256-byte-aligned boundaries, numbered on, with its offset in the
concatenated rows; one whose destination is Lost is dead from the start (R72). -/
def State.drainChunks (s : State) (g : Group) (p : DrainBlk) : List Chunk :=
  let pieces := (p.rows.zipIdx).flatMap fun ((a, n), r) =>
    (chunksOf a n fun x => if p.osp then keyOf g.core x else x).map fun ch =>
      let dead := p.osp && (match s.padCheck g (a + ch.off) 1 with | .lost _ _ => true | _ => false)
      { ch with off := r * p.rowBytes + ch.off, dead := dead }
  (pieces.zipIdx).map fun (ch, i) => { ch with num := i }

/-- MXDRAIN (R282): the drain starts; its scratchpad output becomes Pending. -/
def execMxdrain (f : LE) (s : State) : Out :=
  .next (s.engEach (fun s c g _ => s.drainCheck f c g) fun s c g t (n, pa) =>
    let p := DrainBlk.ofNat n (c.source t).fpmode.toNat
    s.startEng c g t (.drain p false [] (s.drainChunks g p) 0 fNone none) (Finish.ofBlock n pa))

/-- round_fp32_rne of x / y for y not 0, correctly rounded. -/
def div32 (x y : Word) : Word × Flags :=
  match dec32 x, dec32 y with
  | .nan, _ => (Config.nan32, fNone)
  | _, .nan => (Config.nan32, fNone)
  | .inf _, .inf _ => (Config.nan32, fNV)
  | .inf a, .fin b _ _ => round32 0 (.inf (a != b))
  | .fin a _ _, .inf b => round32 0 (.fin (a != b) 0 0)
  | .fin a m e, .fin b n f =>
    let k := 64 + Nat.log2 n
    round32 0 (sticky (a != b) (m * 2 ^ k / n) (decide (m * 2 ^ k % n ≠ 0)) (e - f - Int.ofNat k))

/-- The element that a final drain scales (R148, R282). -/
def drainElem (t0 t : Tile) (r c : Nat) : Word × Flags :=
  let o := t.oAt (64 * r + c % 64)
  if !t0.attention then (o, fNone)
  else
    let l := t0.l.getD r 0
    match dec32 l with
    | .fin _ m _ => if m = 0 then (0, fNone) else div32 o l
    | _ => div32 o l

/-- One output element of a final drain (R61, R148, R282); a row with l = 0 gives +0. -/
def drainOut (p : DrainBlk) (q : Word) (t0 t : Tile) (r c : Nat) : Nat × Flags :=
  let l0 := t0.attention && (match dec32 (t0.l.getD r 0) with | .fin _ m _ => decide (m = 0) | _ => false)
  if l0 then (0, fNone)
  else
    let (o, f1) := drainElem t0 t r c
    let (x, f2) := mul32 o q
    let (y, f3) := convert p.ofmt p.rnd p.sat (dec32 x)
    (y, f1 ||| f2 ||| f3)

/-- The bytes of the output rows, concatenated, and the flags (R148, R282). -/
def drainData (p : DrainBlk) (g : Group) : List Byte × Flags :=
  if p.mode = 1 then ((List.range 64).flatMap fun r => (g.tileRow p.acc p.w r).bytes, fNone)
  else
    let (q, fq) := mul32 p.sa p.sb
    let rows := (List.range 64).map fun r => (List.range p.w).map fun c => drainOut p q (g.tile p.acc) (g.tile (p.acc + c / 64)) r c
    (rows.flatMap fun row => leBytes p.rowBytes (packBits (fmtBits p.ofmt) (row.map (·.1))),
     rows.foldl (fun fl row => fl ||| orFlags row) fq)

/-- A drain's operation set. -/
def State.setOp (s : State) (id : Nat) (op : EngOp) : State :=
  { s with engs := s.engs.map fun e => if e.id = id then { e with op := op } else e }

/-- The bytes of a drain, formed when its turn on its tile comes. -/
def drainBegin (p : DrainBlk) (g : Option Group) (begun : Bool) (data : List (Nat × List Byte)) (fl : Flags) :
    List Byte × Flags :=
  if begun then ((data.head?.map (·.2)).getD [], fl)
  else match g with
    | some g => drainData p g
    | none => ([], fl)

/-- A drain meets a fault as it writes (R121, R282), or a table entry that cannot be corrected (R103). -/
def State.drainFault (s : State) (e : EngCmd) (f : FaultSort) (va : Nat) (op : Option Word → List Chunk → Nat → EngOp)
    (owed : List Chunk) (outcome : Nat) : State :=
  match f with
  | .replayable =>
    (s.addFault { FaultEntry.blank with kind := 1, tenant := e.tenant, core := e.core, access := 1,
                                        gid := BitVec.ofNat 32 e.gid, addr := va }).setOp e.id
      (op (some s.nextToken) owed outcome)
  | .fatal => (s.dueTrap e.guid e.tid 0x20 va 1).setOp e.id (op none [] (max outcome 3))
  | .error _ => (s.dataError e.core e.tenant (BitVec.ofNat 32 e.gid) 0xFFFFFFFF#32 va 1).setOp e.id (op none [] (max outcome 2))

/-- One chunk of a drain lands, or is discarded (R72, R282); it waits for the banks that it writes to (R90), and an error on a die
network ends the drain as one in DRAM does (R185). -/
def State.landDrain (s : State) (e : EngCmd) (ch : Chunk) (bytes : List Byte) (owed : List Chunk) (outcome : Nat)
    (op : Option Word → List Chunk → Nat → EngOp) (osp : Bool) : State :=
  let rest := owed.filter fun x => decide (x.num ≠ ch.num)
  let bs := (bytes.drop ch.off).take ch.len
  if ch.dead then s.setOp e.id (op none rest (max outcome 1))
  else if osp then (s.write ch.addr bs).setOp e.id (op none rest outcome)
  else if !s.engServed e.core e.tenant ch.addr ch.len 1 then s
  else if s.marked (.item e.id) then
    (s.uncounted (s.drainFault e (.error 0) ch.addr op owed outcome)).unmark (.item e.id)
  else match s.xlateRun e.core e.tenant ch.addr ch.len 1 with
    | .error (f, va) => s.drainFault e f va op owed outcome
    | .ok ps =>
      if s.partlyBad ps then
        (s.dataError e.core e.tenant (BitVec.ofNat 32 e.gid) 0xFFFFFFFF#32 ch.addr 1).setOp e.id (op none [] (max outcome 2))
      else (s.writePlaces e.core e.tenant ps bs).setOp e.id (op none rest outcome)

/-- MXDRAIN_CHUNK_LANDING (R282): one chunk of the drain `id`.  A drain whose group has ended before its turn has no
tile left and writes nothing. -/
def execMxdrainChunkLanding (id chunk : Nat) (s : State) : Out :=
  .next (match s.engNow id with
    | none => s
    | some (e, g) => match e.op with
      | .drain p begun data owed outcome flags none =>
        (match owed.find? fun ch => decide (ch.num = chunk) with
          | none => s
          | some ch =>
            if !begun && g.isNone then s.setOp id (.drain p true [] [] (max outcome 1) flags none)
            else
              let (bytes, fl) := drainBegin p g begun data flags
              s.landDrain e ch bytes owed outcome
                (fun pause owed outcome => .drain p true [(0, bytes)] owed outcome fl pause) p.osp)
      | _ => s)

/-- MXDRAIN_COMPLETE (R282). -/
def execMxdrainComplete (id : Nat) (s : State) : Out :=
  .next (match s.engNow id with
    | none => s
    | some (e, _) => match e.op with
      | .drain _ _ _ [] outcome flags none => s.finishEng e outcome flags
      | _ => s)

/-! ### CBLOAD -/

/-- The places of a CBLOAD's 512 source bytes in DRAM, translated as the thread's own loads. -/
def State.cbPlaces (s : State) (g : Group) (va : Nat) : EngRes (List Nat) :=
  match (pagesOf va 512).find? fun p => match s.xlateRead g.core g.rec_.tenant p 0 with | .ok _ => false | _ => true with
  | some p => match s.xlateRead g.core g.rec_.tenant p 0 with
    | .miss => .miss p 0
    | _ => .trap 0x20 (BitVec.ofNat 64 p) 0
  | none => .go ((upFrom va 512).map fun a => match s.xlate g.core g.rec_.tenant a 0 with | .ok pa => pa | _ => 0)

/-- CBLOAD's checks at issue (R250); for a scratchpad source of 2^32 or above %tval is the trapping word (R162). -/
def State.cbloadCheck (s : State) (f : LCbload) (c : Ctx) (g : Group) : EngRes (Nat × List Nat) :=
  let a := (c.uni g f.u.toNat).toNat
  if f.space then
    (EngRes.require (a % 128 == 0) (BitVec.ofNat 64 a)).andThen fun _ =>
      (EngRes.require (decide (a < 2 ^ 32)) c.word).andThen fun _ =>
        (s.inBounds g a 512).andThen fun _ => (s.notLost g a 512).andThen fun _ =>
          .go (a, (upFrom a 512).map (keyOf g.core))
  else
    (EngRes.require (a % 64 == 0) (BitVec.ofNat 64 a)).andThen fun _ => (s.cbPlaces g a).andThen fun ks => .go (a, ks)

/-- CBLOAD (R250). -/
def execCbload (f : LCbload) (s : State) : Out :=
  .next (s.engEach (fun s c g _ => s.cbloadCheck f c g) fun s c g t (a, ks) =>
    s.startEng c g t (.cbload a ks) { staten := false, stat := 0, ctr := 0, ctrPa := 0 })

/-- The 256 entries of a table from its bytes. -/
def cb2Of (bs : List Byte) : List (BitVec 16) := (numbersOf 2 256 bs).map (BitVec.ofNat 16)

/-- CBLOAD_INSTALL (R49, R250): the table is installed; an uncorrectable error, in DRAM or on a die network (R185), installs zeros; a scratchpad source that
went away leaves a table the spec does not state, of free values. -/
def execCbloadInstall (id : Nat) (s : State) : Out :=
  .next (match s.engNow id with
    | none => s
    | some (e, _) => match e.op with
      | .cbload a ks => if !s.servedAll ks then s else
        let put := fun (s : State) (tbl : List (BitVec 16)) =>
          ((s.onGroup e.guid fun g => { g with cb2 := tbl }).dropEng e.id).unmark (.item e.id)
        let error := fun (s : State) (i : Nat) => s.dataError e.core e.tenant (BitVec.ofNat 32 e.gid) 0xFFFFFFFF#32 (a + i) 0
        if e.lost then put s ((List.range 256).map fun i => (Config.freeWord e.id i).setWidth 16)
        else match ks.findIdx? fun k => s.badAt k 1 with
          | some i => put (error s i) []
          | none =>
            if s.marked (.item e.id) then put (s.uncounted (error s 0)) []
            else put (s.askRun e.tenant ks) (cb2Of (ks.flatMap fun k => s.devRead k 1))
      | _ => s)

end Sys2Proof.Machine
end

