-- ==== Sys2Proof/Machine/Kv.lean ====
section
/-! DEFINITION. The inverted KV table: the seven forms (R151 to R157, R272), performed by KV_TABLE_ACTION, and the
rambler (R158). -/

namespace Sys2Proof.Machine

/-! ### CRC-32C (R153) -/

/-- `n` bits of the reflected Castagnoli remainder. -/
def crcBits : Nat → Word → Word
  | 0, c => c
  | n + 1, c => crcBits n (if c.getLsbD 0 then (c >>> 1) ^^^ 0x82F63B78#32 else c >>> 1)

/-- CRC-32C of a run of bytes: initial value and final exclusive-or 0xFFFF_FFFF. -/
def crc32c (bs : List Byte) : Word :=
  (bs.foldl (fun c b => crcBits 8 (c ^^^ b.setWidth 32)) 0xFFFFFFFF#32) ^^^ 0xFFFFFFFF#32

/-! ### Reading the tables -/

/-- Why a KV action stops. -/
inductive KvStop
  | trap (code : Byte) (va : Nat)
  | fault (f : FaultSort) (va access : Nat)
  /-- A place that it meets serves no access yet (R88, R90): the action waits. -/
  | wait
  deriving DecidableEq, Repr

/-- What a KV action gives. -/
abbrev Kv (α : Type) := Except KvStop α

/-- The table a KV instruction names, for a tenant, from a core: its descriptor's address, place and fields. -/
structure KvTable where
  core : Nat
  tenant : Nat
  desc : Nat
  descPa : Nat
  n : Nat
  deriving Repr

/-- EBASE. -/
def KvTable.ebase (t : KvTable) : Nat := bits t.n 56 0
/-- DBASE. -/
def KvTable.dbase (t : KvTable) : Nat := bits t.n 120 64
/-- BSIZE. -/
def KvTable.bsize (t : KvTable) : Nat := bits t.n 159 128
/-- NBLK. -/
def KvTable.nblk (t : KvTable) : Nat := 2 ^ bits t.n 164 160
/-- SCRUB. -/
def KvTable.scrub (t : KvTable) : Bool := bit t.n 167
/-- OVFHEAD. -/
def KvTable.head (t : KvTable) : Nat := bits t.n 223 192
/-- PBASE. -/
def KvTable.pbase (t : KvTable) : Nat := bits t.n 312 256
/-- PLOG. -/
def KvTable.plog (t : KvTable) : Nat := bits t.n 324 320

/-- The end of an overflow list (R151, R152). -/
def kvNone : Nat := 0xFFFFFFFF

/-- A form acts on the prefix table. -/
def KvForm.isPrefix : KvForm → Bool
  | .pfx => true
  | .pfxIns => true
  | .pfxDel => true
  | _ => false

/-- The descriptor's fields are sound (R151, R156). -/
def descSound (n : Nat) (form : KvForm) : Bool :=
  decide (bits n 511 325 = 0 ∧ bits n 319 313 = 0 ∧ bits n 255 224 = 0 ∧ bits n 191 168 = 0 ∧ bits n 127 121 = 0 ∧
    bits n 63 57 = 0) && decide (3 ≤ bits n 164 160 ∧ bits n 164 160 ≤ 24) &&
  decide (bits n 324 320 = 0 ∨ (3 ≤ bits n 324 320 ∧ bits n 324 320 ≤ 24)) &&
  decide (bits n 56 0 % 32 = 0 ∧ bits n 120 64 % 512 = 0 ∧ bits n 312 256 % 32 = 0) &&
  !(form.isPrefix && decide (bits n 324 320 = 0))

/-- The place of a table's byte is in no frame of the column that holds the descriptor (R156). -/
def foreign (descPa pa : Nat) : Bool := decide (Config.padBase ≤ pa) || decide (columnOf pa ≠ columnOf descPa)

/-- The first page of `n` bytes of a table that lies outside the descriptor's column; a page without a translation lies nowhere. -/
def State.kvOutside (s : State) (t : KvTable) (va n : Nat) : Option Nat :=
  (pagesOf va n).find? fun p => match s.xlateEng t.core t.tenant p 0 with
    | .ok pa => foreign t.descPa pa
    | _ => false

/-- The descriptor as it stands, with its whole table and prefix table in its own column (R156). -/
def State.kvTable (s : State) (core tenant desc pa : Nat) (form : KvForm) : Kv KvTable :=
  if !s.served pa then .error .wait
  else if s.badAt pa 64 then .error (.trap 0x21 desc)
  else if !descSound (s.devNum pa 64) form then .error (.trap 0x01 desc)
  else
    let t : KvTable := { core := core, tenant := tenant, desc := desc, descPa := pa, n := s.devNum pa 64 }
    let prefixes := if t.plog = 0 then 0 else 32 * 2 ^ t.plog
    match s.kvOutside t t.ebase (32 * t.nblk), s.kvOutside t t.pbase prefixes with
    | some va, _ => .error (.trap 0x01 va)
    | none, some va => .error (.trap 0x01 va)
    | none, none => .ok t

/-- The place of an entry, which must lie in the descriptor's column (R156). -/
def State.kvPlace (s : State) (t : KvTable) (va access : Nat) : Kv Nat :=
  if !s.servedAll (s.reach t.core t.tenant va access) then .error .wait
  else match s.xlateEng t.core t.tenant va access with
  | .no (.error _) => .error (.trap 0x21 va)
  | .no f => .error (.fault f va access)
  | .miss => .error (.fault .replayable va access)
  | .ok pa =>
    if foreign t.descPa pa then .error (.trap 0x01 va)
    else if s.badAt pa 32 then .error (.trap 0x21 va)
    else .ok pa

/-- An entry of the table (R152). -/
structure KvEntry where
  pa : Nat
  n : Nat
  deriving Repr

/-- SEQ. -/
def KvEntry.seq (e : KvEntry) : Nat := bits e.n 63 0
/-- LBLK. -/
def KvEntry.lblk (e : KvEntry) : Nat := bits e.n 95 64
/-- STATE. -/
def KvEntry.state (e : KvEntry) : Nat := bits e.n 97 96
/-- OVF. -/
def KvEntry.ovf (e : KvEntry) : Bool := bit e.n 98
/-- PEND. -/
def KvEntry.pend (e : KvEntry) : Bool := bit e.n 99
/-- CRC. -/
def KvEntry.crc (e : KvEntry) : Nat := bits e.n 159 128
/-- NEXT. -/
def KvEntry.next (e : KvEntry) : Nat := bits e.n 191 160

/-- A number with the bits `hi` to `lo` replaced. -/
def putBits (n hi lo v : Nat) : Nat := n - bits n hi lo * 2 ^ lo + v % 2 ^ (hi + 1 - lo) * 2 ^ lo

/-- Entry `i`. -/
def State.kvEntry (s : State) (t : KvTable) (i access : Nat) : Kv KvEntry := do
  let pa ← s.kvPlace t (t.ebase + 32 * i) access
  return { pa := pa, n := s.devNum pa 32 }

/-- An entry matches a sequence and logical block (R153). -/
def KvEntry.hits (e : KvEntry) (seq lblk : Nat) : Bool :=
  decide (e.state = 1 ∨ e.state = 2) && decide (e.seq = seq) && decide (e.lblk = lblk)

/-- The first of a list of entry numbers whose entry passes a test. -/
def State.kvFirst (s : State) (t : KvTable) (access : Nat) (test : KvEntry → Bool) : List Nat → Kv (Option (Nat × KvEntry))
  | [] => .ok none
  | i :: is => do
    let e ← s.kvEntry t i access
    if test e then return some (i, e) else s.kvFirst t access test is

/-- The probe slots of a home hash (R153). -/
def KvTable.probes (t : KvTable) (h : Nat) : List Nat := (List.range 8).map fun i => (h + i) % t.nblk

/-- The home hash (R153). -/
def kvHash (seq lblk : Nat) : Nat := (crc32c (leBytes 8 seq ++ leBytes 4 lblk)).toNat

/-- A search of the overflow list: at most `fuel` entries from `i`; the predecessor, the entries examined, and whether
entries remain. -/
structure KvWalk where
  found : Option (Nat × KvEntry)
  pred : Option (Nat × KvEntry)
  walked : Nat
  more : Bool

/-- The overflow list searched from an entry (R154). -/
def State.kvWalk (s : State) (t : KvTable) (seq lblk : Nat) : Nat → Option (Nat × KvEntry) → Nat → Nat → Kv KvWalk
  | 0, pred, walked, i => .ok { found := none, pred := pred, walked := walked, more := decide (i ≠ kvNone) }
  | fuel + 1, pred, walked, i => do
    if i = kvNone then return { found := none, pred := pred, walked := walked, more := false }
    let e ← s.kvEntry t i 0
    if e.hits seq lblk then return { found := some (i, e), pred := pred, walked := walked + 1, more := false }
    s.kvWalk t seq lblk fuel (some (i, e)) (walked + 1) e.next

/-- A search of the probe slots and then of the overflow list (R154). -/
def State.kvSearch (s : State) (t : KvTable) (seq lblk fuel : Nat) : Kv KvWalk := do
  match ← s.kvFirst t 0 (fun e => e.hits seq lblk) (t.probes (kvHash seq lblk)) with
  | some x => return { found := some x, pred := none, walked := 0, more := false }
  | none => s.kvWalk t seq lblk fuel none 0 t.head

/-! ### Results and writes -/

/-- Words written by an action: place and number, `w` bytes each. -/
abbrev KvWrites := List (Nat × Nat × Nat)

/-- The result of an action: vX, the status word, the writes. -/
structure KvResult where
  x : Word
  status : Word
  writes : KvWrites

/-- The status word (R154). -/
def kvStatus (res walked : Nat) (trunc pend ovf : Bool) : Word :=
  BitVec.ofNat 32 (res + ovf.toNat * 4 + pend.toNat * 8 + trunc.toNat * 16 + min walked 255 * 256)

/-- A result that names no entry. -/
def KvResult.none_ (res walked : Nat) (trunc : Bool) : KvResult :=
  { x := 0xFFFFFFFF#32, status := kvStatus res walked trunc false false, writes := [] }

/-- A result that names an entry. -/
def KvResult.entry (res walked i : Nat) (e : KvEntry) (writes : KvWrites) : KvResult :=
  { x := BitVec.ofNat 32 i, status := kvStatus res walked false e.pend e.ovf, writes := writes }

/-- KVFIND (R154). -/
def State.kvFind (s : State) (t : KvTable) (seq lblk : Nat) : Kv KvResult := do
  let w ← s.kvSearch t seq lblk 32
  match w.found with
  | some (i, e) => return .entry e.state w.walked i e []
  | none => return .none_ 0 w.walked w.more

/-- An entry taken by KVINS (R154). -/
def KvEntry.fill (e : KvEntry) (seq lblk : Nat) : KvEntry :=
  { e with n := putBits (putBits (putBits (putBits (putBits e.n 63 0 seq) 95 64 lblk) 97 96 1) 99 99 1) 159 128 0 }

/-- KVINS (R154). -/
def State.kvIns (s : State) (t : KvTable) (seq lblk : Nat) : Kv KvResult := do
  let h := kvHash seq lblk
  let w ← s.kvSearch t seq lblk t.nblk
  match w.found with
  | some (i, e) => return .entry 2 w.walked i e []
  | none =>
    match ← s.kvFirst t 0 (fun e => decide (e.state = 0)) (t.probes h) with
    | some (i, e) =>
      let e' := e.fill seq lblk
      let _ ← s.kvPlace t (t.ebase + 32 * i) 1
      return .entry 0 w.walked i e' [(e'.pa, e'.n, 32)]
    | none =>
      match ← s.kvFirst t 0 (fun e => decide (e.state = 0)) ((List.range t.nblk).map fun i => (h + 8 + i) % t.nblk) with
      | none => return .none_ 3 w.walked false
      | some (i, e) =>
        let f := e.fill seq lblk
        let e' : KvEntry := { f with n := putBits (putBits f.n 98 98 1) 191 160 t.head }
        let _ ← s.kvPlace t (t.ebase + 32 * i) 1
        let _ ← s.kvPlace t t.desc 1
        return .entry 1 w.walked i e' [(e'.pa, e'.n, 32), (t.descPa + 24, i, 4)]

/-- The bytes of a block as they stand at its column; R156 sorts the faults. -/
def State.kvBlock (s : State) (t : KvTable) (i : Nat) : Kv (List Byte) :=
  let va := t.dbase + i * t.bsize
  if !s.engServed t.core t.tenant va t.bsize 0 then .error .wait
  else match s.xlateRun t.core t.tenant va t.bsize 0 with
  | .error (.error _, p) => .error (.trap 0x21 p)
  | .error (f, p) => .error (.fault f p 0)
  | .ok ps => match ps.findIdx? fun p => s.badAt p 1 with
    | some i => .error (.trap 0x21 (va + i))
    | none => .ok (ps.flatMap fun p => s.devRead p 1)

/-- KVINS.SEAL (R154). -/
def State.kvSeal (s : State) (t : KvTable) (i : Nat) : Kv KvResult := do
  if t.nblk ≤ i then return .none_ 3 0 false
  let e ← s.kvEntry t i 0
  if e.state = 0 ∨ e.state = 3 then return .none_ 3 0 false
  let bs ← s.kvBlock t i
  let _ ← s.kvPlace t (t.ebase + 32 * i) 1
  let e' : KvEntry := { e with n := putBits (putBits (putBits e.n 159 128 (crc32c bs).toNat) 97 96 1) 99 99 0 }
  return .entry 0 0 i e' [(e'.pa, e'.n, 32)]

/-- What the search for the place before an entry on the overflow list finds. -/
inductive KvPred
  | head
  | after (i : Nat) (e : KvEntry)
  | absent

/-- The place before entry `i` on the overflow list. -/
def State.kvPred (s : State) (t : KvTable) (i : Nat) : Nat → KvPred → Nat → Kv KvPred
  | 0, _, _ => .ok .absent
  | fuel + 1, pred, j =>
    if j = i then .ok pred
    else if j = kvNone then .ok .absent
    else do
      let e ← s.kvEntry t j 0
      s.kvPred t i fuel (.after j e) e.next

/-- KVDEL (R154). -/
def State.kvDel (s : State) (t : KvTable) (seq lblk : Nat) : Kv KvResult := do
  let w ← s.kvSearch t seq lblk t.nblk
  match w.found with
  | none => return .none_ 0 w.walked false
  | some (i, e) =>
    let _ ← s.kvPlace t (t.ebase + 32 * i) 1
    let zero := (e.pa, 0, 32)
    if !e.ovf then return .entry 1 w.walked i e [zero]
    match ← s.kvPred t i (t.nblk + 1) .head t.head with
    | .after j p =>
      let _ ← s.kvPlace t (t.ebase + 32 * j) 1
      return .entry 1 w.walked i e [zero, (p.pa + 20, e.next, 4)]
    | .head =>
      let _ ← s.kvPlace t t.desc 1
      return .entry 1 w.walked i e [zero, (t.descPa + 24, e.next, 4)]
    | .absent => return .entry 1 w.walked i e [zero]

/-! ### The prefix table (R154) -/

/-- Prefix entry `k`. -/
def State.pfxEntry (s : State) (t : KvTable) (k : Nat) : Kv KvEntry := do
  let pa ← s.kvPlace t (t.pbase + 32 * k) 0
  return { pa := pa, n := s.devNum pa 32 }

/-- The first of a list of digest entries that passes a test. -/
def State.pfxFirst (s : State) (t : KvTable) (test : KvEntry → Bool) : List Nat → Kv (Option (Nat × KvEntry))
  | [] => .ok none
  | i :: is => do
    let e ← s.pfxEntry t i
    if test e then return some (i, e) else s.pfxFirst t test is

/-- The probes of a digest. -/
def KvTable.pfxProbes (t : KvTable) (digest : Nat) : List Nat :=
  (List.range 8).map fun i => (digest % 2 ^ 32 + i) % 2 ^ t.plog

/-- V and an equal digest. -/
def KvEntry.holds (e : KvEntry) (digest : Nat) : Bool := bit e.n 160 && decide (bits e.n 127 0 = digest)

/-- A result of a prefix form. -/
def pfxResult (res : Nat) (x : Word) (writes : KvWrites) : KvResult :=
  { x := x, status := kvStatus res 0 false false false, writes := writes }

/-- BLK of a prefix entry. -/
def KvEntry.blk (e : KvEntry) : Word := BitVec.ofNat 32 (bits e.n 159 128)

/-- KVPFX (R154). -/
def State.kvPfx (s : State) (t : KvTable) (digest : Nat) : Kv KvResult := do
  match ← s.pfxFirst t (·.holds digest) (t.pfxProbes digest) with
  | some (_, e) => return pfxResult 1 e.blk []
  | none => return pfxResult 0 0xFFFFFFFF#32 []

/-- KVPFX.INS (R154).  What vX holds after a placement the spec does not say: `free` (log 21). -/
def State.kvPfxIns (s : State) (t : KvTable) (digest blk : Nat) (free : Word) : Kv KvResult := do
  match ← s.pfxFirst t (·.holds digest) (t.pfxProbes digest) with
  | some (_, e) => return pfxResult 1 e.blk []
  | none =>
    match ← s.pfxFirst t (fun e => !bit e.n 160) (t.pfxProbes digest) with
    | none => return pfxResult 3 0xFFFFFFFF#32 []
    | some (k, e) =>
      let _ ← s.kvPlace t (t.pbase + 32 * k) 1
      return pfxResult 0 free [(e.pa, putBits (putBits (putBits e.n 127 0 digest) 159 128 blk) 160 160 1, 32)]

/-- KVPFX.DEL (R154).  What vX holds after a deletion the spec does not say: `free` (log 21). -/
def State.kvPfxDel (s : State) (t : KvTable) (digest : Nat) (free : Word) : Kv KvResult := do
  match ← s.pfxFirst t (·.holds digest) (t.pfxProbes digest) with
  | none => return pfxResult 0 0xFFFFFFFF#32 []
  | some (k, e) =>
    let _ ← s.kvPlace t (t.pbase + 32 * k) 1
    return pfxResult 1 free [(e.pa, putBits e.n 160 160 0, 32)]

/-! ### The action (R157) -/

/-- Words first lowest as one number. -/
def wordsNat (ws : List Word) : Nat := ws.foldr (fun w n => w.toNat + 2 ^ 32 * n) 0

/-- The action of a KV instruction on its table as it stands. -/
def State.kvTry (s : State) (q : KvCmd) : Kv (KvTable × KvResult) := do
  let t ← s.kvTable q.core q.tenant q.desc q.descPa q.form
  let seq := wordsNat (q.args.take 2)
  let lblk := (q.args.getD 2 0).toNat
  let digest := wordsNat (q.args.take 4)
  let free := Config.freeWord q.id 0
  let r ← match q.form with
    | .find => s.kvFind t seq lblk
    | .ins => s.kvIns t seq lblk
    | .seal => s.kvSeal t (q.args.getD 0 0).toNat
    | .del => s.kvDel t seq lblk
    | .pfx => s.kvPfx t digest
    | .pfxIns => s.kvPfxIns t digest (q.args.getD 4 0).toNat free
    | .pfxDel => s.kvPfxDel t digest free
  return (t, r)

/-- The table is enrolled with the rambler of its descriptor's die, or withdrawn (R158). -/
def State.enrol (s : State) (t : KvTable) : State :=
  let die := dieOf (columnOf t.descPa)
  let others := s.enrolled.filter fun e => !(decide (e.descPa = t.descPa))
  if !t.scrub then { s with enrolled := others }
  else if (s.enrolled.any fun e => decide (e.descPa = t.descPa)) ||
      decide (Config.ramblerLen ≤ (s.enrolled.filter fun e => decide (e.die = die)).length) then s
  else { s with enrolled := s.enrolled ++ [{ die := die, desc := t.desc, descPa := t.descPa, tenant := t.tenant, next := 0,
                                                read := none }] }

/-- The words of an action are written at the column. -/
def State.kvWrite (s : State) (core tenant : Nat) (ws : KvWrites) : State :=
  ws.foldl (fun s (k, v, n) => (s.devWrite tenant k (leBytes n v)).dropLine (clusterOf core) k n) s

/-- The thread of a KV command gets its results and goes on; the action is an acquire at device scope (R157). -/
def State.kvReturn (s : State) (q : KvCmd) (r : KvResult) : State :=
  let s1 := (s.onMember q.guid q.tid fun t => { t with regs := setAt (setAt t.regs q.x r.x) (q.x + 1) r.status }).acquire
    q.core 2
  match (s1.thread q.guid q.tid).map (·.run) with
  | some (RunState.parked w _ resume) =>
    if w = .kv q.id then s1.goOn q.guid q.tid resume
    else s1.onThread q.guid q.tid fun t => { t with later := t.later.filter fun w => decide (w.1 ≠ .kv q.id) }
  | _ => s1

/-- A KV command leaves. -/
def State.dropKv (s : State) (id : Nat) : State := { s with kvs := s.kvs.filter fun q => decide (q.id ≠ id) }

/-- The word that waits for a KV command in a parked thread. -/
def Thread.kvWord (t : Thread) (id : Nat) : Nat :=
  ((t.later.find? fun w => decide (w.1 = .kv id)).map (·.2)).getD t.parkWord

/-- The thread of a KV command traps at its packet. -/
def State.kvTrap (s : State) (q : KvCmd) (code : Byte) (va access : Nat) : State :=
  match s.thread q.guid q.tid with
  | none => s.dropKv q.id
  | some t => match t.run with
    | .parked _ p _ =>
      (s.dropKv q.id).wakeTrap q.guid q.tid p code (BitVec.ofNat 64 va) access (some (t.kvWord q.id))
    | _ => s.dropKv q.id

/-- The action stops: a trap, or a fault of its tables (R156, R167). -/
def State.kvStop (s : State) (q : KvCmd) (e : KvStop) : State :=
  match e with
  | .trap code va => s.kvTrap q code va 0
  | .wait => s
  | .fault .fatal va access => s.kvTrap q 0x20 va access
  | .fault (.error _) va access => s.kvTrap q 0x21 va access
  | .fault .replayable va access =>
    let gid := match s.group q.guid with | some g => BitVec.ofNat 32 g.gid | none => 0
    { s.addFault { FaultEntry.blank with kind := 1, tenant := q.tenant, core := q.core, access := access, gid := gid,
                                         tid := BitVec.ofNat 32 q.tid, addr := va } with
      kvs := s.kvs.map fun x => if x.id = q.id then { x with paused := some (s.nextToken, va, access) } else x }

/-- No earlier command of the same issue on the same table waits: the lanes of one instruction act in ascending order (R154); one
that a fault has paused holds no other up (R157). -/
def State.kvFirstOf (s : State) (q : KvCmd) : Bool :=
  s.kvs.all fun x => !(decide (x.id < q.id) && decide (x.guid = q.guid) && decide (x.descPa = q.descPa) &&
    decide (x.issue = q.issue) && x.paused.isNone)

/-- KV_TABLE_ACTION (R157): command `id` acts on its table as one indivisible action; it waits while a column it may reach is in a
remapping step (R88, log 89), and an error on a die network ends it by trap 0x21 (R103, R185). -/
def execKvTableAction (id : Nat) (s : State) : Out :=
  .next (match s.kvs.find? fun q => decide (q.id = id) with
    | none => s
    | some q =>
      if q.paused.isSome || !s.noRemap || !s.roomFor q.core || s.behind q.guid q.tid q.id || !s.kvFirstOf q then s
      else if s.marked (.item id) then (s.kvTrap q 0x21 q.desc 0).unmark (.item id)
      else match s.kvTry q with
        | .error e => s.kvStop q e
        | .ok (t, r) => (((s.enrol t).kvWrite q.core q.tenant r.writes).kvReturn q r).dropKv id)

/-! ### The instructions (R154, R156, R272) -/

/-- Registers read by a form. -/
def KvForm.reads : KvForm → Nat
  | .seal => 1
  | .pfx => 4
  | .pfxDel => 4
  | .pfxIns => 5
  | _ => 3

/-- The command of a thread. -/
def Ctx.kvCmd (c : Ctx) (s : State) (g : Group) (t : Thread) (form : KvForm) (f : LEk) (pa : Nat) : KvCmd :=
  { id := s.nextId, core := g.core, guid := c.guid, tid := t.tid, tenant := g.rec_.tenant, form := form,
    desc := (c.uni g f.u.toNat).toNat, descPa := pa, x := f.x.toNat,
    args := (List.range form.reads).map fun k => (c.source t).regs.getD (f.x.toNat + k) 0, paused := none,
    issue := 4 * g.issues.getD c.slot 0 + c.slot }

/-- The checks at issue (R156): the descriptor's alignment and translation, and the action tried on the table as it
stands, so that its traps and faults meet the thread before the issue is made. -/
def State.kvCheck (s : State) (form : KvForm) (f : LEk) (c : Ctx) (g : Group) (t : Thread) : EngRes KvCmd :=
  let va := (c.uni g f.u.toNat).toNat
  (EngRes.require (va % 64 == 0) (BitVec.ofNat 64 va)).andThen fun _ =>
    match s.xlate g.core g.rec_.tenant va 0 with
    | .miss => .miss va 0
    | .no _ => .trap 0x20 (BitVec.ofNat 64 va) 0
    | .ok pa =>
      if Config.padBase ≤ pa then .trap 0x01 (BitVec.ofNat 64 va) 0
      else match s.kvTry (c.kvCmd s g t form f pa) with
        | .error (.trap code a) => .trap code (BitVec.ofNat 64 a) 0
        | .error .wait => .go (c.kvCmd s g t form f pa)
        | .error (.fault .fatal a access) => .trap 0x20 (BitVec.ofNat 64 a) access
        | .error (.fault (.error _) a access) => .trap 0x21 (BitVec.ofNat 64 a) access
        | .error (.fault .replayable a access) => .miss a access
        | .ok _ => .go (c.kvCmd s g t form f pa)

/-- A KV form: the command goes to the column, and the thread parks until its results are written. -/
def State.kvIssue (s : State) (form : KvForm) (f : LEk) : State :=
  s.engEach (fun s c g t => s.kvCheck form f c g t) fun s c g t q =>
    let q' := c.kvCmd s g t form f q.descPa
    ({ s.bump with kvs := s.kvs ++ [q'] }).await t.tid (.kv s.nextId)

/-- KVFIND (R154). -/
def execKvfind (f : LEk) (s : State) : Out := .next (s.kvIssue .find f)

/-- KVINS (R154). -/
def execKvins (f : LEk) (s : State) : Out := .next (s.kvIssue .ins f)

/-- KVINS.SEAL (R154). -/
def execKvinsSeal (f : LEk) (s : State) : Out := .next (s.kvIssue .seal f)

/-- KVDEL (R154). -/
def execKvdel (f : LEk) (s : State) : Out := .next (s.kvIssue .del f)

/-- KVPFX (R154). -/
def execKvpfx (f : LEk) (s : State) : Out := .next (s.kvIssue .pfx f)

/-- KVPFX.INS (R154). -/
def execKvpfxIns (f : LEk) (s : State) : Out := .next (s.kvIssue .pfxIns f)

/-- KVPFX.DEL (R154). -/
def execKvpfxDel (f : LEk) (s : State) : Out := .next (s.kvIssue .pfxDel f)

/-! ### The rambler (R158) -/

/-- The rambler reads the block of a Valid, sealed entry (step 1 of R158): what it will act on, and for a block that cannot be
corrected an entry for its die's fault queue (R103); it passes over a block that it cannot reach. -/
def State.rambleRead (s : State) (e : Enrolled) (t : KvTable) (x : KvEntry) : State :=
  let keep := fun (s : State) (bad : Bool) =>
    let r : RamblerRead := { idx := e.next, seq := x.seq, lblk := x.lblk, crc := x.crc, bad := bad }
    { s with enrolled := s.enrolled.map fun y => if y = e then { e with read := some r } else y }
  match s.kvBlock t e.next with
  | .error (.trap 0x21 va) =>
    let q : FaultEntry := { FaultEntry.blank with kind := 3, cause := 0x21, tenant := e.tenant, addr := va }
    ((keep s true).postFault e.die q).countError q
  | .error .wait => s
  | .error _ => keep s false
  | .ok bs => keep s (decide ((crc32c bs).toNat ≠ x.crc))

/-- The rambler acts in the table's order (step 2 of R158): an entry still as it was when its block was read, and whose block
failed, becomes Damaged. -/
def State.rambleAct (s : State) (x : KvEntry) (r : RamblerRead) : State :=
  if r.bad && decide (x.seq = r.seq ∧ x.lblk = r.lblk ∧ x.crc = r.crc ∧ x.state = 1) && !x.pend then
    s.write x.pa (leBytes 32 (putBits x.n 97 96 2))
  else s

/-- The rambler's next table of a die goes to the end of its turn with its next entry. -/
def State.nextTurn (s : State) (e : Enrolled) (n : Nat) : State :=
  { s with enrolled := s.enrolled.filter (fun x => decide (x ≠ e)) ++ [{ e with next := (e.next + 1) % n, read := none }] }

/-- RAMBLER_CHECK (R158): the rambler of a die reads the next entry's block of the next table enrolled with it, or acts on what it
has read, with the translations of the tenant that enrolled it; an entry that it cannot reach it passes over. -/
def execRamblerCheck (die : Nat) (s : State) : Out :=
  .next (match s.enrolled.find? fun e => decide (e.die = die) with
    | none => s
    | some e =>
      let t : KvTable := { core := noCore, tenant := e.tenant, desc := e.desc, descPa := e.descPa,
                           n := s.devNum e.descPa 64 }
      match s.kvEntry t e.next 0, e.read with
      | .error .wait, _ => s
      | .error _, _ => s.nextTurn e t.nblk
      | .ok x, none => if x.state = 1 ∧ x.pend = false then s.rambleRead e t x else s.nextTurn e t.nblk
      | .ok x, some r => (s.rambleAct x r).nextTurn e t.nblk)

end Sys2Proof.Machine
end

