-- ==== Sys2Proof/Machine/Firmware.lean ====
section
/-! DEFINITION. Firmware and its command queues (R178 to R181, R323): launches, the budget, tenants, stage-2 entries,
zero-fills, keys, queries, remapping (R88, R89), invalidation (R168), answers to faults (R167), and pre-emption on
command.  The ARGS of a command other than query are the operands of its step (log 11). -/

namespace Sys2Proof.Machine

/-! ### The queue (R178) -/

/-- The state with a tenant changed. -/
def State.onTenant (s : State) (q : Nat) (f : Tenant → Tenant) : State :=
  match s.tenant q with
  | some t => s.setTenant q (f t)
  | none => s

/-- The memory key of the record at the head of a queue. -/
def Tenant.cmdKey (t : Tenant) : Nat := Config.hostBase + t.cfg.cmdBase + 64 * (t.cmdHead % 2 ^ t.cfg.cmdLog)

/-- No record of a queue waits: its head stands at its tail, each an index of the ring (R178, log 11). -/
def Tenant.noCommand (t : Tenant) : Bool := decide (t.cmdHead % 2 ^ t.cfg.cmdLog = t.cmdTail % 2 ^ t.cfg.cmdLog)

/-- The record that a queue begins next: one is there, and the command before it has completed. -/
def State.cmdAt (s : State) (q : Nat) : Option (Tenant × Nat) :=
  match s.tenant q with
  | none => none
  | some t => if t.cmdWait.isSome || t.noCommand then none else some (t, t.cmdKey)

/-- A command completes: STATUS, then DONESEQ, a copy of SEQ (R178). -/
def State.complete (s : State) (q status : Nat) : State :=
  match s.tenant q with
  | none => s
  | some t =>
    ((s.write (t.cmdKey + 62) (leBytes 2 status)).write (t.cmdKey + 56) (s.bytes (t.cmdKey + 4) 4)).setTenant q
      { t with cmdHead := t.cmdHead + 1, cmdWait := none }

/-- A command waits for what completes it. -/
def State.cmdWaits (s : State) (q : Nat) (w : CmdWait) : State := s.onTenant q fun t => { t with cmdWait := some w }

/-- A command of a queue begins where its record is next: status 6 during bring-up (R186), 2 for an HV command of a
tenant without HV (R179), 3 for a reserved bit of the record; else its action. -/
def State.command (s : State) (q op : Nat) (hv : Bool) (act : State → State) : State :=
  match s.cmdAt q with
  | none => s
  | some (t, k) =>
    if s.num k 1 ≠ op then s
    else if !s.ready then s.complete q 6
    else if hv && !t.cfg.hv then s.complete q 2
    else if s.num k 4 / 256 ≠ 0 then s.complete q 3
    else act s

/-- A record that no step of the table takes: an unknown OP gives status 1 (R179), a query of an unknown ITEM status 3
(R323); during bring-up both give status 6 (R186). -/
def State.answerUnknown (s : State) (q : Nat) : State :=
  match s.cmdAt q with
  | none => s
  | some (_, k) =>
    if s.num k 1 = 0 ∨ 12 < s.num k 1 then s.complete q (if s.ready then 1 else 6)
    else if s.num k 1 = 7 ∧ 5 ≤ s.num (k + 8) 1 then s.complete q (if s.ready then 3 else 6)
    else s

/-- DOORBELL_WRITE (R178): the host writes a queue's tail. -/
def execDoorbellWrite (tenant tail : Nat) (s : State) : Out :=
  .next (s.onTenant tenant fun t => { t with cmdTail := tail })

/-! ### launch and budget -/

/-- What the dispatcher finds at the address of a launch command: the record, none where it cannot be read. -/
def State.hostRecord (s : State) (q addr : Nat) : Option LaunchRec :=
  if addr % 8 = 0 ∧ s.marked .outside = false then (s.readTables q addr 64).map fun bs => LaunchRec.ofNat (leNat bs) else none

/-- What the dispatcher reads for a launch command may be served (R88, R90). -/
def State.hostServed (s : State) (q addr : Nat) : Bool :=
  decide (addr % 8 ≠ 0) || (s.tablesServed q addr 64 0 && (match s.hostRecord q addr with
    | some r => !r.sound || s.recordServed r q
    | none => true))

/-- What of it cannot be corrected (R103). -/
def State.hostBad (s : State) (q addr : Nat) : Option Nat :=
  if addr % 8 ≠ 0 then none
  else match s.hostRecord q addr with
    | some r => s.recordBad r q
    | none => if s.tablesBad q addr 64 || s.marked .outside then some addr else none

/-- LAUNCH_COMMAND (R30, R31, R33): the record at a virtual address of the queue's tenant; status 4 carries a rejection, with an
entry of KIND 3 besides where what it reads cannot be corrected (R103).  It waits until the columns serve what it reads (R88, R90). -/
def execLaunchCommand (q addr : Nat) (s : State) : Out :=
  .next (s.command q 0x01 false fun s =>
    if !s.hostServed q addr then s
    else match (s.hostRecord q addr).bind fun r => s.acceptRecord r q with
      | none => (s.recordError noCore q 0xFFFFFFFF#32 0xFFFFFFFF#32 (s.hostBad q addr)).complete q 4
      | some l => (s.addLaunch l (s.leastPool q) none none).complete q 0)

/-- An island's clock; %clock goes on from the count it has (R211). -/
def State.setClock (s : State) (p : Nat × Nat) : State :=
  if p.1 < islandCount ∧ p.2 ≤ islandTop p.1 then
    let i := s.island p.1
    let now := i.count + (s.stime - i.at_) * i.mhz / 2400
    let next : Island :=
      { mhz := p.2, cut := decide (p.2 < islandTop p.1), count := now, at_ := s.stime,
        wasMhz := if now = i.count then i.wasMhz else i.mhz, wasCut := if now = i.count then i.wasCut else i.cut }
    { s with islands := mset s.islands p.1 next }
  else s

/-- A lower budget cuts caps and clocks (R181), by amounts that the spec leaves open (log 9). -/
def State.cutBack (s : State) (watts : Nat) : State :=
  let cap := fun (s : State) col => if Config.capCut watts col = 0 then s
    else s.setColumn col { s.column col with capb := (s.column col).capb - Config.capCut watts col }
  let clock := fun (s : State) i => if Config.clockCut watts i = 0 then s
    else s.setClock (i, (s.island i).mhz - Config.clockCut watts i)
  (List.range islandCount).foldl clock ((List.range Config.cores).foldl cap s)

/-- BUDGET_COMMAND (R179, R181): 1,800 to 3,000 W; a raise completes at once, a lower budget cuts caps and clocks, and any budget
but a raise completes when draw is within it. -/
def execBudgetCommand (q watts : Nat) (s : State) : Out :=
  .next (s.command q 0x02 true fun s =>
    if watts < 1800 ∨ 3000 < watts then s.complete q 3
    else if s.budget < watts then State.complete { s with budget := watts } q 0
    else
      let s1 := if watts < s.budget then s.cutBack watts else s
      State.cmdWaits { s1 with budget := watts } q .budget)

/-- Queues whose command waits for a condition. -/
def State.waitingQueues (s : State) (p : CmdWait → Bool) : List Nat :=
  s.tenants.filterMap fun (q, t) => match t.cmdWait with
    | some w => if p w then some q else none
    | none => none

/-- BUDGET_COMMAND_COMPLETE (R181): the module's draw is measured; within the budget in force, the budget commands that
wait complete.  Above it draw stands only while such a command waits: the device keeps draw within the budget (R6). -/
def execBudgetCommandComplete (draw : Nat) (s : State) : Out :=
  let qs := s.waitingQueues fun w => decide (w = .budget)
  .next (if draw ≤ s.budget then qs.foldl (fun s q => s.complete q 0) { s with draw := draw }
    else if qs.isEmpty then s
    else { s with draw := draw })

/-! ### Commands that name one thing (R178) -/

/-- A command of another queue that names a tenant, or an entry of its stage-2 table, is under way: a drain or a zero-fill.  One
that names the tenant begins after it. -/
def State.namedBusy (s : State) (q id : Nat) : Bool :=
  s.tenants.any fun (k, t) => decide (k ≠ q) && (match t.cmdWait with
    | some (.drain i _ _) => decide (i = id)
    | some (.zero i _ _) => decide (i = id)
    | _ => false)

/-! ### tenant -/

/-- Settings that R32, R178 and R322 allow. -/
def cfgOk (c : TenantCfg) : Bool :=
  c.clusters.all (fun n => decide (n < Config.clusters)) && decide (4 ≤ c.cmdLog ∧ c.cmdLog ≤ 16) &&
  decide (4 ≤ c.fqLog ∧ c.fqLog ≤ 16) && decide (c.fqBase % 64 = 0 ∧ c.fqCtl % 16 = 0) &&
  decide (c.entries.length ≤ 16 ∧ c.maxClass ≤ 3)

/-- The counts of a tenant's fault queue are set to 0 (R322). -/
def State.clearFaultQueue (s : State) (c : TenantCfg) : State :=
  s.write (Config.hostBase + c.fqCtl) (List.replicate 16 0)

/-- TENANT_CREATE (R179). -/
def execTenantCreate (q id : Nat) (cfg : TenantCfg) (s : State) : Out :=
  .next (s.command q 0x03 true fun s =>
    if s.namedBusy q id then s
    else if 16 ≤ id ∨ (s.tenant id).isSome ∨ cfgOk cfg = false then s.complete q 3
    else ((s.complete q 0).clearFaultQueue cfg).setTenant id (Tenant.ofCfg cfg))

/-- New settings leave a tenant's command queue where it is. -/
def Tenant.sameRing (t : Tenant) (c : TenantCfg) : Bool := decide (t.cfg.cmdBase = c.cmdBase) && decide (t.cfg.cmdLog = c.cmdLog)

/-- A tenant with new settings: its fault queue starts anew, its command queue only where it moves. -/
def Tenant.change (t : Tenant) (c : TenantCfg) : Tenant :=
  { t with cfg := c, fqTail := 0, cmdHead := if t.sameRing c then t.cmdHead else 0,
           cmdTail := if t.sameRing c then t.cmdTail else 0 }

/-- A tenant's own queue, another than the commanding one, has a command under way: its record is answered where it was taken, so that a
command that moves or ends that queue begins after it (R178). -/
def State.ringBusy (s : State) (q id : Nat) (moves : Tenant → Bool) : Bool :=
  decide (id ≠ q) && (match s.tenant id with
    | some t => t.cmdWait.isSome && moves t
    | none => false)

/-- TENANT_CHANGE (R179). -/
def execTenantChange (q id : Nat) (cfg : TenantCfg) (s : State) : Out :=
  .next (s.command q 0x03 true fun s =>
    if s.namedBusy q id || s.ringBusy q id (fun t => !t.sameRing cfg) then s
    else if (s.tenant id).isNone ∨ cfgOk cfg = false then s.complete q 3
    else ((s.complete q 0).clearFaultQueue cfg).onTenant id fun t => t.change cfg)

/-- The enrolments of a tenant end with its entries (R158). -/
def State.endTenant (s : State) (id : Nat) : State :=
  { s with tenants := mdel s.tenants id, enrolled := s.enrolled.filter fun e => decide (e.tenant ≠ id) }

/-- TENANT_DISABLE (R179). -/
def execTenantDisable (q id : Nat) (s : State) : Out :=
  .next (s.command q 0x03 true fun s =>
    if s.namedBusy q id || s.ringBusy q id (fun _ => true) then s
    else if (s.tenant id).isNone then s.complete q 3
    else (s.complete q 0).endTenant id)

/-! ### map, invalidate, zero (R101, R102, R168, R180) -/

/-- A frame that its column does not hold (R85, R86). -/
def State.frameAbsent (s : State) (p : Nat) : Bool :=
  decide (Config.frames ≤ p) ||
  decide (16 * (s.column (p / Config.framesPerColumn)).liveBanks.length ≤ p % Config.framesPerColumn)

/-- The map command refuses an entry of a tenant (R101).  DESIGN CHOICE (log 105): key slot `t` is tenant `t`'s, so that a frame in a
slot from 16 up belongs to none. -/
def State.mapRefused (s : State) (id e : Nat) : Bool :=
  decide (bits e 63 48 ≠ 0 ∨ bits e 20 4 ≠ 0) ||
  (bit e 0 && (bit e 3 || s.frameAbsent (bits e 47 21) || decide (mget s.frameKey (bits e 47 21) ≠ some id)))

/-- The stage-2 entry of a guest-physical frame. -/
def State.entry2 (s : State) (id gpa : Nat) : Dword :=
  match s.tenant id with
  | some t => (mget t.stage2 (gpa / Config.frameBytes)).getD 0
  | none => 0

/-- The state with a stage-2 entry written. -/
def State.setEntry2 (s : State) (id gpa : Nat) (e : Dword) : State :=
  s.onTenant id fun t => { t with stage2 := if e = 0 then mdel t.stage2 (gpa / Config.frameBytes)
                                            else mset t.stage2 (gpa / Config.frameBytes) e }

/-- The state with cached translations of a tenant that pass a test dropped from every core, and the packets cached for it. -/
def State.dropTlb (s : State) (tenant : Nat) (p : TlbEntry → Bool) : State :=
  { s with cores := s.cores.map fun (k, c) => (k, { c with
      tlb := c.tlb.filter fun e => !(decide (e.tenant = tenant) && p e),
      icache := c.icache.filter fun x => decide ((mget s.launches x.1).map (·.rec_.tenant) ≠ some tenant) }) }

/-- A zero command for an entry is under way. -/
def State.zeroing (s : State) (id frame : Nat) : Bool :=
  s.tenants.any fun (_, t) => match t.cmdWait with
    | some (.zero i gpa _) => decide (i = id) && decide (gpa / Config.frameBytes = frame)
    | _ => false

/-- A tenant's entry of a guest-physical frame maps its frame (R101): V = 1, or ZF = 1 during a zero-fill. -/
def State.mapsFrame (s : State) (id frame e : Nat) : Bool := bit e 0 || (bit e 3 && s.zeroing id frame)

/-- Some entry of a tenant maps a frame. -/
def State.mapsBy (s : State) (id p : Nat) : Bool :=
  match s.tenant id with
  | none => false
  | some t => t.stage2.any fun (f, e) => s.mapsFrame id f e.toNat && decide (bits e.toNat 47 21 = p)

/-- What a changed entry ends: cached results of its frame, and open rows with REASON 5 (R180). -/
def State.endMapping (s : State) (id gpa : Nat) : State :=
  let old := (s.entry2 id gpa).toNat
  let p := bits old 47 21
  let s1 := s.dropTlb id fun e => !e.peer && decide (e.gpa / Config.frameBytes = gpa / Config.frameBytes)
  if s.mapsFrame id (gpa / Config.frameBytes) old then
    s1.closeRows (p / Config.framesPerColumn) 5 fun _ _ r => decide (r.pa / Config.frameBytes = p)
  else s1

/-- The enrolments of a tenant's tables whose descriptor's frame none of its entries maps any more end (R158). -/
def State.endEnrolments (s : State) (id : Nat) : State :=
  { s with enrolled := s.enrolled.filter fun e =>
      decide (e.tenant ≠ id) || s.mapsBy id (e.descPa / Config.frameBytes) }

/-- Bytes of one lane of an access. -/
def AccKind.width (k : AccKind) (l : LaneAcc) : Nat :=
  match k with
  | .load ty _ _ _ => tyBytes ty
  | .store => l.bytes.length
  | .atomic opt _ _ _ _ => optBytes opt
  | .cas w8 _ _ _ => if w8 then 8 else 4
  | .promote _ _ _ => 1
  | _ => 8

/-- The commands and accesses in flight of a tenant that hold a translation which passes a test of their first virtual address, its
place, and their bytes.  A KV command that a fault has paused, and a thread that waits in CTWAIT, translate anew when they go on. -/
def State.holders (s : State) (tenant : Nat) (hit : Nat → Nat → Nat → Bool) : List Nat :=
  let ofTenant := fun (g : Nat) => ((s.group g).map (·.rec_.tenant)) == some tenant
  let eng := fun (e : EngCmd) => (decide (e.fin.ctr ≠ 0) && hit e.fin.ctr e.fin.ctrPa 8) || (match e.op with
    | .cbload a ks => (ks.zipIdx).any fun (k, i) => decide (k < Config.padBase) && hit (a + i) k 1
    | _ => false)
  ((s.accesses.filter fun a => decide (a.tenant = tenant) && a.lanes.any fun l => hit l.va l.pa (a.kind.width l)).map (·.id)) ++
  ((s.engs.filter fun e => decide (e.tenant = tenant) && eng e).map (·.id)) ++
  ((s.kvs.filter fun k => decide (k.tenant = tenant) && k.paused.isNone && hit k.desc k.descPa 64).map (·.id)) ++
  ((s.takes.filter fun t => ofTenant t.guid && hit t.va t.pa 4096).map (·.id))

/-- A row slot stands Queued or Activating: the ROPEN that translated its row has not ended (R91). -/
def RowSlot.opening (r : RowSlot) : Bool := decide (r.state = .queued) || decide (r.state = .activating)

/-- The row slots of a tenant's groups whose opening holds such a translation: group and slot. -/
def State.rowHolders (s : State) (tenant : Nat) (hit : Nat → Nat → Nat → Bool) : List (Nat × Nat) :=
  s.groups.flatMap fun (k, g) => if g.rec_.tenant ≠ tenant then [] else (g.rows.zipIdx).filterMap fun (r, i) =>
    if r.opening && hit r.va r.pa 4096 then some (k, i) else none

/-- Some of a list of commands and accesses is still in flight. -/
def State.inFlight (s : State) (ids : List Nat) : Bool :=
  ids.any fun i => (s.accesses.any fun a => decide (a.id = i)) || (s.engs.any fun e => decide (e.id = i)) ||
    (s.kvs.any fun k => decide (k.id = i)) || (s.takes.any fun t => decide (t.id = i))

/-- Some of a list of row slots is still opening. -/
def State.rowsOpening (s : State) (rows : List (Nat × Nat)) : Bool :=
  rows.any fun (k, i) => (((s.group k).bind (·.rows[i]?)).map RowSlot.opening).getD false

/-- A command of a queue waits for the drain of a tenant's translations that pass a test (R180). -/
def State.awaitDrain (s : State) (q tenant : Nat) (hit : Nat → Nat → Nat → Bool) (t : State) : State :=
  t.cmdWaits q (.drain tenant (s.holders tenant hit) (t.rowHolders tenant hit))

/-- MAP_COMMAND (R101, R180): the entry takes effect at this one point; the command completes after the drain. -/
def execMapCommand (q id gpa : Nat) (entry : Dword) (s : State) : Out :=
  .next (s.command q 0x04 true fun s =>
    if s.namedBusy q id then s
    else if (s.tenant id).isNone ∨ 2 ^ 48 ≤ gpa then s.complete q 3
    else if s.mapRefused id entry.toNat then s.complete q 4
    else
      let p := bits (s.entry2 id gpa).toNat 47 21
      s.awaitDrain q id (fun _ pa _ => decide (pa / Config.frameBytes = p))
        (if s.entry2 id gpa = entry then s else ((s.endMapping id gpa).setEntry2 id gpa entry).endEnrolments id))

/-- TRANSLATION_DRAIN_COMPLETE (R180). -/
def execTranslationDrainComplete (q : Nat) (s : State) : Out :=
  .next (match (s.tenant q).bind (·.cmdWait) with
    | some (.drain _ ids rows) => if s.inFlight ids || s.rowsOpening rows then s else s.complete q 0
    | _ => s)

/-- INVALIDATE_RANGE (R168, R180): the stage-1 results of virtual addresses from `lo` up to below `hi`. -/
def execInvalidateRange (q lo hi : Nat) (s : State) : Out :=
  .next (s.command q 0x0A false fun s =>
    s.awaitDrain q q (fun va _ n => decide (va < hi ∧ lo < va + n))
      (s.dropTlb q fun e => decide (e.va < hi ∧ lo < e.va + e.size)))

/-- INVALIDATE_ALL (R168, R180). -/
def execInvalidateAll (q : Nat) (s : State) : Out :=
  .next (s.command q 0x0A false fun s =>
    s.awaitDrain q q (fun _ _ _ => true) (s.dropTlb q fun _ => true))

/-- ZERO_COMMAND (R102, R180): the entry stands at V = 0, ZF = 1 until the fill ends. -/
def execZeroCommand (q id gpa : Nat) (entry : Dword) (s : State) : Out :=
  .next (s.command q 0x05 true fun s =>
    if s.namedBusy q id then s
    else if (s.tenant id).isNone ∨ 2 ^ 48 ≤ gpa ∨ bit entry.toNat 0 = false then s.complete q 3
    else if s.mapRefused id entry.toNat then s.complete q 4
    else (((s.endMapping id gpa).setEntry2 id gpa ((entry &&& ~~~1#64) ||| 8#64)).cmdWaits q
      (.zero id gpa entry)).endEnrolments id)

/-- A frame reads zero throughout, without error (R102, R103). -/
def State.zeroFrame (s : State) (p : Nat) : State :=
  { s with mem := memDrop s.mem (p * Config.frameBytes) ((p + 1) * Config.frameBytes), noisy := mdel s.noisy p,
           badUnits := s.badUnits.filter fun u => decide (u * 64 / Config.frameBytes ≠ p) }

/-- ZERO_FILL_COMPLETE (R102). -/
def execZeroFillComplete (q : Nat) (s : State) : Out :=
  .next (match (s.tenant q).bind (·.cmdWait) with
    | some (.zero id gpa entry) =>
      ((s.zeroFrame (bits entry.toNat 47 21)).setEntry2 id gpa entry).complete q 0
    | _ => s)

/-! ### key (R102, R179) -/

/-- The key pair under which a frame's data stands. -/
def State.framePair (s : State) (p : Nat) : BitVec 512 :=
  match mget s.frameKey p with
  | none => Config.bootKey 32
  | some slot => (mget s.keys slot).getD (Config.bootKey slot)

/-- Starts of the 16-byte blocks of a frame that hold a listed byte. -/
def State.listedBlocks (s : State) (p : Nat) : List Nat :=
  s.mem.foldr (fun c bs => if c.1 / Config.frameBytes = p ∧ bs.head? ≠ some (c.1 / 16 * 16) then c.1 / 16 * 16 :: bs else bs) []

/-- A frame with what its unlisted bytes stand for. -/
def State.setBase (s : State) (p : Nat) (f : FrameBase) : State :=
  { s with noisy := if f.undef.isNone ∧ f.written = f.now then mdel s.noisy p else mset s.noisy p f }

/-- A frame whose key pair changes (R102): what was stored under the former pair is read under the new one.  DESIGN CHOICE (log 106): a
cluster's cache keeps the lines of it that it has copied. -/
def State.rekey (s : State) (p : Nat) (old new : BitVec 512) : State :=
  let base := (mget s.noisy p).getD { undef := none, written := old, now := old }
  let s1 := State.setBase { s with mem := memDrop s.mem (p * Config.frameBytes) ((p + 1) * Config.frameBytes) } p
    { base with now := new }
  (s.listedBlocks p).foldl (fun (t : State) k => t.write k (reread old new k (s.bytes k 16))) s1

/-- KEY_COMMAND (R179): a key pair goes into a slot, and frames `lo` up to below `hi` to that slot. -/
def execKeyCommand (q slot : Nat) (key : BitVec 512) (lo hi : Nat) (s : State) : Out :=
  .next (s.command q 0x06 true fun s =>
    if s.namedBusy q slot then s
    else if 32 ≤ slot ∨ hi < lo ∨ Config.frames < hi then s.complete q 3
    else
      let given := upFrom lo (hi - lo)
      let held := s.frameKey.filterMap fun (p, k) => if k = slot ∧ ¬ (lo ≤ p ∧ p < hi) then some p else none
      let s1 := { s with keys := mset s.keys slot key, frameKey := given.foldl (fun m p => mset m p slot) s.frameKey }
      ((given ++ held).foldl (fun (t : State) p =>
        if s.framePair p = s1.framePair p then t else t.rekey p (s.framePair p) (s1.framePair p)) s1).complete q 0)

/-! ### query (R323) -/

/-- A query of an item: written at DEST, covered by DONESEQ; a reserved bit or a DEST off 64 gives status 3. -/
def State.query (s : State) (q item : Nat) (result : State → Tenant → List Byte) : State :=
  match s.cmdAt q with
  | none => s
  | some (t, k) =>
    if s.num (k + 8) 1 ≠ item then s
    else s.command q 0x07 false fun s =>
      let dest := s.num (k + 16) 8
      if s.num (k + 9) 7 ≠ 0 ∨ s.num (k + 24) 32 ≠ 0 ∨ dest % 64 ≠ 0 then s.complete q 3
      else (s.write (Config.hostBase + dest) (result s t)).complete q 0

/-- A tenant sees a core or its column: with HV all of them, else those of its clusters (R323). -/
def Tenant.sees (t : Tenant) (core : Nat) : Bool := t.cfg.hv || t.cfg.clusters.contains (clusterOf core)

/-- A value of `n` bytes for every core, 0 where the tenant does not see it. -/
def perCore (t : Tenant) (n : Nat) (f : Nat → Nat) : List Byte :=
  (List.range Config.cores).flatMap fun c => leBytes n (if t.sees c then f c else 0)

/-- A count that saturates (R323). -/
def satCount (n : Nat) : Nat := min n 0xFFFFFFFF

/-- QUERY_BUDGET (R323). -/
def execQueryBudget (q : Nat) (s : State) : Out :=
  .next (s.query q 0 fun s _ => leBytes 2 s.budget ++ leBytes 2 s.draw ++ List.replicate 12 0)

/-- QUERY_CAPACITY (R77, R323). -/
def execQueryCapacity (q : Nat) (s : State) : Out :=
  .next (s.query q 1 fun s t => perCore t 4 s.capacityWord)

/-- QUERY_TEMPERATURES (R99, R323). -/
def execQueryTemperatures (q : Nat) (s : State) : Out :=
  .next (s.query q 2 fun s t => perCore t 8 fun c => (s.column c).thermal)

/-- QUERY_BANK_MAPS (R87, R323). -/
def execQueryBankMaps (q : Nat) (s : State) : Out :=
  .next (s.query q 3 fun s t => perCore t 4 fun c => (s.column c).bankmap)

/-- QUERY_COUNTERS (R323). -/
def execQueryCounters (q : Nat) (s : State) : Out :=
  .next (s.query q 4 fun s t => perCore t 16 fun c =>
    let x := s.column c
    satCount x.corrected + satCount x.uncorrectable * 2 ^ 32 + satCount x.closes * 2 ^ 64 +
      satCount x.activations * 2 ^ 96)

/-! ### remap (R88, R89) -/

/-- The first of the frames that a pending retirement names. -/
def Column.namedFrom (c : Column) : Nat := 16 * c.liveBanks.length - 16

/-- A stage-2 entry of some tenant maps a named frame of a column.  DESIGN CHOICE (log 107): of two retirements pending on one column
both name the frames below the present F, and the second to complete is held against those below the F that the first leaves. -/
def State.namedMapped (s : State) (col : Nat) : Bool :=
  let lo := col * Config.framesPerColumn + (s.column col).namedFrom
  s.tenants.any fun (id, t) => t.stage2.any fun (f, e) =>
    s.mapsFrame id f e.toNat && decide (lo ≤ bits e.toNat 47 21 ∧ bits e.toNat 47 21 < lo + 16)

/-- A remapping step starts on a column: no access is accepted, every open row closes with REASON 5, and activations wait in their
queue (R88, R92). -/
def State.startRemap (s : State) (q col : Nat) (op : RemapOp) : State :=
  let s1 := s.closeRows col 5 fun _ _ r => r.holds
  (s1.setColumn col { s1.column col with remap := some (op, q) }).cmdWaits q (.remap col)

/-- REMAP_COMPLETE_RETIREMENT (R88): refused while an entry maps a named frame. -/
def execRemapCompleteRetirement (q column bank : Nat) (s : State) : Out :=
  .next (s.command q 0x09 true fun s =>
    if Config.cores ≤ column ∨ ((s.column column).pending.any fun p => decide (p.1 = bank)) = false then s.complete q 3
    else if (s.column column).remap.isSome then s
    else if s.namedMapped column then s.complete q 4
    else s.startRemap q column (.retire bank))

/-- The temperature of a bank's layer. -/
def Column.bankTemp (c : Column) (b : Nat) : Nat := c.temps.getD (b / 2) 75

/-- REMAP_READMIT (R89): for a bank retired temporarily whose layer stands at 92 °C or below. -/
def execRemapReadmit (q column bank : Nat) (s : State) : Out :=
  .next (s.command q 0x09 true fun s =>
    let c := s.column column
    if Config.cores ≤ column ∨ c.temporary.contains bank = false then s.complete q 3
    else if c.remap.isSome then s
    else if 92 < c.bankTemp bank then s.complete q 4
    else s.startRemap q column (.readmit bank))

/-- A frame holds undefined data (R89), without error. -/
def State.undefFrame (s : State) (p : Nat) : State :=
  let s1 := s.zeroFrame p
  State.setBase s1.bump p { undef := some s.nextId, written := s.framePair p, now := s.framePair p }

/-- The 16 frames from one on hold undefined data (R89). -/
def State.undefFrames (s : State) (p : Nat) : State := (upFrom p 16).foldl State.undefFrame s

/-- REMAPPING_STEP_COMPLETE (R88, R89): LIVE and NLIVE change; frames that stay keep their data. -/
def execRemappingStepComplete (column : Nat) (s : State) : Out :=
  .next (match (s.column column).remap with
    | none => s
    | some (op, q) =>
      let c := s.column column
      let s1 := match op with
        | .retire b => s.setColumn column { c with
            live := c.live &&& ~~~(1#24 <<< b), pending := c.pending.filter fun p => decide (p.1 ≠ b),
            temporary := if c.pending.contains (b, true) then c.temporary ++ [b] else c.temporary,
            refresh := mdel c.refresh b, remap := none }
        | .readmit b => (s.setColumn column { c with
            live := c.live ||| (1#24 <<< b), temporary := c.temporary.filter fun x => decide (x ≠ b),
            modeAt := setAt c.modeAt b s.stime, remap := none }).undefFrames (column * Config.framesPerColumn + 16 * c.liveBanks.length)
      s1.complete q 0)

/-! ### fault (R167) -/

/-- A paused KV command goes on with its descriptor translated anew, or stops on the fault that this meets. -/
def State.kvAgain (s : State) (k : KvCmd) : State :=
  let put := fun (pa : Nat) => { s with kvs := s.kvs.map fun x => if x.id = k.id then { x with paused := none, descPa := pa } else x }
  match s.xlateEng k.core k.tenant k.desc 0 with
  | .ok pa => if Config.padBase ≤ pa then s.kvTrap k 0x01 k.desc 0 else put pa
  | .no f => s.kvStop k (.fault f k.desc 0)
  | .miss => put k.descPa

/-- A paused copy in its group's save area answered: aborted it ends, and it else goes on when the group resumes (R171, R172). -/
def State.answerSaved (s : State) (c : Copy) (abort : Bool) : State :=
  let change := fun (l : List Copy) => if abort then l.filter fun x => decide (x.id ≠ c.id)
    else l.map fun x => if x.id = c.id then { x with paused := none } else x
  let s1 := { s with saved := s.saved.map fun v => { v with copies := change v.copies } }
  if abort then s1.endCopy { c with outcome := max c.outcome outFault } else s1

/-- A paused copy, drain or KV command of a tenant, or a waiting signal-add, that a token names, answered; none where
the token names no such thing. -/
def State.answerCommand (s : State) (q : Nat) (token : Word) (abort : Bool) : Option State :=
  match s.copies.find? fun c => decide (c.tenant = q) && decide (c.paused = some token) with
  | some c => some (if abort then s.endCopy { c with outcome := max c.outcome outFault }
      else { s with copies := s.copies.map fun x => if x.id = c.id then { x with paused := none } else x })
  | none =>
  match (s.saved.flatMap (·.copies)).find? fun c => decide (c.tenant = q) && decide (c.paused = some token) with
  | some c => some (s.answerSaved c abort)
  | none =>
    match s.engs.find? fun e => decide (e.tenant = q) && (match e.op with
        | .drain _ _ _ _ _ _ p => decide (p = some token)
        | _ => false) with
    | some e => match e.op with
      | .drain p b d owed o f _ =>
        some (s.setOp e.id (if abort then .drain p b d [] (max o 3) f none else .drain p b d owed o f none))
      | _ => none
    | none =>
      match s.kvs.find? fun k => decide (k.tenant = q) && decide (k.paused.map (·.1) = some token) with
      | some k => some (if abort then s.kvTrap k 0x20 ((k.paused.map (·.2.1)).getD 0) ((k.paused.map (·.2.2)).getD 0)
          else s.kvAgain k)
      | none =>
        match s.dones.find? fun d => decide (d.tenant = q) && d.queued && decide (d.token = token) with
        | some d =>
          let s1 := { s with dones := s.dones.erase d }
          some (if abort then s1 else s1.doneSignal d.tenant d.addr)
        | none => none

/-- The parked threads, resident or away, that a token of a tenant names: group, thread, issue point, address, access.  Several share
it where they share an access (R305). -/
def State.faultedThreads (s : State) (q : Nat) (token : Word) : List (Nat × Nat × Point × Nat × Nat) :=
  let find := fun (guid : Nat) (g : Group) => if g.rec_.tenant ≠ q then [] else g.threads.filterMap fun t => match t.run with
    | .parked (.fault k va access) p _ => if k = token then some (guid, t.tid, p, va, access) else none
    | _ => none
  (s.groups.flatMap fun (guid, g) => find guid g) ++ (s.saved.flatMap fun v => find v.guid v.group)

/-- A thread that has waited for the answer to a fault, as it goes on away from a core: it makes its issue again, or waits on for
what comes after its fault in the issue. -/
def Thread.replayed (t : Thread) (p q : Point) : Thread :=
  match t.later with
  | (w, i) :: ws => { t with run := .parked w p q, parkWord := i, later := ws }
  | [] => { t with run := .runnable, point := t.standing p, word := p.word }

/-- A faulted thread answered (R167): it makes its access again, or traps 0x20; one that is away does so when its group
resumes. -/
def State.answerThread (s : State) (guid tid : Nat) (p : Point) (va access : Nat) (abort : Bool) : State :=
  if (s.group guid).isSome then
    if abort then s.wakeTrap guid tid p 0x20 (BitVec.ofNat 64 va) access else s.goOn guid tid p
  else s.onMember guid tid fun t =>
    if abort then t.dueAway 0x20 va access
    else match t.run with
      | .parked _ a b => t.replayed a b
      | _ => t

/-- The driver's answer to the fault of a token (R167); a token that names no fault of the tenant gives status 3. -/
def State.answerFault (s : State) (q : Nat) (token : Word) (abort : Bool) : State :=
  match s.faultedThreads q token with
  | [] => match s.answerCommand q token abort with
    | some s1 => s1.complete q 0
    | none => s.complete q 3
  | ws => (ws.foldl (fun (s : State) (guid, tid, p, va, access) => s.answerThread guid tid p va access abort) s).complete q 0

/-- FAULT_REPLAY (R167). -/
def execFaultReplay (q : Nat) (token : Word) (s : State) : Out :=
  .next (s.command q 0x0B false fun s => s.answerFault q token false)

/-- FAULT_ABORT (R167). -/
def execFaultAbort (q : Nat) (token : Word) (s : State) : Out :=
  .next (s.command q 0x0B false fun s => s.answerFault q token true)

/-! ### preempt (R171, R179) -/

/-- A group and the other members of its gang, by guid. -/
def State.gangWith (s : State) (guid : Nat) : List (Nat × Group) :=
  match s.group guid with
  | none => []
  | some x => s.groups.filter fun (k, g) => decide (k = guid) || sameGang x g

/-- Bytes that saving a group and its gang takes (R170). -/
def State.gangSize (s : State) (guid : Nat) : Nat := (s.gangWith guid).foldl (fun n (_, g) => n + s.saveSize g) 0

/-- PREEMPT_COMMAND (R179): status 5 where the save pool has no room; it completes when the group is saved. -/
def execPreemptCommand (q group : Nat) (s : State) : Out :=
  .next (s.command q 0x0C false fun s =>
    match s.group group with
    | none => s.complete q 3
    | some g =>
      if g.rec_.tenant ≠ q then s.complete q 2
      else if !s.poolRoom q (s.gangSize group) then s.complete q 5
      else (s.stopGroup group).cmdWaits q (.preempt group))

end Sys2Proof.Machine
end

