-- ==== Sys2Proof/Machine/Host.lean ====
section
/-! DEFINITION. Bring-up (R186), host accesses (R177), and what arrives from the fabric and the Ethernet ports (R32,
R182 to R185). -/

namespace Sys2Proof.Machine

/-- Threads of a core get the capacity event (R74, R261). -/
def State.capacityEvent (s : State) (core : Nat) : State :=
  { s with groups := s.groups.map fun (k, g) =>
      (k, if g.core = core then { g with threads := g.threads.map fun t => { t with capFlag := true } } else g) }

/-- The mask of the lowest `n` banks. -/
def lowBanks (n : Nat) : BitVec 64 := BitVec.ofNat 64 (2 ^ n - 1)

/-- A bank that fails at bring-up is marked retired by repair (R87, R186). -/
def State.failBank (s : State) (p : Nat × Nat) : State :=
  if p.1 < Config.cores ∧ p.2 < 24 then
    s.setColumn p.1 { s.column p.1 with live := (s.column p.1).live &&& ~~~(1#24 <<< p.2) }
  else s

/-- POWER_ON_RESET (R186): bring-up runs to its end: failing banks are retired by repair, key slots and stage-2 tables
cleared, budget 1,800 W, pinned pools lit; then the parasol lights as many banks of each core as the budget pays for.  The
operands give that number and the failing banks, by column and bank.  It acts once, while bring-up runs. -/
def execPowerOnReset (lit : Nat) (failed : List (Nat × Nat)) (s : State) : Out :=
  let n := max 8 (min 64 lit)
  .next (if s.ready then s
    else
      let up := { s with
        ready := true, budget := 1800, keys := [], frameKey := [],
        tenants := s.tenants.map fun (q, t) => (q, { t with stage2 := [] }),
        cores := (List.range Config.cores).map fun c => (c, { s.core c with lit := lowBanks n }) }
      failed.foldl State.failBank (if 8 < n then (List.range Config.cores).foldl State.capacityEvent up else up))

/-! ### Host accesses (R177) -/

/-- The places of a run of bytes by a tenant's tables, none on any fault. -/
def State.tablePlaces (s : State) (tenant va n access : Nat) : Option (List Nat) :=
  if (pagesOf va n).all fun p => match s.xlateTables tenant p access with | .ok _ => true | _ => false then
    some ((upFrom va n).map fun a => match s.xlateTables tenant a access with | .ok pa => pa | _ => 0)
  else none

/-- An outside party meets an uncorrectable error at one of some places, or on a die network: an entry of KIND 3, which the column of
a stored error counts (R103, R185, R323). -/
def State.outsideError (s : State) (tenant va access : Nat) (ps : List Nat) : State :=
  let s1 := s.postFault 0 { FaultEntry.blank with kind := 3, cause := 0x21, tenant := tenant, access := access, addr := va }
  (match ps.find? fun p => s.badAt p 1 with
    | some p => s1.countErrorAt p
    | none => s1).unmark .outside

/-- What an outside party meets at some places cannot be corrected, in its units or on its way (R103, R185). -/
def State.outsideBad (s : State) (ps : List Nat) : Bool := s.marked .outside || ps.any fun p => s.badAt p 1

/-- Bytes written by an outside party at their places; a unit that cannot be corrected and is not overwritten whole, or an error on
the way, drops the write with an entry of KIND 3 (R103, R185). -/
def State.outsideWrite (s : State) (tenant va : Nat) (ps : List Nat) (bs : List Byte) : State :=
  if s.partlyBad ps || s.marked .outside then s.outsideError tenant va 1 ps
  else
    let s1 := (ps.zip bs).foldl (fun (s : State) (p, b) => s.devWrite tenant p [b]) s
    { s1 with badUnits := s1.badUnits.filter fun u => !((upFrom (u * 64) 64).all ps.contains) }

/-- A reply leaves the package; on a scale-up port its payload is encoded (R184). -/
def State.reply (s : State) (dest : ReplyTo) (bytes : Option (List Byte)) : State :=
  let wire := match dest with
    | .peer _ => wireOf (bytes.getD [])
    | _ => []
  { s with replies := s.replies ++ [⟨dest, bytes, wire⟩] }

/-- Bytes read by an outside party go to it, of a peer by a request to it (R182); an uncorrectable error makes an entry of KIND 3 and
an error completion. -/
def State.outsideRead (s : State) (dest : ReplyTo) (tenant va : Nat) (ps : List Nat) : State :=
  if s.outsideBad ps then (s.outsideError tenant va 0 ps).reply dest none
  else (s.askRun tenant ps).reply dest (some (ps.flatMap fun p => s.devRead p 1))

/-- The place of a table entry that cannot be corrected and fails a host access, if one does (R103). -/
def State.tableError (s : State) (tenant va n access : Nat) : Option Nat :=
  match (pagesOf va n).find? fun p => match s.xlateTables tenant p access with | .ok _ => false | _ => true with
  | some p => match s.xlateTables tenant p access with
    | .no (.error pa) => some pa
    | _ => none
  | none => none

/-- The entry of a host access that fails: of KIND 3 where a table entry cannot be corrected (R103), else of KIND 2 (R177). -/
def State.hostFault (s : State) (q va n access : Nat) : State :=
  match s.tableError q va n access with
  | some pa => s.outsideError q (va % 2 ^ 57) access [pa]
  | none => s.postFault 0 { FaultEntry.blank with kind := 2, cause := 0x20, tenant := q, access := access, addr := va % 2 ^ 57 }

/-- A host access may be served: no remapping step holds it up (R88), and each bank it meets serves it (R90). -/
def State.hostReady (s : State) (tenant : Option Nat) (va : Nat) (write : Option (List Byte)) (len : Nat) : Bool :=
  s.noRemap && s.tablesServed (tenant.getD 0) va (match write with | some bs => bs.length | none => len)
    (if write.isSome then 1 else 0)

/-- HOST_ACCESS (R177): translated in the named tenant, tenant 0 where none is named, and never replayed.  A failed one makes an
entry of KIND 2; a failed read returns an error completion, a failed write is dropped. -/
def execHostAccess (tenant : Option Nat) (va : Nat) (write : Option (List Byte)) (len : Nat) (s : State) : Out :=
  let q := tenant.getD 0
  let n := match write with | some bs => bs.length | none => len
  .next (if !s.hostReady tenant va write len then s
    else match s.tablePlaces q va n (if write.isSome then 1 else 0), write with
      | some ps, some bs => s.outsideWrite q va ps bs
      | some ps, none => s.outsideRead .host q va ps
      | none, w =>
        let s1 := s.hostFault q va n (if w.isSome then 1 else 0)
        if w.isSome then s1 else s1.reply .host none)

/-! ### Fabric and Ethernet -/

/-- A packet dropped and counted against its tenant (R31). -/
def State.dropPacket (s : State) (tenant : Nat) : State := s.onTenant tenant fun t => { t with drops := t.drops + 1 }

/-- R32's checks of a fabric launch packet. -/
def Tenant.permits (t : Tenant) (sender : Nat) (r : LaunchRec) : Bool :=
  t.cfg.launchOn && t.cfg.senders.contains sender && t.cfg.entries.contains r.entry && decide (r.cls ≤ t.cfg.maxClass)

/-- FABRIC_LAUNCH_PACKET (R30 to R33): a packet that fails R32 is dropped and counted against the tenant it names; one whose record
R30 rejects, as one that names another tenant, makes an entry of KIND 4 besides. -/
def execFabricLaunchPacket (source : FabricSource) (record : BitVec 512) (s : State) : Out :=
  let r := LaunchRec.ofNat record.toNat
  let tenant := source.tenant
  .next (match s.tenant tenant with
    | none => s
    | some t =>
      if !t.permits source.sender r then s.dropPacket tenant
      else match s.checkLaunch r tenant with
        | some l => s.addLaunch l (s.leastPool tenant) none none
        | none => (s.dropPacket tenant).postFault 0 { FaultEntry.blank with kind := 4, tenant := tenant })

/-- The places of a run of guest-physical bytes by stage 2, none on any fault. -/
def State.guestPlaces (s : State) (tenant gpa n : Nat) (read write : Bool) : Option (List Nat) :=
  let place := fun a => match s.stage2 tenant a with
    | .ok pa rd wr => if (!read || rd) && (!write || wr) && !s.peerFault pa then some pa else none
    | .no _ => none
  if (pagesOf gpa n).all fun p => (place p).isSome then some ((upFrom gpa n).map fun a => (place a).getD 0) else none

/-- An access at guest-physical addresses may be served (R88, R90). -/
def State.guestReady (s : State) (tenant gpa n : Nat) (read write : Bool) : Bool :=
  s.noRemap && (match s.guestPlaces tenant gpa n read write with
    | some ps => s.servedAll ps
    | none => true)

/-- What a peer's atomic makes of the bytes at its place: the width, and the new value of an old one (R108, R120, R182). -/
def peerChange : PeerOp → Nat × (Nat → Nat)
  | .atomic opt v => (optBytes opt, fun old => atomFn opt old v.toNat)
  | .cas w8 cmp new => (if w8 then 8 else 4, fun old => if old = cmp.toNat then new.toNat else old)
  | .add v => (8, fun old => counterSum old v.toNat)
  | _ => (0, id)

/-- A peer's access by its kind (R182), answered to that peer: a write or an atomic executes at the column, and a read and an atomic get what they read;
one that meets a fault gets an error. -/
def State.peerAccess (s : State) (tenant peer gpa : Nat) (op : PeerOp) : State :=
  match op with
  | .write bs => match s.guestPlaces tenant gpa bs.length false true with
    | some ps => (s.outsideWrite tenant 0 ps bs).reply (.peer peer) (some [])
    | none => s.reply (.peer peer) none
  | .read n => match s.guestPlaces tenant gpa n true false with
    | some ps => s.outsideRead (.peer peer) tenant 0 ps
    | none => s.reply (.peer peer) none
  | op =>
    let (w, f) := peerChange op
    match s.guestPlaces tenant gpa w true true with
    | none => s.reply (.peer peer) none
    | some ps =>
      if s.outsideBad ps then (s.outsideError tenant 0 1 ps).reply (.peer peer) none
      else
        let old := ps.flatMap fun p => s.devRead p 1
        (s.outsideWrite tenant 0 ps (leBytes w (f (leNat old)))).reply (.peer peer) (some old)

/-- A peer's access may be served. -/
def State.peerReady (s : State) (tenant gpa : Nat) (op : PeerOp) : Bool :=
  match op with
  | .write bs => s.guestReady tenant (gpa % 2 ^ 39) bs.length false true
  | .read n => s.guestReady tenant (gpa % 2 ^ 39) n true false
  | op => s.guestReady tenant (gpa % 2 ^ 39) (peerChange op).1 true true

/-- FABRIC_PEER_ACCESS (R182): GPA[38:0] of a peer's access, translated by this package's stage-2 table. -/
def execFabricPeerAccess (tenant peer gpa : Nat) (op : PeerOp) (s : State) : Out :=
  .next (if s.peerReady tenant gpa op then s.peerAccess tenant peer (gpa % 2 ^ 39) op else s)

/-- FLIT_RECEIVE (R184, R185): a flit of a scale-up port that passes its CRC is decoded, its block cut to the bytes of the payload
that are left; any other is sent again. -/
def execFlitReceive (port : Nat) (crcOk : Bool) (tag : Byte) (body : FlitBody) (s : State) : Out :=
  .next (if 36 ≤ port then s
    else match (if crcOk then blockOf tag body.bytes else none) with
      | some block => { s with portIn := s.portIn ++ [(port, block.take body.left)] }
      | none => { s with resent := s.resent + 1 })

/-- RDMA_WRITE (R183): bytes written to a tenant's guest-physical memory; a faulting one has no effect here. -/
def execRdmaWrite (tenant gpa : Nat) (data : List Byte) (s : State) : Out :=
  .next (match (if s.guestReady tenant gpa data.length false true then s.guestPlaces tenant gpa data.length false true else none) with
    | some ps => s.outsideWrite tenant 0 ps data
    | none => s)

/-- RDMA_READ (R183): the bytes go back on the Ethernet port, uncompressed; a faulting read gets an error. -/
def execRdmaRead (tenant gpa len : Nat) (s : State) : Out :=
  .next (if !s.guestReady tenant gpa len true false then s
    else match s.guestPlaces tenant gpa len true false with
      | some ps => s.outsideRead .ethernet tenant 0 ps
      | none => s.reply .ethernet none)

/-- RDMA_SEND (R183): the message arrives at one of the four Ethernet ports, numbered after the 36 scale-up ports. -/
def execRdmaSend (port : Nat) (data : List Byte) (s : State) : Out :=
  .next (if 4 ≤ port then s else { s with portIn := s.portIn ++ [(36 + port, data)] })

end Sys2Proof.Machine
end

