-- ==== Sys2Proof/Machine/Parasol.lean ====
section
/-! DEFINITION. Heat and power: temperatures and what follows from them (R37, R88, R92, R98, R100), the parasol's
planned reductions, loss points, emergencies and raises (R72 to R78, R319), and its caps and clocks (R6, R181). -/

namespace Sys2Proof.Machine

/-! ### Temperatures (R98) -/

/-- Doubled mode of a layer at a temperature: entered above 85 °C, left at 82 °C or below. -/
def doubledNext (now t : Nat) (d : Option Nat) : Option Nat :=
  if 85 < t then some (d.getD now) else if t ≤ 82 then none else d

/-- The column with the temperatures of its layers sampled; layers without a sample keep theirs. -/
def Column.sample (c : Column) (now : Nat) (ts : List Nat) : Column :=
  let temps := (ts.take 12 ++ c.temps.drop (ts.take 12).length).take 12
  { c with temps := temps, doubled := (temps.zip c.doubled).map fun (t, d) => doubledNext now t d }

/-- A layer enters doubled mode between two samples. -/
def entersDoubled (old new : Column) (j : Nat) : Bool :=
  ((new.doubled[j]?).bind id).isSome && ((old.doubled[j]?).bind id).isNone

/-- Rows of a layer that enters doubled mode close with REASON 4 where they have been open 4,680 ck or longer (R92). -/
def State.thermalClose (s : State) (col : Nat) (old : Column) : State :=
  s.closeRows col 4 fun _ _ r => decide (r.state = .opened) && decide (r.since + 4680 ≤ s.stime) &&
    entersDoubled old (s.column col) ((s.column col).bankOf r.pa / 2)

/-- The tenant of a core. -/
def State.tenantOf (s : State) (core : Nat) : Option Nat :=
  (s.tenants.find? fun (_, t) => t.cfg.clusters.contains (clusterOf core)).map (·.1)

/-- A column holds a frame that a tenant other than that of its core owns (R100): one of its live banks (R86), in the key slot of a
tenant. -/
def State.foreignFrame (s : State) (col : Nat) : Bool :=
  s.frameKey.any fun (p, k) => decide (p / Config.framesPerColumn = col) &&
    decide (p % Config.framesPerColumn < 16 * (s.column col).liveBanks.length) && (s.tenant k).isSome &&
    decide (s.tenantOf col ≠ some k)

/-- NEIGH as a sample leaves it (R100). -/
def State.neighNext (s : State) (col : Nat) : Bool :=
  let h := hottest (s.column col).temps
  if 85 < h then (s.column col).neigh || s.foreignFrame col else if h ≤ 82 then false else (s.column col).neigh

/-- The hot state of a core as a sample leaves it (R37). -/
def State.heatCore (s : State) (core : Nat) : State :=
  let h := hottest (s.column core).temps
  if 95 < h then (if (s.core core).hot then s else (s.setCore core { s.core core with hot := true }).freeRanges core)
  else if h ≤ 92 ∧ (s.core core).hot then s.setCore core { s.core core with hot := false }
  else s

/-- A bank's retirement becomes pending, and the event names the column, the bank and the first frame (R88).  DESIGN CHOICE
(log 104): a bank that is not live or is pending already stays as it is, so a repair found for one that is pending or retired
temporarily is dropped. -/
def State.pendRetirement (s : State) (col bank : Nat) (temporary : Bool) : State :=
  let c := s.column col
  if !c.live.getLsbD bank || (c.pending.any fun p => decide (p.1 = bank)) then s
  else
    let s1 := s.setColumn col { c with pending := c.pending ++ [(bank, temporary)] }
    { s1 with events := s1.events ++ [(col, bank, c.namedFrom)] }

/-- Layers above 105 °C make the retirement of their two banks pending, temporarily (R88). -/
def State.pendHot (s : State) (col : Nat) : State :=
  ((List.range 24).filter fun b => decide (105 < (s.column col).bankTemp b)).foldl
    (fun (s : State) b => s.pendRetirement col b true) s

/-- A bank whose layer's mode changes (R98): the new mode applies from the next refresh to fall due under it; a change back before
that leaves the mode that held. -/
def State.changeMode (s : State) (col b : Nat) (old : Column) : State :=
  let doubled := (s.column col).doubledBank b
  if doubled = old.doubledBank b then s
  else
    let from_ := if old.doubledAt b s.stime = doubled then 0 else nextDue doubled b s.stime
    s.setColumn col { s.column col with modeAt := setAt (s.column col).modeAt b from_ }

/-- What a sample leaves of one column and its core. -/
def State.sampleColumn (s : State) (col : Nat) (ts : List Nat) : State :=
  let old := s.column col
  let s0 := (List.range 24).foldl (fun (s : State) b => s.changeMode col b old) (s.setColumn col (old.sample s.stime ts))
  let s1 := s0.thermalClose col old
  ((s1.setColumn col { s1.column col with neigh := s1.neighNext col }).heatCore col).pendHot col

/-- THERMAL_SAMPLE (R98): every 2,400 ck; the temperatures of the columns named are as given, the others stand. -/
def execThermalSample (temps : List (Nat × List Nat)) (s : State) : Out :=
  .next (if s.stime % 2400 ≠ 0 then s
    else
      let given := temps.filter fun (c, _) => decide (c < Config.cores)
      let rest := (s.columns.map (·.1)).filter fun c => !given.any fun g => decide (g.1 = c)
      rest.foldl (fun (s : State) c => s.sampleColumn c [])
        (given.foldl (fun (s : State) (c, ts) => s.sampleColumn c ts) s))

/-- REPAIR_RETIREMENT_PENDING (R88): firmware finds that a bank needs repair. -/
def execRepairRetirementPending (column bank : Nat) (s : State) : Out :=
  .next (if column < Config.cores then s.pendRetirement column bank false else s)

/-! ### Choosing banks (R74) -/

/-- Pages of a bank that a region reserves. -/
def Region.pagesIn (r : Region) (b : Nat) : Nat :=
  if r.reserves b then
    (min (r.base + r.size) ((b + 1) * Config.bankBytes) - max r.base (b * Config.bankBytes)) / Config.pageBytes
  else 0

/-- Allocated pages of a bank. -/
def bankPages (rs : List Region) (b : Nat) : Nat := rs.foldl (fun n r => n + r.pagesIn b) 0

/-- Bank `a` goes before bank `b`: empty banks first, then the lowest rank, then the fewest pages, then the highest
number. -/
def bankBefore (rs : List Region) (a b : Nat) : Bool :=
  match bankRank rs a, bankRank rs b with
  | none, none => decide (b < a)
  | none, some _ => true
  | some _, none => false
  | some p, some q =>
    if p ≠ q then decide (p < q)
    else if bankPages rs a ≠ bankPages rs b then decide (bankPages rs a < bankPages rs b)
    else decide (b < a)

/-- The `n` banks of 8 to 63 that a lowering of a core's lit count chooses among those lit and not yet chosen. -/
def State.chooseBanks (s : State) (core n : Nat) : List Nat :=
  let c := s.core core
  let rs := s.coreRegions core
  (sortBy (bankBefore rs) ((upFrom 8 56).filter fun b => c.bankLit b && !c.chosen.contains b)).take n

/-- PLANNED_REDUCTION (R74, R319): `banks` more banks are announced, to go `notice` ck from now or with the standing
reduction if that is later; the lit count never falls below 8. -/
def execPlannedReduction (core banks notice : Nat) (s : State) : Out :=
  let c := s.core core
  .next (if Config.cores ≤ core ∨ banks = 0 ∨ c.litCount < 8 + c.chosen.length + banks then s
    else (s.setCore core { c with
        chosen := c.chosen ++ s.chooseBanks core banks,
        due := if c.chosen.isEmpty then s.stime + notice else max c.due (s.stime + notice) }).capacityEvent core)

/-! ### Loss points (R72, R75, R76, R78, R139) -/

/-- FLOOR after a bank of the core darkens (R78). -/
def floorAfter (rs : List Region) (floor b : Nat) : Nat :=
  match bankRank rs b with
  | some k => max floor (min 7 (k + 1))
  | none => floor

/-- A region that reserves pages in one of a list of banks. -/
def Region.touches (r : Region) (bs : List Nat) : Bool := bs.any r.reserves

/-- A region as the darkening of banks leaves it: Lost, and its pages in those banks no longer reserved (R72). -/
def Region.darken (r : Region) (bs : List Nat) : Region :=
  if r.touches bs then { r with lost := true, darkened := r.darkened ++ bs.filter r.reserves } else r

/-- The part of a region that lies in a bank: local address and length. -/
def Region.part (r : Region) (b : Nat) : Nat × Nat :=
  let lo := max r.base (b * Config.bankBytes)
  (lo, min (r.base + r.size) ((b + 1) * Config.bankBytes) - lo)

/-- What a region loses as banks darken (R72): all it holds where it was Live, its parts in these banks where it was Lost already. -/
def Region.lostRuns (r : Region) (bs : List Nat) : List (Nat × Nat) :=
  if r.lost then (bs.filter r.reserves).map r.part else r.runs

/-- Landings, operands, synchronisation groups and waiters of a region at its loss point. -/
def State.loseRegion (s : State) (core : Nat) (bs : List Nat) (r : Region) : State :=
  if !r.touches bs then s
  else
    let s1 := (r.lostRuns bs).foldl (fun (s : State) (a, n) => s.killRun (padKey core a) n) s
    let s2 := ((bs.filter r.reserves).map r.part).foldl (fun (s : State) (a, n) => s.loseSpills core a n 0x11 r.handler) s1
    (r.lostRuns bs).foldl (fun (s : State) (a, n) => s.trapWaiters (padKey core a) n 0x11 r.handler) s2

/-- The regions of a core, resident or held, as the darkening leaves them. -/
def State.darkenRegions (s : State) (core : Nat) (bs : List Nat) : State :=
  { s with
    groups := s.groups.map fun (k, g) =>
      (k, if g.core = core then { g with regions := g.regions.map (Option.map fun r => r.darken bs) } else g),
    saved := s.saved.map fun v => if v.home = some core then
        let change := fun (r : Region) => if v.held.contains r then r.darken bs else r
        { v with held := v.held.map fun r => r.darken bs,
                 group := { v.group with regions := v.group.regions.map (Option.map change) } }
      else v }

/-- The step that darkens banks of a core reaches its loss point (R75). -/
def State.darken (s : State) (core : Nat) (bs : List Nat) : State :=
  let c := s.core core
  let rs := s.coreRegions core
  let dark := bs.foldl (fun (m : BitVec 64) b => m &&& ~~~(1#64 <<< b)) c.lit
  let s1 := s.setCore core { c with lit := dark, floor := bs.foldl (floorAfter rs) c.floor,
                                    chosen := c.chosen.filter fun b => !bs.contains b }
  rs.foldl (fun (s : State) r => s.loseRegion core bs r) (s1.darkenRegions core bs)

/-- LOSS_POINT (R74, R75): the announced reduction of a core is made once its time has come. -/
def execLossPoint (core : Nat) (s : State) : Out :=
  let c := s.core core
  .next (if c.chosen.isEmpty ∨ s.stime < c.due then s else s.darken core c.chosen)

/-- THERMAL_EMERGENCY (R74, R319): banks darken at once, chosen ones first in the order they were chosen. -/
def execThermalEmergency (core banks : Nat) (s : State) : Out :=
  let c := s.core core
  .next (if Config.cores ≤ core ∨ banks = 0 ∨ c.litCount < 8 + banks then s
    else
      let first := c.chosen.take banks
      s.darken core (first ++ s.chooseBanks core (banks - first.length)))

/-- RELIGHT (R74, R78, R319): a raise by `banks`: chosen banks are withdrawn in the reverse of their order, then dark
banks are relit in ascending number. -/
def execRelight (core banks : Nat) (s : State) : Out :=
  let c := s.core core
  let kept := c.chosen.length - banks
  let lit := ((List.range 64).filter fun b => !c.bankLit b).take (banks - c.chosen.length)
  .next (if Config.cores ≤ core ∨ banks = 0 then s
    else (s.setCore core { c with
        chosen := c.chosen.take kept, lit := lit.foldl (fun (m : BitVec 64) b => m ||| (1#64 <<< b)) c.lit,
        floor := if lit.isEmpty then c.floor else 0 }).capacityEvent core)

/-! ### Caps and clocks (R6, R100, R181) -/

/-- A column's cap from the budget. -/
def State.setCap (s : State) (p : Nat × Nat) : State :=
  if p.1 < Config.cores ∧ p.2 ≤ 96 then s.setColumn p.1 { s.column p.1 with capb := p.2 } else s

/-- PARASOL_CAP_AND_CLOCK_TRADE (R6, R181): caps of columns and clocks of islands, as given. -/
def execParasolCapAndClockTrade (caps clocks : List (Nat × Nat)) (s : State) : Out :=
  .next (clocks.foldl State.setClock (caps.foldl State.setCap s))

end Sys2Proof.Machine
end

