-- ==== Sys2Proof/Machine/Preempt.lean ====
section
/-! DEFINITION. Pre-emption and resumption (R27, R83, R84, R97, R140, R170 to R173), the hang detector (R174), walks of
translation misses (R168), and the transfer of fault entries to the tenants' rings (R169, R322). -/

namespace Sys2Proof.Machine

/-! ### Pre-emption (R171) -/

/-- No issue of a group is under way. -/
def State.idle (s : State) (guid : Nat) : Bool :=
  (s.packets.all fun c => decide (c.guid ≠ guid)) &&
  (match s.cur with | some c => decide (c.guid ≠ guid) | none => true)

/-- Steps 2 and 3 of R171 are done for a group: accesses and messages are settled, and engine commands, takes and KV
commands have ended. -/
def State.quiet (s : State) (guid : Nat) : Bool :=
  (s.accesses.all fun a => decide (a.guid ≠ guid)) && (s.hmsgs.all fun m => decide (m.guid ≠ guid)) &&
  (s.engs.all fun e => decide (e.guid ≠ guid)) && (s.kvs.all fun q => decide (q.guid ≠ guid)) &&
  (s.takes.all fun t => decide (t.guid ≠ guid))

/-- Regions of a group that are carried, dropped, or held (R83, R140). -/
def State.carriedOf (s : State) (g : Group) : List Region := g.entriesOf.filter (s.carries g)

/-- Regions held on the home core. -/
def State.heldOf (s : State) (g : Group) : List Region := g.entriesOf.filter (s.holdsSpill g.core)

/-- Regions dropped: neither carried nor held, and not Lost already. -/
def State.droppedOf (s : State) (g : Group) : List Region :=
  g.entriesOf.filter fun r => !r.lost && !s.carries g r && !s.holdsSpill g.core r

/-- A copy reads from or writes to a region of a core. -/
def Copy.inRegion (c : Copy) (core : Nat) (r : Region) : Bool := c.uses (padKey core r.base) r.size

/-- Step 4 of R171: no copy into or out of a carried region still runs. -/
def State.copiesDone (s : State) (g : Group) : Bool :=
  s.copies.all fun c => c.paused.isSome || (s.carriedOf g).all fun r => !c.inRegion g.core r

/-- A group and the members of its gang may be saved now (R171). -/
def State.savable (s : State) (guid : Nat) : Bool :=
  (s.gangWith guid).all fun (k, g) => g.stopping && s.idle k && s.quiet k && s.copiesDone g

/-- Copies that touch a dropped region are cancelled (R171, R83). -/
def State.cancelCopies (s : State) (g : Group) : State :=
  (s.copies.filter fun c => (s.droppedOf g).any fun r => c.inRegion g.core r).foldl
    (fun (s : State) c => s.endCopy { c with outcome := max c.outcome outCancelled }) s

/-- A row slot as it returns (R97): Closed with REASON 3, whatever it was, its row address kept. -/
def RowSlot.away (r : RowSlot) : RowSlot := { r with state := .closed, reason := 3 }

/-- A region of a group that has left: held as it stands, carried, or a Lost entry. -/
def State.leaveRegion (s : State) (g : Group) (r : Region) : Region :=
  if s.holdsSpill g.core r then r else r.afterLeave g.rec_.pthr

/-- The context of a group in its save area: stall times are kept as elapsed time. -/
def State.savedGroup (s : State) (g : Group) : Group :=
  { g with
    threads := g.threads.map fun t => { t with lastIssue := if g.halted then t.lastIssue else s.stime - t.lastIssue },
    rows := g.rows.map RowSlot.away,
    staging := { g.staging with data := [], take := none, empty := true, bad := false },
    regions := g.regions.map (Option.map (s.leaveRegion g)), entries := [], bundles := [] }

/-- A copy that a fault has paused goes to the save area of its group (R171 step 4). -/
def Copy.saves (c : Copy) (guid : Nat) : Bool := decide (c.guid = guid) && c.paused.isSome

/-- One group is saved and leaves its core (R170, R171). -/
def State.saveGroup (s : State) (guid : Nat) : State :=
  match s.group guid with
  | none => s
  | some g0 =>
    let s1 := ((s.cancelCopies g0).closeRows g0.core 3 fun k _ _ => decide (k = guid)).acquire g0.core 2
    let g := (s1.group guid).getD g0
    let bytes := s1.saveSize g
    let held := s1.heldOf g
    let v : Saved :=
      { guid := guid, group := s1.savedGroup g,
        carried := (s1.carriedOf g).map fun r => (r.base, s1.bytes (padKey g.core r.base) r.size),
        bytes := bytes, home := if held.isEmpty then none else some g.core, held := held,
        copies := s1.copies.filter (·.saves guid) }
    State.onTenant { s1 with groups := mdel s1.groups guid, saved := s1.saved ++ [v],
                             copies := s1.copies.filter fun c => !c.saves guid,
                             walks := s1.walks.filter fun w => decide (w.guid ≠ guid) }
      g.rec_.tenant fun t => { t with saveUsed := t.saveUsed + bytes }

/-- The pre-emption of a group and its gang is not made after all (R170). -/
def State.callOff (s : State) (guid : Nat) : State :=
  (s.gangWith guid).foldl (fun (s : State) (k, _) =>
    s.onGroup k fun g => { g with stopping := false, moveTo := none }) s

/-- PREEMPTION (R171): a group told to stop, with its gang, is saved once steps 1 to 4 are done; without room in the
save pool it is not made. -/
def execPreemption (group : Nat) (s : State) : Out :=
  .next (match s.group group with
    | none => s
    | some g =>
      if !s.savable group then s
      else if !s.poolRoom g.rec_.tenant (s.gangSize group) then s.callOff group
      else (s.gangWith group).foldl (fun (s : State) (k, _) => s.saveGroup k) s)

/-! ### Resumption (R172) -/

/-- The saved group of a guid. -/
def State.savedOf (s : State) (guid : Nat) : Option Saved := s.saved.find? fun v => decide (v.guid = guid)

/-- A saved group and the saved members of its gang, in ascending %gid. -/
def State.savedGang (s : State) (guid : Nat) : List Saved :=
  match s.savedOf guid with
  | none => []
  | some w => sortBy (fun a b => decide (a.group.gid ≤ b.group.gid))
      (s.saved.filter fun v => decide (v.guid = guid) || sameGang v.group w.group)

/-- A core may take a saved group (R38 to R40, R83, R140, R172): its home where it has one, the core it migrates to, for a member of
a gang a core of its cluster, and for another group a core of its tenant, for class 0 the first core of its cluster with room. -/
def State.backOk (s : State) (v : Saved) (core : Nat) : Bool :=
  let roomy := fun (c : Nat) => (s.roomBack c v.group v.held).isSome
  decide (core < Config.cores) && roomy core &&
  (match v.home, v.group.moveTo with
    | some h, _ => decide (core = h)
    | none, some m => decide (core = m)
    | none, none =>
      (s.clustersOf v.group.rec_.tenant).contains (clusterOf core) &&
      (if v.group.gangOf.isSome then decide (clusterOf core = clusterOf v.group.core)
       else decide (v.group.rec_.cls ≠ 0) ||
        decide ((upFrom (clusterOf v.group.core * Config.coresPerCluster) Config.coresPerCluster).find? roomy = some core)))

/-- A scratchpad key moved with its group from one core to another. -/
def moveKey (src dst k : Nat) : Nat :=
  if Config.padBase ≤ k ∧ k < Config.hostBase then k + dst * Config.padBytes - src * Config.padBytes else k

/-- A wait moved with its group. -/
def Wait.moved (src dst : Nat) : Wait → Wait
  | .line k => .line (moveKey src dst k)
  | .counter k a t sc => .counter (moveKey src dst k) a t sc
  | w => w

/-- A thread as it resumes (R27, R172, R261): a Runnable one, and one whose access is made again, stand at their packet. -/
def Thread.back (t : Thread) (now src dst : Nat) (halted : Bool) : Thread :=
  let u := { t with capFlag := true, lastIssue := if halted then t.lastIssue else now - t.lastIssue,
                    later := t.later.map fun (w, i) => (w.moved src dst, i) }
  match t.run with
  | .parked (.walk _) p q => u.replayed p q
  | .parked (.fault _ _ _) p q => u.replayed p q
  | .parked w p q => { u with run := .parked (w.moved src dst) p q }
  | _ => u

/-- Bundles of one for the Runnable threads of a group that resumes (R27). -/
def bundlesOf (g : Group) : List Bundle :=
  (g.threads.filter Thread.runnable).map fun t => { slot := g.slotOf t.tid, tids := [t.tid], collective := false }

/-- The group as it stands on its new core (R27, R172). -/
def Saved.back (v : Saved) (now core : Nat) (blocks : List (Nat × Nat × Nat)) : Group :=
  let g : Group :=
    { v.group with core := core, blocks := blocks, passes := [0, 0, 0, 0], issues := [0, 0, 0, 0], since := now,
                   stopping := false, moveTo := none,
                   threads := v.group.threads.map fun t => t.back now v.group.core core v.group.halted }
  let arrive := fun (t : Thread) => if t.runnable then { t with arrival := now } else t
  Group.tidy { g with bundles := bundlesOf g, threads := g.threads.map arrive }

/-- A saved copy restarts on the group's new core (R172). -/
def Copy.moved (c : Copy) (v : Saved) (core : Nat) : Copy :=
  { c with core := core, paused := none, owed := c.owed.map fun ch =>
      { ch with addr := if c.dsp then moveKey v.group.core core ch.addr else ch.addr } }

/-- What a copy that ran on while its group was away writes is seen from the group's new core (R118). -/
def Copy.follows (c : Copy) (guid core : Nat) : Copy := if c.guid = guid then { c with core := core } else c

/-- One saved group is resident again: its carried regions have their contents back.  No copy of a line that the new core's cluster
holds is older than what the group has seen and stored (R107, R125, R137). -/
def State.restore (s : State) (v : Saved) (core : Nat) : State :=
  match s.roomBack core v.group v.held with
  | none => s
  | some blocks =>
    let s1 := (s.firstOnCore core v.group.launch).dropCluster (clusterOf core)
    let s2 := v.carried.foldl (fun (s : State) (a, bs) => s.write (padKey core a) bs) s1
    State.onTenant { s2 with groups := mset s2.groups v.guid (v.back s.stime core blocks),
                             saved := s2.saved.filter fun x => decide (x.guid ≠ v.guid),
                             copies := s2.copies.map (fun c => c.follows v.guid core) ++ v.copies.map fun c => c.moved v core }
      v.group.rec_.tenant fun t => { t with saveUsed := t.saveUsed - v.bytes }

/-- A waiter of a resumed group whose line went with a dropped region, or was lost while the group was away, traps 0x11 at
its packet; one whose line is freed traps 0x10 (R72, R83). -/
def State.recheckWaiter (s : State) (guid : Nat) (w : Nat × Nat × Nat × Point × Nat) : State :=
  let (k, tid, j, p, i) := w
  match s.group guid with
  | none => s
  | some g =>
    if k ≠ guid ∨ j < Config.padBase ∨ Config.hostBase ≤ j then s
    else match s.padCheck g (addrFrom g.core j) 1 with
      | .ok _ => s
      | .lost a h => s.wakeTrap guid tid p 0x11 (BitVec.ofNat 64 a) h (some i)
      | .bounds a => s.wakeTrap guid tid p 0x10 (BitVec.ofNat 64 a) 0 (some i)

/-- A damaged context (R170): an entry of KIND 7, and the threads end as under a fatal trap. -/
def State.damaged (s : State) (v : Saved) : State :=
  let s1 := s.addFault { FaultEntry.blank with
    kind := 7, tenant := v.group.rec_.tenant, core := v.group.core, gid := BitVec.ofNat 32 v.group.gid }
  let s2 := (v.group.threads.filter Thread.live).foldl (fun (s : State) t => s.sendGone v.guid t.tid t) s1
  let s3 := v.held.foldl (fun (s : State) r => s.freeRun ((v.home).getD v.group.core) r) s2
  let s4 := { s3 with saved := s3.saved.filter fun x => decide (x.guid ≠ v.guid) }
  (s4.onTenant v.group.rec_.tenant fun t => { t with saveUsed := t.saveUsed - v.bytes }).launchCheck v.group.launch

/-- Members of a saved gang with the cores they would take, from a core up. -/
def placesFrom (core : Nat) (vs : List Saved) : List (Saved × Nat) := (vs.zipIdx).map fun (v, m) => (v, core + m)

/-- The members may resume on a window of one cluster from a core up. -/
def State.windowBackOk (s : State) (core : Nat) (vs : List Saved) : Bool :=
  !vs.isEmpty && decide (clusterOf core = clusterOf (core + vs.length - 1)) &&
  (placesFrom core vs).all fun (v, c) => s.backOk v c

/-- They may, and for a gang of class 0 the window is the first of its cluster (R40). -/
def State.gangBackOk (s : State) (core : Nat) (vs : List Saved) : Bool :=
  s.windowBackOk core vs &&
  (vs.all fun v => v.group.gangOf.isNone || decide (v.group.rec_.cls ≠ 0) || v.home.isSome || v.group.moveTo.isSome ||
    decide ((windowsOf (clusterOf v.group.core) vs.length).find? (fun c => s.windowBackOk c vs) = some core))

/-- RESUMPTION (R172): a saved group, with its gang, resumes from core `core` up; `crcOk` says whether the CRC of the save
areas is as stored (R170). -/
def execResumption (saved core : Nat) (crcOk : Bool) (s : State) : Out :=
  let vs := s.savedGang saved
  .next (if !s.gangBackOk core vs then s
    else if crcOk then
      let s1 := (placesFrom core vs).foldl (fun (s : State) (v, c) => s.restore v c) s
      vs.foldl (fun (s : State) v => s.keyWaiters.foldl (fun s w => s.recheckWaiter v.guid w) s) s1
    else if vs.any fun v => !s.roomFor v.group.core then s
    else vs.foldl State.damaged s)

/-! ### The hang detector (R174) -/

/-- Two seconds in ck. -/
def hangTime : Nat := 4800000000

/-- A thread is Parked or Gathering. -/
def Thread.stalls (t : Thread) : Bool :=
  match t.run with
  | .parked _ _ _ => true
  | .gathering => true
  | _ => false

/-- The first thread of a group whose stall time has reached 2 s, where the group may be reported. -/
def State.hung (s : State) (g : Group) : Option Thread :=
  if g.halted || (g.hangReported && !(g.threads.all fun t => !t.live || t.issuedSince)) then none
  else g.threads.find? fun t => t.stalls && decide (t.lastIssue + hangTime ≤ s.stime)

/-- HANG_REPORT (R174); firmware holds the report until the die's queue has room (R322). -/
def execHangReport (group : Nat) (s : State) : Out :=
  .next (match s.group group with
    | none => s
    | some g => match s.hung g with
      | none => s
      | some t =>
        (s.postFault (dieOf g.core) { FaultEntry.blank with
          kind := 5, tenant := g.rec_.tenant, core := g.core, gid := BitVec.ofNat 32 g.gid,
          tid := BitVec.ofNat 32 t.tid, addr := t.point.pc * 12 % 2 ^ 57 }).onGroup group fun x =>
        { x with hangReported := true, threads := x.threads.map fun u => { u with issuedSince := false } })

/-! ### Walks (R168) -/

/-- Walks that the walker of a cluster runs at once. -/
def walkerLen : Nat := 64

/-- A walk is among those its cluster's walker runs. -/
def State.walking (s : State) (w : Walk) : Bool :=
  ((s.walks.filter fun x => decide (clusterOf x.core = clusterOf w.core)).take walkerLen).contains w

/-- The thread of a walk waits on it for the vector table. -/
def Walk.parks (w : Walk) (t : Thread) : Bool :=
  match t.run with
  | .parked (.walk i) _ _ => decide (i = w.id)
  | _ => false

/-- The state without a walk. -/
def State.dropWalk (s : State) (w : Walk) : State := { s with walks := s.walks.filter fun x => decide (x.id ≠ w.id) }

/-- The threads of a walk leave the packet that waits for it. -/
def State.leavePacket (s : State) (w : Walk) : State :=
  let off := fun (c : Ctx) => if c.guid = w.guid then { c with active := c.active.filter fun t => !w.sharers.contains t } else c
  { s with packets := s.packets.map off }

/-- A walk meets a replayable fault (R167): an entry of KIND 1, and its threads leave their bundle and wait for the driver's
answer. -/
def State.walkFault (s : State) (w : Walk) : State :=
  let gid := ((s.group w.guid).map (·.gid)).getD 0
  let s1 := s.addFault { FaultEntry.blank with
    kind := 1, tenant := w.tenant, core := w.core, access := w.access, gid := BitVec.ofNat 32 gid,
    tid := BitVec.ofNat 32 w.tid, addr := w.va }
  ((s1.dropWalk w).leavePacket w).onGroup w.guid fun g =>
    (w.sharers.foldl (fun (g : Group) tid => g.park tid (.fault s.nextToken w.va w.access) w.at_ w.at_) g).tidy

/-- A thread of a walk that meets a fatal fault (R167) traps 0x20 at the access's issue, or 0x21 where a table entry cannot be
corrected (R103), during a pre-emption when its group is back (R173). -/
def State.walkTrap (s : State) (w : Walk) (code : Byte) (tid : Nat) : State :=
  if ((s.group w.guid).map (·.stopping)).getD false then
    (s.wake w.guid tid w.at_).dueNow w.guid tid code (BitVec.ofNat 64 w.va) w.access
  else s.takeTrap w.guid tid w.at_ w.at_.word code (BitVec.ofNat 64 w.va) 0 w.access

/-- A walk meets a fatal fault or an error: each of its threads traps; one whose own trap waits for the vector table takes that trap
again. -/
def State.walkFatal (s : State) (w : Walk) (t : Thread) (code : Byte := 0x20) : State :=
  if w.parks t then (s.dropWalk w).wake w.guid w.tid w.at_
  else w.sharers.foldl (fun (s : State) tid => s.walkTrap w code tid) ((s.dropWalk w).leavePacket w)

/-- A walk gives its page, which fills the core's cache. -/
def State.walkPage (s : State) (w : Walk) (t : Thread) (e : TlbEntry) : State :=
  let s1 := (s.dropWalk w).setCore w.core ((s.core w.core).addTlb e)
  if w.parks t then s1.wake w.guid w.tid w.at_ else s1

/-- TRANSLATION_WALK (R168): the walk `id` ends: its page fills the core's cache and the access goes on, or its fault or error is
the access's (R103, R185).  A walk does not end while a column it may read is in a remapping step (R88, log 89) or a bank of one of
its entries serves no access (R90); its reads at a peer are requests to it (R182). -/
def execTranslationWalk (id : Nat) (s : State) : Out :=
  .next (match s.walks.find? fun w => decide (w.id = id) with
    | none => s
    | some w =>
      if !s.walking w || !s.noRemap || !s.servedAll (s.walkPlaces w.tenant w.va) then s
      else match s.thread w.guid w.tid with
        | none => s.dropWalk w
        | some t =>
          if !t.live then s.dropWalk w
          else if s.marked (.item id) then (s.uncounted (s.walkFatal w t 0x21)).unmark (.item id)
          else
            let sent := s.askRun w.tenant (s.walkPlaces w.tenant w.va)
            match s.walkNow w.tenant w.va with
            | .page e => sent.walkPage w t e
            | .no .fatal => sent.walkFatal w t
            | .no (.error _) => sent.walkFatal w t 0x21
            | .no .replayable => if s.roomFor w.core then sent.walkFault w else s)

/-! ### Fault entries to the tenants (R169, R322) -/

/-- The 256 bits of an entry (R169). -/
def FaultEntry.num (e : FaultEntry) : Nat :=
  e.kind % 2 ^ 8 + e.cause % 2 ^ 8 * 2 ^ 8 + e.tenant % 16 * 2 ^ 16 + e.core % 2 ^ 10 * 2 ^ 20 + e.access % 4 * 2 ^ 30 +
  e.gid.toNat * 2 ^ 32 + e.tid.toNat * 2 ^ 64 + e.addr % 2 ^ 57 * 2 ^ 96 + e.pcause % 2 ^ 7 * 2 ^ 153 +
  e.token.toNat * 2 ^ 160 + e.clock.toNat * 2 ^ 192

/-- HEAD of a tenant's fault queue, as the host wrote it. -/
def State.fqHead (s : State) (t : Tenant) : Nat := s.num (Config.hostBase + t.cfg.fqCtl + 8) 4

/-- The ring of a tenant's fault queue has room; a tenant whose queue has not been set has none (log 23). -/
def State.ringRoom (s : State) (tenant : Nat) : Bool :=
  match s.tenant tenant with
  | none => false
  | some t => decide (t.cfg.fqCtl ≠ 0) &&
      decide ((t.fqTail + 2 ^ 32 - s.fqHead t) % 2 ^ 32 < 2 ^ t.cfg.fqLog)

/-- An entry written to its tenant's ring, then TAIL. -/
def State.toRing (s : State) (e : FaultEntry) : State :=
  match s.tenant e.tenant with
  | none => s
  | some t =>
    let at_ := Config.hostBase + t.cfg.fqBase + 32 * (t.fqTail % 2 ^ t.cfg.fqLog)
    let tail := (t.fqTail + 1) % 2 ^ 32
    ((s.write at_ (leBytes 32 e.num)).write (Config.hostBase + t.cfg.fqCtl) (leBytes 4 tail)).setTenant e.tenant
      { t with fqTail := tail }

/-- FAULT_ENTRY_TRANSFER (R322): the oldest entry of a die whose tenant's ring has room. -/
def execFaultEntryTransfer (die : Nat) (s : State) : Out :=
  .next (match s.dieQ.find? fun (d, e) => decide (d = die) && s.ringRoom e.tenant with
    | none => s
    | some x => State.toRing { s with dieQ := s.dieQ.erase x } x.2)

end Sys2Proof.Machine
end

