-- ==== Sys2Proof/Machine/Pipes.lean ====
section
/-! DEFINITION. The pipe of each instruction and the state it names (R189, R191, R193 to R195, R202, R207): what an
issue must check and wait for. -/

namespace Sys2Proof

open Machine

/-- The pipes (R189). -/
inductive Pipe
  | alu | xf | mem | ctl | eng | none
  deriving DecidableEq, Repr

/-- The pipe of an instruction (R207); NOP uses none, and a step of another agent is no instruction word. -/
def Instr.pipe : Instr → Pipe
  | .iadd _ | .isub _ | .imul _ | .imulhS32 _ | .imulhN32 _ | .imad _ | .iminS32 _ | .iminN32 _
  | .imaxS32 _ | .imaxN32 _ | .iabs _ | .icmp _ | .lea _ | .sel _ | .mov _ | .and _ | .or _ | .xor _
  | .shl _ | .shr _ | .sar _ | .bfx _ | .bfi _ | .popc _ | .clz _ | .brev _ | .plop _ | .movi _ | .movl _
  | .fadd _ | .fmul _ | .ffma _ | .fmin _ | .fmax _ | .fcmp _ | .paddBf16 _ | .paddF16 _ | .pmulBf16 _
  | .pmulF16 _ | .pfmaBf16 _ | .pfmaF16 _ | .dp4 _ | .dp8 _ => .alu
  | .frnd _ | .fexp2 _ | .flog2 _ | .frcp _ | .frsq _ | .fsqrt _ | .cvt _ | .cvtp _ | .qxch _ | .xlane _
  | .wvote _ | .mmfBf16 _ | .mmfF16 _ | .mmfE4m3 _ | .mmfE5m2 _ | .mmfE2m1 _ | .mmfS8 _ => .xf
  | .ld _ | .st _ | .lds _ | .sts _ | .atom _ | .acas _ | .red _ | .fence _ | .promote _ | .ctadd _
  | .ctwait _ | .ctread _ | .cseal _ | .cwait _ | .cstat _ | .ralloc _ | .rfree _ | .rrank _ | .rstat _
  | .rstatClaim _ => .mem
  | .exit | .yield | .trap _ | .bkpt _ | .xret | .evwait _ | .sysr _ | .sysw _ | .bra _ | .bru _ | .call _
  | .brx _ | .ret | .sadd _ | .ssub _ | .smul _ | .sand _ | .sor _ | .sxor _ | .sshl _ | .sshr _ | .scmp _
  | .smov _ | .smovl _ | .sld _ | .sfirst _ | .hcreate _ | .hjoin _ | .hleave _ | .hbar _ | .harr _
  | .hwait _ | .hvote _ | .hred _ | .hquery _ | .hqueryHdl _ | .hdiss _ | .grangeRead _ | .grangeTake _ => .ctl
  | .cpy _ | .mx _ | .mxdrain _ | .attn _ | .attnMerge _ | .cbload _ | .enq _ | .ropen _ | .rtake _
  | .rclose _ | .rpoll _ | .kvfind _ | .kvins _ | .kvinsSeal _ | .kvdel _ | .kvpfx _ | .kvpfxIns _
  | .kvpfxDel _ => .eng
  | .nop => .none
  | .kvTableAction _ | .doorbellWrite _ _ | .launchCommand _ _ | .budgetCommand _ _
  | .budgetCommandComplete _ | .tenantCreate _ _ _ | .tenantChange _ _ _ | .tenantDisable _ _
  | .mapCommand _ _ _ _ | .translationDrainComplete _ | .zeroCommand _ _ _ _ | .zeroFillComplete _
  | .keyCommand _ _ _ _ _ | .queryBudget _ | .queryCapacity _ | .queryTemperatures _ | .queryBankMaps _
  | .queryCounters _ | .debugHalt _ _ | .debugSingleStep _ _ | .debugThreadStep _ _ _ | .debugResume _ _
  | .debugReadContext _ _ _ _ | .debugWriteContext _ _ _ _ _ | .remapCompleteRetirement _ _ _
  | .remapReadmit _ _ _ | .remappingStepComplete _ | .invalidateRange _ _ _ | .invalidateAll _
  | .faultReplay _ _ | .faultAbort _ _ | .preemptCommand _ _ | .powerOnReset _ _ | .hostAccess _ _ _ _
  | .fabricLaunchPacket _ _ | .fabricPeerAccess _ _ _ _ | .flitReceive _ _ _ _ | .rdmaWrite _ _ _
  | .rdmaRead _ _ _ | .rdmaSend _ _ | .launchQueueAccept _ | .taskRecordPlacement _ _ | .groupStart _
  | .coreRequest _ | .gangStart _ | .gangMigration _ | .classPreemption _ | .issueSlotSelect _ _
  | .mergeTick _ | .thermalSample _ | .repairRetirementPending _ _ | .plannedReduction _ _ _ | .lossPoint _
  | .thermalEmergency _ _ | .relight _ _ | .preemption _ | .resumption _ _ _ | .hangReport _
  | .translationWalk _ | .faultEntryTransfer _ | .hMessageApply _ | .promoteArrival _
  | .memoryAccessComplete _ _ | .copyChunkLanding _ _ | .mxComplete _ | .attnStepComplete _
  | .attnMergeComplete _ | .mxdrainChunkLanding _ _ | .mxdrainComplete _ | .cbloadInstall _
  | .rowActivation _ | .rowReady _ _ | .rtakeBeat _ | .refreshDue _ _ | .refreshGraceEnd _ _
  | .refreshEnd _ _ | .openLimitReached _ _ | .ramblerCheck _ | .parasolCapAndClockTrade _ _ => .none

/-- What an instruction names: sources and destinations as a code with a count of registers, the link pair, predicates,
uniform registers and handle registers. -/
structure Uses where
  src : List (Code × Nat)
  dst : List (Code × Nat)
  linkRead : Bool
  linkWrite : Bool
  predRead : List Pred
  predWrite : List Pred
  uniRead : List Nat
  uniWrite : List Nat
  handleWrite : List Nat
  deriving DecidableEq, Repr

/-- Nothing. -/
def Uses.empty : Uses :=
  { src := [], dst := [], linkRead := false, linkWrite := false, predRead := [], predWrite := [], uniRead := [],
    uniWrite := [], handleWrite := [] }

/-- opB as a source: a register, or under BS a uniform register (R20, R193). -/
def Uses.withB (u : Uses) (bs : Bool) (b : Code) (n : Nat) : Uses :=
  if bs then (if b.toNat < 64 then { u with uniRead := b.toNat :: u.uniRead } else u)
  else { u with src := u.src ++ [(b, n)] }

/-- Sources and destinations of one register each. -/
def Uses.regs (src dst : List Code) : Uses := { Uses.empty with src := src.map (·, 1), dst := dst.map (·, 1) }

/-- Sources and destinations with their counts. -/
def Uses.wide (src dst : List (Code × Nat)) : Uses := { Uses.empty with src := src, dst := dst }

/-- Layout A; `three` where D is a source, which under K reads as zero (R204). -/
def LA.uses (f : LA) (three : Bool) : Uses :=
  (Uses.regs (if three && !f.k then [f.a, f.d] else [f.a]) (if f.k then [] else [f.d])).withB f.bs f.b 1

/-- Layout A.c. -/
def LAc.uses (f : LAc) : Uses := { (Uses.regs [f.a] []).withB f.bs f.b 1 with predWrite := [f.pd] }

/-- Layout A.u. -/
def LAu.uses (f : LAu) : Uses :=
  { Uses.empty with uniRead := f.a.toNat :: (if f.b.toNat < 64 then [f.b.toNat] else []), uniWrite := [f.d.toNat] }

/-- Registers that TY takes (R197). -/
def tyRegs (ty : Nat) : Nat := if ty = 5 then 2 else if ty = 6 then 4 else 1

/-- The base register of a DRAM address (R197). -/
def Uses.base (u : Uses) (dram : Bool) (base : BitVec 2) : Uses :=
  if dram then { u with uniRead := (48 + base.toNat) :: u.uniRead } else u

/-- ATOM, ACAS and RED: `w` registers of D, `k` of B. -/
def LX.uses (f : LX) (w k : Nat) : Uses := (Uses.wide [(f.a, 1), (f.b, k)] [(f.d, w)]).base (!f.space) f.base

/-- Registers of an eight-byte operation. -/
def optRegs (opt : Nat) : Nat := if opt = 1 ∨ opt = 10 then 2 else 1

/-- MMF with `n` registers of each operand. -/
def LG.uses (f : LG) (n : Nat) (scaled : Bool) : Uses :=
  Uses.wide ([(f.a, n), (f.b, n), (f.d, 2)] ++ (if scaled then [(f.sca, 1), (f.scb, 1)] else [])) [(f.d, 2)]

/-- A contribution: a predicate or a register (R200). -/
def Uses.contribution (u : Uses) (kind : Nat) (b : Code) : Uses :=
  if kind = 0 then u
  else if kind ≤ 3 then { u with predRead := [BitVec.ofNat 3 b.toNat] } else { u with src := [(b, 1)] }

/-- A descriptor's uniform register, and what else an ENG instruction reads and writes. -/
def Uses.desc (u : Uses) (d : BitVec 6) : Uses := { u with uniRead := d.toNat :: u.uniRead }

/-- A KV form that reads `n` registers from X up and writes two. -/
def LEk.uses (f : LEk) (n : Nat) : Uses := (Uses.wide [(f.x, n)] [(f.x, 2)]).desc f.u

/-- Registers of a system register. -/
def sregRegs (r : Nat) : Nat := match sregInfo r with | some (w, _) => if w = 64 then 2 else 1 | none => 1

/-- What an instruction names. -/
def Instr.uses : Instr → Uses
  | .nop | .exit | .yield | .trap _ | .bkpt _ | .xret | .evwait _ => Uses.empty
  | .sysr f => Uses.wide [] [(f.v, sregRegs f.sreg.toNat)]
  | .sysw f => Uses.wide [(f.v, sregRegs f.sreg.toNat)] []
  | .bra f => { Uses.empty with predRead := [f.p] }
  | .bru _ => Uses.empty
  | .call f => { Uses.empty with predRead := [f.p], linkWrite := true }
  | .brx f => Uses.wide [(f.a, 2)] []
  | .ret => { Uses.empty with linkRead := true }
  | .iadd f | .isub f | .imul f | .imulhS32 f | .imulhN32 f | .iminS32 f | .iminN32 f | .imaxS32 f | .imaxN32 f
  | .and f | .or f | .xor f | .shl f | .shr f | .sar f | .bfx f | .fadd f | .fmul f | .fmin f | .fmax f
  | .paddBf16 f | .paddF16 f | .pmulBf16 f | .pmulF16 f => f.uses false
  | .imad f | .bfi f | .ffma f | .pfmaBf16 f | .pfmaF16 f | .dp8 f => f.uses true
  | .iabs f | .popc f | .clz f | .brev f => Uses.regs [f.a] (if f.k then [] else [f.d])
  | .icmp f | .fcmp f => f.uses
  | .lea f => (Uses.wide [(f.a, 1)] [(f.d, 2)]).withB f.bs f.b 2
  | .sel f => { (Uses.regs [f.d] [f.d]).withB f.bs f.b 1 with predRead := [f.p] }
  | .mov f => (Uses.regs [] (if f.k then [] else [f.d])).withB f.bs f.b 1
  | .plop f => { Uses.empty with predRead := [f.pa, f.pb, f.pc], predWrite := [f.pd] }
  | .movi f => Uses.regs [] (if f.k then [] else [f.d])
  | .movl f => Uses.regs [] [f.d]
  | .frnd f => Uses.regs [f.a] [f.d]
  | .fexp2 f | .flog2 f | .frcp f | .frsq f | .fsqrt f => Uses.regs [f.a] [f.d]
  | .cvt f => Uses.regs [f.a] [f.d]
  | .cvtp f => Uses.regs [f.a, f.b, f.d] [f.d]
  | .dp4 f => (Uses.regs (if f.k then [f.a] else [f.a, f.d]) (if f.k then [] else [f.d])).withB f.bs f.b 1
  | .qxch f => Uses.regs [f.a] [f.d]
  | .xlane f => (Uses.regs [f.a] [f.d]).withB f.bs f.b 1
  | .wvote f => { Uses.regs [] [f.d] with predRead := [f.pa], predWrite := [f.pd] }
  | .mmfBf16 f | .mmfF16 f => f.uses 4 false
  | .mmfE4m3 f | .mmfE5m2 f => f.uses 2 true
  | .mmfE2m1 f => f.uses 1 true
  | .mmfS8 f => f.uses 2 false
  | .sadd f | .ssub f | .smul f | .sand f | .sor f | .sxor f | .sshl f | .sshr f | .sld f => f.uses
  | .scmp f =>
    { Uses.empty with uniRead := f.a.toNat :: (if f.b.toNat < 64 then [f.b.toNat] else []), predWrite := [f.pd] }
  | .smov f => { Uses.empty with uniRead := if f.b.toNat < 64 then [f.b.toNat] else [], uniWrite := [f.d.toNat] }
  | .smovl f => { Uses.empty with uniRead := if f.half.toNat = 2 then [f.d.toNat] else [], uniWrite := [f.d.toNat] }
  | .sfirst f => { Uses.regs [f.a] [] with uniWrite := [f.d.toNat] }
  | .ld f => (Uses.wide [(f.a, 1)] [(f.v, tyRegs f.ty.toNat)]).base true f.base
  | .st f => (Uses.wide [(f.a, 1), (f.v, tyRegs f.ty.toNat)] []).base true f.base
  | .lds f => Uses.wide [(f.a, 1)] [(f.v, tyRegs f.ty.toNat)]
  | .sts f => Uses.wide [(f.a, 1), (f.v, tyRegs f.ty.toNat)] []
  | .atom f => f.uses (optRegs f.opt.toNat) (optRegs f.opt.toNat)
  | .acas f => f.uses (if f.opt.toNat = 1 then 2 else 1) (if f.opt.toNat = 1 then 4 else 2)
  | .red f => f.uses 1 (optRegs f.opt.toNat)
  | .fence _ => Uses.empty
  | .promote f => (Uses.regs [f.a, f.b] [f.d]).base true 0
  | .ctadd f => (Uses.regs [f.a, f.v] []).base (!f.space) f.base
  | .ctwait f => (Uses.wide [(f.a, 1), (f.v, 2)] []).base (!f.space) f.base
  | .ctread f => (Uses.wide [(f.a, 1)] [(f.v, 2)]).base (!f.space) f.base
  | .cseal d => Uses.regs [] [d]
  | .cwait a => Uses.regs [a] []
  | .cstat f | .rstat f | .rstatClaim f => Uses.regs [f.a] [f.d]
  | .ralloc f => { Uses.wide [(f.a, 4)] [(f.d, 1)] with predWrite := [f.p] }
  | .rfree f => { Uses.regs [f.a] [] with predWrite := [f.p] }
  | .rrank f => { Uses.regs [f.a] [f.d] with predWrite := [f.p] }
  | .hcreate f => { Uses.wide [(f.b, 2)] [(f.d, 1)] with predWrite := [f.pd], handleWrite := [f.h.toNat] }
  | .hjoin f => { Uses.regs [f.b] [] with handleWrite := [f.h.toNat] }
  | .hleave h | .hdiss h => { Uses.empty with handleWrite := [h.toNat] }
  | .hbar f => Uses.regs [] [f.d]
  | .harr f => Uses.empty.contribution f.kind.toNat f.b
  | .hwait f | .hquery f => Uses.wide [] [(f.d, 2)]
  | .hvote f | .hred f => (Uses.wide [] [(f.d, 2)]).contribution f.kind.toNat f.b
  | .hqueryHdl f => Uses.regs [] [f.d]
  | .grangeRead f | .grangeTake f => { Uses.wide [] [(f.d, 2)] with predWrite := [f.p] }
  | .cpy f | .mx f | .mxdrain f | .attn f | .attnMerge f => Uses.empty.desc f.u
  | .cbload f => Uses.empty.desc f.u
  | .enq f =>
    { Uses.regs (if f.lq then [] else [f.a]) [] with
      predWrite := [f.pd], uniRead := f.u.toNat :: (if f.ack then [f.u.toNat + 1] else []) }
  | .ropen f => (Uses.regs [f.a] []).desc f.u
  | .rtake f => { Uses.regs (if f.dest then [f.a] else []) [] with predWrite := [f.pd] }
  | .rclose _ => Uses.empty
  | .rpoll f => Uses.regs [] [f.a]
  | .kvfind f | .kvins f | .kvdel f => f.uses 3
  | .kvinsSeal f => f.uses 1
  | .kvpfx f | .kvpfxDel f => f.uses 4
  | .kvpfxIns f => f.uses 5
  | .kvTableAction _ | .doorbellWrite _ _ | .launchCommand _ _ | .budgetCommand _ _
  | .budgetCommandComplete _ | .tenantCreate _ _ _ | .tenantChange _ _ _ | .tenantDisable _ _
  | .mapCommand _ _ _ _ | .translationDrainComplete _ | .zeroCommand _ _ _ _ | .zeroFillComplete _
  | .keyCommand _ _ _ _ _ | .queryBudget _ | .queryCapacity _ | .queryTemperatures _ | .queryBankMaps _
  | .queryCounters _ | .debugHalt _ _ | .debugSingleStep _ _ | .debugThreadStep _ _ _ | .debugResume _ _
  | .debugReadContext _ _ _ _ | .debugWriteContext _ _ _ _ _ | .remapCompleteRetirement _ _ _
  | .remapReadmit _ _ _ | .remappingStepComplete _ | .invalidateRange _ _ _ | .invalidateAll _
  | .faultReplay _ _ | .faultAbort _ _ | .preemptCommand _ _ | .powerOnReset _ _ | .hostAccess _ _ _ _
  | .fabricLaunchPacket _ _ | .fabricPeerAccess _ _ _ _ | .flitReceive _ _ _ _ | .rdmaWrite _ _ _
  | .rdmaRead _ _ _ | .rdmaSend _ _ | .launchQueueAccept _ | .taskRecordPlacement _ _ | .groupStart _
  | .coreRequest _ | .gangStart _ | .gangMigration _ | .classPreemption _ | .issueSlotSelect _ _
  | .mergeTick _ | .thermalSample _ | .repairRetirementPending _ _ | .plannedReduction _ _ _ | .lossPoint _
  | .thermalEmergency _ _ | .relight _ _ | .preemption _ | .resumption _ _ _ | .hangReport _
  | .translationWalk _ | .faultEntryTransfer _ | .hMessageApply _ | .promoteArrival _
  | .memoryAccessComplete _ _ | .copyChunkLanding _ _ | .mxComplete _ | .attnStepComplete _
  | .attnMergeComplete _ | .mxdrainChunkLanding _ _ | .mxdrainComplete _ | .cbloadInstall _
  | .rowActivation _ | .rowReady _ _ | .rtakeBeat _ | .refreshDue _ _ | .refreshGraceEnd _ _
  | .refreshEnd _ _ | .openLimitReached _ _ | .ramblerCheck _ | .parasolCapAndClockTrade _ _ => Uses.empty

/-- Lane registers that a code with a count names (R193). -/
def codeRegs (p : Code × Nat) : List Nat := if p.1.toNat < 120 then upFrom p.1.toNat p.2 else []

/-- Lane registers read, for a thread of `n`. -/
def Uses.regsRead (u : Uses) (n : Nat) : List Nat := u.src.flatMap codeRegs ++ (if u.linkRead then [n - 2, n - 1] else [])

/-- Lane registers written, for a thread of `n`. -/
def Uses.regsWritten (u : Uses) (n : Nat) : List Nat :=
  u.dst.flatMap codeRegs ++ (if u.linkWrite then [n - 2, n - 1] else [])

/-- Latches read (R193). -/
def Uses.latches (u : Uses) : List Nat :=
  u.src.filterMap fun p => if 120 ≤ p.1.toNat ∧ p.1.toNat ≤ 122 then some (p.1.toNat - 120) else none

/-- Predicates written; a write to p7 is discarded (R195). -/
def Uses.predsWritten (u : Uses) : List Nat := (u.predWrite.map BitVec.toNat).filter fun p => decide (p ≠ 7)

/-- Two lists share an element. -/
def meets (a b : List Nat) : Bool := a.any b.contains

/-- Two instructions of one issue write the same lane, predicate, uniform or handle register (R208). -/
def Uses.clash (u v : Uses) (n : Nat) : Bool :=
  meets (u.regsWritten n) (v.regsWritten n) || meets u.predsWritten v.predsWritten || meets u.uniWrite v.uniWrite ||
  meets u.handleWrite v.handleWrite

/-- An ALU instruction with a lane result, whose latch is defined (R204): not a compare or a predicate operation, and
not LEA, whose result is a pair (log 24). -/
def Instr.latches : Instr → Bool
  | .icmp _ => false
  | .fcmp _ => false
  | .plop _ => false
  | .lea _ => false
  | i => decide (i.pipe = .alu)

/-- The kinds of collective instructions: gathering in the home warp or in the quad (R22, R23). -/
def Instr.gathers : Instr → Option Bool
  | .mmfBf16 _ | .mmfF16 _ | .mmfE4m3 _ | .mmfE5m2 _ | .mmfE2m1 _ | .mmfS8 _ | .xlane _ | .wvote _ => some false
  | .qxch _ => some true
  | _ => none

end Sys2Proof
end

