-- ==== Sys2Proof/Machine/Issue.lean ====
section
/-! DEFINITION. The issue slots: fetching and checking a packet's issue (R187 to R192, R208), latch pairs (R160, R204,
R205), gathering (R12, R22, R23), merge ticks (R15), the choice of group, entry and bundle (R11, R17, R41, R315), and
the end of an issue (R12, R124, R159 to R161). -/

namespace Sys2Proof.Machine

/-! ### Fetching a packet (R192) -/

/-- What a fetch gives. -/
inductive Fetch
  | ok (bytes : List Byte)
  | miss (va : Nat)
  | trap (code : Byte) (va : Nat)
  deriving DecidableEq, Repr

/-- The byte at a place as a launch's fetch sees it: as it stood before the launch's own stores (R192); a peer's is a free value. -/
def State.fetchByte (s : State) (hidden : SMap Byte) (k : Nat) : Byte :=
  if Config.peerBase ≤ k then Config.peerByte s.nextId k else (mget hidden k).getD (s.byte k)

/-- The twelve bytes of a packet whose first and last byte lie at two places. -/
def State.packetBytes (s : State) (hidden : SMap Byte) (va p0 p1 : Nat) : List Byte :=
  (List.range 12).map fun i => s.fetchByte hidden (if va / 4096 = (va + i) / 4096 then p0 + i else p1 + i - 11)

/-- A packet in a core's instruction cache. -/
def State.cached (s : State) (core launch pc : Nat) : Option (List Byte) :=
  ((s.core core).icache.find? fun (l, p, _) => decide (l = launch) && decide (p = pc)).map fun (_, _, bs) => bs

/-- A packet fetched by a group with a translation of addresses: the translation is asked whether or not the core's cache
holds the packet (R187, R192). -/
def State.fetchBy (s : State) (g : Group) (pc : Nat) (x : Nat → Xl) : Fetch :=
  let va := pc * 12
  let last := if va / 4096 = (va + 11) / 4096 then va else (va + 11) / 4096 * 4096
  match x va, x (va + 11) with
  | .miss, _ => .miss va
  | .no _, _ => .trap 0x20 va
  | .ok _, .miss => .miss last
  | .ok _, .no _ => .trap 0x20 last
  | .ok p0, .ok p1 => match s.cached g.core g.launch pc with
    | some bs => .ok bs
    | none =>
      if s.peerFault p0 || s.peerFault p1 then .trap 0x20 va
      else if s.readBad g.core p0 1 || s.badAt p1 1 then .trap 0x21 va
      else .ok (s.packetBytes (((mget s.launches g.launch).map (·.hidden)).getD []) va p0 p1)

/-- The fetch of a packet by a group's core (R192). -/
def State.fetch (s : State) (g : Group) (pc : Nat) : Fetch := s.fetchBy g pc fun va => s.xlate g.core g.rec_.tenant va 2

/-- The state with a packet in the instruction cache. -/
def State.cache (s : State) (g : Group) (pc : Nat) (bs : List Byte) : State :=
  if (s.cached g.core g.launch pc).isSome then s
  else s.setCore g.core { s.core g.core with icache := (s.core g.core).icache ++ [(g.launch, pc, bs)] }

/-- The places that a packet's fetch reads, none where the core's cache holds it. -/
def State.fetchPlaces (s : State) (g : Group) (pc : Nat) : List Nat :=
  if (s.cached g.core g.launch pc).isSome then []
  else (upFrom (pc * 12) 12).filterMap fun va => match s.xlate g.core g.rec_.tenant va 2 with
    | .ok pa => some pa
    | _ => none

/-- A packet is fetched: of a peer by a request to it (R182). -/
def State.fetched (s : State) (g : Group) (pc : Nat) (bs : List Byte) : State :=
  (s.askRun g.rec_.tenant (s.fetchPlaces g pc)).cache g pc bs

/-- The packet at a place as the slot looks ahead at it (R205). -/
def State.peek (s : State) (g : Group) (pc : Nat) : Option (List Byte) :=
  match s.fetchBy g pc fun va => s.xlateEng g.core g.rec_.tenant va 2 with
  | .ok bs => some bs
  | _ => none

/-! ### The instructions of a packet -/

/-- Words of an instruction. -/
def instrWords (i : Instr) : Nat := if i.twoWords then 2 else 1

/-- The instructions of a packet from a word up, each with its first word; a word that is no instruction counts as one
word. -/
def packetFrom (n : Nat) (bytes : List Byte) : Nat → Nat → List (Nat × Option Instr)
  | 0, _ => []
  | fuel + 1, k =>
    if 3 ≤ k then []
    else match decodeAt n bytes k with
      | .ok i => (k, some i) :: packetFrom n bytes fuel (k + instrWords i)
      | .error _ => (k, none) :: packetFrom n bytes fuel (k + 1)

/-- The instructions of a whole packet. -/
def packetInstrs (n : Nat) (bytes : List Byte) : List (Nat × Option Instr) := packetFrom n bytes 3 0

/-- The instructions that decode. -/
def decoded (l : List (Nat × Option Instr)) : List (Nat × Instr) := l.filterMap fun (k, i) => i.map (k, ·)

/-- An issue as it is read: its instructions with their first words, the word after it, and the breaches met while
reading it (word and cause). -/
structure ReadIssue where
  is : List (Nat × Instr)
  after : Nat
  bad : List (Nat × Byte)
  deriving DecidableEq, Repr

/-- The issue that starts at a word (R189, R190, R208). -/
def readIssue (n : Nat) (bytes : List Byte) : Nat → Nat → ReadIssue
  | 0, k => { is := [], after := k, bad := [] }
  | fuel + 1, k =>
    match decodeAt n bytes k with
    | .error _ => { is := [], after := k + 1, bad := [(k, 0x01)] }
    | .ok i =>
      let next := k + instrWords i
      let chained := chainBit (wordOfBytes bytes k)
      let bad : List (Nat × Byte) :=
        if (i.isTransfer && decide (next ≠ 3)) || (chained && decide (next = 3)) then [(k, 0x01)] else []
      if chained && decide (next < 3) then
        let r := readIssue n bytes fuel next
        { r with is := (k, i) :: r.is, bad := bad ++ r.bad }
      else { is := [(k, i)], after := next, bad := bad }

/-- Breaches of a pair of instructions of one issue, charged to the later one (R208). -/
def pairBreach (n : Nat) (a b : Nat × Instr) : List (Nat × Byte) :=
  if (decide (a.2.pipe ≠ .none) && decide (a.2.pipe = b.2.pipe)) || a.2.uses.clash b.2.uses n then [(b.1, 0x02)] else []

/-- Breaches between the instructions of an issue. -/
def chainBreaches (n : Nat) : List (Nat × Instr) → List (Nat × Byte)
  | [] => []
  | a :: rest => rest.flatMap (pairBreach n a) ++ chainBreaches n rest

/-- A latch is defined for every thread that reads it (R205). -/
def Ctx.latchOk (c : Ctx) (k : Nat) : Bool :=
  c.paired && c.active.all fun tid => c.prev.any fun (j, u, _) => decide (j = k) && decide (u = tid)

/-- Latch reads that break R205. -/
def Ctx.latchBreaches (c : Ctx) (is : List (Nat × Instr)) : List (Nat × Byte) :=
  is.filterMap fun (k, i) => if i.uses.latches.all c.latchOk then none else some (k, 0x03)

/-- The lowest breach: lowest word, then lowest cause (R161). -/
def lowestBreach (l : List (Nat × Byte)) : Option (Nat × Byte) :=
  firstBy (fun a b => decide (a.1 < b.1) || (decide (a.1 = b.1) && decide (a.2.toNat < b.2.toNat))) l

/-! ### Latch pairs (R160, R204, R205) -/

/-- A packet reads a latch. -/
def readsLatch (n : Nat) (bytes : List Byte) : Bool :=
  (decoded (packetInstrs n bytes)).any fun (_, i) => !i.uses.latches.isEmpty

/-- A packet ends in a transfer. -/
def endsInTransfer (n : Nat) (bytes : List Byte) : Bool :=
  (decoded (packetInstrs n bytes)).any fun (_, i) => i.isTransfer

/-- Registers and predicates that some instruction of a packet reads or writes. -/
def packetRegs (n : Nat) (is : List Instr) : List Nat × List Nat × List Nat × List Nat :=
  (is.flatMap fun i => i.uses.regsRead n, is.flatMap fun i => i.uses.regsWritten n,
   is.flatMap fun i => i.uses.predRead.map BitVec.toNat, is.flatMap fun i => i.uses.predsWritten)

/-- A latch producer keeps R160: ALU instructions and NOPs alone, and no word writes what a word reads. -/
def producerOk (n : Nat) (bytes : List Byte) : Bool :=
  let ps := packetInstrs n bytes
  let is := (decoded ps).map (·.2)
  let (rr, rw, pr, pw) := packetRegs n is
  ps.all (fun p => p.2.isSome) && is.all (fun i => decide (i.pipe = .alu) || decide (i.pipe = .none)) &&
  !meets rr rw && !meets pr pw

/-- The packet of a bundle is a latch producer: it is issued from word 0, does not transfer, and the next packet reads a
latch. -/
def State.produces (s : State) (g : Group) (p : Point) (bytes : List Byte) : Bool :=
  decide (p.word = 0) && !endsInTransfer g.nregs bytes &&
  (match s.peek g (p.pc + 1) with
    | some bs => readsLatch g.nregs bs
    | none => false)

/-- Where the tables give a replayable fault for the fetch of a packet. -/
def State.aheadFault (s : State) (g : Group) (pc : Nat) : Option Nat :=
  [pc * 12, (pc * 12 + 11) / 4096 * 4096].find? fun va => match s.xlateEng g.core g.rec_.tenant va 2 with
    | .no .replayable => decide (pc * 12 ≤ va)
    | _ => false

/-- A packet may be a latch producer by its own words: it is issued whole, of ALU instructions and NOPs alone (R205). -/
def mayProduce (n : Nat) (p : Point) (bytes : List Byte) : Bool :=
  decide (p.word = 0) && (packetInstrs n bytes).all fun (_, i) => match i with
    | some i => decide (i.pipe = .alu) || decide (i.pipe = .none)
    | none => false

/-- The fetch of a bundle's packet.  DESIGN CHOICE (log 108): a packet that may be a latch producer, before one whose fetch meets a
replayable fault, waits on that fault's walk, so that the slot recognises a pair when it issues the producer (R205). -/
def State.fetchFor (s : State) (g : Group) (p : Point) : Fetch :=
  match s.fetch g p.pc with
  | .ok bs => match (if mayProduce g.nregs p bs then s.aheadFault g (p.pc + 1) else none) with
    | some va => .miss va
    | none => .ok bs
  | r => r

/-- The issue at hand, with the lowest of its breaches (R208). -/
def Ctx.parse (c : Ctx) (n : Nat) : ReadIssue × Option (Nat × Byte) :=
  let starts := (packetInstrs n c.bytes).map (·.1)
  let r := readIssue n c.bytes 3 c.first
  let cut : List (Nat × Byte) := if starts.contains c.first then [] else [(c.first, 0x01)]
  let pair : List (Nat × Byte) :=
    if c.producer && decide (c.first = 0) && !producerOk n c.bytes then [(0, 0x03)] else []
  (r, lowestBreach (cut ++ pair ++ r.bad ++ chainBreaches n r.is ++ c.latchBreaches r.is))

/-! ### What an issue waits for (R191) -/

/-- Registers that an access in flight will write. -/
def AccKind.regs : AccKind → List Nat
  | .load ty v _ _ => codeRegs (v, tyRegs ty)
  | .atomic opt d _ _ red => if red then [] else codeRegs (d, optRegs opt)
  | .cas w8 d _ _ => codeRegs (d, if w8 then 2 else 1)
  | .ctread v _ => codeRegs (v, 2)
  | .promote d _ _ => codeRegs (d, 1)
  | _ => []

/-- Accesses of a thread in flight. -/
def State.ownAccesses (s : State) (guid tid : Nat) : List Access :=
  s.accesses.filter fun a => decide (a.guid = guid) && a.lanes.any fun l => decide (l.tid = tid)

/-- Lane registers of a thread that are not ready. -/
def State.pendingRegs (s : State) (guid tid : Nat) : List Nat := (s.ownAccesses guid tid).flatMap fun a => a.kind.regs

/-- Uniform registers of a group that are not ready. -/
def State.pendingUnis (s : State) (guid : Nat) : List Nat :=
  s.accesses.filterMap fun a => if a.guid = guid then match a.kind with | .sload d => some d | _ => none else none

/-- The registers that a list of instructions names are ready in a thread. -/
def State.regsReady (s : State) (guid n tid : Nat) (is : List Instr) (sources : Bool) : Bool :=
  let pend := s.pendingRegs guid tid
  let unis := s.pendingUnis guid
  is.all fun i => !meets pend (i.uses.regsRead n) && !meets unis i.uses.uniRead &&
    (sources || (!meets pend (i.uses.regsWritten n) && !meets unis i.uses.uniWrite))

/-- An instruction that takes effect at once and so follows the thread's accesses in flight (R110, R116, R122, R137);
an instruction that orders no access waits for none (R122, R137, R316). -/
def Instr.follows : Instr → Bool
  | .sts _ => true
  | .atom f => f.space
  | .acas f => f.space
  | .red f => f.space
  | .ctadd f => f.space
  | .hbar _ => true
  | .harr _ => true
  | .hvote _ => true
  | .hred _ => true
  | .ropen _ => false
  | .rclose _ => false
  | .rpoll _ => false
  | .rtake _ => false
  | i => decide (i.pipe = .eng)

/-- An instruction that follows the thread's loads in flight alone: LDS, CTWAIT, CTREAD and RTAKE, which are loads (R95, R110), and a
FENCE that makes the earlier loads acquires (R114). -/
def Instr.followsLoads : Instr → Bool
  | .lds _ => true
  | .ctwait _ => true
  | .ctread f => f.space
  | .rtake _ => true
  | .fence f => decide (f.kind.toNat ≠ 1)
  | _ => false

/-- The accesses of a thread that an instruction follows have been performed. -/
def State.orderReady (s : State) (guid tid : Nat) (i : Instr) : Bool :=
  (!Instr.followsLoads i || (s.ownAccesses guid tid).all fun a => !a.kind.holdsLoads) &&
  (!Instr.follows i || (s.ownAccesses guid tid).isEmpty)

/-- Memory outside scratchpad that a thread's instruction reads as it issues: address and bytes (R244, R252, R256, R260). -/
def State.readsNow (s : State) (c : Ctx) (g : Group) (t : Thread) : Instr → List (Nat × Nat)
  | .ctwait f => if f.space then [] else [(c.ctAddr g t f, 8)]
  | .cpy f =>
    let va := (c.uni g f.u.toNat).toNat
    match s.engRead g va 64 with
    | .go bs => let d := leNat bs
      (va, 64) :: (if 4 ≤ bits d 127 125 then [(bits d 376 320, 64)] else [])
    | _ => [(va, 64)]
  | .mx f => [((c.uni g f.u.toNat).toNat, 64)]
  | .mxdrain f => [((c.uni g f.u.toNat).toNat, 64)]
  | .attn f => [((c.uni g f.u.toNat).toNat, 64)]
  | .attnMerge f => [((c.uni g f.u.toNat).toNat, 64)]
  | .enq f => [((c.uni g f.u.toNat).toNat, 64)]
  | _ => []

/-- The places of `n` bytes for a core's cache, those of pages that it holds. -/
def State.knownPlaces (s : State) (g : Group) (va n : Nat) : List Nat :=
  (upFrom va n).filterMap fun a => match s.xlate g.core g.rec_.tenant a 0 with
    | .ok pa => some pa
    | _ => none

/-- What a thread's instruction reads as it issues may be served (R88, R90), and no store or atomic of the thread to it is in flight
(R110). -/
def State.readsReady (s : State) (c : Ctx) (g : Group) (t : Thread) (i : Instr) : Bool :=
  (s.readsNow c g t i).all fun (va, n) =>
    let ps := s.knownPlaces g va n
    s.servedAll ps && (s.ownAccesses c.guid t.tid).all fun a => a.lanes.all fun l =>
      !(decide (l.tid = t.tid) && ps.any fun p => overlaps l.pa (a.kind.width l) p 1)

/-- An MX that reads staging finds its fill delivered (R279). -/
def State.stagingReady (s : State) (c : Ctx) (g : Group) (i : Instr) : Bool :=
  match i with
  | .mx f => match s.xlate g.core g.rec_.tenant (c.uni g f.u.toNat).toNat 0 with
    | .ok pa => !(MxBlk.ofNat (s.devNum pa 64)).bsrc || s.stageReady g
    | _ => true
  | _ => true

/-- The command port of a slot takes an engine instruction now (R191). -/
def State.portReady (s : State) (c : Ctx) (i : Instr) : Bool :=
  decide (i.pipe ≠ .eng) || decide ((s.core c.core).port.getD c.slot 0 ≤ s.stime)

/-- The instructions of the packet after this one. -/
def State.consumer (s : State) (c : Ctx) (g : Group) : List Instr :=
  if c.producer then
    match s.peek g (c.pc + 1) with
    | some bs => (decoded (packetInstrs g.nregs bs)).map (·.2)
    | none => []
  else []

/-- The instructions of an issue that are run where it holds a breach (R161): those whose own traps come before it. -/
def ReadIssue.before (r : ReadIssue) (word : Nat) (code : Byte) : List (Nat × Instr) :=
  r.is.filter fun (k, _) => decide (k < word) || (decide (k = word) && decide (code = 0x02))

/-- The instruction of a word that reads an undefined latch, run by itself for the lower causes that it raises (R161). -/
def ReadIssue.own (r : ReadIssue) (word : Nat) (code : Byte) : List (Nat × Instr) :=
  if code = 0x03 then r.is.filter fun (k, _) => decide (k = word) else []

/-- The instruction acts on memory, or orders what does, as it issues. -/
def Instr.actsNow (i : Instr) : Bool := decide (i.pipe = .mem) && (Instr.follows i || Instr.followsLoads i)

/-- The SLD of an issue that stands ahead of an instruction that acts as it issues: its read is made in the issue (R110, R114). -/
def sldAhead : List (Nat × Instr) → Option (Nat × LAu)
  | [] => none
  | (k, i) :: rest => match i with
    | .sld f => if rest.any (fun x => Instr.actsNow x.2) then some (k, f) else none
    | _ => sldAhead rest

/-- A FENCE.sc of an issue stands ahead of its SLD (R114). -/
def scAhead : List Instr → Bool
  | [] => false
  | i :: rest => match i with
    | .fence f => decide (f.kind.toNat = 3) && rest.any fun j => match j with
      | .sld _ => true
      | _ => false
    | _ => scAhead rest

/-- The sources, resources and order of some instructions of an issue are there (R191). -/
def State.wordsReady (s : State) (c : Ctx) (g : Group) (is : List Instr) : Bool :=
  c.active.all (fun tid => s.regsReady c.guid g.nregs tid is false && is.all (s.orderReady c.guid tid) &&
    (!scAhead is || s.drained c.guid tid) &&
    (match g.thread tid with
      | some t => is.all (s.readsReady c g t)
      | none => true)) &&
  is.all fun i => s.stagingReady c g i && s.portReady c i

/-- An SLD whose read is made in its issue may be: its place is served, no atomic of a thread to it is in flight, and there is room for
the entry of an error (R90, R110). -/
def State.sldReady (s : State) (c : Ctx) (g : Group) (is : List (Nat × Instr)) : Bool :=
  match sldAhead is with
  | none => true
  | some (_, f) =>
    let ps := s.knownPlaces g (c.uni g f.a.toNat + c.uniB g f.b).toNat 8
    s.servedAll ps && s.roomFor g.core && c.active.all fun tid => (s.ownAccesses c.guid tid).all fun a =>
      decide (a.kind = .store) || a.lanes.all fun l => !(ps.any fun p => overlaps l.pa 16 p 1)

/-- The issue at hand may go out (R191); one with a breach goes out, to trap, once the instructions before it are ready.  A
latch producer also waits for the other sources of its consumer, and until that packet's fetch is served (R205). -/
def State.issueReady (s : State) (c : Ctx) (g : Group) : Bool :=
  match c.parse g.nregs with
  | (r, some (word, code)) => s.wordsReady c g ((r.before word code ++ r.own word code).map (·.2))
  | (r, none) =>
    s.wordsReady c g (r.is.map (·.2)) && s.sldReady c g r.is &&
    (c.active.all fun tid => s.regsReady c.guid g.nregs tid (s.consumer c g) true) &&
    (!c.producer || s.servedAll (s.fetchPlaces g (c.pc + 1)))

/-! ### Bundles and points -/

/-- The point at which a bundle stands. -/
def Group.bundlePoint (g : Group) (b : Bundle) : Option Point := b.tids.head?.bind fun t => (g.thread t).map (·.point)

/-- Where a bundle makes its next issue: its packet and that issue's first word. -/
def Group.bundleHere (g : Group) (b : Bundle) : Option Point := b.tids.head?.bind fun t => (g.thread t).map Thread.here

/-- The arrival time of a bundle: that of the oldest thread in it (R15). -/
def Group.bundleArrival (g : Group) (b : Bundle) : Nat :=
  b.tids.foldl (fun m t => match g.thread t with
    | some x => min m x.arrival
    | none => m) ((b.tids.head?.bind fun t => (g.thread t).map (·.arrival)).getD 0)

/-- A packet about to be issued from a point. -/
def Ctx.start (core slot guid : Nat) (active : List Nat) (p : Point) (bytes : List Byte) (producer : Bool) : Ctx :=
  { core := core, slot := slot, guid := guid, active := sortBy (fun a b => decide (laneOf a ≤ laneOf b)) active,
    pc := p.pc, bytes := bytes, first := p.word, here := p.word, after := p.word, chained := false, snap := [],
    snapS := [], traps := [], retries := [], waits := [], moves := [], latches := [], prev := [],
    misses := [], collective := false, paired := false, producer := producer, yielded := false }

/-- A translation that one of a list of threads waits for is being walked (R168). -/
def State.onWalk (s : State) (guid : Nat) (tids : List Nat) : Bool :=
  s.walks.any fun w => decide (w.guid = guid) && w.sharers.any tids.contains

/-- A bundle's packet may be issued: its fetch is served and its operands are ready, or its fetch or a trap due has to be settled. -/
def State.bundleReady (s : State) (guid : Nat) (g : Group) (b : Bundle) : Bool :=
  match g.bundleHere b with
  | none => false
  | some p => (b.tids.any fun t => ((g.thread t).bind (·.due)).isSome) || (!s.onWalk guid b.tids &&
    s.servedAll (s.fetchPlaces g p.pc) &&
    match s.fetchFor g p with
    | .ok bs => s.issueReady (Ctx.start g.core b.slot guid b.tids p bs (s.produces g p bs)) g
    | _ => true)

/-! ### Gathering (R12, R22, R23) -/

/-- The kind of gathering that a packet asks of a thread at one of its words: none, the home warp, or the quad. -/
def gatherKind (n : Nat) (bytes : List Byte) (word : Nat) : Option Bool :=
  let ks := (packetFrom n bytes 3 word).filterMap fun (_, i) => i.bind Instr.gathers
  if ks.isEmpty then none else some (ks.all id)

/-- The threads of a thread's home warp, or quad, that are live. -/
def Group.unit (g : Group) (quad : Bool) (tid : Nat) : List Nat :=
  let w := if quad then 4 else 32
  (g.threads.filter fun t => t.live && decide (t.tid / w = tid / w)).map (·.tid)

/-- A thread of a list may issue a collective packet with the others: its unit stands wholly in the list, and a home
warp stands there alone. -/
def Group.together (g : Group) (quad : Bool) (tids : List Nat) (tid : Nat) : Bool :=
  (g.unit quad tid).all tids.contains && (quad || tids.all fun t => decide (t / 32 = tid / 32))

/-- A thread gathers at a word of its packet, with its quad or with its home warp. -/
def Group.gatherAt (g : Group) (quad : Bool) (tid word : Nat) : Group :=
  (g.unbundle tid).onThread tid fun t => { t with run := .gathering, word := word, quad := quad }

/-- A bundle is exactly the live threads of one home warp (R22). -/
def Group.wholeWarp (g : Group) (tids : List Nat) : Bool := tids.all (g.together false tids)

/-- The threads of a bundle that stand at a collective packet without the rest of their unit gather; one with a trap due
goes on to take it.  A bundle that is a whole home warp at a packet of its collective instructions is a collective one from
then on (R16, R22). -/
def State.gatherBundle (s : State) (g : Group) (b : Bundle) : Group :=
  if b.collective then g
  else match g.bundleHere b with
    | none => g
    | some p => match s.fetch g p.pc with
      | .ok bs => match gatherKind g.nregs bs p.word with
        | none => g
        | some quad =>
          if !quad && g.wholeWarp b.tids then
            { g with bundles := g.bundles.map fun q => if q = b then { q with collective := true } else q }
          else
            (b.tids.filter fun t => !g.together quad b.tids t && ((g.thread t).bind (·.due)).isNone).foldl
              (fun (h : Group) t => h.gatherAt quad t p.word) g
      | _ => g

/-- A gathered unit is complete: each of its live threads gathers at one packet; priorities and words are not compared
(R22). -/
def Group.gathered (g : Group) (quad : Bool) (tid : Nat) : Bool :=
  match g.thread tid with
  | none => false
  | some t => (g.unit quad tid).all fun u => match g.thread u with
    | some x => decide (x.run = .gathering) && decide (x.point.pc = t.point.pc)
    | none => false

/-- The lowest first word of the next issues of the threads of a list. -/
def Group.lowestWord (g : Group) (tids : List Nat) : Nat :=
  tids.foldl (fun m u => match g.thread u with
    | some x => min m x.word
    | none => m) 3

/-- The collective bundle of a complete unit forms; all take the highest priority (R22).  Where threads stand at different
words of the packet, those at the lowest go on, and gather again with the others where their words meet (log 38). -/
def Group.formUnit (g : Group) (now : Nat) (quad : Bool) (tid : Nat) : Group :=
  let us := g.unit quad tid
  let prio := us.foldl (fun (m : BitVec 8) u => match g.thread u with
    | some x => if m.toNat < x.point.prio.toNat then x.point.prio else m
    | none => m) 0
  let low := g.lowestWord us
  let first := us.filter fun u => decide ((g.thread u).map (·.word) = some low)
  let h1 := us.foldl (fun (h : Group) u => h.onThread u fun t => { t with point := { t.point with prio := prio } }) g
  let h2 := first.foldl (fun (h : Group) u => h.onThread u fun t => { t with run := .runnable, arrival := now }) h1
  { h2 with bundles := h2.bundles ++ [{ slot := g.slotOf tid, tids := first, collective := true }] }

/-- One gathering thread's unit forms if it is complete: the quad or the home warp that its packet asked of it when it arrived (R12). -/
def State.formFor (s : State) (h : Group) (tid : Nat) : Group :=
  match h.thread tid with
  | none => h
  | some t => if decide (t.run = .gathering) && h.gathered t.quad tid then h.formUnit s.stime t.quad tid else h

/-- A group as gathering leaves it. -/
def State.gatherGroup (s : State) (g : Group) : Group :=
  let h := g.bundles.foldl (fun h b => s.gatherBundle h b) g
  ((h.threads.map (·.tid)).foldl s.formFor h).tidy

/-- The groups of a core as gathering leaves them. -/
def State.gatherCore (s : State) (core : Nat) : State :=
  { s with groups := s.groups.map fun (k, g) => (k, if g.core = core ∧ g.halted = false then s.gatherGroup g else g) }

/-! ### Merge ticks (R15, R16) -/

/-- The threads of a slot that stand at a point in bundles that a tick may remake. -/
def Group.loose (g : Group) (slot : Nat) (p : Point) : List Nat :=
  (g.bundles.filter fun b => decide (b.slot = slot) && !b.collective && decide (g.bundlePoint b = some p)).flatMap (·.tids)

/-- Quads of a list of threads at one quad position, in ascending home warp. -/
def quadsAt (ts : List Nat) (k : Nat) : List Nat :=
  let qs := (sortBy (fun a b => decide (a ≤ b)) ts).map (· / 4)
  (qs.foldl (fun l q => if l.contains q then l else l ++ [q]) []).filter fun q => decide (q % 8 = k)

/-- The bundles of a list of threads as a tick remakes them: bundle `j` takes the j-th quad of each position. -/
def remadeBundles (slot : Nat) (ts : List Nat) : List Bundle :=
  let lists := (List.range 8).map (quadsAt ts)
  let n := lists.foldl (fun m l => max m l.length) 0
  (List.range n).map fun j =>
    { slot := slot, collective := false,
      tids := lists.flatMap fun l => match l[j]? with
        | some q => (upFrom (4 * q) 4).filter ts.contains
        | none => [] }

/-- One slot of one point remade; a group whose bundles stand as the tick would make them is unchanged.  Threads whose next
issues begin at different words of the packet are kept apart. -/
def Group.remakeAt (g : Group) (slot : Nat) (p : Point) : Group :=
  let ts := g.loose slot p
  let at_ := fun (w : Nat) => ts.filter fun t => decide ((g.thread t).map (·.word) = some w)
  let other := g.bundles.filter fun b => b.collective || !(decide (b.slot = slot) && decide (g.bundlePoint b = some p))
  if ts.isEmpty then g
  else { g with bundles := other ++ (List.range 3).flatMap fun w => remadeBundles slot (at_ w) }

/-- A group as a merge tick leaves it. -/
def Group.merged (g : Group) : Group :=
  g.entries.foldl (fun (h : Group) e => (List.range 4).foldl (fun (h : Group) i => h.remakeAt i e.point) h) g

/-- A merge tick of a core is due: %clock is a multiple of 8. -/
def State.tickDue (s : State) (core : Nat) : Bool := decide (s.clock core % 8 = 0)

/-- MERGE_TICK (R15): the bundles of each group of a core that is not halted (R175) are remade; collective bundles that have
formed by then are kept whole (R16). -/
def execMergeTick (core : Nat) (s : State) : Out :=
  .next (if !s.tickDue core then s
    else { s with groups := s.groups.map fun (k, g) =>
      (k, if g.core = core ∧ g.halted = false then (s.gatherGroup g).merged else g) })

/-! ### Eligible bundles (R11, R17, R315) -/

/-- Element `i` of a list of numbers, 0 past its end. -/
def nth (l : List Nat) (i : Nat) : Nat := l.getD i 0

/-- The bundles of an entry in a slot whose operands are ready. -/
def State.readyBundles (s : State) (guid : Nat) (g : Group) (slot : Nat) (e : Entry) : List Bundle :=
  g.bundles.filter fun b => decide (b.slot = slot) && decide (g.bundlePoint b = some e.point) && s.bundleReady guid g b

/-- YIELD holds an entry in a slot. -/
def Entry.held (e : Entry) (slot : Nat) : Bool := e.holds.any fun h => decide (h.slot = slot)

/-- The entries of a group eligible in a slot; YIELD's holds end where no other entry is eligible (R315). -/
def State.eligible (s : State) (guid : Nat) (g : Group) (slot : Nat) : List Entry :=
  let all := g.entries.filter fun e => !(s.readyBundles guid g slot e).isEmpty
  let free := all.filter fun e => !e.held slot
  if free.isEmpty then all else free

/-- Order by program counter, then word. -/
def pointBefore (p q : Point) : Bool := decide (p.pc < q.pc) || (decide (p.pc = q.pc) && decide (p.word < q.word))

/-- The entry that issues among the eligible ones of a slot (R17).  DESIGN CHOICE (log 92): of entries that reached 64 in the
same issue and have equal PC and word, the first of the list; R17 orders them no further. -/
def chooseEntry (slot : Nat) (es : List Entry) : Option Entry :=
  let aged := es.filter fun e => decide (nth e.passes slot = 64)
  if aged.isEmpty then
    firstBy (fun a b => decide (b.point.prio.toNat < a.point.prio.toNat) ||
      (decide (a.point.prio = b.point.prio) && pointBefore a.point b.point)) es
  else
    firstBy (fun a b => decide (nth a.reached slot < nth b.reached slot) ||
      (decide (nth a.reached slot = nth b.reached slot) && pointBefore a.point b.point)) aged

/-- The bundle of an entry that issues: the oldest, then that of the lowest home warp (R17).  DESIGN CHOICE (log 92): of
bundles that tie in both, the first of the list. -/
def State.chooseBundle (s : State) (guid : Nat) (g : Group) (slot : Nat) (e : Entry) : Option Bundle :=
  let warp := fun (b : Bundle) => b.tids.foldl (fun m t => min m (g.warpOf t)) 256
  firstBy (fun a b => decide (g.bundleArrival a < g.bundleArrival b) ||
    (decide (g.bundleArrival a = g.bundleArrival b) && decide (warp a < warp b))) (s.readyBundles guid g slot e)

/-- The pass counter of an entry that is passed over, and the issue at which it reached 64 (R17). -/
def Entry.passed (e : Entry) (slot issues : Nat) : Entry :=
  let n := nth e.passes slot
  { e with passes := setAt e.passes slot (min 64 (n + 1)),
           reached := if n = 63 then setAt e.reached slot issues else e.reached }

/-- YIELD's holds of an entry after an issue of the group in a slot from a point (R315). -/
def Entry.afterIssue (e : Entry) (slot : Nat) (p : Point) (points : List Point) : Entry :=
  { e with holds := e.holds.filterMap fun h =>
      if h.slot ≠ slot then some h
      else
        let rest := h.others.filter fun q => decide (q ≠ p) && points.contains q
        if rest.isEmpty || decide (h.left ≤ 1) then none else some { h with others := rest, left := h.left - 1 } }

/-- The group's counters after an issue of an entry in a slot (R17). -/
def Group.countIssue (g : Group) (slot : Nat) (e : Entry) (elig : List Entry) : Group :=
  let n := nth g.issues slot + 1
  let points := g.entries.map (·.point)
  { g with
    issues := setAt g.issues slot n,
    entries := g.entries.map fun f =>
      let f1 := if f.point = e.point then { f with passes := setAt f.passes slot 0 }
        else if elig.any fun x => decide (x.point = f.point) then f.passed slot n else f
      f1.afterIssue slot e.point points }

/-! ### Choosing a group (R41) -/

/-- The groups with an eligible bundle in a slot of a core, each with its eligible entries; a halted group and one told
to stop issue nothing. -/
def State.slotGroups (s : State) (core slot : Nat) : List (Nat × Group × List Entry) :=
  s.groups.filterMap fun (k, g) =>
    if g.core ≠ core ∨ g.halted ∨ g.stopping then none
    else
      let es := s.eligible k g slot
      if es.isEmpty then none else some (k, g, es)

/-- The earliest arrival among a group's eligible bundles in a slot. -/
def State.oldestArrival (s : State) (slot : Nat) (c : Nat × Group × List Entry) : Nat :=
  let ts := c.2.2.flatMap fun e => (s.readyBundles c.1 c.2.1 slot e).map c.2.1.bundleArrival
  ts.foldl min (ts.headD 0)

/-- The group that a slot serves (R41).  DESIGN CHOICE (log 92): of groups that tie in class, arrival or pass count, and %gid,
the first of the list. -/
def State.chooseGroup (s : State) (slot : Nat) (cs : List (Nat × Group × List Entry)) : Option (Nat × Group × List Entry) :=
  let passes := fun (c : Nat × Group × List Entry) => nth c.2.1.passes slot
  let old := cs.filter fun c => decide (1024 ≤ passes c)
  if old.isEmpty then
    firstBy (fun a b => decide (b.2.1.rec_.cls < a.2.1.rec_.cls) ||
      (decide (a.2.1.rec_.cls = b.2.1.rec_.cls) &&
        (decide (s.oldestArrival slot a < s.oldestArrival slot b) ||
          (decide (s.oldestArrival slot a = s.oldestArrival slot b) && decide (a.2.1.gid < b.2.1.gid))))) cs
  else
    firstBy (fun a b => decide (passes b < passes a) || (decide (passes a = passes b) && decide (a.2.1.gid < b.2.1.gid)))
      old

/-- Pass counts of the candidate groups of a slot after a choice (R41). -/
def State.countGroups (s : State) (slot chosen : Nat) (cs : List (Nat × Group × List Entry)) : State :=
  cs.foldl (fun (s : State) c => s.onGroup c.1 fun g =>
    { g with passes := setAt g.passes slot (if c.1 = chosen then 0 else nth g.passes slot + 1) }) s

/-! ### A packet begins -/

/-- A slot of a core has issued: it may issue again in the core's next clock, under NEIGH in the one after it (R100). -/
def State.occupySlot (s : State) (core slot : Nat) : State :=
  let c := s.core core
  let wait := if (s.column core).neigh then 2 else 1
  s.setCore core { c with slotAt := setAt c.slotAt slot (s.clock core + wait), turn := (s.clock core + 1, slot) }

/-- A thread takes the trap that was due at its packet (R76). -/
def State.takeDue (s : State) (guid tid : Nat) : State :=
  match s.thread guid tid with
  | none => s
  | some t => match t.due with
    | none => s
    | some d =>
      (s.onThread guid tid fun u => { u with due := none }).takeTrap guid tid t.here (d.word.getD t.word) d.code d.tval
        d.tmask d.handler

/-- Threads of a bundle with a trap due take it; the others stand, and a collective bundle is one no more. -/
def State.beginDue (s : State) (guid : Nat) (b : Bundle) (due : List Nat) : State :=
  let s1 := s.onGroup guid fun x =>
    { x with bundles := x.bundles.map fun q => if q = b then { q with collective := false } else q }
  due.foldl (fun (s : State) t => s.takeDue guid t) s1

/-- Walks begin for the fetch of a packet by some threads (R168, R192). -/
def State.fetchWalks (s : State) (guid : Nat) (g : Group) (tids : List Nat) (va : Nat) (p : Point) : State :=
  tids.foldl (fun (s : State) t => s.startWalk guid t g va 2 p) s

/-- The packet of a bundle begins: threads with a trap due take it first; a bundle whose fetch misses waits for the walk,
and one whose fetch fails traps; else the packet's first issue is under way. -/
def State.begin (s : State) (guid : Nat) (b : Bundle) : State :=
  match s.group guid with
  | none => s
  | some g => match g.bundleHere b with
    | none => s
    | some p =>
      let due := b.tids.filter fun t => ((g.thread t).bind (·.due)).isSome
      let s1 := s.onGroup guid fun x => { x with bundles := x.bundles.filter fun q => decide (q ≠ b) }
      let s3 := s1.occupySlot g.core b.slot
      if !due.isEmpty then (s.beginDue guid b due).occupySlot g.core b.slot
      else match s3.fetchFor g p with
        | .ok bs => { s3.fetched g p.pc bs with
            cur := some { Ctx.start g.core b.slot guid b.tids p bs (s3.produces g p bs) with collective := b.collective } }
        | .miss va => (s.occupySlot g.core b.slot).fetchWalks guid g b.tids va p
        | .trap code va => (b.tids.foldl (fun (s : State) t =>
            s.takeTrap guid t p p.word code (BitVec.ofNat 64 va) 0 2) s3).unmark (.core g.core)

/-- A slot of a core may issue in this clock: it has not yet, its command port has taken its last command (R191), and no
later slot has issued in this clock (R19). -/
def State.slotFree (s : State) (core slot : Nat) : Bool :=
  let c := s.core core
  decide (c.slotAt.getD slot 0 ≤ s.clock core) && decide (c.port.getD slot 0 ≤ s.stime + 1) &&
  !(decide (c.turn.1 = s.clock core + 1) && decide (slot < c.turn.2))

/-- The slot of a core has no packet in progress and may issue now. -/
def State.slotOpen (s : State) (core slot : Nat) : Bool :=
  s.cur.isNone && (s.packets.all fun c => !(decide (c.core = core) && decide (c.slot = slot))) && s.slotFree core slot

/-- An entry and a bundle of a group are chosen by R17 and the packet begins.  DESIGN CHOICE (log 92): a choice whose fetch or
access then misses the translation cache counts in the pass counters, and counts again when the bundle is chosen after the
walk. -/
def State.serve (s : State) (slot : Nat) (c : Nat × Group × List Entry) : State :=
  match chooseEntry slot c.2.2 with
  | none => s
  | some e => match s.chooseBundle c.1 c.2.1 slot e with
    | none => s
    | some b => (s.onGroup c.1 fun g => g.countIssue slot e c.2.2).begin c.1 b

/-- A group's holds by YIELD in a slot have ended where it has no other entry eligible there (R315). -/
def State.endHolds (s : State) (slot guid : Nat) (g : Group) : Group :=
  let free := g.entries.any fun e => !e.held slot && !(s.readyBundles guid g slot e).isEmpty
  let drop := fun (e : Entry) => { e with holds := e.holds.filter fun h => decide (h.slot ≠ slot) }
  if free then g else { g with entries := g.entries.map drop }

/-- The groups of a core with the ended holds of a slot dropped. -/
def State.endHoldsOn (s : State) (core slot : Nat) : State :=
  { s with groups := s.groups.map fun (k, g) =>
      (k, if g.core = core ∧ g.halted = false ∧ g.stopping = false then s.endHolds slot k g else g) }

/-- ISSUE_SLOT_SELECT (R41, R17): a slot chooses a group, an entry and a bundle, whose packet begins. -/
def execIssueSlotSelect (core slot : Nat) (s : State) : Out :=
  .next (if !s.slotOpen core slot ∨ 4 ≤ slot then s
    else
      let s1 := (s.gatherCore core).endHoldsOn core slot
      let cs := s1.slotGroups core slot
      match s1.chooseGroup slot cs with
      | none => s1
      | some c => (s1.countGroups slot c.1 cs).serve slot c)

/-! ### The end of an issue -/

/-- Threads of an issue that are still in it. -/
def State.stillActive (s : State) (guid : Nat) (tids : List Nat) : List Nat :=
  tids.filter fun t => match s.thread guid t with
    | some x => x.runnable
    | none => false

/-- The threads that issued: their stall time is 0 (R174). -/
def State.markIssued (s : State) (c : Ctx) : State :=
  s.onGroup c.guid fun g =>
    let mark := fun (t : Thread) => if c.active.contains t.tid then
      { t with lastIssue := if g.halted then 0 else s.stime, issuedSince := true } else t
    { g with threads := g.threads.map mark }

/-- The slot and the command port after an issue: an engine instruction of `k` threads makes `k` commands, one every
2 ck (R191). -/
def State.charge (s : State) (c : Ctx) (is : List Instr) : State :=
  let s1 := s.occupySlot c.core c.slot
  if is.any fun i => decide (i.pipe = .eng) then
    let x := s1.core c.core
    s1.setCore c.core { x with port := setAt x.port c.slot (s.stime + 2 * max 1 c.active.length) }
  else s1

/-- Threads arrive at a point as one bundle. -/
def Group.arriveAll (g : Group) (now slot : Nat) (tids : List Nat) (p : Point) : Group :=
  let h := tids.foldl (fun (h : Group) t => (h.unbundle t).onThread t fun x =>
    { x with run := .runnable, point := p, word := p.word, arrival := now }) g
  if tids.isEmpty then h else { h with bundles := h.bundles ++ [{ slot := slot, tids := tids, collective := false }] }

/-- The distinct points of a list. -/
def pointsOf (ms : List (Nat × Point)) : List Point :=
  ms.foldl (fun l m => if l.contains m.2 then l else l ++ [m.2]) []

/-- Where the active threads of a finished packet go: a branch's target, or the next packet (R12). -/
def State.goals (s : State) (c : Ctx) (tids : List Nat) : List (Nat × Point) :=
  tids.map fun t => match c.moves.find? fun m => decide (m.1 = t) with
    | some m => m
    | none => (t, { prio := ((s.thread c.guid t).map (·.point.prio)).getD 0, pc := c.pc + 1, word := 0 })

/-- YIELD's holds of the entries at which the threads now stand (R315). -/
def State.yieldHolds (s : State) (c : Ctx) (ps : List Point) : State :=
  match s.group c.guid with
  | none => s
  | some g =>
    let others := ((s.eligible c.guid g c.slot).map (·.point)).filter fun p => !ps.contains p
    let hold := fun (e : Entry) =>
      if ps.contains e.point ∧ others.isEmpty = false then
        let kept := e.holds.filter fun h => decide (h.slot ≠ c.slot)
        { e with holds := { slot := c.slot, others := others, left := 64 } :: kept }
      else e
    s.onGroup c.guid fun x => { x with entries := x.entries.map hold }

/-- The consumer of a latch pair begins in the next clock (R205); where its fetch misses or fails, its threads go back to
the producer (R160). -/
def State.beginConsumer (s : State) (c : Ctx) (tids : List Nat) : State :=
  match s.group c.guid with
  | none => s
  | some g =>
    let prio := (tids.head?.bind fun t => (g.thread t).map (·.point.prio)).getD 0
    let home : Point := { prio := prio, pc := c.pc, word := 0 }
    let next : Point := { prio := prio, pc := c.pc + 1, word := 0 }
    match s.fetch g (c.pc + 1) with
    | .ok bs =>
      let s1 := (s.fetched g (c.pc + 1) bs).onGroup c.guid fun x =>
        { x with threads := x.threads.map fun t =>
            if tids.contains t.tid then { t with point := next, word := 0, arrival := s.stime } else t }
      let d := Ctx.start c.core c.slot c.guid tids next bs (s.produces g next bs)
      { s1 with packets := s1.packets ++ [{ d with prev := c.latches, paired := true, yielded := c.yielded }] }
    | .miss va => (s.onGroup c.guid fun x => (x.arriveAll s.stime c.slot tids home).tidy).fetchWalks c.guid g tids va home
    | .trap code va => (tids.foldl (fun (s : State) t =>
        s.takeTrap c.guid t home 0 code (BitVec.ofNat 64 va) 0 2) s).unmark (.core g.core)

/-- The packet ends for the threads still in it (R12).  DESIGN CHOICE (log 92): where the taken and the fall-through point of a
branch coincide, its threads stay in one bundle. -/
def State.endPacket (s : State) (c : Ctx) (tids : List Nat) : State :=
  let ms := s.goals c tids
  let ps := pointsOf ms
  let s1 := s.onGroup c.guid fun g => Group.tidy (ps.foldl (fun (h : Group) p =>
    h.arriveAll s.stime c.slot ((ms.filter fun m => decide (m.2 = p)).map (·.1)) p) g)
  if c.yielded then s1.yieldHolds c ps else s1

/-- The threads that parked or trapped in the issue have left; what follows for the others: the packet's next issue, the
consumer of a latch pair, or the end of the packet. -/
def State.afterIssue (s : State) : State :=
  match s.cur with
  | none => s
  | some c =>
    let s1 := { s with cur := none }
    let tids := s1.stillActive c.guid c.active
    if tids.isEmpty then
      let s2 := s1.onGroup c.guid Group.tidy
      if c.yielded then s2.yieldHolds c (pointsOf c.moves) else s2
    else if c.moves.isEmpty ∧ c.after < 3 then
      { s1 with packets := s1.packets ++ [{ c with
          active := tids, first := c.after, here := c.after, chained := false, snap := [], snapS := [], traps := [],
          retries := [], waits := [], misses := [] }] }
    else if c.producer ∧ c.moves.isEmpty then s1.beginConsumer c tids
    else s1.endPacket c tids

/-! ### An issue of one instruction or several (R124, R159, R161, R189) -/

/-- One outcome after another. -/
def andThen (o : Out) (f : State → Out) : Out :=
  match o with
  | .next s => f s
  | .fault r => .fault r
  | .refused r => .refused r

/-- Threads of a chained issue that have failed at a word take no part in its later words (R161). -/
def State.dropFailed (s : State) : State :=
  s.onCur fun c => { c with active := c.active.filter fun t =>
    !(c.traps.any fun r => decide (r.tid = t)) && !(c.retries.any fun r => decide (r.1 = t)) }

/-- The instructions of a chained issue, each reading the sources as they stood before the issue. -/
def runWords (ex : Instr → State → Out) : List (Nat × Instr) → State → Out
  | [], s => .next s
  | (k, i) :: rest, s => andThen (ex i (s.onCur fun c => { c with here := k })) fun s1 => runWords ex rest s1.dropFailed

/-- The traps and repeated issues that a discarded run of a chained issue found. -/
structure Failed where
  traps : List TrapReq
  retries : List (Nat × Wait × Nat)
  deriving DecidableEq, Repr

/-- Threads that failed. -/
def Failed.tids (f : Failed) : List Nat := f.traps.map (·.tid) ++ f.retries.map (·.1)

/-- What a run of a chained issue recorded. -/
def State.failed (s : State) : Failed :=
  match s.cur with
  | some c => { traps := c.traps, retries := c.retries }
  | none => { traps := [], retries := [] }

/-- No thread is left in the issue under way. -/
def State.noneActive (s : State) : Bool :=
  match s.cur with
  | some c => c.active.isEmpty
  | none => true

/-- Accesses of the issue under way that miss the translation cache. -/
def State.missed (s : State) : List (Nat × Nat × Nat × List Nat) := (s.cur.map (·.misses)).getD []

/-- The read of an SLD that stands ahead of an instruction of its issue which acts at once is made before the issue ends; `n` is the
first number that the issue took. -/
def State.settleSld (s : State) (is : List (Nat × Instr)) (n : Nat) : State :=
  match sldAhead is with
  | some (k, _) => (s.onCur fun c => { c with here := k }).sloadsNow n
  | none => s

/-- A chained issue commits for the threads that fail at no word; a run in which some fail is made again without them
(R124), and one in which an access misses ends the runs.  `n` bounds the runs. -/
def runChained (ex : Instr → State → Out) (is : List (Nat × Instr)) : Nat → State → Failed → Out
  | 0, s, _ => .next s
  | n + 1, s, f =>
    andThen (runWords ex is s) fun s0 =>
      let s1 := if s0.missed.isEmpty then s0.settleSld is s.nextId else s0
      let g := s1.failed
      if !s1.missed.isEmpty then .next s1
      else if g.tids.isEmpty then .next (s1.onCur fun c => { c with traps := f.traps, retries := f.retries })
      else
        let h : Failed := { traps := f.traps ++ g.traps, retries := f.retries ++ g.retries }
        let again := s.onCur fun c => { c with active := c.active.filter fun t => !g.tids.contains t }
        if again.noneActive then .next (again.onCur fun c => { c with traps := h.traps, retries := h.retries })
        else runChained ex is n again h

/-- A thread's point before the issue under way. -/
def State.pointBefore (s : State) (c : Ctx) (tid : Nat) : Point :=
  (((c.snap.find? fun t => decide (t.tid = tid)).orElse fun _ => s.thread c.guid tid).map (·.point)).getD ⟨0, c.pc, 0⟩

/-- The lanes that failed the bounds check in an issue (R71, R165): those of every word. -/
def issueMask (rs : List TrapReq) : Word := rs.foldl (fun m r => if r.code = 0x10 then m ||| r.tmask else m) 0

/-- The traps, repeated issues and parks of a chained issue are settled; a thread that several words park waits for them in
word order, and one that leaves ends after them (log 39). -/
def State.settleChained (s : State) (c0 : Ctx) : State :=
  match s.cur with
  | none => s
  | some c =>
    let restart := fun (t : Nat) => c0.restart (s.pointBefore c0 t).prio
    let s1 := c.retries.foldl (fun (s : State) (t, w, i) =>
      s.onGroup c.guid fun g => g.park t w (restart t) (restart t) i) s
    let s2 := c.waits.foldl (fun (s : State) (t, w, i) => match s.thread c.guid t with
      | some x =>
        if !x.live then s
        else
          let resume := match c.moves.find? fun m => decide (m.1 = t) with
            | some m => m.2
            | none => if c.active.contains t then c.resume x.point.prio else x.point
          match x.run with
          | .parked _ _ _ => s.onThread c.guid t fun u => { u with later := u.later ++ [(w, i)] }
          | _ => (s.onThread c.guid t fun u => { u with point := s.pointBefore c0 t }).onGroup c.guid fun g =>
              g.park t w (restart t) resume i
      | none => s) s1
    let mask := issueMask c.traps
    c.traps.foldl (fun (s : State) r =>
      (s.takeTrap c.guid r.tid (restart r.tid) r.word r.code r.tval
        (if r.code = 0x10 ∧ r.tmask ≠ 0 then mask else r.tmask) r.handler).reported c.guid r.tid r.ticket) s2

/-- The issue under way with its instructions made known. -/
def Ctx.ready (c : Ctx) (g : Group) (r : ReadIssue) (tids : List Nat) : Ctx :=
  let chained := decide (1 < r.is.length)
  { c with active := tids, here := c.first, after := r.after, chained := chained,
           snap := if chained then g.threads else [], snapS := if chained then g.sregs else [] }

/-- What the threads of an issue with a breach at a word do, given what a run of the instructions before it found (R161, R208):
a thread that one of those makes trap, for a lower word or a lower cause, or park, does that; one for which the breaching word by
itself raises a lower cause (`own`) traps for that; the others trap for the breach. -/
def Ctx.breached (c : Ctx) (f own : Failed) (tids : List Nat) (word : Nat) (code : Byte) : Ctx :=
  let first := f.traps.filter fun r => decide (r.word < word) || decide (r.code.toNat < code.toNat)
  let parked := f.retries.map (·.1)
  let lower := own.traps.filter fun r => decide (r.code.toNat < code.toNat) && !(first.map (·.tid) ++ parked).contains r.tid
  let rest := (tids.filter fun t => !(first.map (·.tid) ++ parked ++ lower.map (·.tid)).contains t).map fun t =>
    (⟨t, word, code, (wordOfBytes c.bytes word).setWidth 64, 0, 0, none⟩ : TrapReq)
  { c with active := [], traps := first ++ lower ++ rest, retries := f.retries, waits := [], moves := [] }

/-- Threads that reach a collective instruction within their packet without the rest of their unit gather there.  DESIGN CHOICE
(log 38): so do those of a latch pair whose consumer holds the collective (R12 before R16); the bundle that then forms is not the
producer's, and its latch read traps 0x03 (R205). -/
def State.gatherMid (s : State) (c : Ctx) (quad : Bool) (tids : List Nat) : State :=
  tids.foldl (fun (s : State) t => s.onGroup c.guid fun g => g.gatherAt quad t c.first) s

/-- The kind of gathering that the instructions of an issue ask for. -/
def issueKind (is : List (Nat × Instr)) : Option Bool :=
  let ks := is.filterMap fun (_, i) => i.gathers
  if ks.isEmpty then none else some (ks.all id)

/-- An issue whose accesses miss the translation cache is not made: their walks begin, and the bundle waits at its packet, or
within it where the packet has made issues already, reads a latch, or is a halted group's step (R168, R176, R189). -/
def State.suspend (s : State) (c : Ctx) (g : Group) (ms : List (Nat × Nat × Nat × List Nat)) : State :=
  let walk := fun (s : State) (m : Nat × Nat × Nat × List Nat) =>
    s.startWalk c.guid m.1 g m.2.1 m.2.2.1 (c.restart (s.pointBefore c m.1).prio) m.2.2.2
  let s1 := ms.foldl walk { s with cur := none }
  let whole := !c.paired && !g.halted && c.active.all fun t => match g.thread t with
    | some x => decide (x.word = c.first)
    | none => false
  if whole then
    s1.onGroup c.guid fun x =>
      { x with bundles := x.bundles ++ [{ slot := c.slot, tids := c.active, collective := c.collective }] }
  else { s1 with packets := s1.packets ++ [c] }

/-- What follows a run of the issue: it is suspended where an access missed, and ends otherwise. -/
def State.orSuspend (t s : State) (c : Ctx) (g : Group) (k : State → State) : State :=
  if t.missed.isEmpty then k t else s.suspend c g t.missed

/-- What an issue reads as it goes out has been read: of a peer by requests to it (R182), and an error on its way has been met
(R185). -/
def State.readsDone (t s : State) (c : Ctx) (g : Group) (is : List Instr) : State :=
  let ps := g.threads.flatMap fun u => if c.active.contains u.tid then
    is.flatMap fun i => (s.readsNow c g u i).flatMap fun (va, n) => s.knownPlaces g va n else []
  if ps.isEmpty then t else (t.askRun g.rec_.tenant ps).unmark (.core g.core)

/-- The issue is made by the threads that may make it together. -/
def State.makeIssue (ex : Instr → State → Out) (s : State) (c : Ctx) (g : Group) (r : ReadIssue) : Out :=
  match r.is with
  | [(_, i)] => andThen (ex i s) fun t =>
      .next (t.orSuspend s c g fun t => (((t.readsDone s c g [i]).markIssued c).charge c [i]).afterIssue)
  | _ => andThen (runChained ex r.is (c.active.length + 1) s { traps := [], retries := [] }) fun t =>
      .next (t.orSuspend s c g fun t =>
        ((((t.settleChained c).readsDone s c g (r.is.map (·.2))).markIssued c).charge c (r.is.map (·.2))).afterIssue)

/-- An issue with a breach (R161, R208): nothing of it commits; the instructions before the breach are run for what they
find. -/
def State.breach (ex : Instr → State → Out) (s : State) (c : Ctx) (g : Group) (r : ReadIssue) (word : Nat) (code : Byte) :
    Out :=
  let c1 := { c.ready g r c.active with chained := true, snap := g.threads, snapS := g.sregs }
  andThen (runWords ex (r.before word code) { s with cur := some c1 }) fun t =>
    andThen (runWords ex (r.own word code) { s with cur := some c1 }) fun u =>
      .next (t.orSuspend s c g fun t =>
        (((State.settleChained { s with cur := some (c1.breached t.failed u.failed c.active word code) } c1).markIssued c).charge c
          []).afterIssue)

/-- The issue under way, with `ex` as the meaning of an instruction. -/
def runIssueWith (ex : Instr → State → Out) (s : State) : Out :=
  match s.cur with
  | none => .next s
  | some c => match s.group c.guid with
    | none => .next { s with cur := none }
    | some g =>
      let tids := s.stillActive c.guid c.active
      match Ctx.parse { c with active := tids } g.nregs with
      | (r, some (word, code)) => State.breach ex s { c with active := tids } g r word code
      | (r, none) =>
        let (go, stay) := match issueKind r.is with
          | none => (tids, [])
          | some quad => tids.partition (g.together quad tids)
        let s1 := s.gatherMid c ((issueKind r.is).getD false) stay
        if go.isEmpty then .next (State.onGroup { s1 with cur := none } c.guid Group.tidy)
        else
          let c1 := c.ready g r go
          State.makeIssue ex { s1 with cur := some c1 } c1 g r

/-- A packet in progress whose next issue waits for nothing but its slot. -/
def State.packetReady (s : State) (c : Ctx) : Bool :=
  !s.onWalk c.guid c.active &&
  (match s.group c.guid with
    | some g => s.issueReady { c with active := s.stillActive c.guid c.active } g
    | none => true)

/-- A packet in progress whose next issue may go out now. -/
def State.mayContinue (s : State) (c : Ctx) : Bool :=
  s.slotFree c.core c.slot && s.packetReady c

/-- A packet in progress goes on. -/
def State.continue_ (s : State) (c : Ctx) : State :=
  { s with packets := s.packets.filter fun d => decide (d ≠ c), cur := some c }

end Sys2Proof.Machine
end

