-- ==== Sys2Proof/Machine/Debug.lean ====
section
/-! DEFINITION. The debug command (R175, R176, R179): halting, stepping, resuming, and reading and writing context. -/

namespace Sys2Proof.Machine

/-- A debug command on a group that its queue's tenant names: a group that is not resident gives status 3, another
tenant's status 2 (log 25). -/
def State.debugOn (s : State) (q guid : Nat) (act : State → Group → State) : State :=
  s.command q 0x08 false fun s => match s.group guid with
    | none => s.complete q 3
    | some g => if g.rec_.tenant ≠ q then s.complete q 2 else act s g

/-- A debug command on a halted group whose threads stand at packet boundaries. -/
def State.debugHalted (s : State) (q guid : Nat) (act : State → Group → State) : State :=
  s.debugOn q guid fun s g =>
    if !(g.underDebug && g.halted) then s.complete q 3 else if s.idle guid then act s g else s

/-- DEBUG_HALT (R175): the group is under debug and stops issuing; the command completes once every packet in progress
has ended. -/
def execDebugHalt (q group : Nat) (s : State) : Out :=
  .next (s.debugOn q group fun s _ =>
    let s1 := s.onGroup group fun g => { g.halt s.stime with underDebug := true }
    if s.idle group then s1.complete q 0 else s1)

/-- DEBUG_RESUME (R175): the group issues again, still under debug. -/
def execDebugResume (q group : Nat) (s : State) : Out :=
  .next (s.debugHalted q group fun s _ =>
    (s.onGroup group fun g =>
      { g with halted := false, threads := g.threads.map fun t => { t with lastIssue := s.stime - t.lastIssue } }).complete
        q 0)

/-- A queue's command waits for a step of a group. -/
def State.stepWait (s : State) (q guid : Nat) (tid : Option Nat) (begun : Bool) : State :=
  s.onTenant q fun t => { t with cmdWait := some (.step guid tid begun) }

/-- A bundle's packet is stepped: it begins, with the group changed by `f`, once its slot may issue, its fetch has been translated, and
what it waits for at issue is there (R191). -/
def State.stepBundle (s : State) (q guid : Nat) (tid : Option Nat) (g : Group) (b : Bundle) (f : Group → Group) : State :=
  match g.bundleHere b with
  | none => s.complete q 4
  | some p =>
    if !s.slotOpen g.core b.slot || !s.bundleReady guid g b then s.stepWait q guid tid false
    else match s.fetchFor g p with
      | .miss va => (s.stepWait q guid tid false).fetchWalks guid g b.tids va p
      | _ => ((s.stepWait q guid tid true).onGroup guid f).begin guid b

/-- A single step: the packet of the lowest slot that holds an eligible bundle, chosen by R17. -/
def State.stepGroup (s : State) (q guid : Nat) (g : Group) : State :=
  let h := s.gatherGroup g
  let s1 := s.setGroup guid h
  let pick := fun (i : Nat) =>
    let es := s1.eligible guid h i
    (chooseEntry i es).bind fun e => (s1.chooseBundle guid h i e).map fun b => (b, fun (x : Group) => x.countIssue i e es)
  match (List.range 4).findSome? pick with
  | none => s1.complete q 4
  | some (b, f) => s1.stepBundle q guid none h b f

/-- A thread may step alone: it is Runnable and its packet holds no collective instruction, as its tables give it. -/
def State.steppable (s : State) (g : Group) (t : Thread) : Bool :=
  t.runnable && (match s.peek g t.point.pc with
    | some bs => (gatherKind g.nregs bs 0).isNone
    | none => true)

/-- A thread step: the packet of one thread alone. -/
def State.stepThread (s : State) (q guid : Nat) (g : Group) (tid : Nat) : State :=
  match g.thread tid with
  | none => s.complete q 3
  | some t =>
    if !s.steppable g t then s.complete q 4
    else
      let b : Bundle := { slot := g.slotOf tid, tids := [tid], collective := false }
      let alone := fun (x : Group) => let y := x.unbundle tid
        { y with bundles := y.bundles ++ [b] }
      s.stepBundle q guid (some tid) g b alone

/-- A step of a group or of a thread is tried; it waits for the walks of the group's fetches. -/
def State.tryStep (s : State) (q guid : Nat) (tid : Option Nat) : State :=
  match s.group guid with
  | none => s.complete q 3
  | some g =>
    if g.stopping || s.walks.any fun w => decide (w.guid = guid) then s.stepWait q guid tid false
    else match tid with
      | none => s.stepGroup q guid g
      | some t => s.stepThread q guid g t

/-- A step that waits: it is tried again, and its command completes once its packet has been issued. -/
def State.pollStep (s : State) (q : Nat) : State :=
  match (s.tenant q).bind (·.cmdWait) with
  | some (.step guid _ true) => if s.idle guid then s.complete q 0 else s
  | some (.step guid tid false) => s.tryStep q guid tid
  | _ => s

/-- DEBUG_SINGLE_STEP (R176): one packet of the lowest slot that holds an eligible bundle, chosen by R17. -/
def execDebugSingleStep (q group : Nat) (s : State) : Out :=
  .next (s.debugHalted q group fun s _ => s.tryStep q group none)

/-- DEBUG_THREAD_STEP (R176): one packet for one thread alone; pass counters are unchanged. -/
def execDebugThreadStep (q group tid : Nat) (s : State) : Out :=
  .next (s.debugHalted q group fun s _ => s.tryStep q group (some tid))

/-! ### Context (R171, R175) -/

/-- Two halves of an item. -/
def halves (lo hi : Nat) : Dword := BitVec.ofNat 64 (lo % 2 ^ 32 + hi % 2 ^ 32 * 2 ^ 32)

/-- An item of a thread's context (R171); a trap level below the top counts the levels from itself down as its DEPTH. -/
def Thread.readItem (t : Thread) : CtxItem → Option Dword
  | .v n => (t.regs[n]?).map (·.setWidth 64)
  | .p n => (t.preds[n]?).map fun b => if b then 1 else 0
  | .h n => (t.handles[n]?).map (·.setWidth 64)
  | .point => some (epcOf t.point)
  | .fpmode => some (t.fpmode.setWidth 64)
  | .nflags => some (t.nflags.setWidth 64)
  | .batchCounter => some (t.batch.setWidth 64)
  | .runState => some (match t.run with
    | .runnable => 0
    | .parked _ _ _ => 1
    | .gathering => 2
    | .exited => 3
    | .retired => 4)
  | .ticketOut n => if n < 8 then some (BitVec.ofNat 64 (t.ticket n).out) else none
  | .ticketLast n => if n < 8 then some (((t.ticket n).last.map fun (r, st) => halves r.toNat st.toNat).getD 0) else none
  | .depth => some (BitVec.ofNat 64 t.traps.length)
  | .epc n => (t.traps[n]?).map (·.epc)
  | .cause n => (t.traps[n]?).map fun _ => BitVec.ofNat 64 (Thread.cause { t with traps := t.traps.drop n })
  | .tval n => (t.traps[n]?).map (·.tval)
  | .tmask n => (t.traps[n]?).map fun l => l.tmask.setWidth 64
  | .s _ | .regionRange _ | .regionKind _ | .regionClaim _ | .rowSlot _ | .cb2 _ | .fillSlot | .fillRow => none

/-- HANDLER, RANK, SCOPE and STATE of a region table entry as one word. -/
def Region.kindWord (r : Region) : Dword :=
  BitVec.ofNat 64 (r.handler % 2 ^ 57 + r.rank % 8 * 2 ^ 57 + (if r.scope then 2 ^ 60 else 0) + (if r.lost then 2 ^ 61 else 0))

/-- An item of a group's context, or of a thread of it; an empty region table entry has a range of 0 and no more. -/
def Group.readItem (g : Group) (tid : Nat) (item : CtxItem) : Option Dword :=
  match item with
  | .s n => g.sregs[n]?
  | .regionRange n => (g.regions[n]?).map fun r => (r.map fun r => halves r.base r.size).getD 0
  | .regionKind n => (g.regions.getD n none).map Region.kindWord
  | .regionClaim n => (g.regions.getD n none).map fun r => BitVec.ofNat 64 ((r.claim.map (· + 1)).getD 0)
  | .rowSlot n => (g.slot n).map fun r => BitVec.ofNat 64 r.va
  | .cb2 n => if n < 256 then some ((g.cb2.getD n 0).setWidth 64) else none
  | .fillSlot => some ((g.staging.fill.map fun p => halves p.1 1).getD 0)
  | .fillRow => g.staging.fill.map fun p => BitVec.ofNat 64 p.2
  | _ => (g.thread tid).bind fun t => t.readItem item

/-- A thread with its trap stack at a depth: levels leave from the top, and new ones are zero. -/
def Thread.setDepth (t : Thread) (n : Nat) : Thread :=
  let zero : TrapLevel := { epc := 0, word := 0, code := 0, tval := 0, tmask := 0 }
  { t with traps := List.replicate (n - t.traps.length) zero ++ t.traps.drop (t.traps.length - n) }

/-- A thread with one level of its trap stack changed. -/
def Thread.onLevel (t : Thread) (n : Nat) (f : TrapLevel → TrapLevel) : Thread :=
  { t with traps := (t.traps.zipIdx).map fun (l, i) => if i = n then f l else l }

/-- A thread with the ticket of a handle register changed. -/
def Thread.onTicket (t : Thread) (n : Nat) (f : Ticket → Ticket) : Thread :=
  { t with tickets := setAt t.tickets n (f (t.ticket n)) }

/-- A thread with an item of its context written; its point is written by the group, and its state by the machine. -/
def Thread.writeItem (t : Thread) (item : CtxItem) (v : Dword) : Thread :=
  match item with
  | .v n => { t with regs := setAt t.regs n (v.setWidth 32) }
  | .p n => { t with preds := setAt t.preds n (v.getLsbD 0) }
  | .h n => { t with handles := setAt t.handles n (v.setWidth 32) }
  | .fpmode => { t with fpmode := v.setWidth 2 }
  | .nflags => { t with nflags := v.setWidth 7 }
  | .batchCounter => { t with batch := v.setWidth 32 }
  | .ticketOut n => t.onTicket n fun k => { k with out := v.toNat }
  | .ticketLast n => t.onTicket n fun k =>
    { k with last := if v = 0 then none else some (v.setWidth 32, (v >>> 32).setWidth 32) }
  | .depth => t.setDepth v.toNat
  | .epc n => t.onLevel n fun l => { l with epc := v }
  | .cause n => t.onLevel n fun l => { l with code := v.setWidth 8, word := bits v.toNat 9 8 }
  | .tval n => t.onLevel n fun l => { l with tval := v }
  | .tmask n => t.onLevel n fun l => { l with tmask := v.setWidth 32 }
  | .s _ | .point | .runState | .regionRange _ | .regionKind _ | .regionClaim _ | .rowSlot _ | .cb2 _ | .fillSlot | .fillRow => t

/-- A value that an item may hold: no word 3 (R165), at most four trap levels (R164), a state of R12. -/
def itemOk (item : CtxItem) (v : Dword) : Bool :=
  match item with
  | .runState => decide (v.toNat ≤ 4)
  | .point => decide (bits v.toNat 55 54 ≠ 3)
  | .epc _ => decide (bits v.toNat 55 54 ≠ 3)
  | .cause _ => decide (bits v.toNat 9 8 ≠ 3)
  | .depth => decide (v.toNat ≤ 4)
  | _ => true

/-- A group with one entry of its region table changed. -/
def Group.onRegion (g : Group) (n : Nat) (f : Region → Region) : Group :=
  { g with regions := (g.regions.zipIdx).map fun (r, i) => if i = n then r.map f else r }

/-- A group with the range of a region table entry written: an empty entry is made, and SIZE = 0 empties one. -/
def Group.setRange (g : Group) (n base size : Nat) : Group :=
  { g with regions := (g.regions.zipIdx).map fun (r, i) =>
      if i ≠ n then r else if size = 0 then none
      else some { r.getD (Region.fresh base size 0 0 false) with base := base, size := size } }

/-- A thread's point written: a Runnable or Gathering one arrives there as a bundle of one, and gathers there if its packet asks for
it; a Parked one goes on there when its wait ends. -/
def Group.setPoint (g : Group) (now tid : Nat) (p : Point) : Group :=
  match (g.thread tid).map fun t => t.run with
  | some RunState.runnable => (g.arrive now tid p).tidy
  | some RunState.gathering => (g.arrive now tid p).tidy
  | some (RunState.parked w _ _) => g.onThread tid fun t => { t with point := p, word := p.word, run := .parked w p p }
  | _ => g.onThread tid fun t => { t with point := p, word := p.word }

/-- A group with an item written. -/
def Group.writeItem (g : Group) (now tid : Nat) (item : CtxItem) (v : Dword) : Group :=
  match item with
  | .s n => { g with sregs := setAt g.sregs n v }
  | .point => g.setPoint now tid (pointOf v)
  | .regionRange n => g.setRange n (bits v.toNat 31 0) (bits v.toNat 63 32)
  | .regionKind n => g.onRegion n fun r =>
    { r with handler := bits v.toNat 56 0, rank := bits v.toNat 59 57, scope := v.getLsbD 60, lost := v.getLsbD 61 }
  | .regionClaim n => g.onRegion n fun r => { r with claim := if v.toNat = 0 then none else some (v.toNat - 1) }
  | .rowSlot n => { g with rows := (g.rows.zipIdx).map fun (r, i) => if i = n then { r with va := v.toNat } else r }
  | .cb2 n => { g with cb2 := setAt (g.cb2 ++ List.replicate (256 - g.cb2.length) 0) n (v.setWidth 16) }
  | .fillSlot =>
    let fill := if v.getLsbD 32 then some (bits v.toNat 31 0, (g.staging.fill.map (·.2)).getD 0) else none
    { g with staging := { g.staging with fill := fill } }
  | .fillRow => { g with staging := { g.staging with fill := g.staging.fill.map fun p => (p.1, v.toNat) } }
  | _ => g.onThread tid fun t => t.writeItem item v

/-- A thread's state written (R12).  Runnable, it arrives at its point as a bundle of one; Gathering, it waits there for its quad or home
warp, as its packet asks; Exited or Retired, it ends as by EXIT.  DESIGN CHOICE (log 110): Parked is what a thread that waits stays, and
one that waits for nothing becomes Runnable. -/
def State.setRun (s : State) (guid : Nat) (g : Group) (t : Thread) (v : Nat) : State :=
  let quad := ((s.peek g t.point.pc).bind fun bs => gatherKind g.nregs bs t.word).getD false
  match v, t.run with
  | 0, .runnable => s
  | 0, _ => s.onGroup guid fun x => (x.arrive s.stime t.tid t.here).tidy
  | 1, .parked _ _ _ => s
  | 1, _ => s.onGroup guid fun x => (x.arrive s.stime t.tid t.here).tidy
  | 2, _ => s.onGroup guid fun x => (x.gatherAt quad t.tid t.word).tidy
  | 3, .exited => s
  | 3, .retired => s.onThread guid t.tid fun u => { u with run := .exited }
  | 3, _ => s.exitNow guid t.tid
  | _, .retired => s
  | _, .exited => s.onThread guid t.tid fun u => { u with run := .retired }
  | _, _ => (s.exitNow guid t.tid).onThread guid t.tid fun u => { u with run := .retired }

/-- An item of context written. -/
def State.writeItem (s : State) (guid : Nat) (g : Group) (tid : Nat) (item : CtxItem) (v : Dword) : State :=
  match item, g.thread tid with
  | .runState, some t => s.setRun guid g t v.toNat
  | _, _ => s.onGroup guid fun x => x.writeItem s.stime tid item v

/-- DEBUG_READ_CONTEXT (R175): the value goes to the answers of the queue. -/
def execDebugReadContext (q group tid : Nat) (item : CtxItem) (s : State) : Out :=
  .next (s.debugHalted q group fun s g => match g.readItem tid item with
    | none => s.complete q 3
    | some v => State.complete { s with debugOut := s.debugOut ++ [(q, v)] } q 0)

/-- DEBUG_WRITE_CONTEXT (R175). -/
def execDebugWriteContext (q group tid : Nat) (item : CtxItem) (value : Dword) (s : State) : Out :=
  .next (s.debugHalted q group fun s g =>
    if (g.readItem tid item).isNone ∨ itemOk item value = false then s.complete q 3
    else (s.writeItem group g tid item value).complete q 0)

end Sys2Proof.Machine
end

