-- ==== Sys2Proof/Machine/Fp.lean ====
section
/-! DEFINITION. Floating point, conversions, packed and dot-product instructions (R257, R259, R263 to R267, R285). -/

namespace Sys2Proof.Machine

/-- FADD: round_fp32(A + opB) (R263). -/
def execFadd (f : LA) (s : State) : Out :=
  .next (s.fpAlu f.k f.d fun c g t =>
    asWord (fpAdd 0 (c.mode t) (c.val t f.a).toNat (c.opB g t f.bs f.b).toNat))

/-- FMUL: round_fp32(A × opB) (R263). -/
def execFmul (f : LA) (s : State) : Out :=
  .next (s.fpAlu f.k f.d fun c g t =>
    asWord (fpMul 0 (c.mode t) (c.val t f.a).toNat (c.opB g t f.bs f.b).toNat))

/-- FFMA: round_fp32(A × opB + D), one rounding (R263). -/
def execFfma (f : LA) (s : State) : Out :=
  .next (s.fpAlu f.k f.d fun c g t =>
    asWord (fpFma 0 (c.mode t) (c.val t f.a).toNat (c.opB g t f.bs f.b).toNat (c.val t f.d).toNat))

/-- FMIN: no flag (R263). -/
def execFmin (f : LA) (s : State) : Out :=
  .next (s.aluLA f fpMin)

/-- FMAX: no flag (R263). -/
def execFmax (f : LA) (s : State) : Out :=
  .next (s.aluLA f fpMax)

/-- FCMP: p(PD) := the comparison COND (R264). -/
def execFcmp (f : LAc) (s : State) : Out :=
  .next (s.lanes fun c g t => t.setPred f.pd (condFp f.cond.toNat (c.val t f.a) (c.opB g t f.bs f.b)))

/-- FRND (R266). -/
def execFrnd (f : LFrnd) (s : State) : Out :=
  .next (s.fpLane f.d fun c _ t => fpRound (c.roundCode t f.rc.toNat) (c.val t f.a))

/-- FEXP2 (R55). -/
def execFexp2 (f : LA2) (s : State) : Out :=
  .next (s.fpLane f.d fun c _ t => fpExp2 (c.mode t) (c.val t f.a))

/-- FLOG2 (R56). -/
def execFlog2 (f : LA2) (s : State) : Out :=
  .next (s.fpLane f.d fun c _ t => fpLog2 (c.mode t) (c.val t f.a))

/-- FRCP (R57). -/
def execFrcp (f : LA2) (s : State) : Out :=
  .next (s.fpLane f.d fun c _ t => fpRcp (c.mode t) (c.val t f.a))

/-- FRSQ (R57). -/
def execFrsq (f : LA2) (s : State) : Out :=
  .next (s.fpLane f.d fun c _ t => fpRsq (c.mode t) (c.val t f.a))

/-- FSQRT (R57). -/
def execFsqrt (f : LA2) (s : State) : Out :=
  .next (s.fpLane f.d fun c _ t => fpSqrt (c.mode t) (c.val t f.a))

/-- CVT: element EIDX of A converted, zero-extended (R257). -/
def execCvt (f : LV) (s : State) : Out :=
  .next (s.fpLane f.d fun c _ t =>
    asWord (convertElem f.sfmt.toNat f.dfmt.toNat (c.roundCode t f.rnd.toNat) f.sat
      (element f.sfmt.toNat f.eidx.toNat (c.val t f.a))))

/-- CVTP's value of D (R257): elements EIDX and EIDX + 1 replaced, every other bit kept. -/
def Ctx.cvtpResult (c : Ctx) (t : Thread) (f : LV) : Word × Flags :=
  let conv := fun (r : Word) =>
    convertElem f.sfmt.toNat f.dfmt.toNat (c.roundCode t f.rnd.toNat) f.sat (element f.sfmt.toNat 0 r)
  let x0 := conv (c.val t f.a)
  let x1 := conv (c.val t f.b)
  (putElement f.dfmt.toNat (f.eidx.toNat + 1) (putElement f.dfmt.toNat f.eidx.toNat (c.val t f.d) x0.1) x1.1,
   x0.2 ||| x1.2)

/-- CVTP (R257). -/
def execCvtp (f : LV) (s : State) : Out :=
  .next (s.fpLane f.d fun c _ t => c.cvtpResult t f)

/-- PADD.bf16 (R285). -/
def execPaddBf16 (f : LA) (s : State) : Out :=
  .next (s.packedLA f fun mode a b _ => fpAdd 1 mode a b)

/-- PADD.f16 (R285). -/
def execPaddF16 (f : LA) (s : State) : Out :=
  .next (s.packedLA f fun mode a b _ => fpAdd 2 mode a b)

/-- PMUL.bf16 (R285). -/
def execPmulBf16 (f : LA) (s : State) : Out :=
  .next (s.packedLA f fun mode a b _ => fpMul 1 mode a b)

/-- PMUL.f16 (R285). -/
def execPmulF16 (f : LA) (s : State) : Out :=
  .next (s.packedLA f fun mode a b _ => fpMul 2 mode a b)

/-- PFMA.bf16 (R285). -/
def execPfmaBf16 (f : LA) (s : State) : Out :=
  .next (s.packedLA f fun mode a b d => fpFma 1 mode a b d)

/-- PFMA.f16 (R285). -/
def execPfmaF16 (f : LA) (s : State) : Out :=
  .next (s.packedLA f fun mode a b d => fpFma 2 mode a b d)

/-- The 8-bit integer format of a signedness bit (R47): 0 .s8, 1 .n8. -/
def byteFmt (n : Bool) : Nat := if n then 11 else 8

/-- DP4 (R259). -/
def execDp4 (f : LDp4) (s : State) : Out :=
  .next (s.fpAlu f.k f.d fun c g t =>
    accClamp (c.val t f.d) (dotSum (byteFmt f.sga) (byteFmt f.sgb) 4 (c.val t f.a) (c.opB g t f.bs f.b)))

/-- DP8; B4 on a 0b1000 code (R259). -/
def execDp8 (f : LA) (s : State) : Out :=
  .next (s.fpAlu f.k f.d fun c g t =>
    let r := accClamp (c.val t f.d) (dotSum 9 9 8 (c.val t f.a) (c.opB g t f.bs f.b))
    (r.1, r.2 ||| anyB4 (c.val t f.a) ||| anyB4 (c.opB g t f.bs f.b)))

end Sys2Proof.Machine
end

