-- ==== Sys2Proof/Machine/Sync.lean ====
section
/-! DEFINITION. Named synchronisation groups (R126 to R141, R269): the H instructions, which send messages, and the
home, which applies them in its arrival order. -/

namespace Sys2Proof.Machine

/-! ### Handles -/

/-- CORE of a handle. -/
def hCore (h : Word) : Nat := h.toNat / 2 ^ 22
/-- SLOT of a handle. -/
def hSlot (h : Word) : Nat := bits h.toNat 21 14
/-- TAG of a handle. -/
def hTag (h : Word) : Nat := bits h.toNat 13 0

/-- Stale by its own bits: it names no home (R130). -/
def selfStale (h : Word) : Bool := decide (hTag h = 0) || decide (Config.cores ≤ hCore h)

/-- A slot of a synchronisation unit; a missing entry is free with last tag 0. -/
def State.syncSlot (s : State) (core i : Nat) : SyncSlot :=
  (mget (s.core core).sync i).getD { lastTag := 0, group := none }

/-- The state with a slot set. -/
def State.setSlot (s : State) (core i : Nat) (x : SyncSlot) : State :=
  s.setCore core { s.core core with sync := mset (s.core core).sync i x }

/-- The live group that a handle names (R127). -/
def State.named (s : State) (h : Word) : Option SyncGroup :=
  if selfStale h then none
  else
    let x := s.syncSlot (hCore h) (hSlot h)
    if x.lastTag = hTag h then x.group else none

/-- The state with the group of a handle set. -/
def State.setNamed (s : State) (h : Word) (y : Option SyncGroup) : State :=
  s.setSlot (hCore h) (hSlot h) { s.syncSlot (hCore h) (hSlot h) with group := y }

/-- A member of a group. -/
def SyncGroup.member (y : SyncGroup) (guid tid : Nat) : Option Member :=
  y.members.find? fun m => decide (m.guid = guid) && decide (m.tid = tid)

/-! ### Results (R134, R135) -/

/-- comb(x, y) of a reduction kind (R134). -/
def combine (kind : HKind) (x y : Word) : Word :=
  match kind with
  | 4 => x + y
  | 5 => x + y
  | 6 => (asWord (fpAdd 0 0 x.toNat y.toNat)).1
  | 7 => minS x y
  | 8 => minN x y
  | 9 => fpMin x y
  | 10 => maxS x y
  | 11 => maxN x y
  | _ => fpMax x y

/-- comb over leaves that may be empty. -/
def combOpt (kind : HKind) : Option Word → Option Word → Option Word
  | some x, some y => some (combine kind x y)
  | some x, none => some x
  | none, y => y

/-- One level of the tree: neighbours combined; an odd last leaf stands beside an empty one. -/
def treeLevel (kind : HKind) : List Word → List Word
  | x :: y :: l => combine kind x y :: treeLevel kind l
  | l => l

/-- The tree of R134 over contributions in ascending join sequence; at most 13 levels serve 4,096 members. -/
def treeFold (kind : HKind) : Nat → List Word → Word
  | 0, l => l.headD 0
  | n + 1, l => treeFold kind n (treeLevel kind l)

/-- An arrival inserted by ascending join sequence. -/
def insertBySeq (a : Arrival) : List Arrival → List Arrival
  | [] => [a]
  | b :: l => if a.seq ≤ b.seq then a :: b :: l else b :: insertBySeq a l

/-- The result of a generation of a kind (R132, R134). -/
def genResult (kind : HKind) (as : List Arrival) : Word :=
  let kept := as.filter fun a => decide (a.kind = kind)
  match kind with
  | 0 => 0
  | 1 => if kept.all fun a => a.value != 0 then 1 else 0
  | 2 => if kept.any fun a => a.value != 0 then 1 else 0
  | 3 => BitVec.ofNat 32 (kept.filter fun a => a.value != 0).length
  | _ => treeFold kind 13 ((kept.foldl (fun l a => insertBySeq a l) []).map (·.value))

/-- The status word of R135. -/
def statusWord (count gen : Nat) (noarr mism diss chg : Bool) : Word :=
  BitVec.ofNat 32 (chg.toNat + diss.toNat * 2 + mism.toNat * 4 + noarr.toNat * 8 + gen % 2 ^ 11 * 2 ^ 8 +
    count % 2 ^ 13 * 2 ^ 19)

/-- Two sets of join sequences differ. -/
def setsDiffer (a b : List Nat) : Bool := !(a.all b.contains && b.all a.contains)

/-! ### The home -/

/-- A delivery to a member's ticket (R133): it fills the ticket, and is an acquire at device scope (R137). -/
def State.deliver (s : State) (guid tid h : Nat) (result status : Word) : State :=
  let s1 := s.onMember guid tid fun t =>
    let k := t.ticket h
    { t with tickets := setAt t.tickets h { k with out := k.out - 1, last := some (result, status) } }
  match s.group guid with
  | some x => s1.dropCluster (clusterOf x.core)
  | none => s1

/-- The group after a generation completes, its held arrivals still to be applied, and the deliveries (R132).  DESIGN CHOICE
(log 101): the sets that CHG compares are of join sequences, so a thread that leaves and joins again counts as another member. -/
def SyncGroup.complete (y : SyncGroup) : SyncGroup × List (Arrival × Word × Word) :=
  let kind := y.opened.getD 0
  let now := y.arrivals.map (·.seq)
  let result := genResult kind y.arrivals
  let status := fun (a : Arrival) =>
    statusWord y.arrivals.length y.gen false (decide (a.kind ≠ 0) && decide (a.kind ≠ kind)) false
      (setsDiffer now y.prevSet)
  let out := y.arrivals.filterMap fun a =>
    if y.members.any fun m => decide (m.seq = a.seq) then some (a, result, status a) else none
  ({ y with members := y.members.map fun m => { m with state := .counted }, gen := (y.gen + 1) % 2 ^ 32,
            opened := none, arrivals := [], held := [], prevSet := now, nowSet := [] }, out)

/-- A generation that is open and for which every counted member has arrived (R132). -/
def SyncGroup.full (y : SyncGroup) : Bool :=
  y.opened.isSome && !(y.members.any fun m => decide (m.state = .counted))

/-- An arrival at the home (R131): held, or recorded, opening the generation. -/
def SyncGroup.arrive (y : SyncGroup) (a : Arrival) : SyncGroup :=
  match y.members.find? fun m => decide (m.seq = a.seq) with
  | none => y
  | some m =>
    if m.state = .counted then
      let open_ := y.opened.isNone
      { y with
        prevSet := if open_ && decide (y.gen = 0) && y.prevSet.isEmpty then y.members.map (·.seq) else y.prevSet,
        opened := if open_ then some a.kind else y.opened,
        arrivals := y.arrivals ++ [a],
        members := y.members.map fun q => if q.seq = a.seq then { q with state := .arrived } else q }
    else { y with held := y.held ++ [a] }

/-- Arrivals applied one after another, each generation completed as it fills; `n` bounds the arrivals applied and the
generations completed. -/
def SyncGroup.run : Nat → SyncGroup → List Arrival → List (Arrival × Word × Word) →
    SyncGroup × List (Arrival × Word × Word)
  | 0, y, todo, out => ({ y with held := y.held ++ todo }, out)
  | n + 1, y, todo, out =>
    if y.full then
      let (y', o) := y.complete
      SyncGroup.run n y' (y.held ++ todo) (out ++ o)
    else match todo with
      | [] => (y, out)
      | a :: rest => SyncGroup.run n (y.arrive a) rest out

/-- The group settled after a change, with new arrivals, and its deliveries.  Each generation but the open one is opened by one
of the arrivals that are held or new, and each of those is looked at once in each generation, which bounds the steps. -/
def SyncGroup.settle (y : SyncGroup) (todo : List Arrival) : SyncGroup × List (Arrival × Word × Word) :=
  y.run ((y.held.length + todo.length + 2) * (y.held.length + todo.length + 2)) todo []

/-- The group of a handle is set to its settled form and its deliveries are made. -/
def State.settleGroup (s : State) (h : Word) (y : SyncGroup) (todo : List Arrival) : State :=
  let (y', out) := y.settle todo
  out.foldl (fun s (a, r, st) => s.deliver a.guid a.tid a.h r st) (s.setNamed h (some y'))

/-- HDISS at the home (R138): every outstanding ticket is delivered with result 0 and DISS, which clears its handle
register; the slot is freed. -/
def State.dissolve (s : State) (h : Word) (y : SyncGroup) : State :=
  y.members.foldl (fun s m => match s.member m.guid m.tid with
    | none => s
    | some t =>
      if t.handle m.h = h ∧ 0 < (t.ticket m.h).out then
        (s.deliver m.guid m.tid m.h 0 (statusWord y.arrivals.length y.gen false false true false)).onMember m.guid
          m.tid fun u =>
            { u with handles := setAt u.handles m.h 0,
                     tickets := setAt u.tickets m.h { u.ticket m.h with out := 0 } }
      else s) (s.setNamed h none)

/-- A member goes (R131): its arrival stays in the generation, a held one does not; the last one dissolves the
group. -/
def State.depart (s : State) (h : Word) (y : SyncGroup) (m : Member) : State :=
  let y' := { y with members := y.members.filter fun q => decide (q.seq ≠ m.seq),
                     held := y.held.filter fun a => decide (a.seq ≠ m.seq) }
  if y'.members.isEmpty then s.dissolve h y' else s.settleGroup h y' []

/-- The thread waiting for the acknowledgement of message `id` goes on, changed by `f` (R128). -/
def State.ack (s : State) (m : HMsg) (f : Thread → Thread) : State :=
  match s.thread m.guid m.tid with
  | some t => match t.run with
    | .parked (.hAck i) _ resume =>
      if i = m.id then (s.onThread m.guid m.tid f).goOn m.guid m.tid resume else s
    | _ => s
  | none => s

/-- The thread waits on for a delivery to handle register `h` (R133). -/
def State.waitOn (s : State) (m : HMsg) (h : Nat) (dest : HDest) : State :=
  s.onThread m.guid m.tid fun t => match t.run with
    | .parked (.hAck i) p q => if i = m.id then { t with run := .parked (.hGen h dest) p q } else t
    | _ => t

/-- The thread traps at its parked packet (R130, R131). -/
def State.nack (s : State) (m : HMsg) (code : Byte) (tval : Dword) (which : Nat) : State :=
  match s.thread m.guid m.tid with
  | some t => match t.run with
    | .parked (.hAck i) p _ => if i = m.id then s.wakeTrap m.guid m.tid p code tval which else s
    | _ => s
  | none => s

/-- The handle register that a message's instruction names. -/
def HOp.reg : HOp → Nat
  | .create h _ _ _ _ => h
  | .join h => h
  | .leave h => h
  | .arrive h _ _ => h
  | .wait h => h
  | .query h _ => h
  | .dissolve h => h
  | .gone => 0

/-- The lowest free slot of a core's unit (R127). -/
def State.freeSlot (s : State) (core : Nat) : Option Nat :=
  (List.range 256).find? fun i => (s.syncSlot core i).group.isNone

/-- The spill area lies in one Live region of a group (R129): 64-byte aligned, local. -/
def Group.spillOk (g : Group) (spill cap : Nat) : Bool :=
  decide (spill % 64 = 0) && decide (spill < Config.padBytes) &&
  (match g.regionAt spill with
    | some (_, r) => !r.lost && decide (spill + (64 + 16 * cap) ≤ r.base + r.size)
    | none => false)

/-- A handle register set with a fresh ticket (R133). -/
def Thread.setHandle (t : Thread) (h : Nat) (v : Word) : Thread :=
  { t with handles := setAt t.handles h v, tickets := setAt t.tickets h Ticket.fresh }

/-- The thread of a message waits for its acknowledgement: it has not ended, and no trap has taken it away. -/
def State.waitsAck (s : State) (m : HMsg) : Bool :=
  match s.thread m.guid m.tid with
  | none => false
  | some t => match t.run with
    | .parked (.hAck i) _ _ => decide (i = m.id)
    | _ => false

/-- HCREATE at its home (R129).  A creator that has ended meanwhile is Gone at once, and its group dissolves (R131). -/
def State.applyCreate (s : State) (m : HMsg) (h : Nat) (d : Code) (pd : Pred) (spill cap : Nat) : State :=
  match s.group m.guid with
  | none => s
  | some g =>
    if !g.spillOk spill cap then s.nack m 0x10 (BitVec.ofNat 64 spill) 0
    else match s.freeSlot m.home with
      | none => s.ack m fun t => (t.setReg d 1).setPred pd false
      | some i =>
        let tag := if (s.syncSlot m.home i).lastTag = 16383 then 1 else (s.syncSlot m.home i).lastTag + 1
        let first : Member := { guid := m.guid, tid := m.tid, h := h, seq := 0, state := .counted }
        let y : SyncGroup := { cap := cap, spill := spill, owner := m.guid, members := [first], nextSeq := 1, gen := 0,
                               opened := none, arrivals := [], held := [], nowSet := [], prevSet := [] }
        (s.setSlot m.home i { lastTag := tag, group := if s.waitsAck m then some y else none }).ack m fun t =>
          ((t.setHandle h (handleOf m.home i tag)).setReg d (handleOf m.home i tag)).setPred pd true

/-- A cluster belongs to a tenant (R130). -/
def State.ownsCluster (s : State) (tenant cluster : Nat) : Bool :=
  match s.tenant tenant with
  | some t => t.cfg.clusters.contains cluster
  | none => false

/-- HJOIN at the home (R130, R131).  DESIGN CHOICE (log 99): where several conditions of trap 0x41 hold, %tval is the lowest code.
A thread that has ended meanwhile is Gone at once. -/
def State.applyJoin (s : State) (m : HMsg) (h : Nat) : State :=
  match s.group m.guid, s.thread m.guid m.tid with
  | some g, some t =>
    match s.named m.handle with
    | none => s.nack m 0x40 (m.handle.setWidth 64) 0
    | some y =>
      if !s.ownsCluster g.rec_.tenant (clusterOf m.home) then s.nack m 0x40 (m.handle.setWidth 64) 0
      else if t.handle h ≠ 0 then s.nack m 0x41 1 0
      else if y.cap ≤ y.members.length then s.nack m 0x41 2 0
      else if (y.member m.guid m.tid).isSome then s.nack m 0x41 3 0
      else if !s.waitsAck m then s
      else
        let q : Member := { guid := m.guid, tid := m.tid, h := h, seq := y.nextSeq,
                            state := if y.opened.isSome then .pending else .counted }
        (s.setNamed m.handle (some { y with members := y.members ++ [q], nextSeq := y.nextSeq + 1 })).ack m
          fun t => t.setHandle h m.handle
  | _, _ => s

/-- An operation by a member at the home (R130 to R138).  DESIGN CHOICE (log 100): MEMBERS of HQUERY counts every member, one that
has arrived too. -/
def State.applyMember (s : State) (m : HMsg) (y : SyncGroup) (q : Member) : State :=
  match m.op with
  | .leave h => (s.depart m.handle y q).ack m fun t => t.setHandle h 0
  | .arrive h kind value =>
    let a : Arrival := { guid := m.guid, tid := m.tid, h := h, seq := q.seq, kind := kind, value := value }
    let s1 := s.onThread m.guid m.tid fun t =>
      { t with tickets := setAt t.tickets h { t.ticket h with out := (t.ticket h).out + 1 } }
    let s2 := s1.settleGroup m.handle y [a]
    (match m.then_ with
      | some dest => s2.waitOn m h dest
      | none => s2.ack m id)
  | .wait h => (match m.then_ with
      | some dest => s.waitOn m h dest
      | none => s)
  | .query _ d =>
    let word := BitVec.ofNat 32 (y.opened.isSome.toNat * 2 ^ 5 + y.arrivals.length * 2 ^ 6 +
      y.members.length * 2 ^ 19)
    s.ack m fun t => (t.setRegAt d 0 word).setRegAt d 1 (BitVec.ofNat 32 y.gen)
  | .dissolve h => (s.dissolve m.handle y).ack m fun t => t.setHandle h 0
  | .gone => s.depart m.handle y q
  | .create _ _ _ _ _ => s
  | .join _ => s

/-- A message is applied at its home (R131). -/
def State.applyMsg (s : State) (m : HMsg) : State :=
  match m.op with
  | .create h d pd spill cap => s.applyCreate m h d pd spill cap
  | .join h => s.applyJoin m h
  | _ =>
    match s.named m.handle with
    | none => s.nack m 0x40 (m.handle.setWidth 64) (m.op.reg + 1)
    | some y => match y.member m.guid m.tid with
      | none => s.nack m 0x40 (m.handle.setWidth 64) (m.op.reg + 1)
      | some q => s.applyMember m y q

/-- An arrival is a release: it follows the accesses that its thread issued before it (R137). -/
def State.released (s : State) (m : HMsg) : Bool :=
  match m.op with
  | .arrive _ _ _ => !s.behind m.guid m.tid m.id
  | _ => true

/-- A message is the oldest of its thread in flight (R131), and an arrival's release has been made (R137). -/
def State.oldestMsg (s : State) (m : HMsg) : Bool :=
  s.released m && decide ((s.hmsgs.find? fun n => decide (n.guid = m.guid) && decide (n.tid = m.tid)).map (·.id) = some m.id)

/-- H_MESSAGE_APPLY (R131): the messages of one thread arrive in its program order. -/
def execHMessageApply (id : Nat) (s : State) : Out :=
  match s.hmsgs.find? fun m => decide (m.id = id) with
  | none => .next s
  | some m =>
    if s.oldestMsg m then
      .next (State.applyMsg { s with hmsgs := s.hmsgs.filter fun n => decide (n.id ≠ id) } m)
    else .next s

/-! ### The instructions (R128, R269) -/

/-- A message is sent to the home of a handle, and the thread parks for its acknowledgement; one whose thread an earlier word
of the issue has parked is sent when that wait ends (log 39). -/
def State.send (s : State) (c : Ctx) (tid home : Nat) (handle : Word) (op : HOp) (then_ : Option HDest) : State :=
  let m : HMsg := { id := s.nextId, home := home, guid := c.guid, tid := tid, handle := handle, op := op,
                    then_ := then_ }
  if c.chained && c.waits.any (fun w => decide (w.1 = tid)) then s.await tid (.hSend home handle op then_)
  else ({ s.bump with hmsgs := s.hmsgs ++ [m] }).await tid (.hAck s.nextId)

/-- An instruction by a handle register: a handle stale by its own bits traps 0x40 at issue (R130). -/
def State.sendBy (s : State) (c : Ctx) (t : Thread) (h : Nat) (op : HOp) (then_ : Option HDest) : State :=
  let v := (c.source t).handle h
  if selfStale v then s.raise t.tid 0x40 (v.setWidth 64) 0 (h + 1) else s.send c t.tid (hCore v) v op then_

/-- HCREATE (R129). -/
def execHcreate (f : LHcreate) (s : State) : Out :=
  .next (s.eachActive fun s c g t =>
    let spill := (c.valAt t f.b 0).toNat
    let cap := (c.valAt t f.b 1).toNat
    if cap = 0 ∨ 4096 < cap then s.illegal c t.tid
    else if !g.spillOk spill cap then s.raise t.tid 0x10 (BitVec.ofNat 64 spill) 0 0
    else if (c.source t).handle f.h.toNat ≠ 0 then s.raise t.tid 0x41 1 0 0
    else s.send c t.tid g.core 0 (.create f.h.toNat f.d f.pd spill cap) none)

/-- HJOIN (R130, R131). -/
def execHjoin (f : LHb) (s : State) : Out :=
  .next (s.eachActive fun s c _ t =>
    let v := c.val t f.b
    if selfStale v then s.raise t.tid 0x40 (v.setWidth 64) 0 0
    else s.send c t.tid (hCore v) v (.join f.h.toNat) none)

/-- HLEAVE (R131). -/
def execHleave (h : BitVec 3) (s : State) : Out :=
  .next (s.eachActive fun s c _ t => s.sendBy c t h.toNat (.leave h.toNat) none)

/-- HBAR: HARR followed by HWAIT, writing the status alone (R128). -/
def execHbar (f : LHd) (s : State) : Out :=
  .next (s.eachActive fun s c _ t => s.sendBy c t f.h.toNat (.arrive f.h.toNat 0 0) (some (.status f.d)))

/-- The contribution of an arrival (R200, R269): nothing, a predicate, or a register. -/
def Ctx.contribution (c : Ctx) (t : Thread) (kind : Nat) (b : Code) : Word :=
  if kind = 0 then 0
  else if kind ≤ 3 then (if c.pred t (BitVec.ofNat 3 b.toNat) then 1 else 0)
  else c.val t b

/-- HARR (R132). -/
def execHarr (f : LHarr) (s : State) : Out :=
  .next (s.eachActive fun s c _ t =>
    s.sendBy c t f.h.toNat (.arrive f.h.toNat f.kind.toNat (c.contribution t f.kind.toNat f.b)) none)

/-- HWAIT (R133); a home lost while an arrival was outstanding traps here, once (R139). -/
def execHwait (f : LHd) (s : State) : Out :=
  .next (s.eachActive fun s c _ t =>
    match (t.ticket f.h.toNat).lost with
    | some (code, tval, handler) => s.raise t.tid code tval 0 handler (some f.h.toNat)
    | none => s.sendBy c t f.h.toNat (.wait f.h.toNat) (some (.pair f.d)))

/-- HVOTE: HARR with a vote, followed by HWAIT (R128). -/
def execHvote (f : LHkdb) (s : State) : Out :=
  .next (s.eachActive fun s c _ t =>
    s.sendBy c t f.h.toNat (.arrive f.h.toNat f.kind.toNat (c.contribution t f.kind.toNat f.b)) (some (.pair f.d)))

/-- HRED: HARR with a contribution, followed by HWAIT (R128). -/
def execHred (f : LHkdb) (s : State) : Out :=
  .next (s.eachActive fun s c _ t =>
    s.sendBy c t f.h.toNat (.arrive f.h.toNat f.kind.toNat (c.contribution t f.kind.toNat f.b)) (some (.pair f.d)))

/-- HQUERY (R136). -/
def execHquery (f : LHd) (s : State) : Out :=
  .next (s.eachActive fun s c _ t => s.sendBy c t f.h.toNat (.query f.h.toNat f.d) none)

/-- HQUERY.hdl: the home is not visited (R128). -/
def execHqueryHdl (f : LHd) (s : State) : Out :=
  .next (s.lanes fun c _ t => t.setReg f.d ((c.source t).handle f.h.toNat))

/-- HDISS (R138). -/
def execHdiss (h : BitVec 3) (s : State) : Out :=
  .next (s.eachActive fun s c _ t => s.sendBy c t h.toNat (.dissolve h.toNat) none)

/-- A thread waiting for a delivery finds its ticket filled (R133): the result goes to its registers. -/
def Thread.takeDelivery (t : Thread) (h : Nat) (dest : HDest) : Thread :=
  let (r, st) := (t.ticket h).last.getD (0, statusWord 0 0 true false false false)
  match dest with
  | .status d => t.setReg d st
  | .pair d => (t.setRegAt d 0 r).setRegAt d 1 st

end Sys2Proof.Machine
end

