-- ==== Sys2Proof/Machine/Uniform.lean ====
section
/-! DEFINITION. Uniform instructions, which run once for each issuing bundle (R19, R302 to R305); SLD is in
Memops. -/

namespace Sys2Proof.Machine

/-- A uniform register of the issue's group written, once for the bundle (R19). -/
def State.setUni (s : State) (d : Code) (f : Ctx → Group → Dword) : State :=
  s.issue fun c g => s.setGroup c.guid { g with sregs := setAt g.sregs d.toNat (f c g) }

/-- A uniform operation over s(A) and opB (R302). -/
def State.uniLA (s : State) (f : LAu) (op : Dword → Dword → Dword) : State :=
  s.setUni f.d fun c g => op (c.uni g f.a.toNat) (c.uniB g f.b)

/-- SADD (R303). -/
def execSadd (f : LAu) (s : State) : Out :=
  .next (s.uniLA f (· + ·))

/-- SSUB (R303). -/
def execSsub (f : LAu) (s : State) : Out :=
  .next (s.uniLA f (· - ·))

/-- SMUL (R303). -/
def execSmul (f : LAu) (s : State) : Out :=
  .next (s.uniLA f (· * ·))

/-- SAND (R303). -/
def execSand (f : LAu) (s : State) : Out :=
  .next (s.uniLA f (· &&& ·))

/-- SOR (R303). -/
def execSor (f : LAu) (s : State) : Out :=
  .next (s.uniLA f (· ||| ·))

/-- SXOR (R303). -/
def execSxor (f : LAu) (s : State) : Out :=
  .next (s.uniLA f (· ^^^ ·))

/-- SSHL: 0 for shifts of 64 or more (R303). -/
def execSshl (f : LAu) (s : State) : Out :=
  .next (s.uniLA f (fun a n => a <<< n.toNat))

/-- SSHR: 0 for shifts of 64 or more (R303). -/
def execSshr (f : LAu) (s : State) : Out :=
  .next (s.uniLA f (fun a n => a >>> n.toNat))

/-- SCMP: p(PD) := the comparison in every active thread (R304). -/
def execScmp (f : LAuc) (s : State) : Out :=
  .next (s.lanes fun c g t =>
    t.setPred f.pd (condInt f.cond.toNat (c.uni g f.a.toNat) (c.uniB g f.b)))

/-- SMOV: s(D) := opB (R303). -/
def execSmov (f : LSmov) (s : State) : Out :=
  .next (s.setUni f.d fun c g => c.uniB g f.b)

/-- SMOVL's value by HALF (R195, R303). -/
def smovlValue (half : BitVec 2) (old : Dword) (lit : Word) : Dword :=
  if half.toNat = 0 then lit.signExtend 64
  else if half.toNat = 1 then lit.setWidth 64
  else lit ++ old.setWidth 32

/-- SMOVL (R303). -/
def execSmovl (f : LSmovl) (s : State) : Out :=
  .next (s.setUni f.d fun c g => smovlValue f.half (c.uni g f.d.toNat) f.lit)

/-- The lane value of the lowest active home lane (R21). -/
def Ctx.firstVal (c : Ctx) (g : Group) (a : Code) : Word :=
  match c.active.head? with
  | some tid => match g.thread tid with
    | some t => c.val t a
    | none => 0
  | none => 0

/-- SFIRST (R305). -/
def execSfirst (f : LSfirst) (s : State) : Out :=
  .next (s.setUni f.d fun c g => (c.firstVal g f.a).setWidth 64)

end Sys2Proof.Machine
end

