-- ==== Sys2Proof/Machine/Dispatch.lean ====
section
/-! DEFINITION. The meaning of every row of the opcode table, one arm each. -/

namespace Sys2Proof.Machine

/-- The meaning of an instruction of the issue under way, or of an event. -/
def exec (i : Instr) (s : State) : Host.Outcome State Fault Refusal :=
  match i with
  | .nop => Sys2Proof.Machine.execNop s
  | .exit => Sys2Proof.Machine.execExit s
  | .yield => Sys2Proof.Machine.execYield s
  | .trap imm => Sys2Proof.Machine.execTrap imm s
  | .bkpt imm => Sys2Proof.Machine.execBkpt imm s
  | .xret => Sys2Proof.Machine.execXret s
  | .evwait ev => Sys2Proof.Machine.execEvwait ev s
  | .sysr f => Sys2Proof.Machine.execSysr f s
  | .sysw f => Sys2Proof.Machine.execSysw f s
  | .bra f => Sys2Proof.Machine.execBra f s
  | .bru f => Sys2Proof.Machine.execBru f s
  | .call f => Sys2Proof.Machine.execCall f s
  | .brx f => Sys2Proof.Machine.execBrx f s
  | .ret => Sys2Proof.Machine.execRet s
  | .iadd f => Sys2Proof.Machine.execIadd f s
  | .isub f => Sys2Proof.Machine.execIsub f s
  | .imul f => Sys2Proof.Machine.execImul f s
  | .imulhS32 f => Sys2Proof.Machine.execImulhS32 f s
  | .imulhN32 f => Sys2Proof.Machine.execImulhN32 f s
  | .imad f => Sys2Proof.Machine.execImad f s
  | .iminS32 f => Sys2Proof.Machine.execIminS32 f s
  | .iminN32 f => Sys2Proof.Machine.execIminN32 f s
  | .imaxS32 f => Sys2Proof.Machine.execImaxS32 f s
  | .imaxN32 f => Sys2Proof.Machine.execImaxN32 f s
  | .iabs f => Sys2Proof.Machine.execIabs f s
  | .icmp f => Sys2Proof.Machine.execIcmp f s
  | .lea f => Sys2Proof.Machine.execLea f s
  | .sel f => Sys2Proof.Machine.execSel f s
  | .mov f => Sys2Proof.Machine.execMov f s
  | .and f => Sys2Proof.Machine.execAnd f s
  | .or f => Sys2Proof.Machine.execOr f s
  | .xor f => Sys2Proof.Machine.execXor f s
  | .shl f => Sys2Proof.Machine.execShl f s
  | .shr f => Sys2Proof.Machine.execShr f s
  | .sar f => Sys2Proof.Machine.execSar f s
  | .bfx f => Sys2Proof.Machine.execBfx f s
  | .bfi f => Sys2Proof.Machine.execBfi f s
  | .popc f => Sys2Proof.Machine.execPopc f s
  | .clz f => Sys2Proof.Machine.execClz f s
  | .brev f => Sys2Proof.Machine.execBrev f s
  | .plop f => Sys2Proof.Machine.execPlop f s
  | .movi f => Sys2Proof.Machine.execMovi f s
  | .movl f => Sys2Proof.Machine.execMovl f s
  | .fadd f => Sys2Proof.Machine.execFadd f s
  | .fmul f => Sys2Proof.Machine.execFmul f s
  | .ffma f => Sys2Proof.Machine.execFfma f s
  | .fmin f => Sys2Proof.Machine.execFmin f s
  | .fmax f => Sys2Proof.Machine.execFmax f s
  | .fcmp f => Sys2Proof.Machine.execFcmp f s
  | .frnd f => Sys2Proof.Machine.execFrnd f s
  | .fexp2 f => Sys2Proof.Machine.execFexp2 f s
  | .flog2 f => Sys2Proof.Machine.execFlog2 f s
  | .frcp f => Sys2Proof.Machine.execFrcp f s
  | .frsq f => Sys2Proof.Machine.execFrsq f s
  | .fsqrt f => Sys2Proof.Machine.execFsqrt f s
  | .cvt f => Sys2Proof.Machine.execCvt f s
  | .cvtp f => Sys2Proof.Machine.execCvtp f s
  | .paddBf16 f => Sys2Proof.Machine.execPaddBf16 f s
  | .paddF16 f => Sys2Proof.Machine.execPaddF16 f s
  | .pmulBf16 f => Sys2Proof.Machine.execPmulBf16 f s
  | .pmulF16 f => Sys2Proof.Machine.execPmulF16 f s
  | .pfmaBf16 f => Sys2Proof.Machine.execPfmaBf16 f s
  | .pfmaF16 f => Sys2Proof.Machine.execPfmaF16 f s
  | .dp4 f => Sys2Proof.Machine.execDp4 f s
  | .dp8 f => Sys2Proof.Machine.execDp8 f s
  | .qxch f => Sys2Proof.Machine.execQxch f s
  | .xlane f => Sys2Proof.Machine.execXlane f s
  | .wvote f => Sys2Proof.Machine.execWvote f s
  | .mmfBf16 f => Sys2Proof.Machine.execMmfBf16 f s
  | .mmfF16 f => Sys2Proof.Machine.execMmfF16 f s
  | .mmfE4m3 f => Sys2Proof.Machine.execMmfE4m3 f s
  | .mmfE5m2 f => Sys2Proof.Machine.execMmfE5m2 f s
  | .mmfE2m1 f => Sys2Proof.Machine.execMmfE2m1 f s
  | .mmfS8 f => Sys2Proof.Machine.execMmfS8 f s
  | .sadd f => Sys2Proof.Machine.execSadd f s
  | .ssub f => Sys2Proof.Machine.execSsub f s
  | .smul f => Sys2Proof.Machine.execSmul f s
  | .sand f => Sys2Proof.Machine.execSand f s
  | .sor f => Sys2Proof.Machine.execSor f s
  | .sxor f => Sys2Proof.Machine.execSxor f s
  | .sshl f => Sys2Proof.Machine.execSshl f s
  | .sshr f => Sys2Proof.Machine.execSshr f s
  | .scmp f => Sys2Proof.Machine.execScmp f s
  | .smov f => Sys2Proof.Machine.execSmov f s
  | .smovl f => Sys2Proof.Machine.execSmovl f s
  | .sld f => Sys2Proof.Machine.execSld f s
  | .sfirst f => Sys2Proof.Machine.execSfirst f s
  | .ld f => Sys2Proof.Machine.execLd f s
  | .st f => Sys2Proof.Machine.execSt f s
  | .lds f => Sys2Proof.Machine.execLds f s
  | .sts f => Sys2Proof.Machine.execSts f s
  | .atom f => Sys2Proof.Machine.execAtom f s
  | .acas f => Sys2Proof.Machine.execAcas f s
  | .red f => Sys2Proof.Machine.execRed f s
  | .fence f => Sys2Proof.Machine.execFence f s
  | .promote f => Sys2Proof.Machine.execPromote f s
  | .ctadd f => Sys2Proof.Machine.execCtadd f s
  | .ctwait f => Sys2Proof.Machine.execCtwait f s
  | .ctread f => Sys2Proof.Machine.execCtread f s
  | .cseal d => Sys2Proof.Machine.execCseal d s
  | .cwait a => Sys2Proof.Machine.execCwait a s
  | .cstat f => Sys2Proof.Machine.execCstat f s
  | .ralloc f => Sys2Proof.Machine.execRalloc f s
  | .rfree f => Sys2Proof.Machine.execRfree f s
  | .rrank f => Sys2Proof.Machine.execRrank f s
  | .rstat f => Sys2Proof.Machine.execRstat f s
  | .rstatClaim f => Sys2Proof.Machine.execRstatClaim f s
  | .hcreate f => Sys2Proof.Machine.execHcreate f s
  | .hjoin f => Sys2Proof.Machine.execHjoin f s
  | .hleave h => Sys2Proof.Machine.execHleave h s
  | .hbar f => Sys2Proof.Machine.execHbar f s
  | .harr f => Sys2Proof.Machine.execHarr f s
  | .hwait f => Sys2Proof.Machine.execHwait f s
  | .hvote f => Sys2Proof.Machine.execHvote f s
  | .hred f => Sys2Proof.Machine.execHred f s
  | .hquery f => Sys2Proof.Machine.execHquery f s
  | .hqueryHdl f => Sys2Proof.Machine.execHqueryHdl f s
  | .hdiss h => Sys2Proof.Machine.execHdiss h s
  | .grangeRead f => Sys2Proof.Machine.execGrangeRead f s
  | .grangeTake f => Sys2Proof.Machine.execGrangeTake f s
  | .cpy f => Sys2Proof.Machine.execCpy f s
  | .mx f => Sys2Proof.Machine.execMx f s
  | .mxdrain f => Sys2Proof.Machine.execMxdrain f s
  | .attn f => Sys2Proof.Machine.execAttn f s
  | .attnMerge f => Sys2Proof.Machine.execAttnMerge f s
  | .cbload f => Sys2Proof.Machine.execCbload f s
  | .enq f => Sys2Proof.Machine.execEnq f s
  | .ropen f => Sys2Proof.Machine.execRopen f s
  | .rtake f => Sys2Proof.Machine.execRtake f s
  | .rclose slot => Sys2Proof.Machine.execRclose slot s
  | .rpoll f => Sys2Proof.Machine.execRpoll f s
  | .kvfind f => Sys2Proof.Machine.execKvfind f s
  | .kvins f => Sys2Proof.Machine.execKvins f s
  | .kvinsSeal f => Sys2Proof.Machine.execKvinsSeal f s
  | .kvdel f => Sys2Proof.Machine.execKvdel f s
  | .kvpfx f => Sys2Proof.Machine.execKvpfx f s
  | .kvpfxIns f => Sys2Proof.Machine.execKvpfxIns f s
  | .kvpfxDel f => Sys2Proof.Machine.execKvpfxDel f s
  | .kvTableAction id => Sys2Proof.Machine.execKvTableAction id s
  | .doorbellWrite tenant tail => Sys2Proof.Machine.execDoorbellWrite tenant tail s
  | .launchCommand q addr => Sys2Proof.Machine.execLaunchCommand q addr s
  | .budgetCommand q watts => Sys2Proof.Machine.execBudgetCommand q watts s
  | .budgetCommandComplete draw => Sys2Proof.Machine.execBudgetCommandComplete draw s
  | .tenantCreate q id cfg => Sys2Proof.Machine.execTenantCreate q id cfg s
  | .tenantChange q id cfg => Sys2Proof.Machine.execTenantChange q id cfg s
  | .tenantDisable q id => Sys2Proof.Machine.execTenantDisable q id s
  | .mapCommand q id gpa entry => Sys2Proof.Machine.execMapCommand q id gpa entry s
  | .translationDrainComplete q => Sys2Proof.Machine.execTranslationDrainComplete q s
  | .zeroCommand q id gpa entry => Sys2Proof.Machine.execZeroCommand q id gpa entry s
  | .zeroFillComplete q => Sys2Proof.Machine.execZeroFillComplete q s
  | .keyCommand q slot key lo hi => Sys2Proof.Machine.execKeyCommand q slot key lo hi s
  | .queryBudget q => Sys2Proof.Machine.execQueryBudget q s
  | .queryCapacity q => Sys2Proof.Machine.execQueryCapacity q s
  | .queryTemperatures q => Sys2Proof.Machine.execQueryTemperatures q s
  | .queryBankMaps q => Sys2Proof.Machine.execQueryBankMaps q s
  | .queryCounters q => Sys2Proof.Machine.execQueryCounters q s
  | .debugHalt q group => Sys2Proof.Machine.execDebugHalt q group s
  | .debugSingleStep q group => Sys2Proof.Machine.execDebugSingleStep q group s
  | .debugThreadStep q group tid => Sys2Proof.Machine.execDebugThreadStep q group tid s
  | .debugResume q group => Sys2Proof.Machine.execDebugResume q group s
  | .debugReadContext q group tid item => Sys2Proof.Machine.execDebugReadContext q group tid item s
  | .debugWriteContext q group tid item value => Sys2Proof.Machine.execDebugWriteContext q group tid item value s
  | .remapCompleteRetirement q column bank => Sys2Proof.Machine.execRemapCompleteRetirement q column bank s
  | .remapReadmit q column bank => Sys2Proof.Machine.execRemapReadmit q column bank s
  | .remappingStepComplete column => Sys2Proof.Machine.execRemappingStepComplete column s
  | .invalidateRange q lo hi => Sys2Proof.Machine.execInvalidateRange q lo hi s
  | .invalidateAll q => Sys2Proof.Machine.execInvalidateAll q s
  | .faultReplay q token => Sys2Proof.Machine.execFaultReplay q token s
  | .faultAbort q token => Sys2Proof.Machine.execFaultAbort q token s
  | .preemptCommand q group => Sys2Proof.Machine.execPreemptCommand q group s
  | .powerOnReset lit failed => Sys2Proof.Machine.execPowerOnReset lit failed s
  | .hostAccess tenant va write len => Sys2Proof.Machine.execHostAccess tenant va write len s
  | .fabricLaunchPacket source record => Sys2Proof.Machine.execFabricLaunchPacket source record s
  | .fabricPeerAccess tenant peer gpa op => Sys2Proof.Machine.execFabricPeerAccess tenant peer gpa op s
  | .flitReceive port crcOk tag body => Sys2Proof.Machine.execFlitReceive port crcOk tag body s
  | .rdmaWrite tenant gpa data => Sys2Proof.Machine.execRdmaWrite tenant gpa data s
  | .rdmaRead tenant gpa len => Sys2Proof.Machine.execRdmaRead tenant gpa len s
  | .rdmaSend port data => Sys2Proof.Machine.execRdmaSend port data s
  | .launchQueueAccept tenant => Sys2Proof.Machine.execLaunchQueueAccept tenant s
  | .taskRecordPlacement sender receiver => Sys2Proof.Machine.execTaskRecordPlacement sender receiver s
  | .groupStart core => Sys2Proof.Machine.execGroupStart core s
  | .coreRequest core => Sys2Proof.Machine.execCoreRequest core s
  | .gangStart cluster => Sys2Proof.Machine.execGangStart cluster s
  | .gangMigration cluster => Sys2Proof.Machine.execGangMigration cluster s
  | .classPreemption launch => Sys2Proof.Machine.execClassPreemption launch s
  | .issueSlotSelect core slot => Sys2Proof.Machine.execIssueSlotSelect core slot s
  | .mergeTick core => Sys2Proof.Machine.execMergeTick core s
  | .thermalSample temps => Sys2Proof.Machine.execThermalSample temps s
  | .repairRetirementPending column bank => Sys2Proof.Machine.execRepairRetirementPending column bank s
  | .plannedReduction core banks notice => Sys2Proof.Machine.execPlannedReduction core banks notice s
  | .lossPoint core => Sys2Proof.Machine.execLossPoint core s
  | .thermalEmergency core banks => Sys2Proof.Machine.execThermalEmergency core banks s
  | .relight core banks => Sys2Proof.Machine.execRelight core banks s
  | .preemption group => Sys2Proof.Machine.execPreemption group s
  | .resumption saved core crcOk => Sys2Proof.Machine.execResumption saved core crcOk s
  | .hangReport group => Sys2Proof.Machine.execHangReport group s
  | .translationWalk id => Sys2Proof.Machine.execTranslationWalk id s
  | .faultEntryTransfer die => Sys2Proof.Machine.execFaultEntryTransfer die s
  | .hMessageApply id => Sys2Proof.Machine.execHMessageApply id s
  | .promoteArrival id => Sys2Proof.Machine.execPromoteArrival id s
  | .memoryAccessComplete id replies => Sys2Proof.Machine.execMemoryAccessComplete id replies s
  | .copyChunkLanding id chunk => Sys2Proof.Machine.execCopyChunkLanding id chunk s
  | .mxComplete id => Sys2Proof.Machine.execMxComplete id s
  | .attnStepComplete id => Sys2Proof.Machine.execAttnStepComplete id s
  | .attnMergeComplete id => Sys2Proof.Machine.execAttnMergeComplete id s
  | .mxdrainChunkLanding id chunk => Sys2Proof.Machine.execMxdrainChunkLanding id chunk s
  | .mxdrainComplete id => Sys2Proof.Machine.execMxdrainComplete id s
  | .cbloadInstall id => Sys2Proof.Machine.execCbloadInstall id s
  | .rowActivation column => Sys2Proof.Machine.execRowActivation column s
  | .rowReady group slot => Sys2Proof.Machine.execRowReady group slot s
  | .rtakeBeat id => Sys2Proof.Machine.execRtakeBeat id s
  | .refreshDue column bank => Sys2Proof.Machine.execRefreshDue column bank s
  | .refreshGraceEnd column bank => Sys2Proof.Machine.execRefreshGraceEnd column bank s
  | .refreshEnd column bank => Sys2Proof.Machine.execRefreshEnd column bank s
  | .openLimitReached group slot => Sys2Proof.Machine.execOpenLimitReached group slot s
  | .ramblerCheck die => Sys2Proof.Machine.execRamblerCheck die s
  | .parasolCapAndClockTrade caps clocks => Sys2Proof.Machine.execParasolCapAndClockTrade caps clocks s

end Sys2Proof.Machine
end

