-- ==== Sys2Proof/Machine/Actions.lean ====
section
/-! DEFINITION. What the step adds around the meanings: the waits that end when their condition holds (R12, R72, R118,
R120, R133, R253, R254, R261, R265, R297, R322), the answers to records that no row of the table takes (R179), and the
choice of what moves next (log 1). -/

namespace Sys2Proof.Machine

/-! ### Waits that end when their condition holds (R12) -/

/-- A counter outside scratchpad cannot be corrected, in its unit or on its way (R103, R185). -/
def State.counterBad (s : State) (core key : Nat) : Bool :=
  (decide (key < Config.padBase) || decide (Config.peerBase ≤ key)) && s.readBad core key 8

/-- A thread parked on a counter, at its place (R120): it acquires and goes on; a counter that cannot be corrected traps (R103). -/
def State.pollPlace (s : State) (x : Group) (g tid key addr : Nat) (target : Dword) (sc : Nat) (next : Point) : State :=
  if (s.pendingLine key 8).isSome then s
  else if s.counterBad x.core key then
    (if s.roomFor x.core then (s.fatalAt g tid 0x21 addr 0).unmark (.core x.core) else s)
  else if target.toNat ≤ s.devNum key 8 then
    ((s.askRun x.rec_.tenant (upFrom key 8)).ctwaitMet x.core sc key).goOn g tid next
  else s

/-- A parked thread's wait meets a replayable fault (R167): an entry of KIND 1; its wait follows the driver's answer. -/
def State.waitFault (s : State) (x : Group) (g tid addr : Nat) : State :=
  if !s.roomFor x.core then s
  else
    (s.addFault { FaultEntry.blank with
      kind := 1, tenant := x.rec_.tenant, core := x.core, gid := BitVec.ofNat 32 x.gid, tid := BitVec.ofNat 32 tid,
      addr := addr }).onThread g tid fun t => match t.run with
        | .parked w p q => { t with run := .parked (.fault s.nextToken addr 0) p q, later := (w, t.parkWord) :: t.later }
        | _ => t

/-- A thread parked on a counter: one in DRAM is looked for where the tables place it now (R167, R180), once its column and bank serve
it (R88, R90). -/
def State.pollCounter (s : State) (x : Group) (g tid key addr : Nat) (target : Dword) (sc : Nat) (next : Point) : State :=
  if Config.padBase ≤ key then s.pollPlace x g tid key addr target sc next
  else if !s.noRemap || !s.engServed x.core x.rec_.tenant addr 8 0 then s
  else match s.xlateEng x.core x.rec_.tenant addr 0 with
    | .ok pa => s.pollPlace x g tid pa addr target sc next
    | .no .fatal => s.dueNow g tid 0x20 (BitVec.ofNat 64 addr) 0
    | .no (.error _) => s.dueNow g tid 0x21 (BitVec.ofNat 64 addr) 0
    | _ => s.waitFault x g tid addr

/-- A thread parked in the delivery of a generation (R133); a home lost while the thread was away traps it (R139). -/
def State.pollDelivery (s : State) (g tid : Nat) (t : Thread) (h : Nat) (dest : HDest) (issue next : Point) : State :=
  match (t.ticket h).lost with
  | some (code, tval, handler) => (s.wakeTrap g tid issue code tval handler).reported g tid (some h)
  | none =>
    if (t.ticket h).out = 0 then (s.onThread g tid fun u => u.takeDelivery h dest).goOn g tid next else s

/-- A thread parked on a row slot makes its issue again once the slot is neither Queued nor Activating (R91). -/
def State.pollRow (s : State) (x : Group) (g tid slot : Nat) (issue : Point) : State :=
  match x.slot slot with
  | some r => if r.state = .queued ∨ r.state = .activating then s else s.wake g tid issue
  | none => s.wake g tid issue

/-- One parked thread as its wait stands now (R12). -/
def State.pollWait (s : State) (x : Group) (g : Nat) (t : Thread) (w : Wait) (issue next : Point) : State :=
  match w with
  | .walk id => if s.walks.any fun k => decide (k.id = id) then s else s.wake g t.tid issue
  | .column pa => if s.served pa then s.wake g t.tid issue else s
  | .fault _ _ _ => s
  | .faultQueue => if s.roomFor x.core then s.wake g t.tid issue else s
  | .line key => if s.linePending (key / 128 * 128) then s else s.wake g t.tid issue
  | .row slot _ => s.pollRow x g t.tid slot issue
  | .refill slot room =>
    if !room then s.pollRow x g t.tid slot issue else if s.takeRoom x.core 1 then s.wake g t.tid issue else s
  | .takeRoom js => if s.takeRoom x.core js.length then s.wake g t.tid issue else s
  | .copyRoom =>
    if (s.copies.filter fun c => decide (c.core = x.core)).length < Config.copiesPerCore then s.wake g t.tid issue else s
  | .oldBatch => if s.oldBatchOpen g t then s else s.wake g t.tid issue
  | .counter key addr target sc => s.pollCounter x g t.tid key addr target sc next
  | .hAck _ => s
  | .hSend _ _ _ _ => s
  | .hGen h dest => s.pollDelivery g t.tid t h dest issue next
  | .capacity =>
    if t.capFlag then (s.onThread g t.tid fun u => { u with capFlag := false }).goOn g t.tid next else s
  | .batches n => if s.batchesDone g t n then (s.batchesMet x.core).goOn g t.tid next else s
  | .kv _ => s
  | .drained => if s.drained g t.tid then (s.acquire x.core 2).goOn g t.tid next else s
  | .grange _ _ => s
  | .leaving => if s.loading g t.tid then s else s.exitNow g t.tid

/-- A thread of a group polled where it is parked. -/
def State.pollThread (s : State) (p : Nat × Nat) : State :=
  match s.group p.1, s.thread p.1 p.2 with
  | some x, some t => match t.run with
    | .parked w issue next => s.pollWait x p.1 t w issue next
    | _ => s
  | _, _ => s

/-- Every parked thread is polled. -/
def State.pollThreads (s : State) : State :=
  (s.waiters.map fun w => (w.1, w.2.1)).foldl State.pollThread s

/-- A DONE signal-add whose fault entry found no room is made again (R30, R322). -/
def State.retryDone (s : State) : State :=
  match s.dones.find? fun d => !d.queued with
  | none => s
  | some d => if s.dieRoom 0 then State.doneSignal { s with dones := s.dones.erase d } d.tenant d.addr else s

/-- A pre-emption on command completes once its group has left its core (R179), with status 5 where the save pool had no
room in the end. -/
def State.pollPreempt (s : State) (q : Nat) : State :=
  match (s.tenant q).bind (·.cmdWait) with
  | some (.preempt guid) => match s.group guid with
    | none => s.complete q 0
    | some g => if g.stopping then s else s.complete q 5
  | _ => s

/-- What one queue's firmware does by itself. -/
def State.pollQueue (s : State) (q : Nat) : State := ((s.pollPreempt q).pollStep q).answerUnknown q

/-- Launches that waited only for accesses of ended groups complete (R30, log 40). -/
def State.endLaunches (s : State) : State :=
  (s.launches.filter fun (_, l) => !l.done && !l.ended.isEmpty).foldl (fun s (k, _) => s.launchCheck k) s

/-- The frontiers as the threads stand (R11). -/
def State.tidyAll (s : State) : State := { s with groups := s.groups.map fun (k, g) => (k, g.tidy) }

/-- After every step: waits whose condition holds end, and firmware answers what it can. -/
def State.settle (s : State) : State :=
  let s1 := s.placeHeld.pollThreads.endLaunches.retryDone
  ((s1.tenants.map (·.1)).foldl State.pollQueue s1).tidyAll

/-! ### What may move -/

/-- A move of the machine. -/
inductive Move
  | run (i : Instr)
  | goOn (c : Ctx)
  | tick
  deriving DecidableEq, Repr

/-- A list without repeats. -/
def distinct (l : List Nat) : List Nat := l.foldl (fun acc x => if acc.contains x then acc else acc ++ [x]) []

/-- Cores with a resident group. -/
def State.busyCores (s : State) : List Nat := distinct (s.groups.map fun (_, g) => g.core)

/-- Columns whose refresh is followed (log 26): those that have a state, and those of cores with a group. -/
def State.activeColumns (s : State) : List Nat := distinct (s.columns.map (·.1) ++ s.busyCores)

/-- Every row slot of a resident group. -/
def State.allSlots (s : State) : List (Nat × Nat) :=
  s.groups.flatMap fun (k, g) => (List.range g.rows.length).map fun i => (k, i)

/-- Refreshes that fall due, whose grace ends, or that end. -/
def State.refreshMoves (s : State) : List Instr :=
  let banks := fun (c : Nat) => (s.column c).refresh.map (·.1)
  (s.activeColumns.flatMap fun c => ((List.range 24).filter (s.refreshDueNow c)).map (Instr.refreshDue c)) ++
  (s.columns.flatMap fun (c, _) => (banks c).map (Instr.refreshGraceEnd c)) ++
  (s.columns.flatMap fun (c, _) => (banks c).map (Instr.refreshEnd c))

/-- Events whose time has come. -/
def State.timedMoves (s : State) : List Instr :=
  (s.allSlots.map fun (k, i) => Instr.rowReady k i) ++ (s.allSlots.map fun (k, i) => Instr.openLimitReached k i) ++
  s.refreshMoves ++ ((s.columns.filter fun (_, c) => !c.queue.isEmpty).map fun (c, _) => Instr.rowActivation c) ++
  ((s.cores.filter fun (_, c) => !c.chosen.isEmpty && decide (c.due ≤ s.stime)).map fun (c, _) => Instr.lossPoint c) ++
  (if s.stime % 2400 = 0 then [Instr.thermalSample []] else []) ++
  ((s.takes.filter s.beatReady).map fun t => Instr.rtakeBeat t.id) ++
  ((s.busyCores.filter s.tickDue).map Instr.mergeTick) ++ (s.groups.map fun (k, _) => Instr.hangReport k)

/-- A list taken up from a place and back round to it. -/
def rotated {α : Type} (l : List α) (k : Nat) : List α := l.drop (k % max 1 l.length) ++ l.take (k % max 1 l.length)

/-- Cores of the clusters that launches with untaken indices may run on, in ascending order. -/
def State.workCores (s : State) : List Nat :=
  let cs := distinct (s.ranges.flatMap fun r => (s.launchOf r).toList.flatMap fun l => s.clustersOf l.rec_.tenant)
  ((List.range Config.clusters).filter cs.contains).flatMap fun c =>
    upFrom (c * Config.coresPerCluster) Config.coresPerCluster

/-- The cores' starts (R34). -/
def State.startMoves (s : State) : List Move := if s.ready then s.workCores.map fun c => .run (.groupStart c) else []

/-- What a slot of a core may do: its packet goes on, or it chooses (R41, R189). -/
def State.slotMove (s : State) (core slot : Nat) : List Move :=
  match s.packets.find? fun c => decide (c.core = core) && decide (c.slot = slot) with
  | some c => if s.mayContinue c then [.goOn c] else []
  | none => [.run (.issueSlotSelect core slot)]

/-- Moves that this clock makes, taken up by the schedule at `k`: timed events, then the cores' own starts (R268), then the issues
of each core's slots in ascending order (R19, R41). -/
def State.clockMoves (s : State) (k : Nat) : List Move :=
  (rotated s.timedMoves k).map Move.run ++ s.startMoves ++
  ((rotated s.busyCores k).flatMap fun c => (List.range 4).flatMap (s.slotMove c))

/-- Work in progress that an agent may take further. -/
def State.workMoves (s : State) : List Instr :=
  (s.walks.map fun w => Instr.translationWalk w.id) ++
  ((s.accesses.filter fun a => a.lanes.all fun l => !l.peer).map fun a => Instr.memoryAccessComplete a.id []) ++
  (s.accesses.filterMap fun a => match a.kind with
    | .promote _ _ _ => some (Instr.promoteArrival a.id)
    | _ => none) ++
  (s.copies.flatMap fun c => c.owed.map fun ch => Instr.copyChunkLanding c.id ch.num) ++
  (s.engs.flatMap fun e => match e.op with
    | .mx _ _ _ => [Instr.mxComplete e.id]
    | .attn _ _ _ _ => [Instr.attnStepComplete e.id]
    | .merge _ => [Instr.attnMergeComplete e.id]
    | .drain _ _ _ owed _ _ _ => (owed.map fun ch => Instr.mxdrainChunkLanding e.id ch.num) ++ [Instr.mxdrainComplete e.id]
    | .cbload _ _ => [Instr.cbloadInstall e.id]) ++
  (s.kvs.map fun q => Instr.kvTableAction q.id) ++
  (s.hmsgs.map fun m => Instr.hMessageApply m.id) ++
  ((distinct (s.dieQ.map (·.1))).map Instr.faultEntryTransfer)

/-- The query that firmware may answer, and the commands that may complete. -/
def State.firmwareMoves (s : State) : List Instr :=
  (s.tenants.flatMap fun (q, t) =>
    if t.noCommand then []
    else [Instr.queryBudget q, .queryCapacity q, .queryTemperatures q, .queryBankMaps q, .queryCounters q,
      .translationDrainComplete q, .zeroFillComplete q]) ++
  ((s.columns.filter fun (_, c) => c.remap.isSome).map fun (c, _) => Instr.remappingStepComplete c)

/-- Cores on which a saved group may be tried. -/
def State.homeCores (s : State) (v : Saved) : List Nat :=
  match v.home, v.group.moveTo with
  | some h, _ => [h]
  | none, some m => [m]
  | none, none => (s.clustersOf v.group.rec_.tenant).flatMap fun c =>
      upFrom (c * Config.coresPerCluster) Config.coresPerCluster

/-- The dispatcher's moves (R30 to R43, R171, R172). -/
def State.dispatchMoves (s : State) : List Instr :=
  (s.tenants.filterMap fun (q, t) => if t.launchQ.isEmpty then none else some (Instr.launchQueueAccept q)) ++
  (s.tasks.map fun t => Instr.taskRecordPlacement t.sender t.receiver) ++
  ((distinct (s.ranges.map (·.cluster))).map Instr.gangStart) ++
  ((s.groups.filter fun (_, g) => g.stopping).map fun (k, _) => Instr.preemption k) ++
  (s.saved.flatMap fun v => (s.homeCores v).map fun c => Instr.resumption v.guid c true) ++
  ((distinct (s.ranges.map (·.cluster))).map Instr.gangMigration) ++
  ((distinct (s.ranges.map (·.launch))).map Instr.classPreemption)

/-- Moves that may come now or later; time goes on, and a rambler may check an entry (R158). -/
def State.freeMoves (s : State) : List Move :=
  (if s.ready then (s.workMoves ++ s.firmwareMoves ++ s.dispatchMoves).map Move.run
    else (s.firmwareMoves ++ [Instr.powerOnReset (s.sched.getD 1 0) []]).map Move.run) ++
  [Move.tick] ++ ((distinct (s.enrolled.map (·.die))).map fun d => Move.run (.ramblerCheck d))

/-- Cores with a thread that waits on its request by GRANGE.take (R268). -/
def State.askingCores (s : State) : List Nat := s.busyCores.filter fun c => (s.grangeWaiter c).isSome

/-- A request of a core numbered higher has been served in this clock: the core's own comes in the next (R231). -/
def State.servedAbove (s : State) (core : Nat) : Bool :=
  s.cores.any fun (k, c) => decide (core < k) && decide (c.served = s.stime + 1)

/-- What a clock makes before the next: the cores' starts, then their requests, in ascending core number (R34, R231). -/
def State.lastMoves (s : State) : List Move :=
  let cores := (sortBy (fun a b => decide (a ≤ b)) (distinct (s.workCores ++ s.askingCores))).filter fun c => !s.servedAbove c
  if s.ready then s.startMoves ++ cores.map fun c => .run (.coreRequest c) else []

/-! ### Moving -/

/-- A move made. -/
def State.make (s : State) : Move → Out
  | .run i => exec i s
  | .goOn c => .next (s.continue_ c)
  | .tick => .next { s with stime := s.stime + 1 }

/-- A move changes the machine. -/
def State.effective (s : State) (m : Move) : Bool :=
  match s.make m with
  | .next t => decide (t ≠ s)
  | .fault _ => true
  | .refused _ => true

/-- Some slot of a core has an issue to make, now or in a later clock, whatever the other agents do. -/
def State.coresBusy (s : State) : Bool :=
  s.packets.any s.packetReady || s.busyCores.any fun c => (List.range 4).any fun i =>
    (s.packets.all fun p => !(decide (p.core = c) && decide (p.slot = i))) && !(s.slotGroups c i).isEmpty

/-- The last moves of a clock, then the next clock. -/
def State.endClock (s : State) : Move := (s.lastMoves.find? s.effective).getD .tick

/-- The move that the schedule picks: among those that this clock makes, else among those that may come now; the clock ends
once no core has a start or a request left, and once a request has been served nothing but starts and requests is left of it
(R231).  Where the schedule is empty, agents other than the cores move when no core has an issue to make, and in every 420th
clock (log 1). -/
def State.pick (s : State) : Move :=
  let k := s.sched.headD 0
  if s.servedAt = s.stime + 1 then s.endClock
  else match (s.clockMoves k).find? s.effective with
    | some m => m
    | none =>
      let free := if s.sched.isEmpty && s.coresBusy && decide (s.stime % 420 ≠ 0) then Move.tick
        else ((rotated s.freeMoves k).find? s.effective).getD .tick
      match free with
      | .tick => s.endClock
      | m => m

/-- The machine moves by itself. -/
def State.move (s : State) : Out := State.make { s with sched := s.sched.tail } s.pick

/-- A copy, a take, an engine or KV command or a walk of a number is in flight. -/
def State.underWay (s : State) (id : Nat) : Bool :=
  (s.copies.any fun c => decide (c.id = id)) || (s.takes.any fun t => decide (t.id = id)) ||
  (s.engs.any fun e => decide (e.id = id)) || (s.kvs.any fun k => decide (k.id = id)) || s.walks.any fun w => decide (w.id = id)

/-- Data on a die network meets an uncorrectable error (R185): that of an access at once, other data as it is next used. -/
def State.netError (s : State) (m : NetMark) : State :=
  let mark := if s.marked m then s else { s with netBad := s.netBad ++ [m] }
  match m with
  | .item id =>
    if s.accesses.any fun a => decide (a.id = id) then
      { s with accesses := s.accesses.map fun a => if a.id = id then { a with netBad := true } else a }
    else if s.underWay id then mark else s
  | .core c => if c < Config.cores then mark else s
  | .outside => mark

/-- What the outside world does (log 1). -/
def State.outside (s : State) : Input → Out
  | .quiet => s.move
  | .event i => exec i s
  | .hostMemory addr bs => .next (s.write (Config.hostBase + addr) bs)
  | .badUnit u => .next (if Config.padBase ≤ u * 64 ∨ s.badUnits.contains u then s else { s with badUnits := s.badUnits ++ [u] })
  | .corrected c => .next (if Config.cores ≤ c then s
      else s.setColumn c { s.column c with corrected := (s.column c).corrected + 1 })
  | .netError m => .next (s.netError m)
  | .domain n => .next (if n ≤ 192 then { s with domain := n } else s)

/-- An input waits until the columns and banks that it meets serve it: an access from outside, or a launch command (R88, R90,
log 89); and any input while a request has been served in this clock, which nothing but starts and requests follows (R231). -/
def Input.waits (s : State) (i : Input) : Bool :=
  decide (s.servedAt = s.stime + 1) || (match i with
    | .event (.hostAccess tenant va write len) => !s.hostReady tenant va write len
    | .event (.fabricPeerAccess tenant _ gpa op) => !s.peerReady tenant gpa op
    | .event (.rdmaWrite tenant gpa data) => !s.guestReady tenant gpa data.length false true
    | .event (.rdmaRead tenant gpa len) => !s.guestReady tenant gpa len true false
    | .event (.launchCommand q addr) => !s.hostServed q addr
    | _ => false)

/-- One step between issues: the outside world's, or the machine's own. -/
def State.act (s : State) : Out :=
  match s.inputs with
  | [] => s.move
  | i :: rest => if i.waits s then s.move else State.outside { s with inputs := rest } i

/-- One step, settled. -/
def State.stepOnce (s : State) : Out :=
  andThen (match s.cur with
    | some _ => runIssueWith exec s
    | none => s.act) fun t => .next t.settle

/-! ### A program's first instruction, placed from outside (log 30) -/

/-- The packet that holds an instruction alone: a transfer ends it (R190), anything else begins it; the other words are
NOPs. -/
def packetOf (w0 w1 : Word) : Instr → Nat × List Byte
  | i =>
    let nop : Word := 0x00800000
    match i.twoWords, i.isTransfer with
    | true, false => (0, bytesOfWord w0 ++ bytesOfWord w1 ++ bytesOfWord nop)
    | true, true => (1, bytesOfWord nop ++ bytesOfWord w0 ++ bytesOfWord w1)
    | false, false => (0, bytesOfWord w0 ++ bytesOfWord nop ++ bytesOfWord nop)
    | false, true => (2, bytesOfWord nop ++ bytesOfWord nop ++ bytesOfWord w0)

/-- A launch of one thread with 120 registers, 8 row slots and 4 tiles for tenant 0, its entry at packet 0. -/
def placedLaunch : Launch :=
  { rec_ := { LaunchRec.ofNat 0 with threads := 1, regs8 := 15, gang := 1, rows := 8, acc := 4, hi := 1 },
    uimg := [], regions := [], seen := [0], ended := [], done := false, hidden := [] }

/-- The translation of page 0 for tenant 0. -/
def placedPage : TlbEntry :=
  { tenant := 0, va := 0, size := 4096, pa := 0, rd := true, wr := true, ex := true, peer := false, gpa := 0 }

/-- The state in which the instruction of an opcode-table word is the next to run: bring-up has ended, the packet lies in
DRAM at address 0, core 0 translates its page, and a group of one thread has fetched it. -/
def State.placeWord (s : State) (nbits w : Nat) : State :=
  let v := w % 2 ^ nbits
  let i := (decodeTableWord nbits w).getD .nop
  let (first, bytes) := packetOf (BitVec.ofNat 32 v) (BitVec.ofNat 32 (v / 2 ^ 32)) i
  let guid := s.nextId
  let launch := s.nextId + 1
  let p : Point := { prio := 0, pc := 0, word := first }
  let g := (Group.start s.stime 0 0 launch placedLaunch none [(0, 0, 1)] []).onThread 0 fun t => { t with point := p, word := first }
  let h := ({ g with bundles := [] }).tidy
  let s1 := (s.write 0 bytes).setCore 0 ((s.core 0).addTlb placedPage)
  { s1 with
    ready := true, nextId := s.nextId + 2, launches := mset s.launches launch placedLaunch,
    groups := mset s.groups guid h, inputs := [],
    cur := some (Ctx.start 0 0 guid [0] p bytes false) }

end Sys2Proof.Machine
end

