-- ==== Sys2Proof/Machine/Step.lean ====
section
/-! DEFINITION. One step of the machine, and the placing of an instruction where the next step runs it. -/

namespace Sys2Proof.Machine

/-- One step: the issue under way, or, between issues, what the outside world or the machine does next. -/
def step (s : State) : Host.Outcome State Fault Refusal := s.stepOnce

/-- The state in which `step` runs the instruction of an opcode-table word next (log 30). -/
def State.withFetchWord (s : State) (nbits w : Nat) : State := s.placeWord nbits w

end Sys2Proof.Machine
end

