-- ==== Sys2Proof/Safety.lean ====
section
/-! DEFINITION. What a safe run is, and the shapes of effect in which the claims are stated. -/

namespace Sys2Proof

open Machine

/-! ### Runs -/

/-- A step gives a next state: it neither faults nor is refused. -/
def Steps (s t : State) : Prop := step s = .next t

/-- States that a run from a state reaches. -/
inductive Reaches (s : State) : State → Prop
  | here : Reaches s s
  | later (t u : State) : Reaches s t → Steps t u → Reaches s u

/-- The run from a state is safe: no state it reaches stops. -/
def SafeRun (s : State) : Prop := ∀ t, Reaches s t → ∃ u, Steps t u

/-- The memory list is in canonical form (log 14), and the record of frames whose unlisted bytes are not zero has rising keys. -/
def MemOk (s : State) : Prop := risingFrom 0 s.noisy = true ∧ Memory.wf s.noisy s.mem

/-- The budget in force is one that R179 allows. -/
def BudgetOk (s : State) : Prop := 1800 ≤ s.budget ∧ s.budget ≤ 3000

/-- An instruction answers a next state of which a property holds. -/
def Gives (i : Instr) (s : State) (p : State → Prop) : Prop := ∃ t, exec i s = .next t ∧ p t

/-! ### Exact values and rounding -/

/-- The rational number that a finite value is. -/
def Machine.Val.rat : Machine.Val → Rat
  | .fin neg m e => (if neg then -1 else 1) * m * (2 : Rat) ^ e
  | _ => 0

/-- The order of the values that are no NaN: −∞ below every finite value, +∞ above; the two zeros are equal. -/
def Machine.Val.Less : Machine.Val → Machine.Val → Prop
  | .nan, _ => False
  | _, .nan => False
  | .inf a, .inf b => a = true ∧ b = false
  | .inf a, .fin _ _ _ => a = true
  | .fin _ _ _, .inf b => b = false
  | .fin n m e, .fin n' m' e' => (Machine.Val.fin n m e).rat < (Machine.Val.fin n' m' e').rat

/-- The lesser of two FP32 words as FMIN takes it (R263): the canonical NaN for a NaN; −0 lies below +0. -/
structure FloatLeast (x y v : Word) : Prop where
  nan : Machine.dec32 x = .nan ∨ Machine.dec32 y = .nan → v = 0x7FC00000#32
  one : Machine.dec32 x ≠ .nan → Machine.dec32 y ≠ .nan → v = x ∨ v = y
  least : Machine.dec32 x ≠ .nan → Machine.dec32 y ≠ .nan →
    ¬ (Machine.dec32 x).Less (Machine.dec32 v) ∧ ¬ (Machine.dec32 y).Less (Machine.dec32 v)
  zeros : (x = 0x80000000#32 ∧ y = 0#32) ∨ (x = 0#32 ∧ y = 0x80000000#32) → v = 0x80000000#32

/-- The greater of two FP32 words as FMAX takes it (R263). -/
structure FloatGreatest (x y v : Word) : Prop where
  nan : Machine.dec32 x = .nan ∨ Machine.dec32 y = .nan → v = 0x7FC00000#32
  one : Machine.dec32 x ≠ .nan → Machine.dec32 y ≠ .nan → v = x ∨ v = y
  greatest : Machine.dec32 x ≠ .nan → Machine.dec32 y ≠ .nan →
    ¬ (Machine.dec32 v).Less (Machine.dec32 x) ∧ ¬ (Machine.dec32 v).Less (Machine.dec32 y)
  zeros : (x = 0x80000000#32 ∧ y = 0#32) ∨ (x = 0#32 ∧ y = 0x80000000#32) → v = 0#32

/-- A magnitude that lies at or above `k` units of 2^q and below `k + 1` of them is rounded under a mode to `y` units (R50).
The magnitude is given by how it compares with a rational, so that a square root can be one. -/
structure RoundsTo (mode : Nat) (neg : Bool) (cmp : Rat → Ordering) (q : Int) (k y : Nat) : Prop where
  above : cmp (k * (2 : Rat) ^ q) ≠ .lt
  below : cmp ((k + 1) * (2 : Rat) ^ q) = .lt
  exact : cmp (k * (2 : Rat) ^ q) = .eq → y = k
  nearest : mode = 0 → cmp (k * (2 : Rat) ^ q) = .gt → y = match cmp ((k + 1 / 2) * (2 : Rat) ^ q) with
    | .lt => k
    | .gt => k + 1
    | .eq => if k % 2 = 0 then k else k + 1
  directed : mode ≠ 0 → cmp (k * (2 : Rat) ^ q) = .gt →
    y = if (mode = 2 ∧ neg = true) ∨ (mode = 3 ∧ neg = false) then k + 1 else k

/-- A magnitude above zero, of the sign `neg`, is rounded into floating-point format `f` (R44, R50, R51): to `y` units of 2^q,
the unit of its precision there; the flags; what becomes of a result beyond the largest finite value.  Tininess is judged after
rounding with an unbounded exponent, to `y'` units of 2^q'. -/
def RoundsFloat (f mode : Nat) (sat neg : Bool) (cmp : Rat → Ordering) (r : Nat × Machine.Flags) : Prop :=
  let p : Nat := [24, 8, 11, 4, 3, 2].getD f 0
  let least : Int := [-149, -133, -24, -9, -16, -1].getD f 0
  let top : Rat := [(2 ^ 24 - 1) * 2 ^ 104, 255 * 2 ^ 120, 65504, 448, 57344, 6].getD f 0
  let is := fun (x : Rat) => ∃ m e, Machine.dec f r.1 = .fin neg m e ∧ m * (2 : Rat) ^ e = x
  ∃ (q q' : Int) (k y k' y' : Nat), RoundsTo mode neg cmp q k y ∧ least ≤ q ∧ k < 2 ^ p ∧ (2 ^ (p - 1) ≤ k ∨ q = least) ∧
    RoundsTo mode neg cmp q' k' y' ∧ 2 ^ (p - 1) ≤ k' ∧ k' < 2 ^ p ∧
    let size : Rat := y * (2 : Rat) ^ q
    let inexact : Prop := cmp (k * (2 : Rat) ^ q) = .gt
    (size ≤ top → is size ∧ (¬ inexact → r.2 = 0) ∧
      (inexact → r.2 = if y' * (2 : Rat) ^ q' < (2 : Rat) ^ (least + p - 1) then Machine.fNX ||| Machine.fUF else Machine.fNX)) ∧
    (top < size → r.2 = Machine.fOF ||| Machine.fNX ∧ (sat = true ∨ f = 5 → is top) ∧
      (sat = false → f = 3 → Machine.dec f r.1 = .nan) ∧
      (sat = false → f ≠ 3 → f ≠ 5 →
        (mode = 0 ∨ (mode = 2 ∧ neg = true) ∨ (mode = 3 ∧ neg = false) → Machine.dec f r.1 = .inf neg) ∧
        (mode = 1 ∨ (mode = 2 ∧ neg = false) ∨ (mode = 3 ∧ neg = true) → is top)))

/-! ### The pair array's arithmetic -/

/-- The exact sum of some values over the reals extended by ±∞ (R60, R146): a NaN of a NaN or of both infinities; a zero sum is
+0 (log 94). -/
structure ExactSum (ps : List Machine.Val) (v : Machine.Val) : Prop where
  invalid : (.nan ∈ ps ∨ (.inf true ∈ ps ∧ .inf false ∈ ps)) → v = .nan
  infinite : .nan ∉ ps → ∀ n, .inf n ∈ ps → .inf (!n) ∉ ps → v = .inf n
  finite : .nan ∉ ps → (∀ n, .inf n ∉ ps) → ∃ n m e, v = .fin n m e ∧ (m = 0 → n = false) ∧ v.rat = (ps.map Machine.Val.rat).sum

/-- round_fp32_rne of an exact value (R50, stated of round32 by FloatArithmetic). -/
def rne (v : Machine.Val) : Word := (Machine.round32 0 v).1

/-- round_fp32_rne(x × y). -/
def rneMul (x y : Word) : Word := rne ((Machine.dec32 x).mul (Machine.dec32 y))

/-- round_fp32_rne(x − y). -/
def rneSub (x y : Word) : Word := rne ((Machine.dec32 x).add 0 (Machine.dec32 y).neg)

/-- fexp2 under nearest even (R55, stated of fpExp2 by FloatUnary). -/
def fexp2 (x : Word) : Word := (Machine.fpExp2 0 x).1

/-- An element of an operand of MX (R44, R45, R48, R278): format field `f`, signedness `n`, bytes by offset, inner dimension
`k`, its row or column and its place there.  A CB2 index stands for eight elements. -/
def mxOperand (f : Nat) (n : Bool) (tbl : Nat → Nat) (b : Nat → Byte) (k line e : Nat) : Machine.Val :=
  let i := line * k + e
  let two := fun (j : Nat) => (b j).toNat + 256 * (b (j + 1)).toNat
  let w := two (2 * (line * k / 8 + e / 8))
  let m := 2 * (tbl (w / 256) / 4 ^ (e % 8) % 4) + 1 - w % 2
  let minus := if e % 8 < 7 then w.testBit (1 + e % 8) else
    decide (((List.range 7).filter fun j => w.testBit (1 + j)).length % 2 = 1)
  match f with
  | 0 => Machine.dec 1 (two (2 * i))
  | 1 => Machine.dec 2 (two (2 * i))
  | 2 => Machine.dec 3 (b i).toNat
  | 3 => Machine.dec 4 (b i).toNat
  | 4 => Machine.dec 5 ((b (i / 2)).toNat / 16 ^ (i % 2) % 16)
  | 6 => .fin (decide (m ≠ 0) && minus) m (-1)
  | _ => Machine.dec (if n then 11 else 8) (b i).toNat

/-- R59, R60: the element (r, c) that an MX with block `p` makes of `old`, with its flags: block by block of 32 along K, the exact
sum times the two scales is added with one rounding; a scale code 0xFF or a NaN sum gives the canonical NaN. -/
def MxElement (s : Machine.State) (core : Nat) (g : Machine.Group) (p : Machine.MxBlk) (stage : Nat → Byte) (r c : Nat) (old : Word)
    (result : Word × Machine.Flags) : Prop :=
  let pad := fun (a i : Nat) => s.byte (Machine.keyOf core a + i)
  let tbl := fun (i : Nat) => (g.cb2.getD i 0).toNat
  let x := fun (e : Nat) => mxOperand p.af p.sga tbl (pad p.aaddr) p.k r e
  let y := fun (e : Nat) => mxOperand p.bf p.sgb tbl (if p.bsrc then stage else pad p.baddr) p.k c e
  let nb := (p.k + 31) / 32
  let code := fun (f addr line k : Nat) => if f ∈ [2, 3, 4, 6] then (pad addr (line * nb + k)).toNat else 0x7F
  ∃ (acc : Nat → Word) (fl : Nat → Machine.Flags), acc 0 = (if p.zero then 0 else old) ∧ fl 0 = 0 ∧ result = (acc nb, fl nb) ∧
    ∀ k, k < nb → ∃ sum, ExactSum (((List.range 32).filter fun j => decide (32 * k + j < p.k)).map fun j =>
        (x (32 * k + j)).mul (y (32 * k + j))) sum ∧
      let ca := code p.af p.sca r k; let cb := code p.bf p.scb c k
      let next := (Machine.dec32 (acc k)).add 0 (sum.scale (Int.ofNat ca + Int.ofNat cb - 254))
      (ca = 0xFF ∨ cb = 0xFF ∨ sum = .nan → acc (k + 1) = 0x7FC00000#32 ∧ (sum ≠ .nan → fl (k + 1) = fl k)) ∧
      (ca ≠ 0xFF → cb ≠ 0xFF → sum ≠ .nan → acc (k + 1) = rne next ∧ fl (k + 1) = fl k ||| (Machine.round32 0 next).2 |||
        if next = .nan ∧ Machine.dec32 (acc k) ≠ .nan then Machine.fNV else 0)

/-- R146: what an ATTN step makes of the state `st` of a query row, given the row of Q and the unmasked keys' rows of K and V. -/
def AttnRow (scale : Word) (q : List Machine.Val) (kvs : List (List Machine.Val × List Machine.Val)) (d : Nat)
    (st : Machine.RowState64) (result : Machine.RowState64 × Machine.Flags) : Prop :=
  (kvs = [] → result = (st, 0)) ∧
  (kvs ≠ [] → ∃ (ss : List Word) (ps : List Machine.Val) (mb mn l : Word) (o : List Word) (lb : Machine.Val) (ob : List Machine.Val),
    ss.length = kvs.length ∧ ps.length = kvs.length ∧ o.length = d ∧ ob.length = d ∧
    (∀ (j : Nat) (kv : List Machine.Val × List Machine.Val), kvs[j]? = some kv → ∃ (x : Machine.Val) (w : Word),
      ExactSum ((q.zip kv.1).map fun z => z.1.mul z.2) x ∧ w = rne ((Machine.dec32 scale).mul x) ∧ ss[j]? = some w ∧
      ps[j]? = some (Machine.dec 1 (Machine.roundFloat 1 0 false (Machine.dec32 (fexp2 (rneSub w mn)))).1)) ∧
    ((∃ w ∈ ss, Machine.dec32 w = .nan) → Machine.dec32 mb = .nan) ∧
    ((∀ w ∈ ss, Machine.dec32 w ≠ .nan) → mb ∈ ss ∧ (∀ w ∈ ss, ¬ (Machine.dec32 mb).Less (Machine.dec32 w)) ∧
      (mb = 0x80000000#32 → 0#32 ∉ ss)) ∧
    (st.m = 0xFF800000#32 → mn = mb) ∧ (st.m ≠ 0xFF800000#32 → FloatGreatest st.m mb mn) ∧
    ExactSum ps lb ∧ (∀ (c : Nat) (v : Machine.Val), ob[c]? = some v →
      ExactSum ((ps.zip kvs).map fun z => z.1.mul (z.2.2.getD c (.fin false 0 0))) v) ∧
    (st.m = 0xFF800000#32 → l = rne lb ∧ o = ob.map rne) ∧
    (st.m ≠ 0xFF800000#32 → st.o.length = d → let a := fexp2 (rneSub st.m mn)
      l = rne ((Machine.dec32 (rneMul st.l a)).add 0 lb) ∧
      o = (st.o.zip ob).map fun z => rne ((Machine.dec32 (rneMul z.1 a)).add 0 z.2)) ∧
    let meets : Prop := Machine.dec32 mn = .nan ∨ Machine.dec32 l = .nan ∨ (∃ w ∈ o, Machine.dec32 w = .nan) ∨
      (∃ w ∈ ss, Machine.dec32 w = .nan) ∨ .nan ∈ ps ∨ result.2.getLsbD 0 = true
    (meets → result.1 = { m := 0x7FC00000#32, l := 0x7FC00000#32, o := List.replicate d 0x7FC00000#32 }) ∧
    (st.o.length = d → ¬ meets → result.1 = { m := mn, l := l, o := o }))

/-- R62: the merge of two partials, P1 that of the lower span index. -/
def MergedRow (p1 p2 r : Machine.RowState64) : Prop :=
  (p1.m = 0xFF800000#32 → r = p2) ∧ (p1.m ≠ 0xFF800000#32 → p2.m = 0xFF800000#32 → r = p1) ∧
  (p1.m ≠ 0xFF800000#32 → p2.m ≠ 0xFF800000#32 → FloatGreatest p1.m p2.m r.m ∧
    let s1 := fexp2 (rneSub p1.m r.m); let s2 := fexp2 (rneSub p2.m r.m)
    let both := fun (x y : Word) => rne ((Machine.dec32 (rneMul x s1)).add 0 (Machine.dec32 (rneMul y s2)))
    r.l = both p1.l p2.l ∧ r.o = (p1.o.zip p2.o).map fun z => both z.1 z.2)

/-- R148: a quotient correctly rounded to nearest even, of a divisor that is no zero. -/
def DividesTo (x y : Word) (r : Word × Machine.Flags) : Prop :=
  let a := Machine.dec32 x; let b := Machine.dec32 y
  let sign := fun (v : Machine.Val) => match v with
    | .nan => false
    | .inf n => n
    | .fin n _ _ => n
  let neg := sign a != sign b
  (a = .nan ∨ b = .nan → r = (0x7FC00000#32, 0)) ∧ (∀ n m, a = .inf n → b = .inf m → r = (0x7FC00000#32, Machine.fNV)) ∧
  (∀ n m k e, a = .inf n → b = .fin m k e → r = (if neg then 0xFF800000#32 else 0x7F800000#32, 0)) ∧
  (∀ n m e k, a = .fin n m e → b = .inf k → r = (if neg then 0x80000000#32 else 0#32, 0)) ∧
  (∀ n m e k j f, a = .fin n m e → b = .fin k j f → j ≠ 0 → (m = 0 → r = (if neg then 0x80000000#32 else 0#32, 0)) ∧
    (m ≠ 0 → RoundsFloat 0 0 false neg (compare |a.rat / b.rat|) (r.1.toNat, r.2)))

/-- R61, R148, R282: the bytes that a drain writes of its group's tiles, row after row. -/
def Drains (p : Machine.DrainBlk) (g : Machine.Group) (bs : List Byte) : Prop :=
  let w := if p.d128 then 128 else 64
  let o := fun (r c : Nat) => (g.tile (p.acc + c / 64)).o.getD (64 * r + c % 64) 0
  let l := fun (r : Nat) => (g.tile p.acc).l.getD r 0
  let n := Sys2Proof.fmtBits p.ofmt
  (p.mode = 1 → bs.length = 64 * (8 + 4 * w) ∧ ∀ r, r < 64 → (bs.drop (r * (8 + 4 * w))).take (8 + 4 * w) =
    Machine.leBytes 4 ((g.tile p.acc).m.getD r 0xFF800000#32).toNat ++ Machine.leBytes 4 (l r).toNat ++
      (List.range w).flatMap fun c => Machine.leBytes 4 (o r c).toNat) ∧
  (p.mode ≠ 1 → let size := (w * n + 7) / 8
    bs.length = 64 * size ∧ ∀ r, r < 64 → let row := Machine.leNat ((bs.drop (r * size)).take size)
    row < 2 ^ (w * n) ∧ ∀ c, c < w → let code := row / 2 ^ (n * c) % 2 ^ n
      let scaled := fun (x : Word) =>
        (Machine.convert p.ofmt p.rnd p.sat (Machine.dec32 (rneMul x (rneMul p.sa p.sb)))).1 % 2 ^ n
      let zero : Prop := ∃ s e, Machine.dec32 (l r) = .fin s 0 e
      ((g.tile p.acc).attention = false → code = scaled (o r c)) ∧
      ((g.tile p.acc).attention = true → (zero → code = 0) ∧
        (¬ zero → ∃ x, DividesTo (o r c) (l r) x ∧ code = scaled x.1)))

/-! ### Key-value tables -/

/-- A table of 2^LOGN entries reads as `e` from its core, may be written, and its overflow list stays within it (R151, R152). -/
structure KvReads (s : Machine.State) (tb : Machine.KvTable) (e : Nat → Machine.KvEntry) : Prop where
  entries : ∀ i, i < tb.nblk → s.kvEntry tb i 0 = .ok (e i) ∧ s.kvPlace tb (tb.ebase + 32 * i) 1 = .ok (e i).pa
  descriptor : s.kvPlace tb tb.desc 1 = .ok tb.descPa
  head : tb.head = 0xFFFFFFFF ∨ tb.head < tb.nblk
  next : ∀ i, i < tb.nblk → (e i).next = 0xFFFFFFFF ∨ (e i).next < tb.nblk

/-- The overflow list of a table, entry by entry; 0xFFFF_FFFF at its end (R152). -/
def kvChain (tb : Machine.KvTable) (e : Nat → Machine.KvEntry) : Nat → Nat
  | 0 => tb.head
  | n + 1 => (e (kvChain tb e n)).next

/-- The home hash (R153). -/
def kvHome (seq lblk : Nat) : Nat := (Machine.crc32c (Machine.leBytes 8 seq ++ Machine.leBytes 4 lblk)).toNat

/-- An entry matches (R153). -/
def KvMatches (x : Machine.KvEntry) (seq lblk : Nat) : Prop := (x.state = 1 ∨ x.state = 2) ∧ x.seq = seq ∧ x.lblk = lblk

/-- A search of the probe slots in order and then of at most `fuel` entries of the overflow list (R153, R154): the entry that
matches, the overflow entries examined, and whether entries remain. -/
def KvSearched (tb : Machine.KvTable) (e : Nat → Machine.KvEntry) (seq lblk fuel : Nat) (found : Option Nat) (walked : Nat)
    (more : Bool) : Prop :=
  let probe := fun (j : Nat) => (kvHome seq lblk + j) % tb.nblk
  let link := kvChain tb e
  let hit := fun (i : Nat) => KvMatches (e i) seq lblk
  (∃ j, j < 8 ∧ hit (probe j) ∧ (∀ i, i < j → ¬ hit (probe i)) ∧ found = some (probe j) ∧ walked = 0 ∧ more = false) ∨
  ((∀ j, j < 8 → ¬ hit (probe j)) ∧
    ((∃ k, k < fuel ∧ (∀ i, i ≤ k → link i ≠ 0xFFFFFFFF) ∧ hit (link k) ∧ (∀ i, i < k → ¬ hit (link i)) ∧ found = some (link k) ∧
        walked = k + 1 ∧ more = false) ∨
      (∃ k, k ≤ fuel ∧ (∀ i, i < k → link i ≠ 0xFFFFFFFF ∧ ¬ hit (link i)) ∧ (k = fuel ∨ link k = 0xFFFFFFFF) ∧ found = none ∧
        walked = k ∧ more = decide (link k ≠ 0xFFFFFFFF))))

/-- The status word of a KV form (R154). -/
def KvStatus (w : Word) (res walked : Nat) (trunc pend ovf : Bool) : Prop :=
  w.toNat = res + (if ovf then 4 else 0) + (if pend then 8 else 0) + (if trunc then 16 else 0) + 256 * min walked 255

/-- An entry's 32 bytes as KVINS writes them over the number `n`, with its OVF and NEXT (R152, R154). -/
def KvFilled (n m seq lblk ovf next : Nat) : Prop :=
  m % 2 ^ 64 = seq ∧ m / 2 ^ 64 % 2 ^ 32 = lblk ∧ m / 2 ^ 96 % 4 = 1 ∧ m / 2 ^ 98 % 2 = ovf ∧ m / 2 ^ 99 % 2 = 1 ∧
  m / 2 ^ 100 % 2 ^ 28 = n / 2 ^ 100 % 2 ^ 28 ∧ m / 2 ^ 128 % 2 ^ 32 = 0 ∧ m / 2 ^ 160 % 2 ^ 32 = next ∧ m / 2 ^ 192 = n / 2 ^ 192

/-- A prefix table of 2^PLOG entries reads as `p` and may be written (R151, R154). -/
def PfxReads (s : Machine.State) (tb : Machine.KvTable) (p : Nat → Machine.KvEntry) : Prop :=
  ∀ k, k < 2 ^ tb.plog → s.pfxEntry tb k = .ok (p k) ∧ s.kvPlace tb (tb.pbase + 32 * k) 1 = .ok (p k).pa

/-- The first prefix entry among the eight probes of a digest that passes a test (R154). -/
def PfxFirst (tb : Machine.KvTable) (p : Nat → Machine.KvEntry) (digest : Nat) (test : Machine.KvEntry → Prop) (k : Nat) : Prop :=
  ∃ i, i < 8 ∧ k = (digest % 2 ^ 32 + i) % 2 ^ tb.plog ∧ test (p k) ∧
    ∀ j, j < i → ¬ test (p ((digest % 2 ^ 32 + j) % 2 ^ tb.plog))

/-! ### Effects on the issue under way -/

/-- An issue is under way: its packet, and its group as it stands. -/
structure InIssue (s : State) (c : Ctx) (g : Group) : Prop where
  cur : s.cur = some c
  group : s.group c.guid = some g

/-- The active threads of the issue are changed by `f`, the issue's latches grow by `latches`, and nothing else of the
machine changes: no byte of memory, no other group, nothing of this group but its threads, and no thread that is not
active. -/
structure LaneEffect (s t : State) (c : Ctx) (g : Group) (latches : List (Nat × Nat × Word)) (f : Thread → Thread) :
    Prop where
  rest : t = { s with groups := t.groups, cur := some { c with latches := c.latches ++ latches } }
  others : ∀ k, k ≠ c.guid → t.group k = s.group k
  group : ∃ ts, t.group c.guid = some { g with threads := ts }
  threads : ∀ tid, t.thread c.guid tid = (g.thread tid).map fun u => if c.active.contains tid then f u else u
  memory : ∀ k, t.byte k = s.byte k

/-- The latch entries of a word's result in the active threads (R204). -/
def latchesOf (c : Ctx) (g : Group) (v : Thread → Word) : List (Nat × Nat × Word) :=
  c.active.filterMap fun tid => (g.thread tid).map fun u => (c.here, tid, v u)

/-- A 32-bit ALU result `v` (R204): D is written unless K, and the result stands in the latch either way; every other
register, predicate, flag and trap level of the thread stands. -/
def AluEffect (s t : State) (c : Ctx) (g : Group) (k : Bool) (d : Code) (v : Thread → Word) : Prop :=
  LaneEffect s t c g (latchesOf c g v) fun u => u.result k d (v u)

/-- A 32-bit ALU result with flags: D and its latch as above, and the flags set in %nflags, none cleared (R53). -/
def FpAluEffect (s t : State) (c : Ctx) (g : Group) (k : Bool) (d : Code) (v : Thread → Word × Flags) : Prop :=
  LaneEffect s t c g (latchesOf c g fun u => (v u).1) fun u => (u.result k d (v u).1).addFlags (v u).2

/-- A 32-bit result with flags outside the ALU pipe: D and %nflags alone. -/
def FpEffect (s t : State) (c : Ctx) (g : Group) (d : Code) (v : Thread → Word × Flags) : Prop :=
  LaneEffect s t c g [] fun u => (u.setReg d (v u).1).addFlags (v u).2

/-- An ALU instruction of layout A completes, with the result that `op` gives of A and opB read as signed numbers, taken
modulo 2^32. -/
def SignedAlu (i : Instr) (s : State) (c : Ctx) (g : Group) (f : LA) (op : Int → Int → Int) : Prop :=
  Gives i s fun t => AluEffect s t c g f.k f.d fun u =>
    BitVec.ofInt 32 (op (c.val u f.a).toInt (c.opB g u f.bs f.b).toInt)

/-- The same with A and opB read as unsigned numbers. -/
def UnsignedAlu (i : Instr) (s : State) (c : Ctx) (g : Group) (f : LA) (op : Nat → Nat → Nat) : Prop :=
  Gives i s fun t => AluEffect s t c g f.k f.d fun u =>
    BitVec.ofNat 32 (op (c.val u f.a).toNat (c.opB g u f.bs f.b).toNat)

/-- An instruction that writes predicate PD of each active thread, and nothing else (p7 discards). -/
def PredEffect (s t : State) (c : Ctx) (g : Group) (pd : Pred) (v : Thread → Bool) : Prop :=
  LaneEffect s t c g [] fun u => u.setPred pd (v u)

/-- A thread of the issue under way: the issue, its group, and the thread as they stand in a state. -/
structure Acting (s : State) (tid : Nat) (c : Ctx) (g : Group) (u : Thread) : Prop where
  cur : s.cur = some c
  group : s.group c.guid = some g
  thread : g.thread tid = some u

/-- A list of threads act one after another, each changing the state as a relation says. -/
inductive InOrder (p : State → Nat → State → Prop) : List Nat → State → State → Prop
  | done (s : State) : InOrder p [] s s
  | next (tid : Nat) (rest : List Nat) (s m t : State) : p s tid m → InOrder p rest m t → InOrder p (tid :: rest) s t

/-- An instruction completes in every issue; its active threads act one after another, in ascending home lane (R25), each
with an effect that depends on the state before it, the issue, the group and the thread. -/
def ActsEach (i : Instr) (p : State → Ctx → Group → Thread → State → Prop) : Prop :=
  ∀ (s : State) (c : Ctx) (g : Group), InIssue s c g → ∃ t, exec i s = .next t ∧
    InOrder (fun a tid b => ∀ c g u, Acting a tid c g u → p a c g u b) c.active s t

/-- The thread under way is changed and nothing else of the machine. -/
structure OneThread (s t : State) (c : Ctx) (u u' : Thread) : Prop where
  rest : t = { s with groups := t.groups }
  thread : t.thread c.guid u.tid = some u'
  others : ∀ k tid, (k ≠ c.guid ∨ tid ≠ u.tid) → t.thread k tid = s.thread k tid
  groups : ∀ k, (t.group k).map (fun x => { x with threads := [] }) = (s.group k).map fun x => { x with threads := [] }

/-- A thread of the issue goes to a point by a transfer: it becomes `u'`, and the packet notes where it goes (R12). -/
def GoesTo (s t : State) (c : Ctx) (u u' : Thread) (p : Point) : Prop :=
  ∃ m, OneThread s m c u { u' with point := p } ∧ t = { m with cur := some { c with moves := c.moves ++ [(u.tid, p)] } }

/-- A thread of the issue parks: in an issue of one instruction it leaves its bundle and the issue, to make the issue again
(`resume` = `issue`) or to go on after it, noting the word that parks it; in a chained one that is noted for the end of the
issue. -/
structure Parks (s t : State) (c : Ctx) (u : Thread) (w : Wait) (issue resume : Point) : Prop where
  rest : t = { s with groups := t.groups, cur := some { c with active := c.active.filter fun j => decide (j ≠ u.tid) } }
  thread : t.thread c.guid u.tid = some { u with
    run := .parked w issue resume, point := u.standing issue, word := issue.word, parkWord := c.here }
  others : ∀ k tid, (k ≠ c.guid ∨ tid ≠ u.tid) → t.thread k tid = s.thread k tid
  bundles : ∀ g, t.group c.guid = some g → ∀ b ∈ g.bundles, u.tid ∉ b.tids

/-- A uniform register of the issue's group is written, and nothing else of the machine changes (R19). -/
structure UniEffect (s t : State) (c : Ctx) (g : Group) (d : Nat) (v : Dword) : Prop where
  rest : t = { s with groups := t.groups }
  others : ∀ k, k ≠ c.guid → t.group k = s.group k
  group : t.group c.guid = some { g with sregs := g.sregs.set d v }
  memory : ∀ k, t.byte k = s.byte k

/-! ### Issues of several words -/

/-- The words of a packet from a word up are an issue of these instructions, with the word after it: each but the last chained to the
next, a transfer the last of its packet (R189, R190). -/
inductive IssueWords (n : Nat) (bytes : List Byte) : Nat → List (Nat × Instr) → Nat → Prop
  | one (k : Nat) (i : Instr) : decodeAt n bytes k = .ok i → chainBit (wordOfBytes bytes k) = false →
    (i.isTransfer = true → k + instrWords i = 3) → IssueWords n bytes k [(k, i)] (k + instrWords i)
  | more (k : Nat) (i : Instr) (is : List (Nat × Instr)) (after : Nat) : decodeAt n bytes k = .ok i →
    chainBit (wordOfBytes bytes k) = true → i.isTransfer = false → k + instrWords i < 3 →
    IssueWords n bytes (k + instrWords i) is after → IssueWords n bytes k ((k, i) :: is) after

/-- The instructions of an issue run one after another in the issue under way, each at its word, and no thread fails at one. -/
inductive WordsRun : List (Nat × Instr) → State → State → Prop
  | done (s : State) : WordsRun [] s s
  | word (k : Nat) (i : Instr) (rest : List (Nat × Instr)) (s m t : State) (c d : Ctx) : s.cur = some c →
    exec i { s with cur := some { c with here := k } } = .next m → m.cur = some d → d.traps = [] → d.retries = [] →
    WordsRun rest m t → WordsRun ((k, i) :: rest) s t

/-! ### Accesses -/

/-- Every active thread of the issue can access `w` bytes at its address: it is aligned, and translates to `pa` (R167,
R197), for an atomic with both permissions (`both`, R108). -/
structure LanesReach (s : State) (c : Ctx) (g : Group) (th : Nat → Thread) (addr : Thread → Nat) (w access : Nat)
    (both : Bool) (pa : Nat → Nat) : Prop where
  nonempty : c.active ≠ []
  each : ∀ tid ∈ c.active, g.thread tid = some (th tid) ∧ addr (th tid) % w = 0 ∧
    s.xlate g.core g.rec_.tenant (addr (th tid)) access = .ok (pa tid) ∧
    (both = true → s.xlate g.core g.rec_.tenant (addr (th tid)) 0 = .ok (pa tid))

/-- An issue of one thread in a DRAM form of `w` bytes traps 0x01 on a misaligned address, 0x20 on a fatal translation fault, for
an atomic (`both`) also where the page may not be read, and notes a miss of the translation cache. -/
def DramFails (i : Instr) (s : State) (c : Ctx) (g : Group) (addr : Thread → Nat) (w access : Nat) (both : Bool) : Prop :=
  ∀ (tid : Nat) (u : Thread), c.active = [tid] → g.thread tid = some u →
    (addr u % w ≠ 0 → exec i s = .next (s.raise tid 0x01 (BitVec.ofNat 64 (addr u)) 0 0)) ∧
    (∀ k, addr u % w = 0 → s.xlate g.core g.rec_.tenant (addr u) access = .no k →
      exec i s = .next (s.raise tid 0x20 (BitVec.ofNat 64 (addr u)) 0 access)) ∧
    (∀ p k, both = true → addr u % w = 0 → s.xlate g.core g.rec_.tenant (addr u) access = .ok p →
      s.xlate g.core g.rec_.tenant (addr u) 0 = .no k →
      exec i s = .next (s.raise tid 0x20 (BitVec.ofNat 64 (addr u)) 0 0)) ∧
    (addr u % w = 0 → s.xlate g.core g.rec_.tenant (addr u) access = .miss →
      exec i s = .next { s with cur := some { c with misses := c.misses ++ [(tid, addr u, access, [tid])] } })

/-- The access of some lanes of an issue, as it stands in flight until it is performed (R90). -/
def accessOfIssue (s : State) (c : Ctx) (g : Group) (id : Nat) (kind : AccKind) (lanes : List LaneAcc) : Access :=
  { id := s.nextId + id, core := g.core, guid := c.guid, tenant := g.rec_.tenant, gid := g.gid, kind := kind, lanes := lanes,
    launch := g.launch, netBad := false }

/-- A lane of an access. -/
def laneOfIssue (tid va pa : Nat) (arg : Dword × Dword × List Byte) : LaneAcc :=
  { tid := tid, va := va, pa := pa, peer := decide (Config.peerBase ≤ pa), arg := arg.1, arg2 := arg.2.1, bytes := arg.2.2 }

/-- A DRAM form of `w` bytes: where every active thread reaches its address, one access is issued that holds a lane for
each, and nothing else of the machine changes. -/
structure DramForm (i : Instr) (s : State) (c : Ctx) (g : Group) (addr : Thread → Nat) (w access : Nat) (both : Bool)
    (kind : AccKind) (arg : Thread → Dword × Dword × List Byte) : Prop where
  issues : ∀ (th : Nat → Thread) (pa : Nat → Nat), LanesReach s c g th addr w access both pa →
    exec i s = .next { s with
      nextId := s.nextId + 1,
      accesses := s.accesses ++ [accessOfIssue s c g 0 kind
        (c.active.map fun tid => laneOfIssue tid (addr (th tid)) (pa tid) (arg (th tid)))] }
  fails : DramFails i s c g addr w access both

/-- A scratchpad form of `w` bytes: where every active thread's address is aligned and passes the check of R71, and for a
read its line is not Pending, the threads act one after another on the memory bytes from their keys up; an issue of one
thread traps 0x01, 0x10 or 0x11, or parks on a Pending line; in a chained issue every thread out of bounds traps 0x10 with
the home lanes of all of them in %tmask. -/
structure PadForm (i : Instr) (s : State) (c : Ctx) (g : Group) (addr : Thread → Nat) (w : Nat) (waits : Bool)
    (p : State → Ctx → Group → Thread → Nat → State → Prop) : Prop where
  completes : ∀ (th : Nat → Thread) (key : Nat → Nat),
    (∀ tid ∈ c.active, g.thread tid = some (th tid) ∧ addr (th tid) % w = 0 ∧
      s.padCheck g (addr (th tid)) w = .ok (key tid) ∧ (waits = true → s.linePending (key tid / 128 * 128) = false)) →
    ∃ t, exec i s = .next t ∧ InOrder (fun a tid b => ∀ c g u, Acting a tid c g u → p a c g u (key tid) b) c.active s t
  fails : ∀ (tid : Nat) (u : Thread), c.active = [tid] → g.thread tid = some u →
    (addr u % w ≠ 0 → exec i s = .next (s.raise tid 0x01 (BitVec.ofNat 64 (addr u)) 0 0)) ∧
    (∀ a, addr u % w = 0 → s.padCheck g (addr u) w = .bounds a →
      exec i s = .next (s.raise tid 0x10 (BitVec.ofNat 64 a) (BitVec.ofNat 32 (2 ^ (tid % 32))) 0)) ∧
    (∀ a h, addr u % w = 0 → s.padCheck g (addr u) w = .lost a h →
      exec i s = .next (s.raise tid 0x11 (BitVec.ofNat 64 a) 0 h)) ∧
    (∀ k, addr u % w = 0 → s.padCheck g (addr u) w = .ok k → waits = true → s.linePending (k / 128 * 128) = true →
      exec i s = .next (s.retry tid (.line k)))
  mask : ∀ (th : Nat → Thread) (a : Nat → Nat), c.chained = true →
    (∀ tid ∈ c.active, g.thread tid = some (th tid) ∧ addr (th tid) % w = 0 ∧
      s.padCheck g (addr (th tid)) w = .bounds (a tid)) →
    ∃ m : Word, (∀ l, l < 32 → m.getLsbD l = c.active.any fun tid => decide (tid % 32 = l)) ∧
      exec i s = .next { s with cur := some { c with traps := c.traps ++
        (c.active.map fun tid => ⟨tid, c.here, 0x10, BitVec.ofNat 64 (a tid), m, 0, none⟩) } }

/-- Bytes written from a key up, and nothing else of the machine changed. -/
structure Writes (s t : State) (key : Nat) (bs : List Byte) : Prop where
  rest : t = { s with mem := t.mem }
  bytes : ∀ k, t.byte k = if key ≤ k ∧ k < key + bs.length then bs.getD (k - key) 0 else s.byte k

/-! ### Engine commands -/

/-- The 64-byte block of an engine instruction at `va` reads as `n`: aligned, translated, of this package, without a data
error, stored (R103) or of a die network (R185) (R244, R280). -/
def BlockAt (s : State) (g : Group) (va n : Nat) : Prop :=
  va % 64 = 0 ∧ NetMark.core g.core ∉ s.netBad ∧ ∃ pa, s.xlate g.core g.rec_.tenant va 0 = .ok pa ∧ pa < Config.peerBase ∧
    s.badAt pa 64 = false ∧ n = s.num pa 64

/-- Some scratchpad runs pass the check of R71, each with every byte in one region, and none is Lost. -/
def Readable (s : State) (g : Group) (runs : List (Nat × Nat)) : Prop :=
  ∀ r ∈ runs, 0 < r.2 → ∃ k, s.padCheck g r.1 r.2 = .ok k

/-- Some scratchpad runs are in bounds, each with every byte in one region, Lost or not. -/
def InBounds (s : State) (g : Group) (runs : List (Nat × Nat)) : Prop :=
  ∀ r ∈ runs, 0 < r.2 → ∀ a, s.padCheck g r.1 r.2 ≠ .bounds a

/-- A completion counter at an address, 0 for none, with its place (R320). -/
def CounterAt (s : State) (g : Group) (ctr pa : Nat) : Prop :=
  ctr = 0 ∧ pa = 0 ∨ ctr ≠ 0 ∧ s.xlate g.core g.rec_.tenant ctr 1 = .ok pa

/-- One engine command of the acting thread starts, and nothing else of the machine changes. -/
def StartsEng (s t : State) (c : Ctx) (g : Group) (u : Thread) (op : EngOp) (fin : Finish) : Prop :=
  t = { s with
    nextId := s.nextId + 1,
    engs := s.engs ++
      [{ id := s.nextId, core := g.core, guid := c.guid, tid := u.tid, tenant := g.rec_.tenant, gid := g.gid, op := op,
         fin := fin, lost := false }] }

/-- An engine command ends (R147, R320): the status word of four bytes goes to its place under STATEN, the completion counter
takes one, and the command leaves; nothing else of the machine changes. -/
structure Finishes (s t : State) (e : EngCmd) (outcome : Nat) (flags : Flags) : Prop where
  quiet : e.fin.staten = false → e.fin.ctr = 0 →
    t = { s with engs := s.engs.filter fun x => decide (x.id ≠ e.id) }
  status : ∀ g k, e.fin.staten = true → e.fin.ctr = 0 → s.group e.guid = some g →
    s.padCheck g e.fin.stat 4 = .ok k → ∃ m, Writes s m k (leBytes 4 (flags.toNat + outcome * 2 ^ 8)) ∧
      t = { m with engs := s.engs.filter fun x => decide (x.id ≠ e.id) }
  counter : e.fin.staten = false → e.fin.ctr ≠ 0 → s.badUnits = [] → e.fin.ctrPa < Config.peerBase → ∃ m,
    Writes s m e.fin.ctrPa (leBytes 8 (min (s.num e.fin.ctrPa 8 + 1) (2 ^ 64 - 1))) ∧
      t = { m with clines := t.clines, engs := s.engs.filter fun x => decide (x.id ≠ e.id) }

/-! ### Firmware commands -/

/-- The record at the head of a tenant's queue holds an OP; no command before it is unfinished (R178). -/
structure AtHead (s : State) (q op : Nat) (x : Tenant) : Prop where
  tenant : s.tenant q = some x
  idle : x.cmdWait = none
  there : x.noCommand = false
  op : s.num x.cmdKey 1 = op

/-- Firmware takes the command of an OP at the head of a tenant's queue: bring-up has ended (R186), a command marked HV comes
from a tenant with HV (R179), and no reserved bit of the record's first word is set. -/
structure Begins (s : State) (q op : Nat) (hv : Bool) (x : Tenant) : Prop where
  head : AtHead s q op x
  up : s.ready = true
  hv : hv = true → x.cfg.hv = true
  clear : s.num x.cmdKey 4 / 256 = 0

/-- The command at the head of a queue completes with a status (R178): STATUS, two bytes at 62 of the record, then DONESEQ,
four bytes at 56, a copy of SEQ at 4; the queue goes on; nothing else of the machine changes. -/
structure Completes (s t : State) (q status : Nat) (x : Tenant) : Prop where
  rest : t = { s with
    mem := t.mem, tenants := mset s.tenants q { x with cmdHead := x.cmdHead + 1, cmdWait := none } }
  bytes : ∀ k, t.byte k =
    if k = x.cmdKey + 62 then BitVec.ofNat 8 status
    else if k = x.cmdKey + 63 then BitVec.ofNat 8 (status / 2 ^ 8)
    else if x.cmdKey + 56 ≤ k ∧ k < x.cmdKey + 60 then s.byte (k - 52)
    else s.byte k

/-- The command steps of the opcode table but for the queries, with the queue whose record each takes, its OP, and whether it
is marked HV (R179). -/
inductive IsCommand (q : Nat) : Instr → Nat → Bool → Prop
  | launch (a : Nat) : IsCommand q (.launchCommand q a) 0x01 false
  | budget (w : Nat) : IsCommand q (.budgetCommand q w) 0x02 true
  | create (id : Nat) (c : TenantCfg) : IsCommand q (.tenantCreate q id c) 0x03 true
  | change (id : Nat) (c : TenantCfg) : IsCommand q (.tenantChange q id c) 0x03 true
  | disable (id : Nat) : IsCommand q (.tenantDisable q id) 0x03 true
  | map (id gpa : Nat) (e : Dword) : IsCommand q (.mapCommand q id gpa e) 0x04 true
  | zero (id gpa : Nat) (e : Dword) : IsCommand q (.zeroCommand q id gpa e) 0x05 true
  | key (n : Nat) (k : BitVec 512) (lo hi : Nat) : IsCommand q (.keyCommand q n k lo hi) 0x06 true
  | halt (g : Nat) : IsCommand q (.debugHalt q g) 0x08 false
  | single (g : Nat) : IsCommand q (.debugSingleStep q g) 0x08 false
  | thread (g tid : Nat) : IsCommand q (.debugThreadStep q g tid) 0x08 false
  | resume (g : Nat) : IsCommand q (.debugResume q g) 0x08 false
  | read (g tid : Nat) (i : CtxItem) : IsCommand q (.debugReadContext q g tid i) 0x08 false
  | write (g tid : Nat) (i : CtxItem) (v : Dword) : IsCommand q (.debugWriteContext q g tid i v) 0x08 false
  | retire (c b : Nat) : IsCommand q (.remapCompleteRetirement q c b) 0x09 true
  | readmit (c b : Nat) : IsCommand q (.remapReadmit q c b) 0x09 true
  | range (lo hi : Nat) : IsCommand q (.invalidateRange q lo hi) 0x0A false
  | all : IsCommand q (.invalidateAll q) 0x0A false
  | replay (k : Word) : IsCommand q (.faultReplay q k) 0x0B false
  | abort (k : Word) : IsCommand q (.faultAbort q k) 0x0B false
  | preempt (g : Nat) : IsCommand q (.preemptCommand q g) 0x0C false

/-- One group is changed and nothing else of the machine. -/
structure OneGroup (s t : State) (guid : Nat) (g : Group) : Prop where
  rest : t = { s with groups := t.groups }
  group : t.group guid = some g
  others : ∀ k, k ≠ guid → t.group k = s.group k

end Sys2Proof
end

