-- ==== Sys2Proof/Certificates/Slice0/Obligations.lean ====
section
/-! DEFINITION. The statements for the provers. -/

open Sys2Proof Sys2Proof.Machine

/-! ### Operands and results -/

/-- R20: under BS every active thread receives the same uniform value: its low word, or, where the operand is a pair, all
64 bits.  It is what the uniform register holds, in a chained issue what it held before the issue (R189). -/
def Obligations.UniformOperandOfLanes : Prop :=
  ∀ (c : Ctx) (g : Group) (b : Code), b.toNat < 64 → ∃ x : Dword, x = c.uni g b.toNat ∧
    (c.chained = false → x = g.sregs.getD b.toNat 0) ∧ (c.chained = true → x = c.snapS.getD b.toNat 0) ∧
    (∀ u, c.opB g u true b = x.setWidth 32) ∧ ∀ (u : Thread) (f : LA), f.bs = true → f.b = b → c.leaBase g u f = x

/-- R193, R194, R195, R204: the sources of an issue of one instruction: registers, a latch, zero, the home lane, the thread index,
predicates, of which p7 reads true, and under BS the uniform registers and the immediates.  R189: the instructions of one issue read the registers as they stood before any of them wrote. -/
def Obligations.OperandSources : Prop :=
  (∀ (c : Ctx) (g : Group) (u : Thread) (a : Code), c.chained = false →
    (a.toNat < 120 → c.val u a = u.regs.getD a.toNat 0 ∧ c.pair u a = u.regs.getD (a.toNat + 1) 0 ++ u.regs.getD a.toNat 0) ∧
    (a = 124#7 → c.val u a = 0 ∧ c.pair u a = 0) ∧ (a = 125#7 → c.val u a = BitVec.ofNat 32 (u.tid % 32)) ∧
    (a = 126#7 → c.val u a = BitVec.ofNat 32 u.tid) ∧
    (64 ≤ a.toNat → c.opB g u true a = BitVec.ofNat 32 (a.toNat - 64) ∧ c.uniB g a = BitVec.ofNat 64 (a.toNat - 64)) ∧
    (a.toNat < 64 → c.uniB g a = g.sregs.getD a.toNat 0) ∧ c.opB g u false a = c.val u a ∧
    (∀ p : Pred, c.pred u p = if p = 7#3 then true else u.preds.getD p.toNat false) ∧
    (∀ k v, k < 3 → a.toNat = 120 + k → c.prev = [(k, u.tid, v)] → c.val u a = v)) ∧
  ∀ (c : Ctx) (g : Group) (u v w : Thread) (a b : Code), c.chained = true → u.tid = w.tid → v.tid = w.tid →
    c.snap.find? (fun x => decide (x.tid = w.tid)) = some w →
    c.val u a = c.val v a ∧ c.pair u a = c.pair v a ∧ (a.toNat < 120 → c.val u a = w.regs.getD a.toNat 0) ∧
    (∀ p : Pred, c.pred u p = if p = 7#3 then true else w.preds.getD p.toNat false) ∧
    (b.toNat < 64 → c.uniB g b = c.snapS.getD b.toNat 0) ∧
    c.opB g u true b = c.opB { g with sregs := [] } v true b

/-- R193 to R195: a result goes to the register its code names and to no other; code 124 and predicate 7 discard; a pair is
written low word first; nothing else of the thread changes. -/
def Obligations.ResultsWritten : Prop :=
  ∀ (u : Thread) (d : Code) (v : Word) (x : Dword) (p : Pred) (q : Bool),
    (d.toNat < u.regs.length → d.toNat < 120 → (u.setReg d v).regs.getD d.toNat 0 = v) ∧
    (∀ j, j ≠ d.toNat → (u.setReg d v).regs.getD j 0 = u.regs.getD j 0) ∧
    (120 ≤ d.toNat → u.setReg d v = u ∧ u.setPair d x = u) ∧
    u.setReg d v = { u with regs := (u.setReg d v).regs } ∧
    (d.toNat + 1 < u.regs.length → d.toNat < 120 →
      (u.setPair d x).regs.getD d.toNat 0 = x.setWidth 32 ∧
      (u.setPair d x).regs.getD (d.toNat + 1) 0 = (x >>> 32).setWidth 32) ∧
    (∀ j, j ≠ d.toNat → j ≠ d.toNat + 1 → (u.setPair d x).regs.getD j 0 = u.regs.getD j 0) ∧
    u.setPair d x = { u with regs := (u.setPair d x).regs } ∧
    (p.toNat < u.preds.length → p ≠ 7#3 → (u.setPred p q).preds.getD p.toNat false = q) ∧
    (∀ j, j ≠ p.toNat → (u.setPred p q).preds.getD j false = u.preds.getD j false) ∧
    u.setPred 7#3 q = u ∧ u.setPred p q = { u with preds := (u.setPred p q).preds }

/-! ### Integer instructions: in any issue, for every operand form, each completes with its result in D (unless K) and in its
latch, and changes nothing else of the machine -/

/-- R270; IABS gives the magnitude modulo 2^32, so that 0x8000_0000 stands. -/
def Obligations.IntegerArithmetic : Prop :=
  ∀ (s : State) (c : Ctx) (g : Group), InIssue s c g → ∀ (f : LA) (h : LA1),
    SignedAlu (.iadd f) s c g f (· + ·) ∧ SignedAlu (.isub f) s c g f (· - ·) ∧ SignedAlu (.imul f) s c g f (· * ·) ∧
    SignedAlu (.imulhS32 f) s c g f (fun a b => a * b / 2 ^ 32) ∧
    UnsignedAlu (.imulhN32 f) s c g f (fun a b => a * b / 2 ^ 32) ∧
    SignedAlu (.iminS32 f) s c g f min ∧ UnsignedAlu (.iminN32 f) s c g f min ∧
    SignedAlu (.imaxS32 f) s c g f max ∧ UnsignedAlu (.imaxN32 f) s c g f max ∧
    (Gives (.imad f) s fun t => AluEffect s t c g f.k f.d fun u =>
      BitVec.ofInt 32 ((c.val u f.a).toInt * (c.opB g u f.bs f.b).toInt + (c.val u f.d).toInt)) ∧
    Gives (.iabs h) s fun t => AluEffect s t c g h.k h.d fun u => BitVec.ofInt 32 ((c.val u h.a).toInt.natAbs)

/-- R242, R284, R313: AND, OR and XOR. -/
def Obligations.AndOrXor : Prop :=
  ∀ (s : State) (c : Ctx) (g : Group), InIssue s c g → ∀ f : LA, ∃ v w x : Thread → Word,
    Instr.pipe (.and f) = .alu ∧ Instr.pipe (.or f) = .alu ∧ Instr.pipe (.xor f) = .alu ∧
    (Gives (.and f) s fun t => AluEffect s t c g f.k f.d v) ∧ (Gives (.or f) s fun t => AluEffect s t c g f.k f.d w) ∧
    (Gives (.xor f) s fun t => AluEffect s t c g f.k f.d x) ∧
    ∀ u i, let a := (c.val u f.a).getLsbD i; let b := (c.opB g u f.bs f.b).getLsbD i
      (v u).getLsbD i = (a && b) ∧ (w u).getLsbD i = (a || b) ∧ (x u).getLsbD i = (a ^^ b)

/-- R306: the shifts, by any amount: multiplication, and division that rounds down, by 2^n. -/
def Obligations.Shifts : Prop :=
  ∀ (s : State) (c : Ctx) (g : Group), InIssue s c g → ∀ f : LA,
    Instr.pipe (.shl f) = .alu ∧ Instr.pipe (.shr f) = .alu ∧ Instr.pipe (.sar f) = .alu ∧
    UnsignedAlu (.shl f) s c g f (fun a n => a * 2 ^ n) ∧ UnsignedAlu (.shr f) s c g f (fun a n => a / 2 ^ n) ∧
    SignedAlu (.sar f) s c g f (fun a n => a / 2 ^ (n % 2 ^ 32).toNat)

/-- R245, R248, R287: BFX and BFI bit by bit, with L = min(LEN, 32 − POS); BREV, CLZ and POPC. -/
def Obligations.BitFieldsAndCounts : Prop :=
  ∀ (s : State) (c : Ctx) (g : Group), InIssue s c g →
  (∀ f : LA, ∃ v w : Thread → Word,
    (Gives (.bfx f) s fun t => AluEffect s t c g f.k f.d v) ∧ (Gives (.bfi f) s fun t => AluEffect s t c g f.k f.d w) ∧
    ∀ u (pos len i : Nat), pos = (c.opB g u f.bs f.b).toNat % 32 →
      len = min ((c.opB g u f.bs f.b).toNat / 256 % 64) (32 - pos) → i < 32 →
      (i < len → (v u).getLsbD i = (c.val u f.a).getLsbD (pos + i)) ∧
      (len ≤ i → (v u).getLsbD i = ((c.opB g u f.bs f.b).getLsbD 16 && decide (0 < len) &&
        (c.val u f.a).getLsbD (pos + len - 1))) ∧
      ((w u).getLsbD i = if pos ≤ i ∧ i < pos + len then (c.val u f.a).getLsbD (i - pos) else (c.val u f.d).getLsbD i)) ∧
  ∀ f : LA1, ∃ v w x : Thread → Word,
    (Gives (.brev f) s fun t => AluEffect s t c g f.k f.d v) ∧ (Gives (.clz f) s fun t => AluEffect s t c g f.k f.d w) ∧
    (Gives (.popc f) s fun t => AluEffect s t c g f.k f.d x) ∧
    ∀ u, (∀ i, i < 32 → (v u).getLsbD i = (c.val u f.a).getLsbD (31 - i)) ∧
      (c.val u f.a = 0 → w u = 32) ∧
      (c.val u f.a ≠ 0 → (w u).toNat < 32 ∧ (c.val u f.a).getLsbD (31 - (w u).toNat) = true ∧
        ∀ i, 31 - (w u).toNat < i → (c.val u f.a).getLsbD i = false) ∧
      (x u).toNat = ((List.range 32).map fun i => ((c.val u f.a).getLsbD i).toNat).sum

/-- R274, R277, R307: MOV, MOVI, MOVL and SEL, whose latch holds D as it stands after; LEA writes the pair
(base + zext(A)) mod 2^64.  That LEA leaves no latch value is the model's reading (log 24). -/
def Obligations.MovesAndSelect : Prop :=
  ∀ (s : State) (c : Ctx) (g : Group), InIssue s c g → ∀ (f : LMov) (h : LIw) (l : LMovl) (e : LAs) (r : LA),
    (Gives (.mov f) s fun t => AluEffect s t c g f.k f.d fun u => c.opB g u f.bs f.b) ∧
    (Gives (.movi h) s fun t => AluEffect s t c g h.k h.d fun _ => BitVec.ofInt 32 h.imm.toInt) ∧
    (Gives (.movl l) s fun t => AluEffect s t c g false l.d fun _ => l.lit) ∧
    (Gives (.sel e) s fun t => AluEffect s t c g false e.d fun u =>
      if c.pred u e.p = e.neg then c.val u e.d else c.opB g u e.bs e.b) ∧
    Gives (.lea r) s fun t => LaneEffect s t c g [] fun u => u.setPair r.d
      (BitVec.ofNat 64 ((if r.bs then c.uniB g r.b else c.pair u r.b).toNat + (c.val u r.a).toNat))

/-- R196, R271, R286: ICMP and PLOP write one predicate and nothing else. -/
def Obligations.IntegerPredicates : Prop :=
  ∀ (s : State) (c : Ctx) (g : Group), InIssue s c g → ∀ (f : LAc) (q : LAq), ∃ v : Thread → Bool,
    (Gives (.icmp f) s fun t => PredEffect s t c g f.pd v) ∧
    (∀ u, let a := c.val u f.a; let b := c.opB g u f.bs f.b
      (f.cond = 0#4 → v u = decide (a.toNat = b.toNat)) ∧ (f.cond = 1#4 → v u = decide (a.toNat ≠ b.toNat)) ∧
      (f.cond = 2#4 → v u = decide (a.toInt < b.toInt)) ∧ (f.cond = 3#4 → v u = decide (a.toInt ≤ b.toInt)) ∧
      (f.cond = 4#4 → v u = decide (b.toInt < a.toInt)) ∧ (f.cond = 5#4 → v u = decide (b.toInt ≤ a.toInt)) ∧
      (f.cond = 6#4 → v u = decide (a.toNat < b.toNat)) ∧ (f.cond = 7#4 → v u = decide (a.toNat ≤ b.toNat)) ∧
      (f.cond = 8#4 → v u = decide (b.toNat < a.toNat)) ∧ (f.cond = 9#4 → v u = decide (b.toNat ≤ a.toNat))) ∧
    Gives (.plop q) s fun t => PredEffect s t c g q.pd fun u =>
      q.tt.getLsbD (4 * (c.pred u q.pa).toNat + 2 * (c.pred u q.pb).toNat + (c.pred u q.pc).toNat)

/-! ### Floating point and conversions -/

/-- R44, R50, R51: rounding into each floating-point format, in every mode, is what IEEE 754 says: to the nearest, ties to even,
or to the side of the mode; the flags; the special sources.  Sums and products are exact.
R52, R263: FADD, FMUL and FFMA round the exact value once under %fpmode.RND; a NaN result is the canonical NaN; NV is set
where no operand was a NaN.  FMIN and FMAX set no flag; a NaN gives the canonical NaN; −0 lies below +0. -/
def Obligations.FloatArithmetic : Prop :=
  (∀ (f mode : Nat) (sat : Bool), f < 6 → mode < 4 → ∀ (neg : Bool) (m : Nat) (e : Int),
    (m ≠ 0 → RoundsFloat f mode sat neg (compare (m * (2 : Rat) ^ e)) (roundFloat f mode sat (.fin neg m e))) ∧
    (m = 0 → ∃ e', dec f (roundFloat f mode sat (.fin neg m e)).1 = .fin neg 0 e' ∧ (roundFloat f mode sat (.fin neg m e)).2 = 0) ∧
    (f ≠ 3 → f ≠ 5 → sat = false → dec f (roundFloat f mode sat (.inf neg)).1 = .inf neg ∧
      (roundFloat f mode sat (.inf neg)).2 = 0) ∧
    (f = 3 → sat = false → roundFloat f mode sat (.inf neg) = (0x7F, fOF ||| fNX)) ∧
    (f = 5 ∨ sat = true → (roundFloat f mode sat (.inf neg)).2 = fOF ||| fNX ∧
      (roundFloat f mode sat (.inf neg)).1 = [0x7F7FFFFF, 0x7F7F, 0x7BFF, 0x7E, 0x7B, 7].getD f 0 +
        if neg then [2 ^ 31, 2 ^ 15, 2 ^ 15, 2 ^ 7, 2 ^ 7, 8].getD f 0 else 0) ∧
    roundFloat f mode sat .nan =
      ([0x7FC00000, 0x7FC0, 0x7E00, 0x7F, 0x7E, 0].getD f 0, if f = 5 then fNV else 0)) ∧
  (∀ (mode : Nat) (v : Val), (round32 mode v).1.toNat = (roundFloat 0 mode false v).1 ∧
    (round32 mode v).2 = (roundFloat 0 mode false v).2) ∧
  (∀ (mode : Nat) (n n' : Bool) (m m' : Nat) (e e' : Int),
    let x := Val.fin n m e; let y := Val.fin n' m' e'
    (∃ k j z, x.add mode y = .fin z k j ∧ (x.add mode y).rat = x.rat + y.rat ∧
      (k = 0 → z = if m = 0 ∧ m' = 0 ∧ n = n' then n else decide (mode = 2))) ∧
    (∃ k j, x.mul y = .fin (n != n') k j ∧ (x.mul y).rat = x.rat * y.rat) ∧
    (Val.inf n).add mode y = .inf n ∧ y.add mode (.inf n) = .inf n ∧ (Val.inf n).add mode (.inf n) = .inf n ∧
    (Val.inf n).mul (.inf n') = .inf (n != n') ∧
    (m' ≠ 0 → (Val.inf n).mul y = .inf (n != n') ∧ y.mul (.inf n) = .inf (n != n'))) ∧
  ∀ (s : State) (c : Ctx) (g : Group), InIssue s c g → ∀ f : LA,
  (∃ v w : Thread → Word,
    (Gives (.fmin f) s fun t => AluEffect s t c g f.k f.d v) ∧ (Gives (.fmax f) s fun t => AluEffect s t c g f.k f.d w) ∧
    ∀ u, FloatLeast (c.val u f.a) (c.opB g u f.bs f.b) (v u) ∧ FloatGreatest (c.val u f.a) (c.opB g u f.bs f.b) (w u)) ∧
  ∃ v w x : Thread → Word × Flags,
    (Gives (.fadd f) s fun t => FpAluEffect s t c g f.k f.d v) ∧ (Gives (.fmul f) s fun t => FpAluEffect s t c g f.k f.d w) ∧
    (Gives (.ffma f) s fun t => FpAluEffect s t c g f.k f.d x) ∧
    ∀ u, let a := dec32 (c.val u f.a); let b := dec32 (c.opB g u f.bs f.b); let d := dec32 (c.val u f.d)
      let m := c.mode u
      (a = .nan ∨ b = .nan → v u = (0x7FC00000#32, 0) ∧ w u = (0x7FC00000#32, 0) ∧ x u = (0x7FC00000#32, 0)) ∧
      (d = .nan → (x u).1 = 0x7FC00000#32 ∧ (a.mul b ≠ .nan → (x u).2 = 0)) ∧
      (∀ n, a = .inf n → b = .inf (!n) → v u = (0x7FC00000#32, fNV)) ∧
      (∀ n p e, (a = .inf n ∧ b = .fin p 0 e) ∨ (b = .inf n ∧ a = .fin p 0 e) →
        w u = (0x7FC00000#32, fNV) ∧ x u = (0x7FC00000#32, fNV)) ∧
      (∀ n, a.mul b = .inf n → d = .inf (!n) → x u = (0x7FC00000#32, fNV)) ∧
      (a.add m b ≠ .nan → v u = round32 m (a.add m b)) ∧ (a.mul b ≠ .nan → w u = round32 m (a.mul b)) ∧
      ((a.mul b).add m d ≠ .nan → x u = round32 m ((a.mul b).add m d))

/-- R196, R264: FCMP writes p(PD) by COND and nothing else: −0 and +0 are equal, a NaN is unordered. -/
def Obligations.FloatCompare : Prop :=
  ∀ (s : State) (c : Ctx) (g : Group), InIssue s c g → ∀ f : LAc, ∃ v : Thread → Bool,
    (Gives (.fcmp f) s fun t => PredEffect s t c g f.pd v) ∧
    ∀ u, let a := dec32 (c.val u f.a); let b := dec32 (c.opB g u f.bs f.b)
      (a = .nan ∨ b = .nan →
        (f.cond = 0#4 ∨ f.cond = 2#4 ∨ f.cond = 3#4 ∨ f.cond = 4#4 ∨ f.cond = 5#4 ∨ f.cond = 10#4 → v u = false) ∧
        (f.cond = 1#4 ∨ f.cond = 11#4 → v u = true)) ∧
      (a ≠ .nan → b ≠ .nan →
        (f.cond = 0#4 → (v u = true ↔ ¬ a.Less b ∧ ¬ b.Less a)) ∧ (f.cond = 1#4 → (v u = true ↔ a.Less b ∨ b.Less a)) ∧
        (f.cond = 2#4 → (v u = true ↔ a.Less b)) ∧ (f.cond = 3#4 → (v u = true ↔ ¬ b.Less a)) ∧
        (f.cond = 4#4 → (v u = true ↔ b.Less a)) ∧ (f.cond = 5#4 → (v u = true ↔ ¬ a.Less b)) ∧
        (f.cond = 10#4 → v u = true) ∧ (f.cond = 11#4 → v u = false))

/-- R55 to R57, R257, R266, R318: FRND, the special functions, CVT and CVTP write D and %nflags alone; CVTP replaces two elements
of D and keeps its other bits.  FRND gives an integral value; FEXP2 and FLOG2 are the algorithms of R55 and R56 on its tables;
FRCP, FRSQ and FSQRT are rounded once, with the table of R57; conversions clamp to an integer or take a power of two. -/
def Obligations.FloatUnary : Prop :=
  (∀ (mode : Nat) (sat : Bool) (v : Val), mode < 4 →
    (∀ df, df < 6 → convert df mode sat v = roundFloat df mode sat v) ∧
    (∀ (df w : Nat) (lo hi : Int), (df, w, lo, hi) ∈ [(7, 32, -2 ^ 31, 2 ^ 31 - 1), (8, 8, -128, 127), (9, 4, -7, 7),
        (10, 32, 0, 2 ^ 32 - 1), (11, 8, 0, 255)] → let r := convert df mode sat v
      let code := fun (i : Int) => (BitVec.ofInt w i).toNat
      (v = .nan → r = (0, fNV)) ∧ (v = .inf true → r = (code lo, fSAT)) ∧ (v = .inf false → r = (code hi, fSAT)) ∧
      ∀ neg m e, v = .fin neg m e → ∃ k y : Nat, RoundsTo mode neg (compare (m * (2 : Rat) ^ e)) 0 k y ∧
        let i : Int := if neg then -y else y
        r = (code (max lo (min i hi)),
          (if (k : Rat) = m * (2 : Rat) ^ e then 0 else fNX) ||| if i < lo ∨ hi < i then fSAT else 0)) ∧
    let r := convert 6 mode sat v
    (v = .nan → r = (0xFF, 0)) ∧ (v = .inf false → r = (0xFE, fOF ||| fNX)) ∧ (v = .inf true → r = (0, fNV)) ∧
    ∀ neg m e, v = .fin neg m e → (m = 0 → r = (0, fUF ||| fNX)) ∧ (m ≠ 0 → neg = true → r = (0, fNV)) ∧
      (m ≠ 0 → neg = false → ∃ j k : Int, let x : Rat := m * (2 : Rat) ^ e; let b : Rat := (2 : Rat) ^ j
        b ≤ x ∧ x < 2 * b ∧ (x = b → k = j) ∧
        (x ≠ b → (mode = 1 ∨ mode = 2 → k = j) ∧ (mode = 3 → k = j + 1) ∧ (mode = 0 →
          (x < 3 / 2 * b → k = j) ∧ (3 / 2 * b < x → k = j + 1) ∧
          (x = 3 / 2 * b → (k = j ∨ k = j + 1) ∧ (k + 127) % 2 = 0))) ∧
        (127 < k → r = (0xFE, fOF ||| fNX)) ∧ (k < -127 → r = (0, fUF ||| fNX)) ∧
        (-127 ≤ k → k ≤ 127 → r = ((k + 127).toNat, if x = b then 0 else fNX)))) ∧
  (∀ i, i < 64 → (2 * expT.getD i 0 - 1) ^ 64 < 2 ^ (2624 + i) ∧ 2 ^ (2624 + i) < (2 * expT.getD i 0 + 1) ^ 64 ∧
    (2 * logG.getD i 0 - 1) * (64 + i) < 2 ^ 69 ∧ 2 ^ 69 < (2 * logG.getD i 0 + 1) * (64 + i)) ∧
  ∀ (s : State) (c : Ctx) (g : Group), InIssue s c g → ∀ (r : LFrnd) (f : LA2) (h : LV),
    (∃ v : Thread → Word × Flags, (Gives (.frnd r) s fun t => FpEffect s t c g r.d v) ∧ ∀ u,
      let x := c.val u r.a; let mode := if r.rc.toNat = 4 then c.mode u else r.rc.toNat
      (dec32 x = .nan → v u = (0x7FC00000#32, 0)) ∧ (∀ n, dec32 x = .inf n → v u = (x, 0)) ∧
      ∀ n m e, mode < 4 → dec32 x = .fin n m e → ∃ k y m' e', RoundsTo mode n (compare (m * (2 : Rat) ^ e)) 0 k y ∧
        dec32 (v u).1 = .fin n m' e' ∧ m' * (2 : Rat) ^ e' = y ∧ (v u).2 = if (v u).1 = x then 0 else fNX) ∧
    (∃ v : Thread → Word × Flags, (Gives (.fexp2 f) s fun t => FpEffect s t c g f.d v) ∧ ∀ u,
      let x := dec32 (c.val u f.a); let m := c.mode u; let n := x.rat.floor
      v u = fpExp2 m (c.val u f.a) ∧
      (x = .nan → v u = (0x7FC00000#32, 0)) ∧ (x = .inf false → v u = (0x7F800000#32, 0)) ∧ (x = .inf true → v u = (0, 0)) ∧
      (x ≠ .nan → (∀ b, x ≠ .inf b) →
        (128 ≤ x.rat → v u = (if m = 0 ∨ m = 3 then 0x7F800000#32 else 0x7F7FFFFF#32, fOF ||| fNX)) ∧
        (x.rat < -150 → v u = (if m = 3 then 1 else 0, fUF ||| fNX)) ∧
        (-150 ≤ x.rat → x.rat < 128 →
          let big := ((x.rat - n) * 2 ^ 32).floor
          let q := big % 2 ^ 26 * 2 ^ 8
          let p := expC.getD 1 0 + expC.getD 2 0 * q / 2 ^ 40
          let p := expC.getD 0 0 + p * q / 2 ^ 40
          let p := 2 ^ 40 + p * q / 2 ^ 40
          let y := expT.getD (big / 2 ^ 26).toNat 0 * p / 2 ^ 40
          let r := round32 m (.fin false y.toNat (n - 40))
          0 ≤ y ∧ v u = (r.1, r.2 ||| if (n : Rat) = x.rat then 0 else fNX)))) ∧
    (∃ v : Thread → Word × Flags, (Gives (.flog2 f) s fun t => FpEffect s t c g f.d v) ∧ ∀ u, let x := dec32 (c.val u f.a)
      (x = .nan → v u = (0x7FC00000#32, 0)) ∧ (x = .inf true → v u = (0x7FC00000#32, fNV)) ∧
      (x = .inf false → v u = (0x7F800000#32, 0)) ∧ (∀ n e, x = .fin n 0 e → v u = (0xFF800000#32, fDZ)) ∧
      (∀ m e, x = .fin true m e → m ≠ 0 → v u = (0x7FC00000#32, fNV)) ∧
      (∀ m e, x = .fin false m e → m ≠ 0 → ∃ (ex : Int) (mm : Nat), x.rat = (1 + mm / 2 ^ 23) * (2 : Rat) ^ ex ∧ mm < 2 ^ 23 ∧
        let i := mm / 2 ^ 17
        let w := Int.ofNat (mm % 2 ^ 17) * 2 ^ 39 * logG.getD i 0 / 2 ^ 62
        let z := logK.getD 4 0 + logK.getD 5 0 * w / 2 ^ 62
        let z := logK.getD 3 0 + z * w / 2 ^ 62
        let z := logK.getD 2 0 + z * w / 2 ^ 62
        let z := logK.getD 1 0 + z * w / 2 ^ 62
        let z := logK.getD 0 0 + z * w / 2 ^ 62
        let y := ex * 2 ^ 62 + logL.getD i 0 + z * w / 2 ^ 62
        v u = ((round32 (c.mode u) (.fin (decide (y < 0)) y.natAbs (-62))).1, if mm = 0 then 0 else fNX))) ∧
    (∃ v w x : Thread → Word × Flags, (Gives (.frcp f) s fun t => FpEffect s t c g f.d v) ∧
      (Gives (.frsq f) s fun t => FpEffect s t c g f.d w) ∧ (Gives (.fsqrt f) s fun t => FpEffect s t c g f.d x) ∧
      ∀ u, let a := dec32 (c.val u f.a); let y := a.rat
        let nan := (0x7FC00000#32, fNone); let bad := (0x7FC00000#32, fNV)
        let rounded := fun (neg : Bool) (cmp : Rat → Ordering) (r : Word × Flags) =>
          RoundsFloat 0 (c.mode u) false neg cmp (r.1.toNat, r.2)
        (a = .nan → v u = nan ∧ w u = nan ∧ x u = nan) ∧
        (c.val u f.a = 0#32 → v u = (0x7F800000#32, fDZ) ∧ w u = (0x7F800000#32, fDZ) ∧ x u = (0, 0)) ∧
        (c.val u f.a = 0x80000000#32 → v u = (0xFF800000#32, fDZ) ∧ w u = (0xFF800000#32, fDZ) ∧ x u = (0x80000000#32, 0)) ∧
        (a = .inf false → v u = (0, 0) ∧ w u = (0, 0) ∧ x u = (0x7F800000#32, 0)) ∧
        (a = .inf true → v u = (0x80000000#32, 0) ∧ w u = bad ∧ x u = bad) ∧
        (∀ m e, a = .fin true m e → m ≠ 0 → w u = bad ∧ x u = bad) ∧
        (∀ n m e, a = .fin n m e → m ≠ 0 → rounded n (compare (1 / |y|)) (v u)) ∧
        (∀ m e, a = .fin false m e → m ≠ 0 →
          rounded false (fun z => compare (1 / y) (z * z)) (w u) ∧ rounded false (fun z => compare y (z * z)) (x u))) ∧
    (∃ v w : Thread → Word × Flags,
      (Gives (.cvt h) s fun t => FpEffect s t c g h.d v) ∧ (Gives (.cvtp h) s fun t => FpEffect s t c g h.d w) ∧
      ∀ u,
        let b4 := fun (x : Nat) => if h.sfmt.toNat = 9 ∧ x = 8 then fB4 else 0
        let conv := fun (x : Nat) =>
          let r := convert h.dfmt.toNat (if h.rnd.toNat = 4 then c.mode u else h.rnd.toNat) h.sat (dec h.sfmt.toNat x)
          (r.1, r.2 ||| b4 x)
        let n := fmtBits h.dfmt.toNat
        let elem := fun (x : Word) (i : Nat) => x.toNat / 2 ^ (fmtBits h.sfmt.toNat * i) % 2 ^ fmtBits h.sfmt.toNat
        let x0 := conv (elem (c.val u h.a) 0); let x1 := conv (elem (c.val u h.b) 0)
        v u = (BitVec.ofNat 32 (conv (elem (c.val u h.a) h.eidx.toNat)).1, (conv (elem (c.val u h.a) h.eidx.toNat)).2) ∧
        (w u).2 = x0.2 ||| x1.2 ∧
        (x0.1 < 2 ^ n → x1.1 < 2 ^ n → n * (h.eidx.toNat + 2) ≤ 32 →
          (w u).1.toNat / 2 ^ (n * h.eidx.toNat) % 2 ^ n = x0.1 ∧
          (w u).1.toNat / 2 ^ (n * (h.eidx.toNat + 1)) % 2 ^ n = x1.1 ∧
          ∀ i, (i < n * h.eidx.toNat ∨ n * (h.eidx.toNat + 2) ≤ i) → ((w u).1).getLsbD i = (c.val u h.d).getLsbD i))

/-- R285: the packed instructions work on each 16-bit half in its own format, as FADD, FMUL and FFMA do in theirs: the exact value
rounded once, the format's canonical NaN for a NaN, with NV where no operand was one.
R46, R259: DP4 and DP8 add an exact sum of products to D and clamp; SAT exactly where they clamp; B4 exactly where DP8
reads a code 0b1000. -/
def Obligations.PackedAndDotProducts : Prop :=
  (∀ f m x y z : Nat, f = 1 ∨ f = 2 →
    let a := dec f x; let b := dec f y; let d := dec f z; let nan := if f = 1 then 0x7FC0 else 0x7E00
    (a = .nan ∨ b = .nan → fpAdd f m x y = (nan, 0) ∧ fpMul f m x y = (nan, 0) ∧ fpFma f m x y z = (nan, 0)) ∧
    (d = .nan → (fpFma f m x y z).1 = nan ∧ (a.mul b ≠ .nan → (fpFma f m x y z).2 = 0)) ∧
    (∀ n, a = .inf n → b = .inf (!n) → fpAdd f m x y = (nan, fNV)) ∧
    (∀ n p e, (a = .inf n ∧ b = .fin p 0 e) ∨ (b = .inf n ∧ a = .fin p 0 e) →
      fpMul f m x y = (nan, fNV) ∧ fpFma f m x y z = (nan, fNV)) ∧
    (∀ n, a.mul b = .inf n → d = .inf (!n) → fpFma f m x y z = (nan, fNV)) ∧
    (a.add m b ≠ .nan → fpAdd f m x y = roundFloat f m false (a.add m b)) ∧
    (a.mul b ≠ .nan → fpMul f m x y = roundFloat f m false (a.mul b)) ∧
    ((a.mul b).add m d ≠ .nan → fpFma f m x y z = roundFloat f m false ((a.mul b).add m d))) ∧
  (∀ (s : State) (c : Ctx) (g : Group), InIssue s c g → ∀ f : LA,
    let two := fun (op : Nat → Nat → Nat → Nat → Nat × Flags) (u : Thread) =>
      let a := (c.val u f.a).toNat; let b := (c.opB g u f.bs f.b).toNat; let d := (c.val u f.d).toNat
      let lo := op (c.mode u) (a % 2 ^ 16) (b % 2 ^ 16) (d % 2 ^ 16)
      let hi := op (c.mode u) (a / 2 ^ 16) (b / 2 ^ 16) (d / 2 ^ 16)
      (BitVec.ofNat 32 (lo.1 + 2 ^ 16 * hi.1), lo.2 ||| hi.2)
    (Gives (.paddBf16 f) s fun t => FpAluEffect s t c g f.k f.d (two fun m x y _ => fpAdd 1 m x y)) ∧
    (Gives (.paddF16 f) s fun t => FpAluEffect s t c g f.k f.d (two fun m x y _ => fpAdd 2 m x y)) ∧
    (Gives (.pmulBf16 f) s fun t => FpAluEffect s t c g f.k f.d (two fun m x y _ => fpMul 1 m x y)) ∧
    (Gives (.pmulF16 f) s fun t => FpAluEffect s t c g f.k f.d (two fun m x y _ => fpMul 2 m x y)) ∧
    (Gives (.pfmaBf16 f) s fun t => FpAluEffect s t c g f.k f.d (two fun m x y z => fpFma 1 m x y z)) ∧
    (Gives (.pfmaF16 f) s fun t => FpAluEffect s t c g f.k f.d (two fun m x y z => fpFma 2 m x y z))) ∧
  ∀ (s : State) (c : Ctx) (g : Group), InIssue s c g → ∀ (f : LDp4) (h : LA), ∃ v w : Thread → Word × Flags,
    (Gives (.dp4 f) s fun t => FpAluEffect s t c g f.k f.d v) ∧ (Gives (.dp8 h) s fun t => FpAluEffect s t c g h.k h.d w) ∧
    (∀ u,
        let x := fun (a : Word) (n : Bool) (k : Nat) =>
          if n then Int.ofNat (a.extractLsb' (8 * k) 8).toNat else (a.extractLsb' (8 * k) 8).toInt
        let sum := (c.val u f.d).toInt + ((List.range 4).map fun k =>
          x (c.val u f.a) f.sga k * x (c.opB g u f.bs f.b) f.sgb k).sum
        (v u).1.toInt = max (-2 ^ 31) (min sum (2 ^ 31 - 1)) ∧
        (v u).2 = if sum < -2 ^ 31 ∨ 2 ^ 31 - 1 < sum then fSAT else fNone) ∧
    (∀ u,
        let x := fun (a : Word) (k : Nat) =>
          if a.extractLsb' (4 * k) 4 = 8#4 then 0 else (a.extractLsb' (4 * k) 4).toInt
        let a := c.val u h.a; let b := c.opB g u h.bs h.b
        let sum := (c.val u h.d).toInt + ((List.range 8).map fun k => x a k * x b k).sum
        (w u).1.toInt = max (-2 ^ 31) (min sum (2 ^ 31 - 1)) ∧
        (w u).2 = (if sum < -2 ^ 31 ∨ 2 ^ 31 - 1 < sum then fSAT else fNone) |||
          if (List.range 8).any fun k => a.extractLsb' (4 * k) 4 == 8#4 || b.extractLsb' (4 * k) 4 == 8#4 then fB4
          else fNone)

/-! ### Collective instructions -/

/-- R22, R23, R289, R311, R312: QXCH, XLANE and WVOTE: every thread reads before any writes; an exited thread supplies its
frozen registers to QXCH (zero for a latch), zero to XLANE, and false to WVOTE; a lane without a thread supplies zero. -/
def Obligations.LaneExchanges : Prop :=
  ∀ (s : State) (c : Ctx) (g : Group), InIssue s c g → ∀ (f : LI) (x : LXlane) (w : LAw), ∃ v : Thread → Word,
    (Gives (.qxch f) s fun t => LaneEffect s t c g [] fun u => u.setReg f.d
      (match g.thread (u.tid / 4 * 4 + f.sel.toNat / 4 ^ (u.tid % 4) % 4) with
        | some m => if 120 ≤ f.a.toNat ∧ f.a.toNat < 123 ∧ m.live = false then 0 else c.val m f.a
        | none => 0)) ∧
    (Gives (.xlane x) s fun t => LaneEffect s t c g [] fun u => u.setReg x.d
      (match g.thread (u.tid / 32 * 32 + (c.opB g u x.bs x.b).toNat % 32) with
        | some m => if m.live then c.val m x.a else 0
        | none => 0)) ∧
    (Gives (.wvote w) s fun t => LaneEffect s t c g [] fun u => (u.setReg w.d (v u)).setPred w.pd
      (if w.k.toNat = 0 then (List.range 32).all fun h => (g.thread (u.tid / 32 * 32 + h)).isNone || (v u).getLsbD h
       else decide (v u ≠ 0))) ∧
    ∀ u h, h < 32 → (v u).getLsbD h = match g.thread (u.tid / 32 * 32 + h) with
      | some m => m.live && c.pred m w.pa
      | none => false

/-- R52, R60, R275, R276: MMF: thread of home lane L holds C[L div 4][2(L mod 4)] and the next column, each the old element plus
the exact block sum (times its two scales), rounded once to nearest even, or clamped.  Home lane 4r + k div 8 holds elements
8(k div 8) up of row r of A and of column r of B, packed in ascending order; an exited thread supplies zeros.  NV of a block
that meets 0 × ∞ or ∞ − ∞ (log 18) and the sign of a zero sum (log 94) are the model's. -/
def Obligations.FragmentMultiply : Prop :=
  ∀ (s : State) (c : Ctx) (g : Group), InIssue s c g → ∀ f : LG,
    let effect := fun (t : State) (elem : Nat → Nat → Nat → Word → Word × Flags) => LaneEffect s t c g [] fun u =>
      let r := u.tid % 32 / 4; let k := 2 * (u.tid % 32 % 4)
      let lo := elem u.tid r k (c.valAt u f.d 0); let hi := elem u.tid r (k + 1) (c.valAt u f.d 1)
      ((u.setRegAt f.d 0 lo.1).setRegAt f.d 1 hi.1).addFlags (lo.2 ||| hi.2)
    let reg := fun (tid lane : Nat) (a : Code) (k : Nat) => match g.thread (tid / 32 * 32 + lane) with
      | some u => if u.live then (if k = 0 then c.val u a else c.valAt u a k) else 0
      | none => (0 : Word)
    let elem := fun (width tid : Nat) (a : Code) (r k : Nat) => let per := 32 / width
      (reg tid (4 * r + k / 8) a (k % 8 / per)).toNat / 2 ^ (width * (k % 8 % per)) % 2 ^ width
    let scale := fun (tid : Nat) (a : Code) (row : Nat) (sel : BitVec 2) =>
      (reg tid (4 * row) a 0).toNat / 2 ^ (8 * sel.toNat) % 256
    let block := fun (fmt width : Nat) (scaled : Bool) (v : Nat → Nat → Nat → Word → Word × Flags) =>
      ∀ (tid r k : Nat) (acc : Word),
      let x := fun j => dec fmt (elem width tid f.a r j); let y := fun j => dec fmt (elem width tid f.b k j)
      let ps := (List.range 32).map fun j => (x j).mul (y j)
      let ea := if scaled then scale tid f.sca r f.sela else 127
      let eb := if scaled then scale tid f.scb k f.selb else 127
      let invalid : Prop := .nan ∈ ps ∨ (.inf true ∈ ps ∧ .inf false ∈ ps)
      let w := v tid r k acc
      (ea = 255 ∨ eb = 255 ∨ invalid → w.1 = 0x7FC00000#32 ∧ (¬ invalid → w.2 = 0) ∧
        (invalid → (∀ j, j < 32 → x j ≠ .nan ∧ y j ≠ .nan) → w.2 = fNV)) ∧
      (ea ≠ 255 → eb ≠ 255 → ¬ invalid →
        (dec32 acc = .nan → w = (0x7FC00000#32, 0)) ∧
        (∀ n, .inf n ∈ ps → (dec32 acc = .inf (!n) → w = (0x7FC00000#32, fNV)) ∧
          (dec32 acc ≠ .nan → dec32 acc ≠ .inf (!n) → dec32 w.1 = .inf n ∧ w.2 = 0)) ∧
        ((∀ n, .inf n ∉ ps) → (∀ n, dec32 acc = .inf n → w = (acc, 0)) ∧
          ∀ n m e, dec32 acc = .fin n m e → ∃ n' m' e', w = round32 0 (.fin n' m' e') ∧ (m' = 0 → n' = false) ∧
            (Val.fin n' m' e').rat = (dec32 acc).rat + (ps.map Val.rat).sum * (2 : Rat) ^ (Int.ofNat ea + Int.ofNat eb - 254)))
    ∃ v1 v2 v3 v4 v5 v6 : Nat → Nat → Nat → Word → Word × Flags,
      (Gives (.mmfBf16 f) s fun t => effect t v1) ∧ block 1 16 false v1 ∧
      (Gives (.mmfF16 f) s fun t => effect t v2) ∧ block 2 16 false v2 ∧
      (Gives (.mmfE4m3 f) s fun t => effect t v3) ∧ block 3 8 true v3 ∧
      (Gives (.mmfE5m2 f) s fun t => effect t v4) ∧ block 4 8 true v4 ∧
      (Gives (.mmfE2m1 f) s fun t => effect t v5) ∧ block 5 4 true v5 ∧
      (Gives (.mmfS8 f) s fun t => effect t v6) ∧ ∀ (tid r k : Nat) (acc : Word),
        let int := fun (n : Bool) (x : Nat) => if n = true ∨ x < 128 then (x : Int) else x - 256
        let sum := acc.toInt + ((List.range 32).map fun j =>
          int f.sga (elem 8 tid f.a r j) * int f.sgb (elem 8 tid f.b k j)).sum
        (v6 tid r k acc).1.toInt = max (-2 ^ 31) (min sum (2 ^ 31 - 1)) ∧
        (v6 tid r k acc).2 = if sum < -2 ^ 31 ∨ 2 ^ 31 - 1 < sum then fSAT else 0

/-! ### Uniform instructions -/

/-- R302, R303: s(D) takes the result modulo 2^64, and nothing else of the machine changes. -/
def Obligations.UniformArithmetic : Prop :=
  ∀ (s : State) (c : Ctx) (g : Group), InIssue s c g → ∀ (f : LAu) (m : LSmov) (l : LSmovl),
    let gives := fun (i : Instr) (op : Nat → Nat → Nat) => Gives i s fun t =>
      UniEffect s t c g f.d.toNat (BitVec.ofNat 64 (op (c.uni g f.a.toNat).toNat (c.uniB g f.b).toNat))
    gives (.sadd f) (· + ·) ∧ gives (.ssub f) (fun a b => a + 2 ^ 64 - b) ∧ gives (.smul f) (· * ·) ∧
    gives (.sand f) (· &&& ·) ∧ gives (.sor f) (· ||| ·) ∧ gives (.sxor f) (· ^^^ ·) ∧
    gives (.sshl f) (fun a n => a * 2 ^ n) ∧ gives (.sshr f) (fun a n => a / 2 ^ n) ∧
    (Gives (.smov m) s fun t => UniEffect s t c g m.d.toNat (c.uniB g m.b)) ∧
    (Gives (.smovl l) s fun t => UniEffect s t c g l.d.toNat
      (if l.half = 0#2 then BitVec.ofInt 64 l.lit.toInt
       else if l.half = 1#2 then BitVec.ofNat 64 l.lit.toNat
       else BitVec.ofNat 64 (l.lit.toNat * 2 ^ 32 + (c.uni g l.d.toNat).toNat % 2 ^ 32)))

/-- R21: SFIRST copies the value that the source register holds in the active thread with the lowest home lane, in an issue
whose threads stand in ascending home lane, as every issue starts. -/
def Obligations.FirstLane : Prop :=
  ∀ (s : State) (c : Ctx) (g : Group), InIssue s c g → ∀ (f : LSfirst) (u : Thread),
    (c.active.map laneOf).Pairwise (· < ·) → u.tid ∈ c.active → (∀ j ∈ c.active, laneOf u.tid ≤ laneOf j) →
    g.thread u.tid = some u →
    Gives (.sfirst f) s fun t => UniEffect s t c g f.d.toNat (BitVec.ofNat 64 (c.val u f.a).toNat)

/-- R304: SCMP writes p(PD) in every active thread, comparing 64-bit values. -/
def Obligations.UniformCompare : Prop :=
  ∀ (s : State) (c : Ctx) (g : Group), InIssue s c g → ∀ f : LAuc, ∃ v : Bool,
    (Gives (.scmp f) s fun t => PredEffect s t c g f.pd fun _ => v) ∧
    let a := c.uni g f.a.toNat; let b := c.uniB g f.b
    (f.cond = 0#4 → v = decide (a.toNat = b.toNat)) ∧ (f.cond = 1#4 → v = decide (a.toNat ≠ b.toNat)) ∧
    (f.cond = 2#4 → v = decide (a.toInt < b.toInt)) ∧ (f.cond = 3#4 → v = decide (a.toInt ≤ b.toInt)) ∧
    (f.cond = 4#4 → v = decide (b.toInt < a.toInt)) ∧ (f.cond = 5#4 → v = decide (b.toInt ≤ a.toInt)) ∧
    (f.cond = 6#4 → v = decide (a.toNat < b.toNat)) ∧ (f.cond = 7#4 → v = decide (a.toNat ≤ b.toNat)) ∧
    (f.cond = 8#4 → v = decide (b.toNat < a.toNat)) ∧ (f.cond = 9#4 → v = decide (b.toNat ≤ a.toNat))

/-! ### Traps, and the other ways in which a thread leaves an issue -/

/-- R159, R162, R164, R165: a trap with a sound destination pushes one level with %epc, %cause, %tval and %tmask, and the
thread stands at the handler's first packet with the priority it held; no register, predicate or flag, no other thread, and
nothing outside the groups changes.  0x40 clears the handle register that it names, with its ticket (R130); no other cause
clears one. -/
def Obligations.TakingATrap : Prop :=
  ∀ (s : State) (guid tid : Nat) (x : Group) (u : Thread) (p : Point) (word : Nat) (code : Byte) (tval : Dword)
    (tmask : Word) (handler a : Nat),
    s.group guid = some x → x.thread tid = some u → ¬ (x.underDebug = true ∧ code = 0x50#8) → u.traps.length < 4 →
    s.trapDest guid tid x code.toNat handler = .entry a → a ≠ 0 → a % 12 = 0 →
    let t := s.takeTrap guid tid p word code tval tmask handler
    ∃ (v : Thread) (y : Group), t.group guid = some y ∧ y.thread tid = some v ∧
      v = { u with run := .runnable, point := { prio := p.prio, pc := a / 12, word := 0 }, word := 0, arrival := s.stime,
                   traps := ⟨epcOf p, word, code, tval, tmask⟩ :: u.traps, handles := v.handles, tickets := v.tickets } ∧
      (code ≠ 0x40#8 ∨ handler = 0 → v.handles = u.handles ∧ v.tickets = u.tickets) ∧
      (∀ k, code = 0x40#8 → handler = k + 1 → v.handles.getD k 0 = 0 ∧ v.tickets.getD k ⟨0, none, none⟩ = ⟨0, none, none⟩ ∧
        ∀ j, j ≠ k → v.handles[j]? = u.handles[j]? ∧ v.tickets[j]? = u.tickets[j]?) ∧
      t.sreg y v 0x020 = epcOf p ∧ t.sreg y v 0x022 = tval ∧ t.sreg y v 0x023 = tmask.setWidth 64 ∧
      t.sreg y v 0x021 = BitVec.ofNat 64 (code.toNat + word * 2 ^ 8 + (u.traps.length + 1) * 2 ^ 24) ∧
      (∀ k j, (k ≠ guid ∨ j ≠ tid) → t.thread k j = s.thread k j) ∧ t = { s with groups := t.groups } ∧
      (p.word < 4 → p.pc < 2 ^ 54 → pointOf (epcOf p) = p)

/-- R162, R163: where each cause goes: 0x20 and 0x21 nowhere, 0x11 to the region's handler, 0x30 to 0x32 to ROWH, every other
cause to the entry that the vector table at TVT holds for it, read as by an ordinary load: with the thread's own pending
stores (R110), once its column and bank serve it (R88, R90); an uncorrectable error there traps 0x21, which ends it (R103).  That
reading of the table is the model's (log 41, 47).
R162, R164, R169: a trap without a sound destination, and a trap at depth 4, end the thread at once where it has no load in flight
and another lives, and place one entry of KIND 2 that names the cause, the thread and %tval, with the cause in progress as PCAUSE at
depth 4; for 0x20 and 0x21 its ACCESS is that of the access that met the fault or the error (the model's reading, log 83), which the trap
carries in place of a handler. -/
def Obligations.TrapDestinationsAndFatalTraps : Prop :=
  (∀ (s : State) (guid tid : Nat) (x : Group) (code handler pa : Nat), let d := s.trapDest guid tid x code handler
    (code = 0x20 ∨ code = 0x21 → d = .entry 0) ∧ (code = 0x11 → d = .entry handler) ∧
    (code = 0x30 ∨ code = 0x31 ∨ code = 0x32 → d = .entry x.rec_.rowh) ∧
    (code ≠ 0x20 → code ≠ 0x21 → code ≠ 0x11 → (code < 0x30 ∨ 0x32 < code) →
      (x.rec_.tvt = 0 → d = .entry 0) ∧
      (x.rec_.tvt ≠ 0 → s.xlate x.core x.rec_.tenant (x.rec_.tvt + 8 * code) 0 = .ok pa → pa < Config.peerBase →
        (s.served pa = false → d = .wait pa) ∧
        (s.served pa = true → (NetMark.core x.core ∈ s.netBad ∨ ∃ n ∈ s.badUnits, n * 64 < pa + 8 ∧ pa < n * 64 + 64) →
          d = .error (x.rec_.tvt + 8 * code)) ∧
        (s.served pa = true → NetMark.core x.core ∉ s.netBad → (∀ n ∈ s.badUnits, pa + 8 ≤ n * 64 ∨ n * 64 + 64 ≤ pa) →
          ((∀ a ∈ s.accesses, a.guid = guid → a.kind ≠ .store) → s.num pa 8 < 2 ^ 57 → d = .entry (s.num pa 8)) ∧
          ∀ a l, s.accesses = [a] → a.guid = guid → a.kind = .store → a.lanes = [l] → l.tid = tid → l.pa = pa →
            l.bytes.length = 8 → leNat l.bytes < 2 ^ 57 → d = .entry (leNat l.bytes))))) ∧
  ∀ (s : State) (guid tid : Nat) (x : Group) (u w : Thread) (p : Point) (word : Nat) (code : Byte) (tval : Dword)
    (tmask : Word) (handler a : Nat),
    s.group guid = some x → x.thread tid = some u → ¬ (x.underDebug = true ∧ code = 0x50#8) →
    w ∈ x.threads → w.tid ≠ tid → w.live = true → s.roomFor x.core = true → s.loading guid tid = false →
    (u.traps.length = 4 ∨ u.traps.length < 4 ∧ s.trapDest guid tid x code.toNat handler = .entry a ∧ (a = 0 ∨ a % 12 ≠ 0)) →
    let t := s.takeTrap guid tid p word code tval tmask handler
    (∃ e : FaultEntry, t.dieQ = s.dieQ ++ [(dieOfEntry x.core, e)] ∧ e.kind = 2 ∧ e.cause = code.toNat ∧
      e.tenant = x.rec_.tenant ∧ e.core = x.core ∧ e.gid = BitVec.ofNat 32 x.gid ∧ e.tid = BitVec.ofNat 32 tid ∧
      e.addr = tval.toNat % 2 ^ 57 ∧ e.token = s.nextToken ∧ (code = 0x20#8 ∨ code = 0x21#8 → e.access = handler) ∧
      e.pcause = if u.traps.length = 4 then ((u.traps.head?).map fun l => l.code.toNat).getD 0 else 0) ∧
    ∃ v, t.thread guid tid = some v ∧ v.live = false ∧ v.regs = u.regs

/-- R159, R161, R12: in an issue of one instruction a thread that traps takes its trap at the issue's start and leaves the
issue; one that has to wait parks, to make the issue again or to go on after it; in a chained issue all are noted, in order,
and nothing else changes until the issue ends.  Noting a chained issue's waits until it ends, and where a parked thread stands, are
the model's reading (log 39, 97). -/
def Obligations.LeavingAnIssue : Prop :=
  ∀ (s : State) (tid : Nat) (c : Ctx) (g : Group) (u : Thread), Acting s tid c g u →
    ∀ (code : Byte) (tval : Dword) (tmask : Word) (handler : Nat) (w : Wait),
    (c.chained = false →
      s.raise u.tid code tval tmask handler =
        (s.takeTrap c.guid tid (c.restart u.point.prio) c.here code tval tmask handler).leave tid ∧
      Parks s (s.retry u.tid w) c u w (c.restart u.point.prio) (c.restart u.point.prio) ∧
      Parks s (s.await u.tid w) c u w (c.restart u.point.prio) (c.resume u.point.prio)) ∧
    (c.chained = true →
      s.raise u.tid code tval tmask handler =
        { s with cur := some { c with traps := c.traps ++ [⟨tid, c.here, code, tval, tmask, handler, none⟩] } } ∧
      s.retry u.tid w = { s with cur := some { c with retries := c.retries ++ [(tid, w, c.here)] } } ∧
      s.await u.tid w = { s with cur := some { c with waits := c.waits ++ [(tid, w, c.here)] } })

/-! ### System and control-flow instructions -/

/-- R261, R283, R315: NOP does nothing, uses no pipe, and has the words 0x0080_0000 and, chained, 0x8080_0000; YIELD marks its
packet and changes nothing else; EVWAIT with the capacity flag set clears it and goes on, otherwise the thread parks until the
event.
R169, R175, R246, R310: every active thread takes trap 0x51 or 0x50 with the immediate, zero-extended, as %tval; a group under debug
halts at BKPT instead, with an entry of KIND 6 that names the packet. -/
def Obligations.NopYieldEventWaitAndSoftwareTraps : Prop :=
  (∀ s : State, exec .nop s = .next s) ∧ Instr.pipe .nop = .none ∧
  (∀ n w1, decode n 0x00800000#32 w1 = .ok .nop ∧ decode n 0x80800000#32 w1 = .ok .nop) ∧
  (∀ (n : Nat) (x : BitVec 23) (w1 : Option Word), x ≠ 0 → (decode n (0x001#9 ++ x) w1).toOption = none) ∧
  (∀ (s : State) (c : Ctx), s.cur = some c → exec .yield s = .next { s with cur := some { c with yielded := true } }) ∧
  (∀ ev, ActsEach (.evwait ev) fun s c _ u t =>
    (u.capFlag = true → OneThread s t c u { u with capFlag := false }) ∧
    (u.capFlag = false → t = s.await u.tid .capacity)) ∧
  ∀ imm : BitVec 16, (ActsEach (.trap imm) fun s _ _ u t => t = s.raise u.tid 0x51 (BitVec.ofNat 64 imm.toNat) 0 0) ∧
    ActsEach (.bkpt imm) fun s c g u t => t = s.raise u.tid 0x50 (BitVec.ofNat 64 imm.toNat) 0 c.pc ∧
      (g.underDebug = true → c.chained = false → s.roomFor g.core = true →
        (t.group c.guid).map (·.halted) = some true ∧ (t.thread c.guid u.tid).map (·.traps) = some u.traps ∧
        ∃ e : FaultEntry, t.dieQ = s.dieQ ++ [(dieOfEntry g.core, e)] ∧ e.kind = 6 ∧ e.cause = 0x50 ∧ e.addr = c.pc * 12)

/-- R314: XRET pops one level and resumes at the popped %epc: its priority [63:56], its word [55:54] and its packet [53:0]; at
depth 0 it traps 0x01.  No register, predicate, flag or other thread changes. -/
def Obligations.ReturnFromTrap : Prop :=
  ActsEach .xret fun s c _ u t =>
    (u.traps = [] → t = s.raise u.tid 0x01 c.word 0 0) ∧
    ∀ l ls, u.traps = l :: ls → t.thread c.guid u.tid = some { u with
        run := .runnable, arrival := s.stime, traps := ls, word := l.epc.toNat / 2 ^ 54 % 4, point := pointOf l.epc } ∧
      pointOf l.epc = { prio := BitVec.ofNat 8 (l.epc.toNat / 2 ^ 56), pc := l.epc.toNat % 2 ^ 54,
                        word := l.epc.toNat / 2 ^ 54 % 4 } ∧
      t = { s with groups := t.groups, cur := some { c with
        active := c.active.filter fun j => decide (j ≠ u.tid), moves := c.moves ++ [(u.tid, pointOf l.epc)] } } ∧
      ∀ k j, (k ≠ c.guid ∨ j ≠ u.tid) → t.thread k j = s.thread k j

/-- R12, R13, R23, R26, R131, R262: EXIT ends each active thread: at once, or once its loads in flight have been performed, and in
a chained issue once its other words have been made (log 39).  While another thread of the group lives the group stays; the
ended thread keeps its registers, holds no rebuild claim, and leaves its synchronisation groups by messages.  With the last living
thread the group ends and leaves its core; its launch is done once no index is left, no group of it is there or away, and its
accesses have been performed (R30, log 40): then its DONE counter takes 1. -/
def Obligations.ThreadExit : Prop :=
  ActsEach .exit fun s c g u t =>
    (c.chained = true → t = s.await u.tid .leaving) ∧
    (c.chained = false → s.loading c.guid u.tid = true → let p : Point := { u.point with word := u.word }
      t.thread c.guid u.tid = some { u with
        run := .parked .leaving p p, point := u.standing p, parkWord := u.word, due := none, later := [] } ∧
      t = { s with groups := t.groups, cur := some { c with active := c.active.filter fun j => decide (j ≠ u.tid) } }) ∧
    (c.chained = false → s.loading c.guid u.tid = false → ∀ w ∈ g.threads, w.tid ≠ u.tid → w.live = true →
      (∃ v, t.thread c.guid u.tid = some v ∧ v.live = false ∧ v.regs = u.regs ∧ v.preds = u.preds) ∧
      (∃ y, t.group c.guid = some y ∧ ∀ r ∈ y.regions, ∀ q, r = some q → q.claim ≠ some u.tid) ∧
      (t.hmsgs.drop s.hmsgs.length).map (·.handle) = u.handles.filter (· ≠ 0) ∧
      t = { s with groups := t.groups, hmsgs := t.hmsgs, nextId := t.nextId,
                   cur := some { c with active := c.active.filter fun j => decide (j ≠ u.tid) } }) ∧
    (c.chained = false → s.loading c.guid u.tid = false → risingFrom 0 s.groups = true →
      (∀ w ∈ g.threads, w.tid ≠ u.tid → w.live = false) → t.group c.guid = none ∧
      ∀ l, (∀ r ∈ g.regions, r = none) → s.accesses = [] → mget s.launches g.launch = some l →
        let idle : Prop := l.done = false ∧ (∀ r ∈ s.ranges, r.launch = g.launch → r.b ≤ r.a) ∧
          (∀ p ∈ s.groups, p.1 ≠ c.guid → p.2.launch ≠ g.launch) ∧ ∀ v ∈ s.saved, v.group.launch ≠ g.launch
        let ended := fun (m : State) => { m with
          groups := t.groups, hmsgs := t.hmsgs, nextId := t.nextId,
          cur := some { c with active := c.active.filter fun j => decide (j ≠ u.tid) } }
        let finished := { s with launches := mset s.launches g.launch { l with done := true } }
        (∀ k, k ≠ c.guid → t.group k = s.group k) ∧
        (t.hmsgs.drop s.hmsgs.length).map (·.handle) = u.handles.filter (· ≠ 0) ∧
        (¬ idle → t = ended s) ∧ (idle → l.rec_.done = 0 → t = ended finished) ∧
        ∀ pa, idle → l.rec_.done ≠ 0 → s.xlateTables l.rec_.tenant l.rec_.done 1 = .ok pa → pa < Config.peerBase →
          s.badUnits = [] → MemOk s → (∀ k ∈ s.columns, k.2.remap = none) →
          (∀ p ∈ s.groups, ∀ r ∈ p.2.rows, r.holds = false) →
          t = ended { finished with mem := t.mem, clines := t.clines } ∧ ∀ k, t.byte k = if pa ≤ k ∧ k < pa + 8
            then (leBytes 8 (min (s.num pa 8 + 1) (2 ^ 64 - 1))).getD (k - pa) 0 else s.byte k)

/-- R8, R50, R53, R77, R87, R99, R100, R165, R210, R211, R309, R319: SYSR writes the register that SREG names into V, a pair where it
is 64 bits wide, each register with its value; the trap registers read 0 at depth 0.  SYSW to %fpmode writes RND, to %nflags the seven flags, to %epc or %tval the top level of the
trap stack; %epc or %tval at depth 0, and %epc with WORD 3, trap 0x01 and write nothing. -/
def Obligations.SystemRegisters : Prop :=
  (∀ (s : State) (c : Ctx) (g : Group), InIssue s c g → ∀ f : LAy,
    (Gives (.sysr f) s fun t => LaneEffect s t c g [] fun u =>
      let x := s.sreg g (c.source u) f.sreg.toNat
      if f.sreg.toNat ∈ [0x012, 0x020, 0x022, 0x040, 0x041] then u.setPair f.v x else u.setReg f.v (x.setWidth 32)) ∧
    ∀ u : Thread, s.sreg g u 0x000 = BitVec.ofNat 64 u.tid ∧ s.sreg g u 0x001 = BitVec.ofNat 64 g.gid ∧
      s.sreg g u 0x030 = u.fpmode.setWidth 64 ∧ s.sreg g u 0x031 = u.nflags.setWidth 64 ∧
      s.sreg g u 0x041 = BitVec.ofNat 64 s.stime ∧ s.sreg g u 0x002 = BitVec.ofNat 64 (u.tid % 32) ∧
      (∀ a first n, g.blocks[u.tid / 256]? = some (a, first, n) → s.sreg g u 0x003 = BitVec.ofNat 64 (first + u.tid / 32 % 8)) ∧
      s.sreg g u 0x004 = BitVec.ofNat 64 (g.core % 24) ∧ s.sreg g u 0x005 = BitVec.ofNat 64 (g.core / 24) ∧
      s.sreg g u 0x006 = BitVec.ofNat 64 (g.core / 192) ∧
      (let k := s.core g.core; let col := s.column g.core; let i := s.island (g.core / 12)
        let lit := ((List.range 64).filter fun b => k.lit.getLsbD b).length
        let allow := min col.capb col.capt
        let count := i.count + (s.stime - i.at_) * i.mhz / 2400
        s.sreg g u 0x007 = BitVec.ofNat 64 k.lo ∧ s.sreg g u 0x008 = BitVec.ofNat 64 k.hi ∧
        s.sreg g u 0x010 = BitVec.ofNat 64 (if k.chosen = [] then lit + lit * 2 ^ 8
          else lit + (lit - k.chosen.length) * 2 ^ 8 + 2 ^ 15 + min 255 ((k.due - s.stime) / 1024) * 2 ^ 16) ∧
        s.sreg g u 0x011 = BitVec.ofNat 64 k.floor ∧
        (col.temps.length = 12 → let x := (s.sreg g u 0x012).toNat
          (∀ j y, col.temps[j]? = some y → x / 2 ^ (5 * j) % 2 ^ 5 = min 31 (y - 75)) ∧
          ∀ h y, col.temps[h]? = some y → (∀ j z, col.temps[j]? = some z → z ≤ y ∧ (j < h → z < y)) → x / 2 ^ 60 = h) ∧
        s.sreg g u 0x013 = BitVec.ofNat 64 ((if col.neigh then min allow (col.capt / 2) else allow) + col.capt * 2 ^ 8 +
          col.capb * 2 ^ 16 + (decide (col.capt < 96)).toNat * 2 ^ 24 + (decide (col.capb < 96)).toNat * 2 ^ 25 +
          col.neigh.toNat * 2 ^ 26) ∧
        s.sreg g u 0x014 = BitVec.ofNat 64 (col.live.toNat +
          ((List.range 24).filter fun b => col.live.getLsbD b).length * 2 ^ 24) ∧
        (count ≠ i.count → s.sreg g u 0x015 = BitVec.ofNat 64 (i.mhz + i.cut.toNat * 2 ^ 16)) ∧
        (count = i.count → s.sreg g u 0x015 = BitVec.ofNat 64 (i.wasMhz + i.wasCut.toNat * 2 ^ 16)) ∧
        s.sreg g u 0x040 = BitVec.ofNat 64 count) ∧
      (∀ l ls, u.traps = l :: ls → s.sreg g u 0x020 = l.epc ∧ s.sreg g u 0x022 = l.tval ∧
        s.sreg g u 0x023 = l.tmask.setWidth 64 ∧
        s.sreg g u 0x021 = BitVec.ofNat 64 (l.code.toNat + l.word * 2 ^ 8 + u.traps.length * 2 ^ 24)) ∧
      (u.traps = [] → s.sreg g u 0x020 = 0 ∧ s.sreg g u 0x021 = 0 ∧ s.sreg g u 0x022 = 0 ∧ s.sreg g u 0x023 = 0)) ∧
  ∀ f : LAy, ActsEach (.sysw f) fun s c _ u t =>
    (f.sreg = 0x030#10 → OneThread s t c u { u with fpmode := (c.val u f.v).setWidth 2 }) ∧
    (f.sreg = 0x031#10 → OneThread s t c u { u with nflags := (c.val u f.v).setWidth 7 }) ∧
    (∀ l ls, u.traps = l :: ls →
      (f.sreg = 0x020#10 → (c.pair u f.v).toNat / 2 ^ 54 % 4 ≠ 3 →
        OneThread s t c u { u with traps := { l with epc := c.pair u f.v } :: ls }) ∧
      (f.sreg = 0x020#10 → (c.pair u f.v).toNat / 2 ^ 54 % 4 = 3 → t = s.raise u.tid 0x01 c.word 0 0) ∧
      (f.sreg = 0x022#10 → OneThread s t c u { u with traps := { l with tval := c.pair u f.v } :: ls })) ∧
    (u.traps = [] → (f.sreg = 0x020#10 ∨ f.sreg = 0x022#10) → t = s.raise u.tid 0x01 c.word 0 0)

/-- R201, R202, R247, R249: BRA, BRU and CALL: where p(P) differs from NEG (always, for BRU) the thread goes to the packet OFFSET
away with TPRIO, or traps 0x20 where that lies outside [0, 2^57); otherwise it goes to the next packet with FPRIO.  A taken
CALL to a sound target leaves the link word, with FPRIO and the next packet, in its last two registers.  BRX goes to the
packet at the byte address in the pair A with PRIO; an address that is no multiple of 12 traps 0x01, one of 2^57 or above
0x20. -/
def Obligations.Branches : Prop :=
  ∀ f : LB,
    let taken := fun (s : State) (c : Ctx) (u u' : Thread) (t : State) =>
      let p : Int := c.pc + f.off.toInt
      (0 ≤ p → p * 12 < 2 ^ 57 → GoesTo s t c u u' { prio := f.tprio, pc := p.toNat, word := 0 }) ∧
      (p < 0 ∨ 2 ^ 57 ≤ p * 12 → t = s.raise u.tid 0x20 (BitVec.ofInt 64 (p * 12)) 0 2)
    let next := fun (s : State) (c : Ctx) (u : Thread) (t : State) =>
      GoesTo s t c u u { prio := f.fprio, pc := c.pc + 1, word := 0 }
    (ActsEach (.bra f) fun s c _ u t => (c.pred u f.p ≠ f.neg → taken s c u u t) ∧ (c.pred u f.p = f.neg → next s c u t)) ∧
    (ActsEach (.bru f) fun s c _ u t => taken s c u u t) ∧
    (ActsEach (.call f) fun s c g u t => (c.pred u f.p = f.neg → next s c u t) ∧
      (c.pred u f.p ≠ f.neg → taken s c u
        (let link := BitVec.ofNat 64 (f.fprio.toNat * 2 ^ 56 + (c.pc + 1) % 2 ^ 54)
         { u with regs := (u.regs.set (g.nregs - 2) (link.setWidth 32)).set (g.nregs - 1) ((link >>> 32).setWidth 32) }) t)) ∧
    ∀ x : LAx, ActsEach (.brx x) fun s c _ u t =>
      let a := (c.pair u x.a).toNat
      (a % 12 ≠ 0 → t = s.raise u.tid 0x01 (c.pair u x.a) 0 0) ∧
      (a % 12 = 0 → 2 ^ 57 ≤ a → t = s.raise u.tid 0x20 (c.pair u x.a) 0 2) ∧
      (a % 12 = 0 → a < 2 ^ 57 → GoesTo s t c u u { prio := x.prio, pc := a / 12, word := 0 })

/-- R301: RET reads the link word from the pair v(n − 2), v(n − 1) and resumes at packet [53:0] with priority [63:56]; [55:54]
other than 0 traps 0x01; a packet whose address reaches 2^57 traps 0x20 with that address modulo 2^64. -/
def Obligations.ReturnFromCall : Prop :=
  ActsEach .ret fun s c g u t =>
    ∀ lo hi : Word, (c.source u).regs.getD (g.nregs - 2) 0 = lo → (c.source u).regs.getD (g.nregs - 1) 0 = hi →
    let l := hi.toNat * 2 ^ 32 + lo.toNat
    (l / 2 ^ 54 % 4 ≠ 0 → t = s.raise u.tid 0x01 c.word 0 0) ∧
    (l / 2 ^ 54 % 4 = 0 → 2 ^ 57 ≤ l % 2 ^ 54 * 12 →
      t = s.raise u.tid 0x20 (BitVec.ofNat 64 (l % 2 ^ 54 * 12)) 0 2) ∧
    (l / 2 ^ 54 % 4 = 0 → l % 2 ^ 54 * 12 < 2 ^ 57 →
      GoesTo s t c u u { prio := BitVec.ofNat 8 (l / 2 ^ 56), pc := l % 2 ^ 54, word := 0 })

/-! ### Memory -/

/-- R195, R197, R273, R308: TY's widths; what a store of TY takes from V, and what a load of TY makes of the bytes it reads:
zero-extended, sign-extended, a word, a pair, or four registers.  R198, R243: the functions of ATOM and RED. -/
def Obligations.LoadStoreAndAtomicValues : Prop :=
  (∀ (c : Ctx) (u : Thread) (v : Code) (ty : Nat) (bs : List Byte), ty < 7 →
    let w := [1, 1, 2, 2, 4, 8, 16].getD ty 0
    let n := leNat bs
    tyBytes ty = w ∧ (c.storeBytes u ty v).length = w ∧
    (ty < 5 → leNat (c.storeBytes u ty v) = (c.val u v).toNat % 2 ^ (8 * w)) ∧
    (ty = 5 → leNat (c.storeBytes u ty v) = (c.pair u v).toNat) ∧
    (ty = 6 → leNat (c.storeBytes u ty v) = (c.valAt u v 0).toNat + (c.valAt u v 1).toNat * 2 ^ 32 +
      (c.valAt u v 2).toNat * 2 ^ 64 + (c.valAt u v 3).toNat * 2 ^ 96) ∧
    (bs.length = w → (ty = 0 ∨ ty = 2 ∨ ty = 4) → u.setLoad ty v bs = u.setReg v (BitVec.ofNat 32 n)) ∧
    (bs.length = w → (ty = 1 ∨ ty = 3) → u.setLoad ty v bs = u.setReg v
      (BitVec.ofInt 32 (if n < 2 ^ (8 * w - 1) then Int.ofNat n else Int.ofNat n - 2 ^ (8 * w)))) ∧
    (ty = 5 → u.setLoad ty v bs = u.setPair v (BitVec.ofNat 64 n)) ∧
    (ty = 6 → v.toNat < 117 → v.toNat + 3 < u.regs.length → ∀ k, k < 4 →
      (u.setLoad ty v bs).regs.getD (v.toNat + k) 0 = BitVec.ofNat 32 (n / 2 ^ (32 * k)))) ∧
  ∀ (a b : Word) (x y : Dword),
    let f := fun opt => BitVec.ofNat 32 (atomFn opt a.toNat b.toNat)
    f 0 = a + b ∧ BitVec.ofNat 64 (atomFn 1 x.toNat y.toNat) = x + y ∧
    (f 2).toInt = min a.toInt b.toInt ∧ (f 3).toNat = min a.toNat b.toNat ∧
    (f 4).toInt = max a.toInt b.toInt ∧ (f 5).toNat = max a.toNat b.toNat ∧
    f 6 = a &&& b ∧ f 7 = a ||| b ∧ f 8 = a ^^^ b ∧ f 9 = b ∧ BitVec.ofNat 64 (atomFn 10 x.toNat y.toNat) = y ∧
    FloatLeast a b (f 12) ∧ FloatGreatest a b (f 13) ∧ ((dec32 a).add 0 (dec32 b) = .nan → f 11 = 0x7FC00000#32) ∧
    ((dec32 a).add 0 (dec32 b) ≠ .nan → f 11 = (round32 0 ((dec32 a).add 0 (dec32 b))).1)

/-- R108, R115, R195, R197, R241, R243, R256, R273, R288, R300, R305, R308: the DRAM forms: the address is the base register's
value plus A modulo 2^64, natural alignment holds for each width, stores are translated as writes, atomics and counter adds as
both.  SLD is one read for its bundle, whose threads share its outcome; each lane of PROMOTE travels alone.  The ACCESS of an
atomic's faults (log 91) and that a miss leaves the whole issue unmade (log 48) are the model's. -/
def Obligations.DramAccesses : Prop :=
  ∀ (s : State) (c : Ctx) (g : Group), InIssue s c g → ∀ (f : LAm) (e : LAu) (x : LX) (p : LAp) (q : LAt),
    let at_ := fun (base : BitVec 2) (a : Code) (u : Thread) =>
      ((c.uni g (48 + base.toNat)).toNat + (c.val u a).toNat) % 2 ^ 64
    let w := if x.opt = 1#5 ∨ x.opt = 10#5 then 8 else 4
    let cw := if x.opt = 1#5 then 8 else 4
    let acq := fun (ord : BitVec 2) => decide (ord = 1#2 ∨ ord = 3#2)
    let arg := fun (u : Thread) => if w = 8 then c.pair u x.b else (c.val u x.b).setWidth 64
    DramForm (.ld f) s c g (at_ f.base f.a) (tyBytes f.ty.toNat) 0 false (.load f.ty.toNat f.v f.sc.toNat (acq f.ord))
      (fun _ => (0, 0, [])) ∧
    DramForm (.st f) s c g (at_ f.base f.a) (tyBytes f.ty.toNat) 1 false .store
      (fun u => (0, 0, c.storeBytes u f.ty.toNat f.v)) ∧
    (let a := ((c.uni g e.a.toNat).toNat + (c.uniB g e.b).toNat) % 2 ^ 64
     let each := fun (code : Byte) => ∃ t, exec (.sld e) s = .next t ∧
       InOrder (fun x tid y => y = x.raise tid code (BitVec.ofNat 64 a) 0 0) c.active s t
     (∀ pa, (∀ tid ∈ c.active, (g.thread tid).map (·.tid) = some tid) → c.active ≠ [] → a % 8 = 0 →
       s.xlate g.core g.rec_.tenant a 0 = .ok pa →
       exec (.sld e) s = .next { s with
         nextId := s.nextId + 1,
         accesses := s.accesses ++ [accessOfIssue s c g 0 (.sload e.d.toNat)
           (c.active.map fun tid => laneOfIssue tid a pa (0, 0, []))] }) ∧
     (a % 8 ≠ 0 → each 0x01) ∧ (∀ k, a % 8 = 0 → s.xlate g.core g.rec_.tenant a 0 = .no k → each 0x20) ∧
     ∀ tid rest, a % 8 = 0 → s.xlate g.core g.rec_.tenant a 0 = .miss → c.active = tid :: rest →
       exec (.sld e) s = .next { s with cur := some { c with misses := c.misses ++ [(tid, a, 0, c.active)] } }) ∧
    (let here := fun (u : Thread) => decide (p.sc = 0#2 ∨ (c.val u p.b).toNat = g.core ∨ 768 ≤ (c.val u p.b).toNat)
     (∀ (th : Nat → Thread) (pa : Nat → Nat), LanesReach s c g th (at_ 0#2 p.a) 4 0 false pa →
       (∀ tid ∈ c.active, (th tid).tid = tid) → exec (.promote p) s = .next { s with
         nextId := s.nextId + c.active.length,
         accesses := s.accesses ++ c.active.zipIdx.map fun (tid, i) => let u := th tid
           accessOfIssue s c g i (.promote p.d p.sc.toNat (here u))
             [laneOfIssue tid (at_ 0#2 p.a u) (pa tid) ((c.val u p.b).setWidth 64, 0, [])] }) ∧
     DramFails (.promote p) s c g (at_ 0#2 p.a) 4 0 false) ∧
    (x.space = false →
      DramForm (.atom x) s c g (at_ x.base x.a) w 1 true (.atomic x.opt.toNat x.d x.sc.toNat (acq x.ord) false)
        (fun u => (arg u, 0, [])) ∧
      DramForm (.red x) s c g (at_ x.base x.a) w 1 true (.atomic x.opt.toNat x.d x.sc.toNat (acq x.ord) true)
        (fun u => (arg u, 0, [])) ∧
      DramForm (.acas x) s c g (at_ x.base x.a) cw 1 true (.cas (decide (cw = 8)) x.d x.sc.toNat (acq x.ord))
        (fun u => if cw = 8 then (c.pair u x.b, c.valAt u x.b 3 ++ c.valAt u x.b 2, [])
          else ((c.val u x.b).setWidth 64, (c.valAt u x.b 1).setWidth 64, []))) ∧
    (q.space = false →
      DramForm (.ctadd q) s c g (at_ q.base q.a) 8 1 true .ctadd (fun u => ((c.val u q.v).setWidth 64, 0, [])) ∧
      DramForm (.ctread q) s c g (at_ q.base q.a) 8 0 false (.ctread q.v q.sc.toNat) (fun _ => (0, 0, [])))

/-- R65, R66, R71: the check of a scratchpad access of `n` bytes: no window holds the address, no region of the group's own
table holds it, the run passes the region's end (the first byte beyond is named), a spill area, a Lost region, or none. -/
def Obligations.ScratchpadBounds : Prop :=
  ∀ (s : State) (g : Group) (addr n : Nat),
    ((0x400000 ≤ addr ∧ addr < 0x10000000 ∨ 0x16000000 ≤ addr) → s.padCheck g addr n = .bounds addr) ∧
    (addr < 0x400000 →
      (∀ k, k < 24 → g.core / 24 * 24 + k = g.core → s.padCheck g (0x10000000 + k * 0x400000 + addr) n =
        match s.padCheck g addr n with
        | .ok j => .ok j
        | .bounds a => .bounds (0x10000000 + k * 0x400000 + a)
        | .lost a h => .lost (0x10000000 + k * 0x400000 + a) h) ∧
      ((∀ r, some r ∈ g.regions → addr < r.base ∨ r.base + r.size ≤ addr) → s.padCheck g addr n = .bounds addr) ∧
      ∀ r, some r ∈ g.regions → (∀ q, some q ∈ g.regions → q.base ≤ addr → addr < q.base + q.size → q = r) →
        r.base ≤ addr → addr < r.base + r.size →
        (r.base + r.size < addr + n → s.padCheck g addr n = .bounds (r.base + r.size)) ∧
        (addr + n ≤ r.base + r.size → s.inSpill g.core addr n = true → s.padCheck g addr n = .bounds addr) ∧
        (addr + n ≤ r.base + r.size → s.inSpill g.core addr n = false →
          (r.lost = true → s.padCheck g addr n = .lost addr r.handler) ∧
          (r.lost = false → s.padCheck g addr n = .ok (padKey g.core addr))))

/-- R71, R72, R113, R120, R241, R243, R256, R273, R300, R308: the scratchpad forms are performed as they issue, in ascending
home lane; an acquire at device scope or wider drops the cluster's copied lines and nothing else. -/
def Obligations.ScratchpadAccesses : Prop :=
  ∀ (s : State) (c : Ctx) (g : Group), InIssue s c g → MemOk s → ∀ (f : LAms) (x : LX) (q : LAt),
    let w := if x.opt = 1#5 ∨ x.opt = 10#5 then 8 else 4
    let cw := if x.opt = 1#5 then 8 else 4
    let acq := fun (s : State) (core : Nat) (sc : BitVec 2) (yes : Prop) (t : State) =>
      (yes ∧ 2 ≤ sc.toNat → t = { s with clines := s.clines.filter fun l => decide (l.cluster ≠ core / 24) }) ∧
      (¬ yes ∨ sc.toNat < 2 → t = s)
    let acquires := fun (ord : BitVec 2) => ord = 1#2 ∨ ord = 3#2
    let dropped := fun (a : State) (q : LAt) (k core : Nat) => a.clines.filter fun l =>
      decide (l.cluster ≠ core / 24 ∨ (q.sc.toNat < 2 ∧ (k + 8 ≤ l.line * 128 ∨ l.line * 128 + 128 ≤ k)))
    let atA := fun (a : Code) (c : Ctx) (u : Thread) => (c.val u a).toNat
    let arg := fun (n : Nat) (c : Ctx) (u : Thread) => if n = 8 then c.pair u x.b else (c.val u x.b).setWidth 64
    let took := fun (n old : Nat) (u : Thread) =>
      if n = 8 then u.setPair x.d (BitVec.ofNat 64 old) else u.setReg x.d (BitVec.ofNat 32 old)
    let new := fun (a : State) (c : Ctx) (u : Thread) (k : Nat) =>
      leBytes w (atomFn x.opt.toNat (a.num k w) (arg w c u).toNat)
    PadForm (.lds f) s c g (atA f.a c) (tyBytes f.ty.toNat) true (fun a c g u k b => ∃ m,
      OneThread a m c u (u.setLoad f.ty.toNat f.v (a.bytes k (tyBytes f.ty.toNat))) ∧
      acq m g.core f.sc (acquires f.ord) b) ∧
    PadForm (.sts f) s c g (atA f.a c) (tyBytes f.ty.toNat) false (fun a c _ u k b =>
      MemOk a → Writes a b k (c.storeBytes u f.ty.toNat f.v)) ∧
    (x.space = true →
      PadForm (.atom x) s c g (atA x.a c) w false (fun a c g u k b => MemOk a → ∃ m n, Writes a m k (new a c u k) ∧
        OneThread m n c u (took w (a.num k w) u) ∧ acq n g.core x.sc (acquires x.ord) b) ∧
      PadForm (.red x) s c g (atA x.a c) w false (fun a c g u k b => MemOk a → ∃ m, Writes a m k (new a c u k) ∧
        acq m g.core x.sc (acquires x.ord) b) ∧
      PadForm (.acas x) s c g (atA x.a c) cw false (fun a c g u k b => MemOk a → ∃ m n,
        (a.num k cw = (arg cw c u).toNat → Writes a m k (leBytes cw
          (if cw = 8 then (c.valAt u x.b 3 ++ c.valAt u x.b 2).toNat else (c.valAt u x.b 1).toNat))) ∧
        (a.num k cw ≠ (arg cw c u).toNat → m = a) ∧
        OneThread m n c u (took cw (a.num k cw) u) ∧ acq n g.core x.sc (acquires x.ord) b)) ∧
    (q.space = true →
      PadForm (.ctadd q) s c g (atA q.a c) 8 false (fun a c _ u k b => MemOk a → k < Config.peerBase → ∃ m,
        Writes a m k (leBytes 8 (min (a.num k 8 + (c.val u q.v).toNat) (2 ^ 64 - 1))) ∧ ∃ ls, b = { m with clines := ls }) ∧
      PadForm (.ctread q) s c g (atA q.a c) 8 true (fun a c g u k b => ∃ m,
        OneThread a m c u (u.setPair q.v (BitVec.ofNat 64 (a.num k 8))) ∧ acq m g.core q.sc True b) ∧
      PadForm (.ctwait q) s c g (atA q.a c) 8 true (fun a c g u k b => k < Config.peerBase →
        ((c.pair u q.v).toNat ≤ a.num k 8 → b = { a with clines := dropped a q k g.core }) ∧
        (a.num k 8 < (c.pair u q.v).toNat →
          b = a.await u.tid (.counter k (c.val u q.a).toNat (c.pair u q.v) q.sc.toNat))))

/-- R113, R114, R115, R120, R256, R265: FENCE acquires (.acq, .ar and .sc) by dropping the cluster's copied lines at device or
system scope, and .sc waits until the thread's earlier stores are visible; a CTWAIT on a DRAM counter that has reached its
target drops the cluster's copy of its line (R107) and goes on, and otherwise parks, and one that cannot be corrected, in DRAM or
on a die network (R185), traps 0x21; PROMOTE_ARRIVAL marks its access and nothing else.  That trap (log 42), the line of 128 bytes
(log 12) and a store visible once it is performed (log 19) are the model's. -/
def Obligations.FencesAndWaits : Prop :=
  (∀ f : LAf, ActsEach (.fence f) fun s c g u t => ∃ m,
    (f.kind.toNat ≠ 1 → 2 ≤ f.sc.toNat → m = { s with clines := s.clines.filter fun l => decide (l.cluster ≠ g.core / 24) }) ∧
    (f.kind.toNat = 1 ∨ f.sc.toNat < 2 → m = s) ∧
    ((f.kind.toNat = 3 ∧ ∃ a ∈ s.accesses, a.guid = c.guid ∧ a.kind.stores = true ∧ ∃ l ∈ a.lanes, l.tid = u.tid) →
      t = m.await u.tid .drained) ∧
    ((f.kind.toNat ≠ 3 ∨ ∀ a ∈ s.accesses, a.guid = c.guid → a.kind.stores = true → ∀ l ∈ a.lanes, l.tid ≠ u.tid) → t = m)) ∧
  (∀ (s : State) (c : Ctx) (g : Group), InIssue s c g → ∀ q : LAt, q.space = false →
    let at_ := fun (c : Ctx) (g : Group) (u : Thread) => ((c.uni g (48 + q.base.toNat)).toNat + (c.val u q.a).toNat) % 2 ^ 64
    DramFails (.ctwait q) s c g (at_ c g) 8 0 false ∧
    ∀ (th : Nat → Thread) (pa : Nat → Nat), LanesReach s c g th (at_ c g) 8 0 false pa →
      (∀ tid ∈ c.active, pa tid < Config.peerBase) → ∃ t, exec (.ctwait q) s = .next t ∧
      InOrder (fun x tid y => ∀ c g u, Acting x tid c g u → let k := pa tid
        let bad : Prop := NetMark.core g.core ∈ x.netBad ∨ ∃ n ∈ x.badUnits, n * 64 < k + 8 ∧ k < n * 64 + 64
        (bad → y = x.raise u.tid 0x21 (BitVec.ofNat 64 (at_ c g u)) 0 0) ∧
        let left := x.clines.filter fun l =>
          decide (l.cluster ≠ g.core / 24 ∨ (q.sc.toNat < 2 ∧ (k + 8 ≤ l.line * 128 ∨ l.line * 128 + 128 ≤ k)))
        (¬ bad → (c.pair u q.v).toNat ≤ x.num k 8 → y = { x with clines := left }) ∧
        (¬ bad → x.num k 8 < (c.pair u q.v).toNat →
          y = x.await u.tid (.counter k (at_ c g u) (c.pair u q.v) q.sc.toNat))) c.active s t) ∧
  ∀ (s : State) (id : Nat), ∃ t, exec (.promoteArrival id) s = .next t ∧ t = { s with accesses := t.accesses } ∧
    t.accesses.length = s.accesses.length ∧
    ∀ (i : Nat) (a b : Access), s.accesses[i]? = some a → t.accesses[i]? = some b →
      (a.id ≠ id → b = a) ∧ (a.id = id → ∀ d sc, a.kind = .promote d sc false → b = { a with kind := .promote d sc true })

/-- R85, R90, R103, R109, R110, R113, R120, R192, R241, R243, R256, R273, R305, R308: MEMORY_ACCESS_COMPLETE performs an access
whose lanes lie in the package's memory without data errors, lane after lane in ascending home lane.  A store leaves at each
byte what the last lane that covers it brings, every other byte standing; a load gives its thread what its bytes hold, the
copied line where its scope reads it, its own pending stores over it; an atomic or a counter add leaves the new value.  Nothing
else changes but the cluster's copied lines and what a store keeps for the launch's fetches.  A place that names no memory is
a fault.  That fault (log 77), copied lines of 128 bytes (log 12) and stores visible at once (log 19) are the model's. -/
def Obligations.AccessesPerformed : Prop :=
  ∀ (s : State) (a : Access) (replies : List (Option (List Byte))), MemOk s →
    s.accesses.find? (fun e => decide (e.id = a.id)) = some a →
    let run := exec (.memoryAccessComplete a.id replies) s
    let absent := fun (l : LaneAcc) => 294912 * 2 ^ 21 ≤ l.pa ∧ l.pa < Config.padBase
    let own := a.core / 24
    let gone := s.accesses.filter fun e => decide (e.id ≠ a.id)
    ((∃ l ∈ a.lanes, absent l) → ∃ l ∈ a.lanes, absent l ∧ run = .fault (.absentMemory l.pa)) ∧
    ((∀ l ∈ a.lanes, ¬ absent l) → s.performable a = false → run = .next s) ∧
    ((∀ l ∈ a.lanes, l.pa < 294912 * 2 ^ 21 ∧ l.peer = false) → s.performable a = true → a.netBad = false →
      (a.kind = .store → (∀ n ∈ s.badUnits, ∀ l ∈ a.lanes, n / 8 ≠ l.pa / 512) → ∃ t, run = .next t ∧
        t = { s with mem := t.mem, clines := t.clines, launches := t.launches, accesses := gone } ∧
        (let after := fun (k : Nat) (b : Byte) => a.lanes.foldl (fun b l =>
           if l.pa ≤ k ∧ k < l.pa + l.bytes.length then l.bytes.getD (k - l.pa) 0 else b) b
         (∀ k, t.byte k = after k (s.byte k)) ∧ t.clines.length = s.clines.length ∧
         ∀ (i : Nat) (x y : CLine), s.clines[i]? = some x → t.clines[i]? = some y → y = { x with bytes := y.bytes } ∧
           (x.cluster ≠ own → y = x) ∧ (x.cluster = own → y.bytes.length = x.bytes.length ∧
             ∀ j, j < x.bytes.length → y.bytes.getD j 0 = after (x.line * 128 + j) (x.bytes.getD j 0))) ∧
        (∀ k, k ≠ a.launch → mget t.launches k = mget s.launches k) ∧
        ∀ x, mget s.launches a.launch = some x → ∃ y, mget t.launches a.launch = some { x with hidden := y } ∧
          ∀ k, mget y k = if mget x.hidden k = none ∧ ∃ l ∈ a.lanes, l.pa ≤ k ∧ k < l.pa + l.bytes.length
            then some (s.byte k) else mget x.hidden k) ∧
      (∀ l, a.kind = .store → a.lanes = [l] → (∃ n ∈ s.badUnits, n / 8 = l.pa / 512) → l.pa % 512 + l.bytes.length ≤ 512 →
        ∃ t e, run = .next t ∧ t.mem = s.mem ∧ t.dieQ = s.dieQ ++ [(dieOfEntry a.core, e)] ∧ e.kind = 3 ∧ e.cause = 0x21 ∧
          e.access = 1 ∧ e.addr = l.va ∧ t.accesses = gone) ∧
      (s.badUnits = [] →
        let runs := fun (one : State → LaneAcc → Thread → State → Prop) => ∃ (m : Nat → State) (t : State), run = .next t ∧
          m 0 = s ∧ t = { m a.lanes.length with accesses := gone } ∧
          ∀ i l u, a.lanes[i]? = some l → (m i).thread a.guid l.tid = some u → one (m i) l u (m (i + 1))
        let gives := fun (m : State) (l : LaneAcc) (t : State) (u' : Thread) (key : Nat) (bs : List Byte) =>
          t = { m with groups := t.groups, mem := t.mem, clines := t.clines, launches := t.launches } ∧
          t.thread a.guid l.tid = some u' ∧ (∀ k j, (k ≠ a.guid ∨ j ≠ l.tid) → t.thread k j = m.thread k j) ∧
          (∀ k, t.byte k = if key ≤ k ∧ k < key + bs.length then bs.getD (k - key) 0 else m.byte k) ∧
          (bs = [] → t.mem = m.mem) ∧ (∀ x, x.cluster ≠ own → (x ∈ t.clines ↔ x ∈ m.clines)) ∧
          ∀ x ∈ t.clines, x ∈ m.clines ∨ x = ⟨own, l.pa / 128, m.bytes (l.pa / 128 * 128) 128⟩
        let acquires := fun (t : State) (yes : Bool) (sc : Nat) =>
          yes = true → 2 ≤ sc → ∀ x ∈ t.clines, x.cluster ≠ own
        let atColumn := fun (t : State) (l : LaneAcc) => ∀ x ∈ t.clines, x.cluster = own → x.line ≠ l.pa / 128
        let cached := fun (m : State) (l : LaneAcc) (n : Nat) =>
          match m.clines.find? fun x => decide (x.cluster = own) && decide (x.line = l.pa / 128) with
          | some x => (x.bytes.drop (l.pa % 128)).take n
          | none => m.bytes l.pa n
        let plain : Prop := ∀ e ∈ s.earlier a, e.guid = a.guid → e.kind ≠ .store
        (∀ ty v sc q, a.kind = .load ty v sc q → ty < 7 → plain → runs fun m l u t =>
          let bs := if 2 ≤ sc then m.bytes l.pa (tyBytes ty) else cached m l (tyBytes ty)
          gives m l t (u.setLoad ty v bs) 0 [] ∧ acquires t q sc ∧ (2 ≤ sc → atColumn t l)) ∧
        (∀ ty v sc q e l l', a.kind = .load ty v sc q → s.earlier a = [e] → e.guid = a.guid → e.kind = .store →
          e.lanes = [l'] → a.lanes = [l] → l'.tid = l.tid → l'.pa = l.pa → ty < 7 → l'.bytes.length = tyBytes ty →
          l.pa % 128 + tyBytes ty ≤ 128 → (∀ x ∈ s.clines, x.bytes.length = 128) →
          runs fun m l u t => gives m l t (u.setLoad ty v l'.bytes) 0 []) ∧
        (∀ opt d sc q red, a.kind = .atomic opt d sc q red → let w := if opt = 1 ∨ opt = 10 then 8 else 4
          runs fun m l u t => gives m l t (if red then u else
            if w = 8 then u.setPair d (BitVec.ofNat 64 (m.num l.pa w)) else u.setReg d (BitVec.ofNat 32 (m.num l.pa w)))
              l.pa (leBytes w (atomFn opt (m.num l.pa w) l.arg.toNat)) ∧ acquires t q sc ∧ atColumn t l) ∧
        (∀ wide d sc q, a.kind = .cas wide d sc q → let w := if wide then 8 else 4
          runs fun m l u t => gives m l t
            (if wide then u.setPair d (BitVec.ofNat 64 (m.num l.pa w)) else u.setReg d (BitVec.ofNat 32 (m.num l.pa w)))
            l.pa (if m.num l.pa w = l.arg.toNat then leBytes w l.arg2.toNat else []) ∧ acquires t q sc ∧ atColumn t l) ∧
        (a.kind = .ctadd → runs fun m l u t =>
          gives m l t u l.pa (leBytes 8 (min (m.num l.pa 8 + l.arg.toNat) (2 ^ 64 - 1))) ∧ atColumn t l) ∧
        (∀ v sc, a.kind = .ctread v sc → runs fun m l u t =>
          gives m l t (u.setPair v (BitVec.ofNat 64 (m.num l.pa 8))) 0 [] ∧ acquires t true sc ∧ atColumn t l) ∧
        (∀ d sc, a.kind = .promote d sc true → runs fun m l u t =>
          gives m l t (u.setReg d (BitVec.ofNat 32 (m.num l.pa 4))) 0 [] ∧ acquires t true sc ∧ atColumn t l) ∧
        ∀ d l ls g, a.kind = .sload d → a.lanes = l :: ls → plain → s.group a.guid = some g → ∃ t, run = .next t ∧
          t = { s with groups := t.groups, clines := t.clines, accesses := gone } ∧
          t.group a.guid = some { g with sregs := g.sregs.set d (BitVec.ofNat 64 (leNat (cached s l 8))) } ∧
          (∀ k, k ≠ a.guid → t.group k = s.group k) ∧
          (∀ x, x.cluster ≠ own → (x ∈ t.clines ↔ x ∈ s.clines)) ∧
          ∀ x ∈ t.clines, x ∈ s.clines ∨ x = ⟨own, l.pa / 128, s.bytes (l.pa / 128 * 128) 128⟩)) ∧
    ∀ ty v sc l bs u, a.kind = .load ty v sc false → a.lanes = [l] → l.peer = true → Config.peerBase ≤ l.pa →
      s.performable a = true → s.badUnits = [] → a.netBad = false → bs.length = tyBytes ty → replies = [some bs] →
      (∀ e ∈ s.earlier a, e.guid = a.guid → e.kind ≠ .store) → s.thread a.guid l.tid = some u → ∃ t r, run = .next t ∧
        t = { s with groups := t.groups, accesses := gone, peerOut := s.peerOut ++ [r] } ∧ r.op = .read (tyBytes ty) ∧
        t.thread a.guid l.tid = some (u.setLoad ty v bs)

/-! ### Copy batches, regions, synchronisation groups -/

/-- R117, R118, R254, R255: CSEAL closes the thread's open copies into the next batch (1 follows 0xFFFF_FFFF), records it and
writes its number, but parks while the batch 64 back is incomplete; CWAIT goes on once every batch up to its number is
complete, no older copy of a line in its cluster standing, and otherwise parks; CSTAT reads a record: flags, outcome (15 while incomplete) and bit 12, or 0. -/
def Obligations.CopyBatches : Prop :=
  let isDone := fun (s : State) (guid tid : Nat) (n : Word) =>
    (∀ x ∈ s.copies, ¬ (x.guid = guid ∧ x.tid = tid ∧ x.batch = some n)) ∧
    ∀ x ∈ s.takes, ¬ (x.guid = guid ∧ x.tid = tid ∧ x.batch = some n)
  (∀ d, ActsEach (.cseal d) fun s c _ u t =>
    ((∃ b, u.batches[63]? = some b ∧ ¬ isDone s c.guid u.tid b.num) → t = s.retry u.tid .oldBatch) ∧
    ((∀ b, u.batches[63]? = some b → isDone s c.guid u.tid b.num) →
      let n := if u.batch = 0xFFFFFFFF#32 then 1 else u.batch + 1
      let v := { u with
        batch := n, batches := (Batch.mk n u.openOutcome u.openFlags :: u.batches).take 64, openOutcome := 0, openFlags := 0 }
      t.thread c.guid u.tid = some (v.setReg d n) ∧
      (∀ k j, (k ≠ c.guid ∨ j ≠ u.tid) → t.thread k j = s.thread k j) ∧
      t = { s with
        groups := t.groups,
        copies := s.copies.map fun x =>
          if x.guid = c.guid ∧ x.tid = u.tid ∧ x.batch = none then { x with batch := some n } else x,
        takes := s.takes.map fun x =>
          if x.guid = c.guid ∧ x.tid = u.tid ∧ x.batch = none ∧ x.dest.isPad = true then { x with batch := some n }
          else x })) ∧
  (∀ a, ActsEach (.cwait a) fun s c g u t =>
    let upTo := c.val u a = 0 ∨
      ∀ b ∈ u.batches, (c.val u a - b.num).toNat ≤ 0x7FFFFFFF → isDone s c.guid u.tid b.num
    (upTo → t = { s with clines := s.clines.filter fun l => decide (l.cluster ≠ g.core / 24) }) ∧
    (¬ upTo → t = s.await u.tid (.batches (c.val u a)))) ∧
  ∀ (s : State) (c : Ctx) (g : Group), InIssue s c g → ∀ f : LDA, ∃ v : Thread → Word,
    (Gives (.cstat f) s fun t => LaneEffect s t c g [] fun u => u.setReg f.d (v u)) ∧
    ∀ u, ((∀ b ∈ u.batches, b.num ≠ c.val u f.a) → v u = 0) ∧
      ∀ b, u.batches.find? (fun b => decide (b.num = c.val u f.a)) = some b →
        (isDone s c.guid u.tid b.num → v u = BitVec.ofNat 32 (b.flags.toNat + b.outcome * 2 ^ 8 + 2 ^ 12)) ∧
        (¬ isDone s c.guid u.tid b.num → (v u).toNat / 2 ^ 8 = 31)

/-- R67: the hamper places a region at the start of a run of usable pages that brings in the fewest empty banks, the lowest
of those; it finds none exactly where no run is usable.  Rank 7 lies in banks 0 to 7, every other rank above. -/
def Obligations.RegionPlacement : Prop :=
  ∀ (s : State) (core k size : Nat) (own : List Region),
    let starts := if k = 7 then List.range 128 else (List.range 896).map (128 + ·)
    let ok := fun a => usableRun (s.core core) (s.coreRegions core) own k a (size / 4096) = true
    let cost := fun a => emptyBanksOf (s.coreRegions core) a (size / 4096)
    (s.place core own k size = none ↔ ∀ a ∈ starts, ¬ ok a) ∧
    ∀ base, s.place core own k size = some base → ∃ a ∈ starts, base = a * 4096 ∧ ok a ∧
      (∀ b ∈ starts, ok b → cost a < cost b ∨ cost a = cost b ∧ a ≤ b) ∧
      ∀ i, i < size / 4096 → let bank := (a + i) / 16
        (s.core core).lit.getLsbD bank = true ∧ bank ∉ (s.core core).chosen ∧ (k = 7 ↔ bank < 8) ∧ bank < 64 ∧
        ∀ r ∈ s.coreRegions core, r.reserves bank = true → ¬ r.covers ((a + i) * 4096) = true

/-- R66 to R70, R80, R81, R290 to R293: RALLOC, RFREE, RRANK, RSTAT and RSTAT.claim. -/
def Obligations.RegionInstructions : Prop :=
  (∀ f : LRalloc, ActsEach (.ralloc f) fun s c g u t =>
    let size := (c.valAt u f.a 0).toNat; let k := c.valAt u f.a 1; let h := c.valAt u f.a 3 ++ c.valAt u f.a 2
    let fails := fun (code : Word) => OneThread s t c u ((u.setReg f.d code).setPred f.p false)
    let sized := 0 < size ∧ size % 4096 = 0 ∧ size ≤ if k = 7 then 0x80000 else 0x380000
    (8 ≤ k.toNat → t = s.raise u.tid 0x01 (k.setWidth 64) 0 0) ∧
    (k.toNat < 8 → (h.toNat % 12 ≠ 0 ∨ 2 ^ 57 ≤ h.toNat) → t = s.raise u.tid 0x01 h 0 0) ∧
    (k.toNat < 8 → h.toNat % 12 = 0 → h.toNat < 2 ^ 57 →
      (¬ sized → fails 4) ∧ (sized → k.toNat < (s.core g.core).floor → fails 2) ∧
      (sized → (s.core g.core).floor ≤ k.toNat → none ∉ g.regions → fails 3) ∧
      (sized → (s.core g.core).floor ≤ k.toNat → none ∈ g.regions →
        (s.place g.core (g.regions.filterMap id) k.toNat size = none → fails 1) ∧
        ∀ base, s.place g.core (g.regions.filterMap id) k.toNat size = some base → MemOk s →
          (∀ i, i < size → mget s.noisy ((padKey g.core base + i) / 2 ^ 21) = none) →
          ∃ (i : Nat) (y : Group), g.regions[i]? = some none ∧ (∀ j, j < i → g.regions[j]? ≠ some none) ∧
            t.group c.guid = some y ∧ y.thread u.tid = some ((u.setReg f.d (BitVec.ofNat 32 base)).setPred f.p true) ∧
            y.regions = g.regions.set i (some { base := base, size := size, rank := k.toNat, handler := h.toNat, scope := f.g,
                                                lost := false, claim := none, dropped := false, darkened := [] }) ∧
            (∀ n, n < size → t.byte (padKey g.core base + n) = 0) ∧
            (∀ n, (n < padKey g.core base ∨ padKey g.core base + size ≤ n) → t.byte n = s.byte n)))) ∧
  (∀ f : LRfree, ActsEach (.rfree f) fun s c g u t =>
    (g.ownRegion (c.val u f.a).toNat = none → OneThread s t c u (u.setPred f.p false)) ∧
    ∀ i r, g.ownRegion (c.val u f.a).toNat = some (i, r) → ∃ m,
      m = State.freeRun { s with groups := mset s.groups c.guid { g with regions := g.regions.set i none } } g.core r ∧
      t = m.onThread c.guid u.tid (·.setPred f.p true) ∧
      (s.copies = [] → s.engs = [] → s.takes = [] → (s.core g.core).sync = [] → s.waiters = [] →
        m = { s with groups := m.groups } ∧ m.group c.guid = some { g with regions := g.regions.set i none })) ∧
  (∀ f : LRrank, ActsEach (.rrank f) fun s c g u t =>
    (g.ownRegion (c.val u f.a).toNat = none → OneThread s t c u ((u.setReg f.d 5).setPred f.p false)) ∧
    ∀ i r, g.ownRegion (c.val u f.a).toNat = some (i, r) →
      let fails := fun (code : Word) => OneThread s t c u ((u.setReg f.d code).setPred f.p false)
      let shares := ∃ q ∈ s.coreRegions g.core, q.base ≠ r.base ∧ ∃ b ∈ r.banks, r.reserves b = true ∧ q.reserves b = true
      let seven := f.x = 7#3 ∨ r.rank = 7
      let low := f.x.toNat < (s.core g.core).floor
      (shares → fails 1) ∧ (¬ shares → seven → fails 2) ∧ (¬ shares → ¬ seven → low → fails 3) ∧
      (¬ shares → ¬ seven → ¬ low → r.lost = true → fails 4) ∧
      (¬ shares → ¬ seven → ¬ low → r.lost = false → ∃ y, t.group c.guid = some y ∧
        y.regions = g.regions.set i (some { r with rank := f.x.toNat }) ∧
        y.thread u.tid = some ((u.setReg f.d 0).setPred f.p true))) ∧
  (∀ (s : State) (c : Ctx) (g : Group), InIssue s c g → ∀ f : LDA, ∃ v : Thread → Word,
    (Gives (.rstat f) s fun t => LaneEffect s t c g [] fun u => u.setReg f.d (v u)) ∧
    ∀ u : Thread, (c.val u f.a).toNat < 0x400000 →
      ((∀ r, some r ∈ g.regions → (c.val u f.a).toNat < r.base ∨ r.base + r.size ≤ (c.val u f.a).toNat) →
        v u = 0xFF03#32) ∧
      ∀ i r, g.regionAt (c.val u f.a).toNat = some (i, r) → v u = BitVec.ofNat 32
        ((if r.lost then 2 else if s.linePending (padKey g.core (c.val u f.a).toNat / 128 * 128) then 1 else 0) +
          8 * r.rank + 64 * r.scope.toNat + 128 * r.claim.isSome.toNat + 256 * i)) ∧
  ∀ f : LDA, ActsEach (.rstatClaim f) fun s c g u t =>
    (g.ownRegion (c.val u f.a).toNat = none → OneThread s t c u (u.setReg f.d 3)) ∧
    ∀ i r, g.ownRegion (c.val u f.a).toNat = some (i, r) →
      (r.lost = false → OneThread s t c u (u.setReg f.d 0)) ∧
      (∀ w, r.lost = true → r.claim = some w → w ≠ u.tid → OneThread s t c u (u.setReg f.d 2)) ∧
      (r.lost = true → (r.claim = none ∨ r.claim = some u.tid) → ∃ y, t.group c.guid = some y ∧
        y.regions = g.regions.set i (some { r with claim := some u.tid }) ∧ y.thread u.tid = some (u.setReg f.d 1))

/-- R126 to R139, R200, R269: every H instruction but HQUERY.hdl sends one message to the home that its handle names, and its
thread parks for the acknowledgement; a thread that an earlier word of the issue parks sends it once that wait has ended (the
model's reading, log 39); a handle that names no home traps 0x40, HCREATE checks its operands first, and HWAIT
first takes the trap of a lost home (R139), once: that the trap clears the ticket is the model's reading too (log 72).  HQUERY.hdl reads the handle register. -/
def Obligations.SynchronisationInstructions : Prop :=
  let sends := fun (s : State) (c : Ctx) (u : Thread) (t : State) (home : Nat) (v : Word) (op : HOp) (d : Option HDest) =>
    let waits := c.chained = true ∧ ∃ w i, (u.tid, w, i) ∈ c.waits
    (¬ waits → t = State.await { s with
          nextId := s.nextId + 1,
          hmsgs := s.hmsgs ++
            [{ id := s.nextId, home := home, guid := c.guid, tid := u.tid, handle := v, op := op, then_ := d }] }
        u.tid (.hAck s.nextId)) ∧
    (waits → t = s.await u.tid (.hSend home v op d))
  let noHome := fun (v : Word) => v.toNat % 2 ^ 14 = 0 ∨ 768 ≤ v.toNat / 2 ^ 22
  let byReg := fun (h : BitVec 3) (s : State) (c : Ctx) (u : Thread) (t : State) (op : HOp) (d : Option HDest) =>
    let v := (c.source u).handles.getD h.toNat 0
    (noHome v → t = s.raise u.tid 0x40 (v.setWidth 64) 0 (h.toNat + 1)) ∧
    (¬ noHome v → sends s c u t (v.toNat / 2 ^ 22) v op d)
  let value := fun (kind : Nat) (b : Code) (c : Ctx) (u : Thread) =>
    if kind = 0 then 0 else if kind ≤ 3 then (if c.pred u (b.setWidth 3) then 1#32 else 0) else c.val u b
  (∀ f : LHcreate, ActsEach (.hcreate f) fun s c g u t =>
    let spill := (c.valAt u f.b 0).toNat; let cap := (c.valAt u f.b 1).toNat
    (cap = 0 ∨ 4096 < cap → t = s.raise u.tid 0x01 c.word 0 0) ∧
    (0 < cap → cap ≤ 4096 → g.spillOk spill cap = false → t = s.raise u.tid 0x10 (BitVec.ofNat 64 spill) 0 0) ∧
    (0 < cap → cap ≤ 4096 → g.spillOk spill cap = true →
      ((c.source u).handles.getD f.h.toNat 0 ≠ 0 → t = s.raise u.tid 0x41 1 0 0) ∧
      ((c.source u).handles.getD f.h.toNat 0 = 0 →
        sends s c u t g.core 0 (.create f.h.toNat f.d f.pd spill cap) none))) ∧
  (∀ f : LHb, ActsEach (.hjoin f) fun s c _ u t => let v := c.val u f.b
    (noHome v → t = s.raise u.tid 0x40 (v.setWidth 64) 0 0) ∧
    (¬ noHome v → sends s c u t (v.toNat / 2 ^ 22) v (.join f.h.toNat) none)) ∧
  (∀ h, ActsEach (.hleave h) fun s c _ u t => byReg h s c u t (.leave h.toNat) none) ∧
  (∀ f : LHd, ActsEach (.hbar f) fun s c _ u t => byReg f.h s c u t (.arrive f.h.toNat 0 0) (some (.status f.d))) ∧
  (∀ f : LHarr, ActsEach (.harr f) fun s c _ u t =>
    byReg f.h s c u t (.arrive f.h.toNat f.kind.toNat (value f.kind.toNat f.b c u)) none) ∧
  (∀ f : LHd, ActsEach (.hwait f) fun s c _ u t =>
    (∀ code tval k, (u.tickets.getD f.h.toNat Ticket.fresh).lost = some (code, tval, k) →
      t = s.raise u.tid code tval 0 k (some f.h.toNat)) ∧
    ((u.tickets.getD f.h.toNat Ticket.fresh).lost = none →
      byReg f.h s c u t (.wait f.h.toNat) (some (.pair f.d)))) ∧
  (∀ f : LHkdb, ActsEach (.hvote f) fun s c _ u t =>
    byReg f.h s c u t (.arrive f.h.toNat f.kind.toNat (value f.kind.toNat f.b c u)) (some (.pair f.d))) ∧
  (∀ f : LHkdb, ActsEach (.hred f) fun s c _ u t =>
    byReg f.h s c u t (.arrive f.h.toNat f.kind.toNat (value f.kind.toNat f.b c u)) (some (.pair f.d))) ∧
  (∀ f : LHd, ActsEach (.hquery f) fun s c _ u t => byReg f.h s c u t (.query f.h.toNat f.d) none) ∧
  (∀ h, ActsEach (.hdiss h) fun s c _ u t => byReg h s c u t (.dissolve h.toNat) none) ∧
  ∀ (s : State) (c : Ctx) (g : Group), InIssue s c g → ∀ f : LHd,
    Gives (.hqueryHdl f) s fun t => LaneEffect s t c g [] fun u => u.setReg f.d ((c.source u).handles.getD f.h.toNat 0)

/-- R127, R129 to R138: H_MESSAGE_APPLY applies the oldest message of its thread at its home.  An operation on a handle that
names no live group, or by no member, traps 0x40 at the parked instruction.  HCREATE takes the lowest free slot and the next
tag, with its sender as the one member; HJOIN appends a member, or traps 0x41 with its reason.  An arrival by a counted member
records its contribution and opens the generation if none is open; the last one completes it and fills the tickets of those
that arrived; an arrival by a Pending or Arrived member is held, and is applied when the generation has completed.  The sender
of HARR goes on; that of HBAR, HVOTE and HRED waits for the delivery.  HQUERY reads the group; HLEAVE and HDISS clear the
handle register.  The order of HJOIN's reasons (log 99), MEMBERS that counts every member (log 100) and %tmask 0 of a trap at a parked
packet (log 98) are the model's. -/
def Obligations.HomeAppliesMessages : Prop :=
  ∀ (s : State) (m : HMsg) (g : Group) (u : Thread) (p q : Point),
    s.hmsgs.find? (fun n => decide (n.id = m.id)) = some m → s.oldestMsg m = true → s.group m.guid = some g →
    g.thread m.tid = some u → u.run = .parked (.hAck m.id) p q → u.later = [] →
    ∃ t, exec (.hMessageApply m.id) s = .next t ∧ t.hmsgs = s.hmsgs.filter (fun n => decide (n.id ≠ m.id)) ∧
    let slot := fun (s : State) => s.syncSlot (m.handle.toNat / 2 ^ 22) (m.handle.toNat / 2 ^ 14 % 2 ^ 8)
    let live := m.handle.toNat % 2 ^ 14 ≠ 0 ∧ m.handle.toNat / 2 ^ 22 < 768 ∧ (slot s).lastTag = m.handle.toNat % 2 ^ 14
    let goesOn := fun (f : Thread → Thread) => t.thread m.guid m.tid =
      some (f { u with run := .runnable, point := u.standing q, word := q.word, arrival := s.stime })
    let traps := fun (code : Byte) (tval : Dword) (which : Nat) => t.thread m.guid m.tid =
      some { u with run := .runnable, point := u.standing p, word := p.word, arrival := s.stime,
                    due := some ⟨code, tval, 0, which, some u.parkWord⟩ }
    let same := ∀ k, k ≠ m.guid → t.group k = s.group k
    (∀ h d pd spill cap, m.op = .create h d pd spill cap → g.spillOk spill cap = true →
      (∀ i, s.freeSlot m.home = some i →
        let tag := if (s.syncSlot m.home i).lastTag = 16383 then 1 else (s.syncSlot m.home i).lastTag + 1
        let v := BitVec.ofNat 32 (m.home * 2 ^ 22 + i * 2 ^ 14 + tag)
        goesOn (fun u => ((u.setHandle h v).setReg d v).setPred pd true) ∧ same ∧
        ∃ y, t.syncSlot m.home i = ⟨tag, some y⟩ ∧ y.cap = cap ∧ y.spill = spill ∧ y.members = [⟨m.guid, m.tid, h, 0, .counted⟩] ∧
          y.gen = 0 ∧ y.opened = none) ∧
      (s.freeSlot m.home = none → goesOn fun u => (u.setReg d 1).setPred pd false)) ∧
    (∀ h, m.op = .join h →
      (¬ live ∨ (slot s).group = none → traps 0x40 (m.handle.setWidth 64) 0) ∧
      ∀ y, live → (slot s).group = some y → s.ownsCluster g.rec_.tenant (m.home / 24) = true →
        (u.handles.getD h 0 ≠ 0 → traps 0x41 1 0) ∧
        (u.handles.getD h 0 = 0 → y.cap ≤ y.members.length → traps 0x41 2 0) ∧
        (u.handles.getD h 0 = 0 → y.members.length < y.cap → (y.member m.guid m.tid).isSome = true → traps 0x41 3 0) ∧
        (u.handles.getD h 0 = 0 → y.members.length < y.cap → y.member m.guid m.tid = none →
          goesOn (fun u => { u with handles := u.handles.set h m.handle, tickets := u.tickets.set h ⟨0, none, none⟩ }) ∧ same ∧
          (slot t).group = some { y with
            nextSeq := y.nextSeq + 1,
            members := y.members ++ [⟨m.guid, m.tid, h, y.nextSeq, if y.opened = none then .counted else .pending⟩] })) ∧
    ((∀ h d pd spill cap, m.op ≠ .create h d pd spill cap) → (∀ h, m.op ≠ .join h) →
      (¬ live ∨ (slot s).group = none ∨ ∃ y, (slot s).group = some y ∧ y.member m.guid m.tid = none) →
      traps 0x40 (m.handle.setWidth 64) (m.op.reg + 1)) ∧
    ∀ y x, live → (slot s).group = some y → y.member m.guid m.tid = some x →
      (∀ h d, m.op = .query h d → goesOn fun u =>
        (u.setRegAt d 0 (BitVec.ofNat 32 (y.opened.isSome.toNat * 2 ^ 5 + y.arrivals.length * 2 ^ 6 +
          y.members.length * 2 ^ 19))).setRegAt d 1 (BitVec.ofNat 32 y.gen)) ∧
      (∀ h, m.op = .leave h → ∃ v, t.thread m.guid m.tid = some v ∧ v.run = .runnable ∧ v.point = u.standing q ∧
        v.handles = u.handles.set h 0) ∧
      (∀ h, m.op = .dissolve h → (slot t).group = none ∧
        ∃ v, t.thread m.guid m.tid = some v ∧ v.run = .runnable ∧ v.point = u.standing q ∧ v.handles.getD h 0 = 0) ∧
      (∀ h d, m.op = .wait h → m.then_ = some d → t.thread m.guid m.tid = some { u with run := .parked (.hGen h d) p q }) ∧
      ∀ h kind value, m.op = .arrive h kind value → (y.members.find? fun z => decide (z.seq = x.seq)) = some x →
        let a : Arrival := ⟨m.guid, m.tid, h, x.seq, kind, value⟩
        let others : Prop := ∃ z ∈ y.members, z.seq ≠ x.seq ∧ z.state = .counted
        let sender := fun (f : Thread → Thread) =>
          (m.then_ = none → goesOn f) ∧
          ∀ d, m.then_ = some d → t.thread m.guid m.tid = some (f { u with run := .parked (.hGen h d) p q })
        let arrived := fun (u : Thread) => { u with tickets := u.tickets.set h { u.ticket h with out := (u.ticket h).out + 1 } }
        let now := y.arrivals ++ [a]
        let k := y.opened.getD kind
        (x.state ≠ .counted → y.full = false → sender arrived ∧ (slot t).group = some { y with held := y.held ++ [a] }) ∧
        (x.state = .counted → others → sender arrived ∧ ∃ y', (slot t).group = some y' ∧ y'.opened = some k ∧ y'.gen = y.gen ∧
          y'.arrivals = now ∧ y'.held = y.held ∧
          y'.members = y.members.map fun z => if z.seq = x.seq then { z with state := .arrived } else z) ∧
        (x.state = .counted → ¬ others →
          let fills : Prop := (now.map fun b => (b.guid, b.tid)).Nodup → ∀ b ∈ now, ∀ w,
            (∃ z ∈ y.members, z.seq = b.seq) → s.thread b.guid b.tid = some w → b.h < w.tickets.length →
            ∃ v, t.thread b.guid b.tid = some v ∧ ∃ e, v.tickets[b.h]? = some e ∧ e.last = some (genResult k now,
              BitVec.ofNat 32 ((setsDiffer (now.map (·.seq))
                (if y.opened = none ∧ y.gen = 0 ∧ y.prevSet = [] then y.members.map (·.seq) else y.prevSet)).toNat +
              4 * (decide (b.kind ≠ 0 ∧ b.kind ≠ k)).toNat + y.gen % 2 ^ 11 * 2 ^ 8 + now.length % 2 ^ 13 * 2 ^ 19))
          ∃ y', (slot t).group = some y' ∧
          (y.held = [] → fills ∧ y'.gen = (y.gen + 1) % 2 ^ 32 ∧ y'.opened = none ∧ y'.arrivals = [] ∧ y'.held = [] ∧
            y'.members = y.members.map fun z => { z with state := .counted }) ∧
          ∀ b, y.held = [b] → (∃ z ∈ y.members, z.seq = b.seq) → (∃ z ∈ y.members, z.seq ≠ b.seq) →
            fills ∧ y'.gen = (y.gen + 1) % 2 ^ 32 ∧ y'.opened = some b.kind ∧ y'.arrivals = [b] ∧ y'.held = [] ∧
            y'.members = y.members.map fun z => { z with state := if z.seq = b.seq then .arrived else .counted })

/-- R132, R134, R135: a full generation completes: its number goes up by one, no arrival is left, every member is counted,
and each member that arrived is delivered the generation's result and the status word.  A vote's result is what its
contributions say; a reduction combines the kept contributions, in ascending join sequence, pair by pair until one is left.  That
CHG compares join sequences is the model's (log 101). -/
def Obligations.GenerationCompletes : Prop :=
  (∀ (y : SyncGroup) (kind : HKind), y.opened = some kind →
    let z := y.complete.1; let out := y.complete.2
    z.gen = (y.gen + 1) % 2 ^ 32 ∧ z.opened = none ∧ z.arrivals = [] ∧ z.held = [] ∧
    z.members = y.members.map (fun m => { m with state := .counted }) ∧ z.prevSet = y.arrivals.map (·.seq) ∧
    ∀ a r st, (a, r, st) ∈ out ↔ a ∈ y.arrivals ∧ (∃ m ∈ y.members, m.seq = a.seq) ∧ r = genResult kind y.arrivals ∧
      st = BitVec.ofNat 32 ((setsDiffer (y.arrivals.map (·.seq)) y.prevSet).toNat +
        4 * (decide (a.kind ≠ 0 ∧ a.kind ≠ kind)).toNat + y.gen % 2 ^ 11 * 2 ^ 8 + y.arrivals.length % 2 ^ 13 * 2 ^ 19)) ∧
  (∀ a b : List Nat, setsDiffer a b = true ↔ ¬ ∀ n, n ∈ a ↔ n ∈ b) ∧
  ∀ kind : HKind, ∃ (comb : Word → Word → Word) (tree : List Word → Word),
    (∀ as : List Arrival, let kept := as.filter fun a => decide (a.kind = kind)
      let yes := (kept.filter fun a => decide (a.value ≠ 0)).length
      (kind = 0 → genResult kind as = 0) ∧
      (kind = 1 → genResult kind as = if yes = kept.length then 1 else 0) ∧
      (kind = 2 → genResult kind as = if 0 < yes then 1 else 0) ∧
      (kind = 3 → genResult kind as = BitVec.ofNat 32 yes) ∧
      ∀ l : List Arrival, 4 ≤ kind → l.Perm kept → l.Pairwise (fun a b => a.seq < b.seq) →
        genResult kind as = tree (l.map (·.value))) ∧
    (∀ x, tree [x] = x) ∧
    (∀ l, 2 ≤ l.length → l.length ≤ 8192 → ∃ l' : List Word, tree l = tree l' ∧ l'.length = (l.length + 1) / 2 ∧
      ∀ i, i < l'.length → l'[i]? = match l[2 * i]?, l[2 * i + 1]? with
        | some x, some y => some (comb x y)
        | x, _ => x) ∧
    ∀ x y : Word, (kind = 4 ∨ kind = 5 → comb x y = x + y) ∧
      (kind = 6 → ((dec32 x).add 0 (dec32 y) ≠ .nan → comb x y = (round32 0 ((dec32 x).add 0 (dec32 y))).1) ∧
        ((dec32 x).add 0 (dec32 y) = .nan → comb x y = 0x7FC00000#32)) ∧
      (kind = 7 → (comb x y).toInt = min x.toInt y.toInt) ∧ (kind = 8 → (comb x y).toNat = min x.toNat y.toNat) ∧
      (kind = 9 → FloatLeast x y (comb x y)) ∧
      (kind = 10 → (comb x y).toInt = max x.toInt y.toInt) ∧ (kind = 11 → (comb x y).toNat = max x.toNat y.toNat) ∧
      (kind = 12 → FloatGreatest x y (comb x y))

/-! ### Ranges, queues, engine commands, rows -/

/-- R35, R36, R211, R260, R268: GRANGE.read shows the core's untaken range of the launch; GRANGE.take takes its lowest index,
by a request where the core has none and is not hot, for which the thread parks and which CORE_REQUEST serves, the threads in
the order in which they issued: from the core's
own pool, else from that of the tenant whose largest range of the launch is longest (the model's reading of R36, log 54); it traps
0x01 in a gang launch; ENQ queues a launch record, or clears PD where there is no room. -/
def Obligations.RangesAndQueues : Prop :=
  (∀ f : LGrange, ActsEach (.grangeRead f) fun s c g u t =>
    let shows := fun (a b : Nat) => OneThread s t c u
      (((u.setRegAt f.d 0 (BitVec.ofNat 32 a)).setRegAt f.d 1 (BitVec.ofNat 32 b)).setPred f.p (decide (a < b)))
    (s.localRange g.core g.launch = none → shows 0 0) ∧
    ∀ r, s.localRange g.core g.launch = some r → shows r.a r.b) ∧
  (∀ f : LGrange, ActsEach (.grangeTake f) fun s c g u t =>
    (1 < g.rec_.gang → t = s.raise u.tid 0x01 c.word 0 0) ∧
    (g.rec_.gang ≤ 1 →
      (∀ r, s.localRange g.core g.launch = some r → ∃ m,
        m = { s with ranges :=
          ((s.ranges.map fun x => if x = r then { r with a := r.a + 1 } else x).filter fun x => decide (x.a < x.b)) } ∧
        OneThread m t c u
          (((u.setRegAt f.d 0 (BitVec.ofNat 32 r.a)).setRegAt f.d 1 (BitVec.ofNat 32 r.b)).setPred f.p true)) ∧
      (s.localRange g.core g.launch = none →
        ((s.core g.core).hot = true → OneThread s t c u
          (((u.setRegAt f.d 0 0xFFFFFFFF#32).setRegAt f.d 1 0).setPred f.p false)) ∧
        ((s.core g.core).hot = false → t = s.await u.tid (.grange f.d f.p))))) ∧
  (∀ (s : State) (core guid : Nat) (g : Group) (tid : Nat) (d : Code) (p : Pred) (next : Point) (u : Thread),
    s.grangeWaiter core = some (guid, g, tid, d, p, next) → core < 768 → g.core = core → s.group guid = some g → g.thread tid = some u →
    u.later = [] →
      (∀ k y w e q a b, (k, y) ∈ s.groups → y.core = core → w ∈ y.threads → w.run = .parked (.grange e q) a b →
        ∃ v ∈ g.threads, v.tid = tid ∧ (v.lastIssue < w.lastIssue ∨ v.lastIssue = w.lastIssue ∧
          (g.slotOf tid < y.slotOf w.tid ∨ g.slotOf tid = y.slotOf w.tid ∧ tid % 32 ≤ w.tid % 32))) ∧
      Gives (.coreRequest core) s fun t =>
      let takes := fun (a b : Nat) (yes : Bool) => t.thread guid tid = some { ((u.setRegAt d 0 (BitVec.ofNat 32 a)).setRegAt d 1
          (BitVec.ofNat 32 b)).setPred p yes with
        run := .runnable, point := u.standing next, word := next.word, arrival := s.stime }
      (∀ k j, (k ≠ guid ∨ j ≠ tid) → t.thread k j = s.thread k j) ∧
        let pool := fun (k : Nat) => s.ranges.filter fun x => decide (x.cluster = k) && (decide (x.launch = g.launch) &&
          (s.clustersOf g.rec_.tenant).contains k)
        ((s.core core).hot = true ∨ (∀ k, k < 32 → pool k = []) → takes 0xFFFFFFFF 0 false ∧ t.ranges = s.ranges) ∧
        ∀ (k : Nat) (x : Range), (s.core core).hot = false → k < 32 → (∀ x ∈ s.ranges, x.a < x.b) →
          (pool (core / 24) ≠ [] → k = core / 24) →
          (pool (core / 24) = [] → (∀ j, j < 32 → ∀ y ∈ pool j, ∃ z ∈ pool k, y.b - y.a ≤ z.b - z.a) ∧
            ∀ j, j < k → ∃ z ∈ pool k, ∀ y ∈ pool j, y.b - y.a < z.b - z.a) →
          x ∈ pool k → (∀ y ∈ pool k, y ≠ x → y.b - y.a < x.b - x.a ∨ y.b - y.a = x.b - x.a ∧ x.a < y.a) →
          let h := (x.b - x.a + 1) / 2
          let lo := if x.owner = none then x.a else x.b - h
          let hi := if x.owner = none then x.a + h else x.b
          let left := if x.owner = none then { x with a := x.a + h } else { x with b := x.b - h }
          let got : Range := { cluster := core / 24, launch := g.launch, a := lo, b := hi, owner := some core, task := none }
          takes lo hi true ∧ (t.core core).lo = lo ∧ (t.core core).hi = hi ∧ (t.core core).served = s.stime + 1 ∧
          ((∀ y ∈ s.ranges, y ≠ got) → left ≠ got → t.ranges =
            (s.ranges.map fun y => if y = x then left else y).filter (fun y => decide (y.a < y.b)) ++
              (if lo + 1 < hi then [{ got with a := lo + 1 }] else []))) ∧
  (∀ f : LEq, ActsEach (.enq f) fun s c g u t =>
    let va := (c.uni g f.u.toNat).toNat; let ack := (c.uni g (f.u.toNat + 1)).toNat; let dst := (c.val u f.a).toNat
    let full := OneThread s t c u (u.setPred f.pd false)
    (va % 8 ≠ 0 → t = s.raise u.tid 0x01 (BitVec.ofNat 64 va) 0 0) ∧
    (va % 8 = 0 → f.ack = true → ack % 8 ≠ 0 → t = s.raise u.tid 0x01 (BitVec.ofNat 64 ack) 0 0) ∧
    (va % 8 = 0 → (f.ack = true → ack % 8 = 0) → f.lq = false → (768 ≤ dst ∨ dst / 24 ∉ s.clustersOf g.rec_.tenant) →
      t = s.raise u.tid 0x01 (BitVec.ofNat 64 dst) 0 0) ∧
    (va % 8 = 0 → (f.ack = true → ack % 8 = 0) → (f.lq = false → dst < 768 ∧ dst / 24 ∈ s.clustersOf g.rec_.tenant) →
      (∀ x, s.readRecord g va = .miss x → t = s.missing u.tid x 0) ∧
      ∀ code x, s.readRecord g va = .fatal code x → t = s.raise u.tid code (BitVec.ofNat 64 x) 0 0) ∧
    ∀ r, va % 8 = 0 → (f.ack = true → ack % 8 = 0) → s.readRecord g va = .ok r →
      (∀ x, f.lq = true → s.tenant g.rec_.tenant = some x →
        (1024 ≤ x.launchQ.length → full) ∧
        (x.launchQ.length < 1024 → ∃ m, OneThread m t c u (u.setPred f.pd true) ∧
          m = { s with tenants := (mset s.tenants g.rec_.tenant { x with launchQ := x.launchQ ++
            [⟨r, va, g.core, g.gid, u.tid, if f.ack then some ack else none, c.guid, s.nextId⟩] }), nextId := s.nextId + 1 })) ∧
      (f.lq = false → dst < 768 → dst / 24 ∈ s.clustersOf g.rec_.tenant →
        (16 ≤ (s.tasks.filter fun q => decide (q.sender = g.core)).length → full) ∧
        ((s.tasks.filter fun q => decide (q.sender = g.core)).length < 16 → ∃ m, OneThread m t c u (u.setPred f.pd true) ∧
          m = { s with tasks := s.tasks ++
            [⟨g.core, dst, g.rec_.tenant, r, va, g.gid, u.tid, if f.ack then some ack else none, c.guid, s.nextId⟩],
                       nextId := s.nextId + 1 })))

/-- R251 to R253: CPY starts one copy for each active thread where its descriptor and geometry are sound, its scratchpad
operands pass, and the core holds fewer than 256 copies; with 256 the thread parks; an unsound descriptor or geometry record
traps 0x01, and scratchpad operands trap as their checks say.  When each is sound is said field by field (R251; the order of the
checks is the model's, log 93).  The destination run is cut at 256-byte boundaries into chunks that
hold each of its bytes once; one whose destination is Lost is never delivered. -/
def Obligations.CopiesStart : Prop :=
  (∀ f : LE, ActsEach (.cpy f) fun s c g u t =>
    let va := (c.uni g f.u.toNat).toNat
    (va % 64 ≠ 0 → t = s.raise u.tid 0x01 (BitVec.ofNat 64 va) 0 0) ∧
    ∀ d geo, BlockAt s g va d →
      (descOk d = false → t = s.raise u.tid 0x01 (BitVec.ofNat 64 va) 0 0) ∧
      (descOk d = true → (bits d 127 125 < 4 ∧ geo = 0 ∨ 4 ≤ bits d 127 125 ∧ BlockAt s g (bits d 376 320) geo) →
        let x := Copy.make s c g u d geo
        ((geoOk (bits d 127 125) geo && x.dims.all CopyDim.ok) = false → t = s.raise u.tid 0x01 (BitVec.ofNat 64 va) 0 0) ∧
        ((geoOk (bits d 127 125) geo && x.dims.all CopyDim.ok) = true →
        (∀ code a h, x.padChecks s g = .trap code a h → ∃ m, t = s.raise u.tid code a m h ∧ (code ≠ 0x10#8 → m = 0)) ∧
        (x.padChecks s g = .go () →
        (256 ≤ (s.copies.filter fun y => decide (y.core = g.core)).length → t = s.retry u.tid .copyRoom) ∧
        ((s.copies.filter fun y => decide (y.core = g.core)).length < 256 →
          t = { s with nextId := s.nextId + 1, copies := s.copies ++ [s.markLost g x] } ∧
          (x.dsp = false → s.markLost g x = x) ∧
          (x.dsp = true → ∀ (i : Nat) (ch : Chunk), x.owed[i]? = some ch → ∃ gone, (s.markLost g x).owed[i]? = some { ch with dead := gone } ∧
            (gone = true ↔ ∃ a h, s.padCheck g (x.daddr + ch.off) 1 = .lost a h))))))) ∧
  (∀ d geo : Nat, let f := fun (hi lo : Nat) => d / 2 ^ lo % 2 ^ (hi + 1 - lo)
    let y := fun (hi lo : Nat) => geo / 2 ^ lo % 2 ^ (hi + 1 - lo)
    let ndim := f 127 125
    (descOk d = true ↔ f 511 488 = 0 ∧ f 383 377 = 0 ∧ f 191 189 = 0 ∧ 1 ≤ ndim ∧ f 63 60 < 12 ∧ f 188 185 < 12 ∧
      f 124 122 < 5 ∧ f 184 128 % 8 = 0 ∧ (f 57 57 = 1 → f 56 32 = 0) ∧ (f 58 58 = 1 → f 120 96 = 0) ∧
      (f 59 59 = 1 → f 184 160 = 0) ∧ (ndim < 2 → f 431 416 = 0 ∧ f 447 432 = 0 ∧ f 319 312 = 0 ∧ f 247 192 = 0) ∧
      (ndim < 3 → f 463 448 = 0 ∧ f 479 464 = 0 ∧ f 487 480 = 0 ∧ f 311 256 = 0) ∧
      (4 ≤ ndim → f 376 320 % 64 = 0) ∧ (ndim < 4 → f 376 320 = 0)) ∧
    (geoOk ndim geo = true ↔ y 511 384 = 0 ∧ ∀ j, j < 4 → y (64 * j + 63) (64 * j + 56) = 0 ∧
      (ndim ≤ 3 + j → y (64 * j + 55) (64 * j) = 0 ∧ y (32 * j + 271) (32 * j + 256) = 0 ∧ y (32 * j + 287) (32 * j + 272) = 0)) ∧
    ((copyDims d geo).all CopyDim.ok = true ↔ ∀ j, j < ndim →
      let win := if j < 3 then f (32 * j + 399) (32 * j + 384) else y (32 * (j - 3) + 271) (32 * (j - 3) + 256)
      let size := if j < 3 then f (32 * j + 415) (32 * j + 400) else y (32 * (j - 3) + 287) (32 * (j - 3) + 272)
      let int := [f 255 248, f 319 312, f 487 480].getD j 1
      1 ≤ int ∧ 1 ≤ win ∧ win ≤ size)) ∧
  ∀ (a n : Nat) (place : Nat → Nat),
    (∀ ch ∈ chunksOf a n place, 0 < ch.len ∧ (a + ch.off) / 256 = (a + ch.off + ch.len - 1) / 256 ∧ ch.off + ch.len ≤ n ∧
      ch.addr = place (a + ch.off) ∧ ch.dead = false ∧ ch.srcGone = false ∧ ch.void = false) ∧
    ∀ b, b < n → ∃ (i : Nat) (ch : Chunk), (chunksOf a n place)[i]? = some ch ∧ ch.num = i ∧ ch.off ≤ b ∧ b < ch.off + ch.len ∧
      ∀ (j : Nat) (x : Chunk), (chunksOf a n place)[j]? = some x → x.off ≤ b → b < x.off + x.len → j = i

/-- R123, R142 to R145, R149, R244, R250, R278 to R282, R320: MX, ATTN, ATTN.MERGE, MXDRAIN and CBLOAD: where the parameter
block is sound, the scratchpad operands are in bounds and not Lost, the counter translates, and staging or slots are ready,
one command starts for each active thread; an unsound block traps 0x01, and when each is sound is said field by field; an MX that
finds staging empty takes the recorded slot itself, or traps or waits as its state says, and traps 0x01 before all else where
staging records no fill. -/
def Obligations.EngineCommandsStart : Prop :=
  let fin := fun (n pa : Nat) => (⟨n.testBit 352, n / 2 ^ 320 % 2 ^ 32, n / 2 ^ 256 % 2 ^ 57, pa⟩ : Finish)
  let stat := fun (n : Nat) => if n.testBit 352 then [(n / 2 ^ 320 % 2 ^ 32, 4)] else []
  let ctr := fun (n : Nat) => n / 2 ^ 256 % 2 ^ 57
  (∀ f : LE, ActsEach (.mx f) fun s c g u t => ∀ n pa, let va := (c.uni g f.u.toNat).toNat; let p := MxBlk.ofNat n
    BlockAt s g va n →
    (MxBlk.ok n g = false → t = s.raise u.tid 0x01 (BitVec.ofNat 64 va) 0 0) ∧
    (MxBlk.ok n g = true → p.bsrc = true → g.staging.empty = true → (g.staging.fill.bind fun x => g.rows[x.1]?) = none →
      t = s.raise u.tid 0x01 (BitVec.ofNat 64 va) 0 0) ∧
    (MxBlk.ok n g = true → Readable s g p.runs → InBounds s g (stat n) → CounterAt s g (ctr n) pa →
      (p.bsrc = false → StartsEng s t c g u (.mx p (some []) false) (fin n pa)) ∧
      (p.bsrc = true → g.staging.empty = false → StartsEng s t c g u
        (.mx p (if s.stageReady g then some g.staging.data else none) g.staging.bad) (fin n pa)) ∧
      (p.bsrc = true → g.staging.empty = true →
        ∀ i old r, g.staging.fill = some (i, old) → g.rows[i]? = some r →
          let tval : Nat → Nat → Dword := fun a reason => BitVec.ofNat 64 (a / 4096 * 4096 + i % 8 + reason * 16)
          (r.state = .free → t = s.raise u.tid 0x30 (tval 0 0) 0 0) ∧
          (r.state = .closed → t = s.raise u.tid 0x30 (tval old r.reason) 0 0) ∧
          (r.state = .queued ∨ r.state = .activating → t = s.retry u.tid (.refill i false)) ∧
          (r.state = .opened → 16 ≤ (s.takes.filter fun x => decide (x.core = g.core)).length →
            t = s.retry u.tid (.refill i true)) ∧
          (r.state = .opened → (s.takes.filter fun x => decide (x.core = g.core)).length < 16 → ∃ m x,
            StartsEng s m c g u (.mx p none false) (fin n pa) ∧
            t = { m with nextId := s.nextId + 2, takes := s.takes ++ [x], groups := t.groups } ∧
            x.slot = i ∧ x.va = r.va ∧ x.pa = r.pa ∧ x.beat = 0 ∧ x.dest = .staging ∧ x.id = s.nextId + 1 ∧
            (∀ k, k ≠ c.guid → t.group k = s.group k) ∧ t.group c.guid = some { g with staging :=
              { g.staging with take := some (s.nextId + 1), empty := false, fill := some (i, r.va) } })))) ∧
  (∀ f : LE, ActsEach (.attn f) fun s c g u t => ∀ n pa, let va := (c.uni g f.u.toNat).toNat; let p := AttnBlk.ofNat n
    BlockAt s g va n →
    (AttnBlk.ok n g = false → t = s.raise u.tid 0x01 (BitVec.ofNat 64 va) 0 0) ∧
    (AttnBlk.ok n g = true → Readable s g p.runs → InBounds s g (stat n) → CounterAt s g (ctr n) pa →
      (∀ x ∈ p.takes, ∃ r, g.rows[x.1]? = some r ∧ r.state = .opened) →
      (16 < (s.takes.filter fun x => decide (x.core = g.core)).length + p.takes.length →
        t = s.retry u.tid (.takeRoom (p.takes.map (·.1)))) ∧
      ((s.takes.filter fun x => decide (x.core = g.core)).length + p.takes.length ≤ 16 → ∃ m,
      StartsEng s m c g u (.attn p [] [] false) (fin n pa) ∧
      t = { m with nextId := t.nextId, takes := t.takes } ∧ t.takes.take s.takes.length = s.takes ∧
      (t.takes.drop s.takes.length).map (fun x => (x.slot, x.dest)) =
        p.takes.map fun x => (x.1, .attn s.nextId x.2.1 x.2.2)))) ∧
  (∀ f : LE, ActsEach (.attnMerge f) fun s c g u t => ∀ n pa, let va := (c.uni g f.u.toNat).toNat; let p := MergeBlk.ofNat n
    let st := if n.testBit 224 then [(n / 2 ^ 192 % 2 ^ 32, 4)] else []
    BlockAt s g va n →
    (MergeBlk.ok n g.core = false → t = s.raise u.tid 0x01 (BitVec.ofNat 64 va) 0 0) ∧
    (MergeBlk.ok n g.core = true → Readable s g [(p.a1, p.len), (p.a2, p.len)] → InBounds s g ((p.aout, p.len) :: st) →
      CounterAt s g (n / 2 ^ 128 % 2 ^ 57) pa →
      StartsEng s t c g u (.merge p) ⟨n.testBit 224, n / 2 ^ 192 % 2 ^ 32, n / 2 ^ 128 % 2 ^ 57, pa⟩)) ∧
  (∀ f : LE, ActsEach (.mxdrain f) fun s c g u t => ∀ n pa, let va := (c.uni g f.u.toNat).toNat
    let p := DrainBlk.ofNat n (c.source u).fpmode.toNat
    BlockAt s g va n →
    (DrainBlk.ok n g = false → t = s.raise u.tid 0x01 (BitVec.ofNat 64 va) 0 0) ∧
    (DrainBlk.ok n g = true → (p.osp = true → InBounds s g p.rows ∧
      ∀ r ∈ p.rows, s.regionOf g r.1 = s.regionOf g p.oaddr) → InBounds s g (stat n) → CounterAt s g (ctr n) pa →
      StartsEng s t c g u (.drain p false [] (s.drainChunks g p) 0 0 none) (fin n pa))) ∧
  (∀ (n : Nat) (g : Group), let f := fun (hi lo : Nat) => n / 2 ^ lo % 2 ^ (hi + 1 - lo)
    let on := fun (i : Nat) => n.testBit i
    let tail : Prop := f 511 353 = 0 ∧ f 319 313 = 0 ∧ f 351 320 % 4 = 0 ∧ f 312 256 % 8 = 0
    let tiles : Nat → Bool → Prop := fun acc pair => if pair = true then acc % 2 = 0 ∧ acc + 1 < g.rec_.acc else acc < g.rec_.acc
    let w := if on 173 then 128 else 64
    (MxBlk.ofNat n = { aaddr := f 31 0, baddr := f 63 32, sca := f 95 64, scb := f 127 96, k := f 140 128, af := f 143 141,
                       bf := f 146 144, sga := on 147, sgb := on 148, bsrc := on 149, zero := on 150, acc := f 153 151 }) ∧
    (MxBlk.ok n g = true ↔ tail ∧ f 255 154 = 0 ∧ 8 ≤ f 140 128 ∧ f 140 128 ≤ 4096 ∧ f 140 128 % 8 = 0 ∧ f 143 141 < 6 ∧
      f 146 144 < 7 ∧ (f 143 141 = 5 ↔ f 146 144 = 5) ∧ (on 147 = true ∨ on 148 = true → f 143 141 = 5) ∧
      (f 95 64 ≠ 0 → f 143 141 ∈ [2, 3, 4]) ∧ (f 127 96 ≠ 0 → f 146 144 ∈ [2, 3, 4, 6]) ∧ f 31 0 % 128 = 0 ∧
      f 63 32 % 128 = 0 ∧ f 153 151 < g.rec_.acc ∧
      (on 149 = true → f 63 32 = 0 ∧ f 140 128 = [32, 32, 64, 64, 128, 64, 256].getD (f 146 144) 0)) ∧
    (AttnBlk.ofNat n = { qaddr := f 31 0, kaddr := f 63 32, vaddr := f 95 64, scale := BitVec.ofNat 32 (f 127 96),
                         qbase := f 159 128, kbase := f 191 160, win := f 215 192, klen := f 222 216, causal := on 223,
                         qn := f 230 224, d128 := on 231, acc := f 234 232, init := on 235, qf := f 237 236, kf := f 239 238,
                         vf := f 241 240, ksel := on 242, kslot := f 245 243, vsel := on 246, vslot := f 249 247 }) ∧
    (AttnBlk.ok n g = true ↔ tail ∧ f 255 250 = 0 ∧ f 237 236 < 3 ∧ f 239 238 < 3 ∧ f 241 240 < 3 ∧ 1 ≤ f 230 224 ∧
      f 230 224 ≤ 64 ∧ 1 ≤ f 222 216 ∧ f 222 216 ≤ 64 ∧ tiles (f 234 232) (on 231) ∧ f 31 0 % 128 = 0 ∧ f 63 32 % 128 = 0 ∧
      f 95 64 % 128 = 0 ∧ let slots := fun (fm : Nat) => (if on 231 then 2 else 1) * if fm = 2 then 1 else 2
      (on 242 = true → f 245 243 + slots (f 239 238) ≤ g.rec_.rows) ∧ (on 246 = true → f 249 247 + slots (f 241 240) ≤ g.rec_.rows)) ∧
    (MergeBlk.ofNat n = { a1 := f 31 0, a2 := f 63 32, aout := f 95 64, qn := f 102 96, d128 := on 103 }) ∧
    (∀ core, let len := f 102 96 * (if on 103 then 520 else 264)
      let place := fun (a : Nat) => if a < 0x400000 then some (core * 0x400000 + a)
        else if 0x10000000 ≤ a ∧ a < 0x16000000 then some (core / 24 * 24 * 0x400000 + (a - 0x10000000)) else none
      let apart := fun (a b : Nat) => ¬ (a < b + len ∧ b < a + len) ∧
        ∀ i j, place a = some i → place b = some j → ¬ (i < j + len ∧ j < i + len)
      let same := fun (a b : Nat) => a = b ∨ (place a).isSome = true ∧ place a = place b
      (MergeBlk.ok n core = true ↔ f 511 225 = 0 ∧ f 191 185 = 0 ∧ f 127 104 = 0 ∧ 1 ≤ f 102 96 ∧ f 102 96 ≤ 64 ∧
        f 31 0 % 8 = 0 ∧ f 63 32 % 8 = 0 ∧ f 95 64 % 8 = 0 ∧ f 223 192 % 4 = 0 ∧ f 184 128 % 8 = 0 ∧ apart (f 31 0) (f 63 32) ∧
        (same (f 95 64) (f 31 0) ∨ apart (f 95 64) (f 31 0)) ∧ (same (f 95 64) (f 63 32) ∨ apart (f 95 64) (f 63 32)))) ∧
    (∀ mode, DrainBlk.ofNat n mode = { oaddr := if on 57 then f 31 0 else f 56 0, osp := on 57, stride := f 95 64,
                                       sa := BitVec.ofNat 32 (f 127 96), sb := BitVec.ofNat 32 (f 159 128), ofmt := f 163 160,
                                       rnd := if f 166 164 = 4 then mode else f 166 164, sat := on 167, mode := f 169 168,
                                       acc := f 172 170, d128 := on 173 }) ∧
    (DrainBlk.ok n g = true ↔ tail ∧ f 255 174 = 0 ∧ f 63 58 = 0 ∧ f 163 160 < 12 ∧ f 166 164 < 5 ∧ f 169 168 < 2 ∧
      tiles (f 172 170) (on 173) ∧
      (f 169 168 = 0 → f 56 0 % 4 = 0 ∧ f 95 64 % 4 = 0 ∧
        (w * [32, 16, 16, 8, 8, 4, 8, 32, 8, 4, 32, 8].getD (f 163 160) 0 + 7) / 8 ≤ f 95 64) ∧
      (f 169 168 = 1 → f 56 0 % 8 = 0 ∧ f 95 64 = 0 ∧ f 163 160 = 0 ∧ f 166 164 = 0 ∧ on 167 = false))) ∧
  ∀ f : LCbload, ActsEach (.cbload f) fun s c g u t => let a := (c.uni g f.u.toNat).toNat
    (f.space = true → a % 128 ≠ 0 → t = s.raise u.tid 0x01 (BitVec.ofNat 64 a) 0 0) ∧
    (f.space = true → a % 128 = 0 → 2 ^ 32 ≤ a → t = s.raise u.tid 0x01 c.word 0 0) ∧
    (f.space = true → a % 128 = 0 → a < 2 ^ 32 → Readable s g [(a, 512)] →
      StartsEng s t c g u (.cbload a ((List.range 512).map fun i => keyOf g.core (a + i))) ⟨false, 0, 0, 0⟩) ∧
    (f.space = false → a % 64 ≠ 0 → t = s.raise u.tid 0x01 (BitVec.ofNat 64 a) 0 0) ∧
    ∀ pa : Nat → Nat, f.space = false → a % 64 = 0 → (∀ i, pa i < Config.peerBase) →
      (∀ i, i < 512 → s.xlate g.core g.rec_.tenant (a + i) 0 = .ok (pa i)) →
      StartsEng s t c g u (.cbload a ((List.range 512).map pa)) ⟨false, 0, 0, 0⟩

/-- R151, R154, R156, R157, R272: each KV form sends its command to the descriptor's column and parks its thread where the
descriptor is aligned, translates to this package's DRAM, and its tables meet no trap or fault as they stand, or a bank that it
reads serves no access as yet; otherwise it traps at the instruction.  A descriptor is sound field by field; a table that leaves its
column traps 0x01.  That the tables' traps and faults are tried as the instruction issues is the model's reading (log 59). -/
def Obligations.KvInstructions : Prop :=
  let form := fun (i : LEk → Instr) (k : KvForm) (n : Nat) => ∀ f : LEk, ActsEach (i f) fun s c g u t =>
    let va := (c.uni g f.u.toNat).toNat
    (va % 64 ≠ 0 → t = s.raise u.tid 0x01 (BitVec.ofNat 64 va) 0 0) ∧
    ∀ pa, va % 64 = 0 → s.xlate g.core g.rec_.tenant va 0 = .ok pa →
      (Config.padBase ≤ pa → t = s.raise u.tid 0x01 (BitVec.ofNat 64 va) 0 0) ∧
      (pa < Config.padBase →
        let q : KvCmd := ⟨s.nextId, g.core, c.guid, u.tid, g.rec_.tenant, k, va, pa, f.x.toNat,
          (List.range n).map fun j => (c.source u).regs.getD (f.x.toNat + j) 0, none,
            4 * g.issues.getD c.slot 0 + c.slot⟩
        (∀ r, s.kvTry q = .ok r →
          t = State.await { s with nextId := s.nextId + 1, kvs := s.kvs ++ [q] } u.tid (.kv s.nextId)) ∧
        (s.kvTry q = .error .wait →
          t = State.await { s with nextId := s.nextId + 1, kvs := s.kvs ++ [q] } u.tid (.kv s.nextId)) ∧
        (∀ code a, s.kvTry q = .error (.trap code a) → code ≠ 0x10#8 → t = s.raise u.tid code (BitVec.ofNat 64 a) 0 0) ∧
        ∀ a x, s.kvTry q = .error (.fault .fatal a x) → t = s.raise u.tid 0x20 (BitVec.ofNat 64 a) 0 x)
  form .kvfind .find 3 ∧ form .kvins .ins 3 ∧ form .kvinsSeal .seal 1 ∧ form .kvdel .del 3 ∧ form .kvpfx .pfx 4 ∧
  form .kvpfxIns .pfxIns 5 ∧ form .kvpfxDel .pfxDel 4 ∧
  (∀ (n : Nat) (k : KvForm), let f := fun (hi lo : Nat) => n / 2 ^ lo % 2 ^ (hi + 1 - lo)
    descSound n k = true ↔ f 511 325 = 0 ∧ f 319 313 = 0 ∧ f 255 224 = 0 ∧ f 191 168 = 0 ∧ f 127 121 = 0 ∧ f 63 57 = 0 ∧
      3 ≤ f 164 160 ∧ f 164 160 ≤ 24 ∧ (f 324 320 ≠ 0 → 3 ≤ f 324 320 ∧ f 324 320 ≤ 24) ∧ f 56 0 % 32 = 0 ∧
      f 120 64 % 512 = 0 ∧ f 312 256 % 32 = 0 ∧ (k ∈ [.pfx, .pfxIns, .pfxDel] → f 324 320 ≠ 0)) ∧
  ∀ (s : State) (core tenant desc pa : Nat) (k : KvForm), pa < Config.padBase → s.served pa = true →
    let n := s.num pa 64
    let f := fun (hi lo : Nat) => n / 2 ^ lo % 2 ^ (hi + 1 - lo)
    let inTable := fun (va : Nat) => f 56 0 ≤ va ∧ va < f 56 0 + 32 * 2 ^ f 164 160 ∨
      f 324 320 ≠ 0 ∧ f 312 256 ≤ va ∧ va < f 312 256 + 32 * 2 ^ f 324 320
    let outside := fun (p : Nat) => Config.padBase ≤ p ∨ p / 2 ^ 21 / 384 ≠ pa / 2 ^ 21 / 384
    let gives := s.kvTable core tenant desc pa k
    (s.badAt pa 64 = true → gives = .error (.trap 0x21 desc)) ∧
    (s.badAt pa 64 = false → descSound n k = false → gives = .error (.trap 0x01 desc)) ∧
    (s.badAt pa 64 = false → descSound n k = true →
      ((∀ va p, inTable va → s.xlateEng core tenant va 0 = .ok p → ¬ outside p) → gives = .ok ⟨core, tenant, desc, pa, n⟩) ∧
      ∀ va p, inTable va → va % 4096 = 0 → s.xlateEng core tenant va 0 = .ok p → outside p →
        ∃ a, gives = .error (.trap 0x01 a))

/-- R91, R96, R97, R279, R295 to R299: ROPEN queues its slot, or traps 0x31 or 0x32; RCLOSE frees it; RPOLL reads it; RTAKE of
an Open slot is accepted where the core has room, and otherwise traps 0x30, clears PD under TRY, or parks; a scratchpad
destination that fails its checks traps 0x10 first.  A slot outside the grant traps 0x01.  The model's own: a destination that is
misaligned or outside the window traps 0x10 (log 49); a parked RTAKE that was accepted is not accepted again (log 76); an accepted
take delivers its first beat from the clock of its acceptance on (log 50). -/
def Obligations.RowInstructions : Prop :=
  let tval : Nat → Nat → Nat → Dword := fun va i reason => BitVec.ofNat 64 (va / 4096 * 4096 + i + reason * 16)
  (∀ f : LRopen, ActsEach (.ropen f) fun s c g u t => let i := f.slot.toNat
    let x := ((c.uni g f.u.toNat).toNat + (c.val u f.a).toNat) % 2 ^ 64
    (g.rows.length ≤ i → t = s.raise u.tid 0x01 c.word 0 0) ∧
    ∀ r pa, g.rows[i]? = some r → s.xlate g.core g.rec_.tenant x 3 = .ok pa →
      let own : Prop := pa < Config.padBase ∧ pa / 2 ^ 21 / 384 = g.core
      (¬ own → t = s.raise u.tid 0x31 (tval x i r.reason) 0 0) ∧
      (own → r.state ≠ .free → r.state ≠ .closed → t = s.raise u.tid 0x32 (tval x i r.reason) 0 0) ∧
      (own → (r.state = .free ∨ r.state = .closed) →
        t = { s with groups := t.groups, columns := t.columns } ∧
        t.group c.guid = some { g with
          rows := g.rows.set i { r with state := .queued, va := x / 4096 * 4096, pa := pa / 4096 * 4096 } } ∧
        (∀ k, k ≠ c.guid → t.group k = s.group k) ∧ (∀ k, k ≠ g.core → t.column k = s.column k) ∧
        t.column g.core = { s.column g.core with queue := (s.column g.core).queue ++ [⟨c.guid, i⟩] })) ∧
  (∀ slot : BitVec 3, ActsEach (.rclose slot) fun s c g u t =>
    (g.rows.length ≤ slot.toNat → t = s.raise u.tid 0x01 c.word 0 0) ∧
    ∀ r, g.rows[slot.toNat]? = some r → (r.state = .free → t = s) ∧
      (r.state ≠ .free → ∃ y, t.group c.guid = some y ∧
        y.rows = g.rows.set slot.toNat { r with state := .free, reason := 0 } ∧
        (t.column g.core).queue = (s.column g.core).queue.filter fun q => ¬ (q.guid = c.guid ∧ q.slot = slot.toNat))) ∧
  (∀ f : LRpoll, ActsEach (.rpoll f) fun s c g u t =>
    (g.rows.length ≤ f.slot.toNat → t = s.raise u.tid 0x01 c.word 0 0) ∧
    ∀ r, g.rows[f.slot.toNat]? = some r → ∃ w, OneThread s t c u (u.setReg f.a w) ∧
      w.toNat % 8 = (match r.state with | .free => 0 | .queued => 1 | .activating => 2 | .opened => 3 | .closed => 4) ∧
      (r.reason < 8 → w.toNat / 16 % 8 = r.reason ∧ (r.state ≠ .opened → w.toNat / 2 ^ 16 = 0)) ∧
      (r.reason < 8 → r.state = .opened → w.toNat / 2 ^ 16 = (r.since + (if (s.column g.core).doubledAt
        ((s.column g.core).bankOf r.pa) s.stime then 4680 else 9360) - s.stime) / 16 % 2 ^ 16)) ∧
  ∀ f : LRtake, ActsEach (.rtake f) fun s c g u t => let i := f.slot.toNat; let a := (c.val u f.a).toNat
    (g.rows.length ≤ i → t = s.raise u.tid 0x01 c.word 0 0) ∧
    ∀ r, g.rows[i]? = some r →
      let local_ : Prop := a % 128 = 0 ∧ a + 4096 ≤ 0x400000
      let ready : Prop := f.dest = true → local_ ∧ InBounds s g [(a, 4096)]
      let room : Prop := (s.takes.filter fun x => decide (x.core = g.core)).length < 16
      (u.grant = some i → OneThread s t c u ({ u with grant := none }.setPred f.pd true)) ∧
      (u.grant ≠ some i →
        (f.dest = true → ¬ local_ → ∃ m, t = s.raise u.tid 0x10 (BitVec.ofNat 64 a) m 0) ∧
        (∀ b, f.dest = true → local_ → s.padCheck g a 4096 = .bounds b → ∃ m, t = s.raise u.tid 0x10 (BitVec.ofNat 64 b) m 0) ∧
        (ready → r.state = .free → t = s.raise u.tid 0x30 (tval 0 i 0) 0 0) ∧
        (ready → r.state = .closed → t = s.raise u.tid 0x30 (tval r.va i r.reason) 0 0) ∧
        (r.state = .opened → ready → room →
          ∃ x : Take, t.takes = s.takes ++ [x] ∧ x.id = s.nextId ∧ x.core = g.core ∧ x.guid = c.guid ∧ x.tid = u.tid ∧ x.slot = i ∧
            x.va = r.va ∧ x.pa = r.pa ∧ x.beat = 0 ∧ x.batch = none ∧ x.dest = (if f.dest then .pad a else .staging) ∧
            x.nextAt = s.stime ∧ x.data = [] ∧ x.bad = false ∧ x.missed = [] ∧ x.outcome = 0 ∧
            (f.dest = false → x.dead = []) ∧
            t = { s with groups := t.groups, nextId := s.nextId + 1, takes := t.takes } ∧
            t.thread c.guid u.tid = some (u.setPred f.pd true) ∧
            (f.dest = false → (t.group c.guid).map (·.staging) =
              some { g.staging with take := some s.nextId, empty := false, fill := some (i, r.va) })) ∧
        (r.state ≠ .free → r.state ≠ .closed → ready → (r.state = .opened → ¬ room) →
          (f.try_ = true → OneThread s t c u (u.setPred f.pd false)) ∧
          (f.try_ = false → t = s.retry u.tid (if r.state = .opened then .takeRoom [i]
            else .row i (some (if f.dest then some a else none))))))

/-! ### Completions of engine commands, copies and KV commands -/

/-- R48, R49, R59 to R62, R72, R73, R122, R123, R142, R146 to R149, R250, R279 to R282, R320: an engine command whose turn has come, with
the accesses of its thread before it performed, takes its
effect whole, while no column is in a remapping step and the bank of its counter serves it (log 89): MX on its tile, ATTN on its rows, ATTN.MERGE on its output records, a drain chunk on its bytes, CBLOAD on the
group's table; a lost operand gives canonical NaNs under OUTCOME 1.  Then its status word, its counter and its end.  The elements of
MX, the rows of ATTN and of ATTN.MERGE and the bytes of a drain are those of the rules' algorithms.  The model's own: a drain's bytes
are formed at its first chunk's landing (log 56); a lost operand goes before a bad one (log 64); zeros of opposite sign (log 94). -/
def Obligations.EngineCommandsComplete : Prop :=
  ∀ (s : State) (e : EngCmd) (g : Group), s.engs.find? (fun x => decide (x.id = e.id)) = some e → s.engTurn e = true →
    (∀ c ∈ s.columns, c.2.remap = none) → s.behind e.guid e.tid e.id = false →
    (e.fin.ctr ≠ 0 → s.served e.fin.ctrPa = true) → NetMark.item e.id ∉ s.netBad →
    s.roomFor e.core = true → s.group e.guid = some g → MemOk s →
    (∀ p stage bad, e.op = .mx p (some stage) bad → ∃ t m o fl outcome, exec (.mxComplete e.id) s = .next t ∧
      OneGroup s m e.guid { g with tiles := g.tiles.set p.acc { g.tile p.acc with o := o, attention := false } } ∧
      Finishes m t e outcome fl ∧ o.length = 4096 ∧
      (e.lost = true → o = List.replicate 4096 0x7FC00000#32 ∧ outcome = 1 ∧ fl = 0) ∧
      (e.lost = false → p.bsrc = true → bad = true → outcome = 2 ∧ fl = 0) ∧
      (e.lost = false → (p.bsrc = false ∨ bad = false) → outcome = 0 ∧
        (∀ b, fl.getLsbD b = true ↔ ∃ r c, r < 64 ∧ c < 64 ∧
          (mxAcc p (s.mxRead e g p stage) r c ((g.tile p.acc).oAt (64 * r + c))).2.getLsbD b = true) ∧
        ∀ r c, r < 64 → c < 64 → o[64 * r + c]? =
          some (mxAcc p (s.mxRead e g p stage) r c ((g.tile p.acc).oAt (64 * r + c))).1)) ∧
    (∀ p ks vs bad, e.op = .attn p ks vs bad → (∀ x ∈ s.takes, ∀ v i, x.dest ≠ .attn e.id v i) →
      ∃ t rows fl outcome, exec (.attnStepComplete e.id) s = .next t ∧ rows.length = 64 ∧
      Finishes (s.putRows e.guid p.acc p.d rows) t e outcome fl ∧
      (e.lost = true ∨ bad = true → rows = List.replicate 64 (RowState64.allNan p.d) ∧ fl = 0 ∧
        outcome = if e.lost then 1 else 2) ∧
      (e.lost = false → bad = false → outcome = 0 ∧ ∀ r, r < 64 →
        let pad := fun (addr i : Nat) => s.byte (keyOf e.core addr + i)
        let vals := fun (f : Nat) (b : Nat → Byte) (j : Nat) => attnVals f p.d b j
        let st := if p.init then RowState64.identity p.d else g.tileRow p.acc p.d r
        let keys := (List.range 64).filter fun j => decide (j < p.klen ∧ (p.causal = true → p.kbase + j ≤ p.qbase + r) ∧
          (p.win ≠ 0 → p.qbase + r < p.kbase + j + p.win))
        rows[r]? = some (if p.qn ≤ r then st else (attnRow p.scale (vals p.qf (pad p.qaddr) r)
          (keys.map fun j => (vals p.kf (if p.ksel then beatByte ks else pad p.kaddr) j,
            vals p.vf (if p.vsel then beatByte vs else pad p.vaddr) j)) p.d st).1))) ∧
    (∀ p k, e.op = .merge p → s.padCheck g p.aout p.len = .ok k → ∃ t m bs fl, exec (.attnMergeComplete e.id) s = .next t ∧
      Writes s m k bs ∧ Finishes m t e (if e.lost then 1 else 0) fl ∧ bs.length = p.len ∧
      bs = (List.range p.qn).flatMap fun r =>
        let row := fun a => s.readRow (keyOf e.core a + r * (8 + 4 * p.d)) p.d
        (if e.lost then RowState64.allNan p.d
         else if (row p.a1).m = 0xFF800000#32 then row p.a2
         else if (row p.a2).m = 0xFF800000#32 then row p.a1
         else (mergeRow (row p.a1) (row p.a2)).1).bytes) ∧
    (∀ p begun data owed outcome fl ch, e.op = .drain p begun data owed outcome fl none →
      owed.find? (fun x => decide (x.num = ch.num)) = some ch →
      let bytes := if begun then (data.head?.map (·.2)).getD [] else (drainData p g).1
      let fl' := if begun then fl else (drainData p g).2
      let goesOn := fun (m : State) (o : Nat) => exec (.mxdrainChunkLanding e.id ch.num) s = .next { m with
        engs := s.engs.map fun x => if x.id = e.id then { x with
          op := .drain p true [(0, bytes)] (owed.filter fun y => decide (y.num ≠ ch.num)) o fl' none } else x }
      (ch.dead = true → goesOn s (max outcome 1)) ∧
      (ch.dead = false → p.osp = true → ∃ m, Writes s m ch.addr ((bytes.drop ch.off).take ch.len) ∧ goesOn m outcome) ∧
      (ch.dead = false → p.osp = false → s.engServed e.core e.tenant ch.addr ch.len 1 = false →
        exec (.mxdrainChunkLanding e.id ch.num) s = .next s) ∧
      ∀ a, ch.dead = false → p.osp = false → s.engServed e.core e.tenant ch.addr ch.len 1 = true → s.badUnits = [] →
        s.xlateRun e.core e.tenant ch.addr ch.len 1 = .ok ((List.range ch.len).map (a + ·)) → a + ch.len ≤ Config.peerBase →
        let bs := (bytes.drop ch.off).take ch.len
        bs.length = ch.len → ∃ m, m = { s with mem := m.mem, clines := m.clines } ∧ goesOn m outcome ∧
          ∀ k, m.byte k = if a ≤ k ∧ k < a + ch.len then bs.getD (k - a) 0 else s.byte k) ∧
    (∀ p begun data outcome fl, e.op = .drain p begun data [] outcome fl none →
      ∃ t, exec (.mxdrainComplete e.id) s = .next t ∧ Finishes s t e outcome fl) ∧
    (∀ p stage bad, e.op = .mx p (some stage) bad → ∀ r c old,
      MxElement s e.core g p (beatByte stage) r c old (mxAcc p (s.mxRead e g p stage) r c old)) ∧
    (∀ p, Drains p g (drainData p g).1) ∧
    (∀ acc d r, (g.tileRow acc d r).m = (g.tile acc).m.getD r 0xFF800000#32 ∧ (g.tileRow acc d r).l = (g.tile acc).l.getD r 0 ∧
      (g.tileRow acc d r).o.length = d ∧
      ∀ c, c < d → (g.tileRow acc d r).o[c]? = some ((g.tile (acc + c / 64)).o.getD (64 * r + c % 64) 0)) ∧
    (∀ (scale : Word) (q : List Val) (kvs : List (List Val × List Val)) (d : Nat) (st : RowState64),
      AttnRow scale q kvs d st (attnRow scale q kvs d st)) ∧
    (∀ p1 p2 : RowState64, MergedRow p1 p2 (mergeRow p1 p2).1) ∧
    (∀ (f d : Nat) (b : Nat → Byte) (row c : Nat), c < d → let i := row * d + c
      (attnVals f d b row)[c]? = some (if f < 2 then dec (f + 1) ((b (2 * i)).toNat + 256 * (b (2 * i + 1)).toNat)
        else dec 3 (b i).toNat)) ∧
    (∀ (beats : List (Nat × List Byte)) (i k : Nat) (bs : List Byte), beats.find? (fun b => decide (b.1 = i / 512)) = some (k, bs) →
      beatByte beats i = bs.getD (i % 512) 0) ∧
    ∀ a ks, e.op = .cbload a ks → e.lost = false →
      (s.servedAll ks = false → exec (.cbloadInstall e.id) s = .next s) ∧
      ((∀ k ∈ ks, s.badAt k 1 = false ∧ k < Config.peerBase) → s.servedAll ks = true → ks.length = 512 → ∃ t tbl m,
        exec (.cbloadInstall e.id) s = .next t ∧ OneGroup s m e.guid { g with cb2 := tbl } ∧
        t = { m with engs := s.engs.filter fun x => decide (x.id ≠ e.id) } ∧
        ∀ i, i < 256 → tbl[i]? = some (s.byte (ks.getD (2 * i + 1) 0) ++ s.byte (ks.getD (2 * i) 0))) ∧
      ((∃ k ∈ ks, s.badAt k 1 = true) → s.servedAll ks = true → ∃ t, exec (.cbloadInstall e.id) s = .next t ∧
        (t.group e.guid).map (·.cb2) = some [] ∧ t.dieQ.length = s.dieQ.length + 1 ∧
        t.dieQ.getLast?.map (fun x => (x.1, x.2.kind, x.2.cause)) = some (dieOfEntry e.core, 3, 0x21))

/-- R45, R72, R117, R120, R121, R152 to R154, R157, R252, R253: a chunk of a copy that can land is delivered to its places and leaves what the copy
owes, and the copy ends with its last chunk; a chunk whose destination is gone is discarded, once its source has been read
or is gone too (log 85); a replayable fault pauses the copy, a fatal one ends it and traps its thread 0x20.  A chunk's bytes are
those of its elements as R252 gives them.  A KV command acts on its table at once, while no
column is in a remapping step (log 89): its words are written, vX and vX+1 take the result, and its thread goes on; the words and
the result of each form are those of R154; what vX holds after a prefix is placed or deleted is free (log 21). -/
def Obligations.CopiesAndKvComplete : Prop :=
  (∀ (s : State) (x : Copy) (ch : Chunk), s.copies.find? (fun y => decide (y.id = x.id)) = some x →
    x.owed.find? (fun y => decide (y.num = ch.num)) = some ch → x.paused = none → ch.void = false →
    s.copyAway x = false → (∀ c ∈ s.columns, c.2.remap = none) → s.roomFor x.core = true →
    s.behind x.guid x.tid x.id = false → s.landServed x ch = true → NetMark.item x.id ∉ s.netBad →
    (∀ p ∈ s.sourcePlaces x ch, p < Config.peerBase) → MemOk s → s.badUnits = [] →
    let rest := x.owed.filter fun y => decide (y.num ≠ ch.num)
    let left := fun (m t : State) (y : Copy) =>
      (rest.all (·.void) = false → t = { m with copies := s.copies.map fun z => if z.id = x.id then y else z }) ∧
      (rest.all (·.void) = true → t.copies = s.copies.filter fun z => decide (z.id ≠ x.id))
    (∀ y, ch.dead = true → ch.srcGone = false → x.readChunk s ch = .ok y →
      ∃ t, exec (.copyChunkLanding x.id ch.num) s = .next t ∧
        left s t { x with owed := rest, outcome := max x.outcome 1 } ∧ t.mem = s.mem) ∧
    (ch.dead = true → ch.srcGone = true → ∃ t, exec (.copyChunkLanding x.id ch.num) s = .next t ∧
      left s t { x with owed := rest, outcome := max x.outcome 2 } ∧ t.mem = s.mem) ∧
    (∀ va access, ch.dead = false → ch.srcGone = false → x.landing s ch = .fault .replayable va access →
      ∃ t, exec (.copyChunkLanding x.id ch.num) s = .next t ∧ t.mem = s.mem ∧
        t.copies = s.copies.map (fun z => if z.id = x.id then { x with paused := some s.nextToken } else z) ∧
        t.dieQ.getLast?.map (fun q => (q.1, q.2.kind, q.2.addr, q.2.access, q.2.token)) =
          some (dieOfEntry x.core, 1, va, access, s.nextToken)) ∧
    (∀ va access u, ch.dead = false → ch.srcGone = false → x.landing s ch = .fault .fatal va access →
      s.thread x.guid x.tid = some u → u.run = .runnable → ∃ t, exec (.copyChunkLanding x.id ch.num) s = .next t ∧
        t.mem = s.mem ∧ t.copies = s.copies.filter (fun z => decide (z.id ≠ x.id)) ∧
        t.thread x.guid x.tid = some ({ u with due := some ⟨0x20, BitVec.ofNat 64 va, 0, access, some u.word⟩ }.meet x.batch
          (max x.outcome 4) x.flags)) ∧
    ∀ l : Landing, ch.dead = false → ch.srcGone = false → x.landing s ch = .ok l → l.counter = none →
      l.places = (List.range l.bytes.length).map (ch.addr + ·) → ch.addr + l.bytes.length ≤ Config.peerBase →
      ∃ t m, exec (.copyChunkLanding x.id ch.num) s = .next t ∧
        left m t { x with owed := rest, flags := x.flags ||| l.flags, kept := x.kept ++ l.kept } ∧
        m = { s with mem := m.mem, clines := m.clines } ∧
        ∀ k, t.byte k = if ch.addr ≤ k ∧ k < ch.addr + l.bytes.length then l.bytes.getD (k - ch.addr) 0 else s.byte k) ∧
  (∀ (s : State) (x : Copy) (ch : Chunk) (l : Landing), x.landing s ch = .ok l → x.kept = [] → 0 < fmtBits x.dfmt →
    let w := fmtBits x.dfmt
    let count := (x.dims.map (·.win)).prod
    l.bytes.length = ch.len ∧ (∀ j, count * w ≤ 8 * ch.off + j → (leNat l.bytes).testBit j = false) ∧
    ∀ k, k < count → 8 * ch.off ≤ k * w → (k + 1) * w ≤ 8 * (ch.off + ch.len) → ∃ y fl, x.elem s k = .ok (y, fl) ∧
      leNat l.bytes / 2 ^ (k * w - 8 * ch.off) % 2 ^ w = y % 2 ^ w) ∧
  (∀ (s : State) (x : Copy) (k : Nat), x.kept = [] →
    (copySource x.dims k = none → x.elem s k = .ok (if x.sfmt = x.dfmt then (0, 0) else convert x.dfmt x.rnd x.sat (.fin false 0 (-149)))) ∧
    ∀ (e : Int) (b : Nat), copySource x.dims k = some e → x.readElem s e = .ok b →
      ∃ fl, x.elem s k = .ok (if x.sfmt = x.dfmt then b else (convert x.dfmt x.rnd x.sat (dec x.sfmt b)).1, fl)) ∧
  (∀ (s : State) (x : Copy) (e : Int), let n := fmtBits x.sfmt
    let at_ := (Int.ofNat x.saddr + e * n / 8).toNat
    let picks := fun (bs : List Byte) => if n = 4 then leNat bs / (if e % 2 = 0 then 1 else 16) % 16 else leNat bs
    0 ≤ Int.ofNat x.saddr + e * n / 8 →
    (x.ssp = true → x.readElem s e = .ok (picks (s.bytes (keyOf x.core at_) ((n + 7) / 8)))) ∧
    ∀ ps, x.ssp = false → s.xlateRun x.core x.tenant at_ ((n + 7) / 8) 0 = .ok ps → (∀ p ∈ ps, p < Config.peerBase) →
      s.badUnits = [] → x.readElem s e = .ok (picks (ps.map s.byte))) ∧
  (∀ (ds : List CopyDim) (is : List Nat), is.length = ds.length → (∀ z ∈ ds.zip is, z.2 < z.1.win) →
    let k := (ds.zip is).foldr (fun z n => z.2 + z.1.win * n) 0
    ((∃ z ∈ ds.zip is, z.1.size ≤ z.2 * z.1.int) → copySource ds k = none) ∧
    ((∀ z ∈ ds.zip is, z.2 * z.1.int < z.1.size) →
      copySource ds k = some ((ds.zip is).map fun z => Int.ofNat (z.2 * z.1.int) * z.1.stride).sum)) ∧
  (∀ (s : State) (q : KvCmd) (tb : KvTable) (r : KvResult) (g : Group) (u : Thread) (p p' : Point),
    s.kvs.find? (fun y => decide (y.id = q.id)) = some q → q.paused = none → (∀ c ∈ s.columns, c.2.remap = none) →
    s.roomFor q.core = true →
    s.behind q.guid q.tid q.id = false → (∀ y ∈ s.kvs, y.id < q.id → y.guid = q.guid → y.descPa = q.descPa → y.issue = q.issue →
      y.paused.isSome = true) → NetMark.item q.id ∉ s.netBad →
    s.kvTry q = .ok (tb, r) → s.group q.guid = some g → g.thread q.tid = some u →
    u.run = .parked (.kv q.id) p p' → u.later = [] →
    ∃ t, exec (.kvTableAction q.id) s = .next t ∧ t.kvs = s.kvs.filter (fun y => decide (y.id ≠ q.id)) ∧
      t.thread q.guid q.tid = some { u with
        run := .runnable, point := u.standing p', word := p'.word, arrival := s.stime,
        regs := (u.regs.set q.x r.x).set (q.x + 1) r.status } ∧
      (r.writes = [] → t.mem = s.mem) ∧
      (MemOk s → ∀ k v n, r.writes = [(k, v, n)] → k < Config.peerBase →
        ∀ j, t.byte j = if k ≤ j ∧ j < k + n then (leBytes n v).getD (j - k) 0 else s.byte j)) ∧
  (∀ bs : List Byte, bs = [0x31, 0x32, 0x33, 0x34, 0x35, 0x36, 0x37, 0x38, 0x39] → crc32c bs = 0xE3069283#32) ∧
  (∀ (s : State) (tb : KvTable) (seq lblk : Nat), ∀ w, s.kvSearch tb seq lblk 32 = .ok w →
    (∀ i e, w.found = some (i, e) → ∃ r, s.kvFind tb seq lblk = .ok r ∧ r.x = BitVec.ofNat 32 i ∧ r.writes = [] ∧
      (e.state = 1 ∨ e.state = 2) ∧ e.seq = seq ∧ e.lblk = lblk ∧ r.status.toNat % 4 = e.state ∧
      r.status.toNat / 256 = min w.walked 255) ∧
    (w.found = none → ∃ r, s.kvFind tb seq lblk = .ok r ∧ r.x = 0xFFFFFFFF#32 ∧ r.writes = [] ∧ r.status.toNat % 4 = 0)) ∧
  (∀ (s : State) (q : KvCmd) (tb : KvTable), s.kvTable q.core q.tenant q.desc q.descPa q.form = .ok tb →
    let a := fun (i : Nat) => (q.args.getD i 0).toNat
    let is := fun (x : Kv KvResult) => s.kvTry q = x.map fun r => (tb, r)
    let free := Config.freeWord q.id 0
    let digest := a 0 + 2 ^ 32 * a 1 + 2 ^ 64 * a 2 + 2 ^ 96 * a 3
    (3 ≤ q.args.length → let seq := a 0 + 2 ^ 32 * a 1
      (q.form = .find → is (s.kvFind tb seq (a 2))) ∧ (q.form = .ins → is (s.kvIns tb seq (a 2))) ∧
      (q.form = .del → is (s.kvDel tb seq (a 2)))) ∧ (q.form = .seal → is (s.kvSeal tb (a 0))) ∧
    (4 ≤ q.args.length → (q.form = .pfx → is (s.kvPfx tb digest)) ∧
      (q.form = .pfxIns → is (s.kvPfxIns tb digest (a 4) free)) ∧ (q.form = .pfxDel → is (s.kvPfxDel tb digest free)))) ∧
  (∀ (s : State) (tb : KvTable) (e : Nat → KvEntry) (seq lblk : Nat), KvReads s tb e → seq < 2 ^ 64 → lblk < 2 ^ 32 →
    let none_ := 0xFFFFFFFF#32
    let gives := fun (x : Kv KvResult) (vx : Word) (res walked : Nat) (trunc pend ovf : Bool) (ws : KvWrites) =>
      ∃ r, x = .ok r ∧ r.x = vx ∧ KvStatus r.status res walked trunc pend ovf ∧ r.writes = ws
    (∃ found walked more, KvSearched tb e seq lblk 32 found walked more ∧
      (found = none → gives (s.kvFind tb seq lblk) none_ 0 walked more false false []) ∧
      ∀ i, found = some i → gives (s.kvFind tb seq lblk) (BitVec.ofNat 32 i) (e i).state walked false (e i).pend (e i).ovf []) ∧
    (∃ found walked more, KvSearched tb e seq lblk tb.nblk found walked more ∧
      let h := kvHome seq lblk
      let ins := gives (s.kvIns tb seq lblk)
      let del := gives (s.kvDel tb seq lblk)
      let probe := fun (j : Nat) => (h + j) % tb.nblk
      let far := fun (j : Nat) => (h + 8 + j) % tb.nblk
      (∀ i, found = some i → ins (BitVec.ofNat 32 i) 2 walked false (e i).pend (e i).ovf []) ∧
      (∀ j, found = none → j < 8 → (e (probe j)).state = 0 → (∀ i, i < j → (e (probe i)).state ≠ 0) → let x := e (probe j)
        ∃ m, KvFilled x.n m seq lblk (if x.ovf then 1 else 0) x.next ∧
          ins (BitVec.ofNat 32 (probe j)) 0 walked false true x.ovf [(x.pa, m, 32)]) ∧
      (found = none → (∀ j, j < 8 → (e (probe j)).state ≠ 0) →
        (∀ j, j < tb.nblk → (e (far j)).state = 0 → (∀ i, i < j → (e (far i)).state ≠ 0) → ∃ m,
          KvFilled (e (far j)).n m seq lblk 1 tb.head ∧ ins (BitVec.ofNat 32 (far j)) 1 walked false true true
            [((e (far j)).pa, m, 32), (tb.descPa + 24, far j, 4)]) ∧
        ((∀ j, j < tb.nblk → (e (far j)).state ≠ 0) → ins none_ 3 walked false false false [])) ∧
      (found = none → del none_ 0 walked false false false []) ∧
      ∀ i, found = some i → let x := e i
        let ends := del (BitVec.ofNat 32 i) 1 walked false x.pend x.ovf
        (x.ovf = false → ends [(x.pa, 0, 32)]) ∧
        (x.ovf = true → tb.head = i → ends [(x.pa, 0, 32), (tb.descPa + 24, x.next, 4)]) ∧
        ∀ k, x.ovf = true → k < tb.nblk → kvChain tb e (k + 1) = i → (∀ j, j ≤ k → kvChain tb e j ≠ i ∧ kvChain tb e j ≠ 0xFFFFFFFF) →
          ends [(x.pa, 0, 32), ((e (kvChain tb e k)).pa + 20, x.next, 4)]) ∧
    (∀ i, tb.nblk ≤ i ∨ i < tb.nblk ∧ (e i).state ≠ 1 ∧ (e i).state ≠ 2 → gives (s.kvSeal tb i) none_ 3 0 false false false []) ∧
    ∀ i bs, i < tb.nblk → (e i).state = 1 ∨ (e i).state = 2 → s.kvBlock tb i = .ok bs → ∃ m,
      m % 2 ^ 96 = (e i).n % 2 ^ 96 ∧ m / 2 ^ 96 % 4 = 1 ∧ m / 2 ^ 98 % 2 = (e i).n / 2 ^ 98 % 2 ∧ m / 2 ^ 99 % 2 = 0 ∧
      m / 2 ^ 100 % 2 ^ 28 = (e i).n / 2 ^ 100 % 2 ^ 28 ∧ m / 2 ^ 128 % 2 ^ 32 = (crc32c bs).toNat ∧ m / 2 ^ 160 = (e i).n / 2 ^ 160 ∧
      gives (s.kvSeal tb i) (BitVec.ofNat 32 i) 0 0 false false (e i).ovf [((e i).pa, m, 32)]) ∧
  ∀ (s : State) (tb : KvTable) (p : Nat → KvEntry) (digest blk : Nat) (free : Word), PfxReads s tb p → digest < 2 ^ 128 → blk < 2 ^ 32 →
    let gives := fun (x : Kv KvResult) (vx : Word) (res : Nat) (ws : KvWrites) =>
      ∃ r, x = .ok r ∧ r.x = vx ∧ KvStatus r.status res 0 false false false ∧ r.writes = ws
    let holds := fun (x : KvEntry) => x.n.testBit 160 = true ∧ x.n % 2 ^ 128 = digest
    let empty := fun (x : KvEntry) => x.n.testBit 160 = false
    (∀ k, PfxFirst tb p digest holds k → let x := p k
      gives (s.kvPfx tb digest) (BitVec.ofNat 32 (x.n / 2 ^ 128)) 1 [] ∧
      gives (s.kvPfxIns tb digest blk free) (BitVec.ofNat 32 (x.n / 2 ^ 128)) 1 [] ∧
      ∃ m, m % 2 ^ 160 = x.n % 2 ^ 160 ∧ m.testBit 160 = false ∧ m / 2 ^ 161 = x.n / 2 ^ 161 ∧
        gives (s.kvPfxDel tb digest free) free 1 [(x.pa, m, 32)]) ∧
    ((∀ k, ¬ PfxFirst tb p digest holds k) → gives (s.kvPfx tb digest) 0xFFFFFFFF#32 0 [] ∧
      gives (s.kvPfxDel tb digest free) 0xFFFFFFFF#32 0 [] ∧
      ((∀ k, ¬ PfxFirst tb p digest empty k) → gives (s.kvPfxIns tb digest blk free) 0xFFFFFFFF#32 3 []) ∧
      ∀ k, PfxFirst tb p digest empty k → ∃ m, m % 2 ^ 128 = digest ∧ m / 2 ^ 128 % 2 ^ 32 = blk ∧ m.testBit 160 = true ∧
        m / 2 ^ 161 = (p k).n / 2 ^ 161 ∧ gives (s.kvPfxIns tb digest blk free) free 0 [((p k).pa, m, 32)])

/-! ### Rows, refresh, the rambler -/

/-- R91 to R95, R98, R100, R158, R297, R323: an activation goes to the first queued request whose bank is not busy, within the
windows of R93 and R100: four in 100 ck, ALLOW in an aligned 2,400 ck; 36 ck later the row is Open; a take delivers its next 512
bytes, one beat in a ck, and takes to staging one after another; a beat
that cannot be corrected closes its row with REASON 6; a refresh that falls due begins, or grants 200 ck of
grace and then closes the bank's rows with REASON 1; the open limit closes a row with REASON 2; the rambler reads the
block of a Valid, sealed entry and in a second step makes Damaged one that still stands as it was and whose block's CRC differs.
The model's own: the refreshes of a bank that it keeps no record of (log 26), takes of several rows side by side (log 50), the
rambler's two steps (log 61), a beat after the accesses that its take follows (log 19). -/
def Obligations.RowsRefreshAndRambler : Prop :=
  ∀ (s : State) (col bank : Nat), risingFrom 0 s.groups = true → MemOk s →
    (let slotOf := fun (q : ActReq) => (s.group q.guid).bind fun g => g.rows[q.slot]?
      let busy := fun (r : RowSlot) => s.bankBusy col ((s.column col).bankOf r.pa) (rowOf r.pa)
      let full : Prop := 4 ≤ ((s.column col).acts.filter fun a => decide (s.stime < a + 100)).length ∨
        (s.column col).allow ≤ ((s.column col).acts.filter fun a => decide (s.stime / 2400 = a / 2400)).length
      (∀ b row, s.bankBusy col b row = true ↔ (∃ e, mget (s.column col).refresh b = some (.busy e)) ∨
        (∃ e, mget (s.column col).refresh b = some (.grace e) ∧ e ≤ s.stime) ∨ (∃ r, s.openRow col b = some r ∧ r ≠ row) ∨
        mget (s.column col).refresh b = none ∧ s.openRow col b = none ∧ (s.column col).refreshing b s.stime = true) ∧
      ((s.column col).remap.isSome = true ∨ full ∨ (∀ p ∈ (s.column col).queue, ∀ x, slotOf p = some x → busy x = true) →
        exec (.rowActivation col) s = .next s) ∧
      ∀ (before after : List ActReq) (q : ActReq) (r : RowSlot) (g : Group), (s.column col).remap = none → ¬ full →
        (s.column col).queue = before ++ q :: after → (∀ p ∈ before, ∀ x, slotOf p = some x → busy x = true) →
        s.group q.guid = some g → g.rows[q.slot]? = some r → busy r = false → ∃ t y, exec (.rowActivation col) s = .next t ∧
        t.group q.guid = some y ∧ y = { g with rows := y.rows } ∧ (∀ k, k ≠ q.guid → t.group k = s.group k) ∧
        t = { s with groups := t.groups, columns := t.columns } ∧ (∀ k, k ≠ col → t.column k = s.column k) ∧
        (t.column col).queue = (s.column col).queue.filter (fun x => decide (x ≠ q)) ∧
        let shares : Nat → Nat → RowSlot → Prop := fun k j h => (k ≠ q.guid ∨ j ≠ q.slot) ∧ h.holds = true ∧ rowOf h.pa = rowOf r.pa ∧
          ∃ x, s.group k = some x ∧ x.core = col ∧ x.rows[j]? = some h
        ((∃ k j h, shares k j h) → ∃ k j h, shares k j h ∧
          y.rows = g.rows.set q.slot { r with state := .activating, since := h.since }) ∧
        ((∀ k j h, ¬ shares k j h) → y.rows = g.rows.set q.slot { r with state := .activating, since := s.stime } ∧
          (t.column col).activations = (s.column col).activations + 1 ∧ s.stime ∈ (t.column col).acts ∧
          ∀ a, s.stime < a + 2400 → a ∈ (s.column col).acts → a ∈ (t.column col).acts)) ∧
    (∀ (k i : Nat) (g : Group) (r : RowSlot), s.group k = some g → g.rows[i]? = some r → r.state = .activating → r.since + 36 ≤ s.stime →
      ∃ t y, exec (.rowReady k i) s = .next t ∧ t.group k = some y ∧ y.rows = g.rows.set i { r with state := .opened } ∧
        (s.waiters = [] → y = { g with rows := y.rows } ∧ t = { s with groups := t.groups })) ∧
    (∀ x : Take, s.takes.find? (fun y => decide (y.id = x.id)) = some x → x.beat < 8 →
      let held : Prop := ∃ a ∈ s.accesses, a.guid = x.guid ∧ a.id < x.id ∧ ∃ l ∈ a.lanes, l.tid = x.tid ∧
        (a.kind.holdsLoads = true ∨ rowOf x.pa < l.pa + 16 ∧ l.pa < rowOf x.pa + 4096)
      (s.stime < x.nextAt ∨ held → exec (.rtakeBeat x.id) s = .next s) ∧
      (x.nextAt ≤ s.stime → ¬ held → s.badAt (x.pa + x.beat * 512) 512 = false → NetMark.item x.id ∉ s.netBad →
        let bs := s.bytes (x.pa + x.beat * 512) 512
        (∀ a, x.dest = .pad a → x.dead = [] → ∃ t m, exec (.rtakeBeat x.id) s = .next t ∧
          Writes s m (padKey x.core a + x.beat * 512) bs ∧
          (x.beat ≠ 7 → t = { m with takes := s.takes.map fun y => if y.id = x.id then
            { x with beat := x.beat + 1, nextAt := s.stime + 1 } else y }) ∧
          (x.beat = 7 → t.takes = s.takes.filter fun y => decide (y.id ≠ x.id))) ∧
        (x.dest = .staging → (∃ y ∈ s.takes, y.id < x.id ∧ y.guid = x.guid ∧ y.dest = .staging) →
          exec (.rtakeBeat x.id) s = .next s) ∧
        (x.dest = .staging → (∀ y ∈ s.takes, y.id < x.id → y.guid = x.guid → y.dest ≠ .staging) →
          (x.beat ≠ 7 → exec (.rtakeBeat x.id) s = .next { s with takes := s.takes.map fun y => if y.id = x.id then
            { x with beat := x.beat + 1, nextAt := s.stime + 1, data := (x.beat, bs) :: x.data } else y }) ∧
          (x.beat = 7 → ∃ t, exec (.rtakeBeat x.id) s = .next t ∧ t.takes = s.takes.filter (fun y => decide (y.id ≠ x.id)) ∧
            (∀ g, s.group x.guid = some g → g.staging.take = some x.id → (t.group x.guid).map (·.staging) =
              some { g.staging with data := (7, bs) :: x.data, bad := x.bad }) ∧
            ∀ e p bad, e ∈ s.engs → e.guid = x.guid → e.op = .mx p none bad →
              { e with op := .mx p (some ((7, bs) :: x.data)) x.bad } ∈ t.engs))) ∧
      (x.nextAt ≤ s.stime → ¬ held → (s.badAt (x.pa + x.beat * 512) 512 = true ∨ NetMark.item x.id ∈ s.netBad) →
        s.roomFor x.core = true → (x.dest = .staging → s.firstFill x = true) → ∃ t, exec (.rtakeBeat x.id) s = .next t ∧
        (∀ (k : Nat) (g : Group) (i : Nat) (r : RowSlot), s.group k = some g → g.core = x.core → g.rows[i]? = some r →
          r.holds = true → rowOf r.pa = rowOf x.pa →
          ∃ y, t.group k = some y ∧ y.rows[i]? = some { r with state := .closed, reason := 6 }) ∧
        let left : Take := { x with
          beat := x.beat + 1, nextAt := s.stime + 1, bad := true, missed := x.missed ++ [x.beat], outcome := max x.outcome 5 }
        (x.beat < 7 → t.takes = s.takes.map fun y => if y.id = x.id then left else y))) ∧
    (let twice := (s.column col).doubledAt bank s.stime;
      bank < 24 → s.stime % (if twice then 4680 else 9360) = (if twice then 195 else 390) * bank →
      (s.column col).live.getLsbD bank = true →
      mget (s.column col).refresh bank = none → ∃ t, exec (.refreshDue col bank) s = .next t ∧
      t = { s with columns := t.columns } ∧ (∀ k, k ≠ col → t.column k = s.column k) ∧
      ∃ r, r = (if (s.openRow col bank).isSome then RefreshState.grace (s.stime + 200) else .busy (s.stime + 280)) ∧
        t.column col = { s.column col with refresh := mset (s.column col).refresh bank r }) ∧
    (∀ e, mget (s.column col).refresh bank = some (.grace e) → e ≤ s.stime → s.bankTaking col bank = false →
      ∃ t, exec (.refreshGraceEnd col bank) s = .next t ∧
      mget (t.column col).refresh bank = some (.busy (s.stime + 280)) ∧
      ∀ (k : Nat) (g : Group) (i : Nat) (r : RowSlot), s.group k = some g → g.core = col → g.rows[i]? = some r → r.holds = true →
        (s.column col).bankOf r.pa = bank → ∃ y, t.group k = some y ∧ y.rows[i]? = some { r with state := .closed, reason := 1 }) ∧
    (∀ e, mget (s.column col).refresh bank = some (.busy e) → e ≤ s.stime → ∃ t, exec (.refreshEnd col bank) s = .next t ∧
      t = { s with columns := t.columns } ∧
      t.column col = { s.column col with refresh := mdel (s.column col).refresh bank }) ∧
    (∀ (k : Nat) (g : Group) (i : Nat) (r : RowSlot), s.group k = some g → g.rows[i]? = some r → r.state = .opened →
      r.since + (if (s.column g.core).doubledAt ((s.column g.core).bankOf r.pa) s.stime then 4680 else 9360) ≤ s.stime →
      ∃ t y, exec (.openLimitReached k i) s = .next t ∧ t.group k = some y ∧
        y.rows[i]? = some { r with state := .closed, reason := 2 }) ∧
    ∀ (die : Nat) (e : Enrolled), s.enrolled.find? (fun x => decide (x.die = die)) = some e →
      let tb : KvTable := { core := noCore, tenant := e.tenant, desc := e.desc, descPa := e.descPa, n := s.devNum e.descPa 64 }
      let turn := s.enrolled.filter (fun x => decide (x ≠ e)) ++ [{ e with next := (e.next + 1) % tb.nblk, read := none }]
      let note := fun (r : RamblerRead) => s.enrolled.map fun y => if y = e then { e with read := some r } else y
      (s.kvEntry tb e.next 0 = .error .wait → exec (.ramblerCheck die) s = .next s) ∧
      (∀ k, s.kvEntry tb e.next 0 = .error k → k ≠ .wait → exec (.ramblerCheck die) s = .next { s with enrolled := turn }) ∧
      ∀ x, s.kvEntry tb e.next 0 = .ok x →
        (e.read = none → x.state ≠ 1 ∨ x.pend = true → exec (.ramblerCheck die) s = .next { s with enrolled := turn }) ∧
        (e.read = none → x.state = 1 → x.pend = false →
          (s.kvBlock tb e.next = .error .wait → exec (.ramblerCheck die) s = .next s) ∧
          (∀ bs, s.kvBlock tb e.next = .ok bs → exec (.ramblerCheck die) s = .next { s with
            enrolled := note ⟨e.next, x.seq, x.lblk, x.crc, decide ((crc32c bs).toNat ≠ x.crc)⟩ }) ∧
          ∀ va, s.kvBlock tb e.next = .error (.trap 0x21 va) → s.dieRoom e.die = true → s.heldFaults = [] →
            ∃ t, exec (.ramblerCheck die) s = .next t ∧ t.enrolled = note ⟨e.next, x.seq, x.lblk, x.crc, true⟩ ∧
              t.dieQ.getLast?.map (fun q => (q.1, q.2.kind, q.2.cause, q.2.addr)) = some (e.die, 3, 0x21, va)) ∧
        ∀ r, e.read = some r →
          let damaged : Prop := r.bad = true ∧ x.seq = r.seq ∧ x.lblk = r.lblk ∧ x.crc = r.crc ∧ x.state = 1 ∧ x.pend = false
          ∃ t m, exec (.ramblerCheck die) s = .next t ∧ t = { m with enrolled := turn } ∧ (¬ damaged → m = s) ∧
            (damaged → Writes s m x.pa (leBytes 32 (putBits x.n 97 96 2)))

/-! ### Firmware -/

/-- R178, R179, R186, R30, R167, R168, R171, R180, R181, R323: the doorbell, the checks that every command passes, and the
commands launch, budget, query, invalidate, fault and preempt.  The operands that stand for ARGS, the statuses 3 and 5 and the
order of the checks are the model's (log 11, 27); so are the amounts by which a lower budget cuts caps and clocks, which are free
(log 9), the packets that an invalidation drops (log 12), and waiting until the columns serve a launch record (log 89). -/
def Obligations.HostCommands : Prop :=
  ∀ (s : State) (q : Nat) (x : Tenant), s.tenant q = some x → MemOk s →
  let fails := fun (i : Instr) (status : Nat) => Gives i s fun t => Completes s t q status x
  let waits := fun (i : Instr) (m : State) (w : CmdWait) =>
    exec i s = .next { m with tenants := mset m.tenants q { x with cmdWait := some w } }
  (∀ tail, exec (.doorbellWrite q tail) s = .next { s with tenants := mset s.tenants q { x with cmdTail := tail } }) ∧
  (∀ i op hv, IsCommand q i op hv → AtHead s q op x →
    (s.ready = false → fails i 6) ∧ (s.ready = true → hv = true → x.cfg.hv = false → fails i 2) ∧
    (s.ready = true → (hv = true → x.cfg.hv = true) → s.num x.cmdKey 4 / 256 ≠ 0 → fails i 3)) ∧
  (Begins s q 0x01 false x → ∀ addr, let i := Instr.launchCommand q addr
    (s.hostServed q addr = false → exec i s = .next s) ∧ (addr % 8 ≠ 0 → fails i 4) ∧
    (addr % 8 = 0 → s.hostServed q addr = true → NetMark.outside ∉ s.netBad → s.tablesBad q addr 64 = false →
      s.readTables q addr 64 = none → fails i 4) ∧
    ∀ bs, addr % 8 = 0 → s.hostServed q addr = true → NetMark.outside ∉ s.netBad → s.readTables q addr 64 = some bs →
      let rec_ := LaunchRec.ofNat (leNat bs)
      (s.recordBad rec_ q = none → s.checkLaunch rec_ q = none → fails i 4) ∧
      (∀ va, s.recordBad rec_ q = some va → s.dieRoom 0 = true → s.heldFaults = [] → Gives i s fun t => ∃ m e, Completes m t q 4 x ∧
        m = { s with dieQ := s.dieQ ++ [(0, e)], nextToken := s.nextToken + 1, columns := m.columns } ∧ e.kind = 3 ∧
        e.cause = 0x21 ∧ e.tenant = q ∧ e.addr = va) ∧
      ∀ l, s.recordBad rec_ q = none → s.checkLaunch rec_ q = some l → l.rec_.lo < l.rec_.hi → (∀ r ∈ s.ranges, r.a < r.b) →
        let r : Range := { cluster := s.leastPool q, launch := s.nextId, a := l.rec_.lo, b := l.rec_.hi, owner := none,
                           task := none }
        Gives i s fun t => Completes
          { s with nextId := s.nextId + 1, launches := mset s.launches s.nextId l, ranges := s.ranges ++ [r] } t q 0 x) ∧
  (Begins s q 0x02 true x → ∀ w, let i := Instr.budgetCommand q w
    (w < 1800 ∨ 3000 < w → fails i 3) ∧
    (1800 ≤ w → w ≤ 3000 →
      (s.budget < w → Gives i s fun t => Completes { s with budget := w } t q 0 x) ∧
      (w = s.budget → waits i s .budget) ∧
      (w < s.budget → ∃ m, waits i m .budget ∧ m = { s with budget := w, columns := m.columns, islands := m.islands } ∧
        (∀ k, k < 768 → m.column k = { s.column k with capb := (s.column k).capb - Config.capCut w k }) ∧
        ∀ k, k < 128 → (s.island k).mhz ≤ islandTop k → (m.island k).mhz = (s.island k).mhz - Config.clockCut w k))) ∧
  (∀ draw, let i := Instr.budgetCommandComplete draw
    (s.budget < draw → (∃ y ∈ s.tenants, y.2.cmdWait = some .budget) → exec i s = .next { s with draw := draw }) ∧
    (s.budget < draw → (∀ y ∈ s.tenants, y.2.cmdWait ≠ some .budget) → exec i s = .next s) ∧
    (draw ≤ s.budget → (∀ y ∈ s.tenants, y.2.cmdWait ≠ some .budget) → exec i s = .next { s with draw := draw }) ∧
    (draw ≤ s.budget → risingFrom 0 s.tenants = true → x.cmdWait = some .budget →
      (∀ k y, s.tenant k = some y → y.cmdWait = some .budget → k = q) →
      Gives i s fun t => Completes { s with draw := draw } t q 0 x)) ∧
  (Begins s q 0x07 false x →
    let dest := s.num (x.cmdKey + 16) 8
    let clear := s.num (x.cmdKey + 9) 7 = 0 ∧ s.num (x.cmdKey + 24) 32 = 0 ∧ dest % 64 = 0
    let answers := fun (i : Instr) (item : Nat) (bs : List Byte) => s.num (x.cmdKey + 8) 1 = item →
      (¬ clear → fails i 3) ∧
      (clear → Gives i s fun t => ∃ m, Writes s m (Config.hostBase + dest) bs ∧ Completes m t q 0 x)
    let per := fun (n : Nat) (f : Nat → Nat) =>
      (List.range 768).flatMap fun c => leBytes n (if x.cfg.hv = true ∨ c / 24 ∈ x.cfg.clusters then f c else 0)
    let lit := fun c => ((List.range 64).filter fun b => (s.core c).lit.getLsbD b).length
    let big := fun (n : Nat) => min n 0xFFFFFFFF
    answers (.queryBudget q) 0 (leBytes 2 s.budget ++ leBytes 2 s.draw ++ List.replicate 12 0) ∧
    answers (.queryCapacity q) 1 (per 4 fun c =>
      if (s.core c).chosen = [] then lit c + lit c * 2 ^ 8
      else lit c + (lit c - (s.core c).chosen.length) * 2 ^ 8 + 2 ^ 15 + min 255 (((s.core c).due - s.stime) / 1024) * 2 ^ 16) ∧
    answers (.queryTemperatures q) 2 (per 8 fun c => (s.column c).thermal) ∧
    answers (.queryBankMaps q) 3 (per 4 fun c =>
      (s.column c).live.toNat + ((List.range 24).filter fun b => (s.column c).live.getLsbD b).length * 2 ^ 24) ∧
    answers (.queryCounters q) 4 (per 16 fun c => let y := s.column c
      big y.corrected + big y.uncorrectable * 2 ^ 32 + big y.closes * 2 ^ 64 + big y.activations * 2 ^ 96)) ∧
  (Begins s q 0x0A false x → ∀ lo hi,
    let drop := fun (gone : TlbEntry → Bool) =>
      { s with cores := s.cores.map fun p => (p.1, { p.2 with
          tlb := p.2.tlb.filter fun e => !gone e
          icache := p.2.icache.filter fun y => decide ((mget s.launches y.1).map (·.rec_.tenant) ≠ some q) }) }
    (∃ ids rows, waits (.invalidateRange q lo hi)
        (drop fun e => decide (e.tenant = q ∧ e.va < hi ∧ lo < e.va + e.size)) (.drain q ids rows) ∧
      (∀ a ∈ s.accesses, a.tenant = q → (∃ l ∈ a.lanes, l.va < hi ∧ lo < l.va + a.kind.width l) → a.id ∈ ids) ∧
      ∀ (k i : Nat) (g : Group) (r : RowSlot), s.group k = some g → g.rec_.tenant = q → g.rows[i]? = some r →
        (r.state = .queued ∨ r.state = .activating) → r.va < hi → lo < r.va + 4096 → (k, i) ∈ rows) ∧
    ∃ ids rows, waits (.invalidateAll q) (drop fun e => decide (e.tenant = q)) (.drain q ids rows) ∧
      ∀ a ∈ s.accesses, a.tenant = q → a.lanes ≠ [] → a.id ∈ ids) ∧
  (Begins s q 0x0B false x → ∀ token,
    (s.faultedThreads q token = [] → s.answerCommand q token false = none → fails (.faultReplay q token) 3) ∧
    (s.faultedThreads q token = [] → s.answerCommand q token true = none → fails (.faultAbort q token) 3) ∧
    (∀ c, s.faultedThreads q token = [] →
      s.copies.find? (fun c => decide (c.tenant = q) && decide (c.paused = some token)) = some c →
      (Gives (.faultReplay q token) s fun t => Completes
        { s with copies := s.copies.map fun y => if y.id = c.id then { y with paused := none } else y } t q 0 x) ∧
      Gives (.faultAbort q token) s fun t => ∃ m, Completes m t q 0 x ∧
        m.copies = s.copies.filter (fun y => decide (y.id ≠ c.id)) ∧ ∀ u, s.thread c.guid c.tid = some u →
          m.thread c.guid c.tid = some (u.meet c.batch (max c.outcome 4) c.flags)) ∧
    (s.faultedThreads q token ≠ [] → (s.faultedThreads q token).Pairwise (fun a b => (a.1, a.2.1) ≠ (b.1, b.2.1)) →
      (∀ w ∈ s.faultedThreads q token, (s.group w.1).isSome = true) →
      let answers := fun (i : Instr) (v : Thread → Point → Nat → Nat → Thread → Prop) => Gives i s fun t => ∃ m,
        Completes m t q 0 x ∧
        (∀ guid tid p va access u, (guid, tid, p, va, access) ∈ s.faultedThreads q token → s.thread guid tid = some u →
          ∃ u', m.thread guid tid = some u' ∧ v u p va access u') ∧
        ∀ k j, (∀ w ∈ s.faultedThreads q token, (k, j) ≠ (w.1, w.2.1)) → m.thread k j = s.thread k j
      let back := fun (u : Thread) (p : Point) =>
        { u with run := .runnable, point := u.standing p, word := p.word, arrival := s.stime }
      answers (.faultReplay q token) (fun u p _ _ u' => (u.later = [] → u' = back u p) ∧
        ∀ w i ws a b y, u.later = (w, i) :: ws → (∀ home h op k, w ≠ .hSend home h op k) → u.run = .parked y a b →
          u' = { u with run := .parked w a b, parkWord := i, later := ws }) ∧
      answers (.faultAbort q token) (fun u p va access u' =>
        u' = { back u p with later := [], due := some ⟨0x20, BitVec.ofNat 64 va, 0, access, some u.parkWord⟩ }))) ∧
  (Begins s q 0x0C false x → ∀ guid, let i := Instr.preemptCommand q guid
    (s.group guid = none → fails i 3) ∧
    ∀ g, s.group guid = some g →
      (g.rec_.tenant ≠ q → fails i 2) ∧
      (g.rec_.tenant = q → x.cfg.saveBytes < x.saveUsed + s.gangSize guid → fails i 5) ∧
      (g.rec_.tenant = q → x.saveUsed + s.gangSize guid ≤ x.cfg.saveBytes →
        waits i { s with groups := s.groups.map fun p =>
          (p.1, if p.1 = guid ∨ sameGang g p.2 = true then { p.2 with stopping := true } else p.2) } (.preempt guid)))

/-- R88, R89, R101, R102, R179, R180: the commands of the hypervisor: tenants, stage-2 entries, zero-fills, keys and
remapping, and what completes them.  The model's own: the settings that a tenant command accepts, the status 3, and the commands that
wait for another queue's (log 27); status 3 for a gpa of 2^48 or above (log 88); the zero command's statuses and its entry's bits
(log 29); rereading under a new key by the cipher, which is presumed (log 86), the key slot of a tenant (log 105), and two retirements
pending on a column (log 107). -/
def Obligations.HypervisorCommands : Prop :=
  ∀ (s : State) (q : Nat) (x : Tenant), s.tenant q = some x → MemOk s →
  let fails := fun (i : Instr) (status : Nat) => Gives i s fun t => Completes s t q status x
  let busy := fun (id : Nat) => ∃ y ∈ s.tenants, y.1 ≠ q ∧
    ((∃ ids rows, y.2.cmdWait = some (.drain id ids rows)) ∨ ∃ gpa e, y.2.cmdWait = some (.zero id gpa e))
  (∀ id, busy id → ∀ cfg gpa e key lo hi,
    ∀ i ∈ [Instr.tenantCreate q id cfg, .tenantChange q id cfg, .tenantDisable q id, .mapCommand q id gpa e,
      .zeroCommand q id gpa e, .keyCommand q id key lo hi], (∃ op, Begins s q op true x ∧ IsCommand q i op true) →
      exec i s = .next s) ∧
  (Begins s q 0x03 true x → ∀ (id : Nat) (cfg : TenantCfg), ¬ busy id →
    let starts := fun (i : Instr) (y : State → Tenant) => Gives i s fun t => ∃ m n, Completes s m q 0 x ∧
      Writes m n (Config.hostBase + cfg.fqCtl) (List.replicate 16 0) ∧ t = { n with tenants := mset n.tenants id (y n) }
    (16 ≤ id ∨ (s.tenant id).isSome = true ∨ cfgOk cfg = false → fails (.tenantCreate q id cfg) 3) ∧
    (id < 16 → s.tenant id = none → cfgOk cfg = true → starts (.tenantCreate q id cfg) fun _ =>
      { cfg := cfg, cmdHead := 0, cmdTail := 0, cmdWait := none, fqTail := 0, saveUsed := 0, launchQ := [], drops := 0,
        stage2 := [] }) ∧
    let moves := fun (z : Tenant) => id ≠ q ∧ z.cmdWait.isSome = true ∧ ¬ (z.cfg.cmdBase = cfg.cmdBase ∧ z.cfg.cmdLog = cfg.cmdLog)
    (∀ z, s.tenant id = some z → moves z → exec (.tenantChange q id cfg) s = .next s) ∧
    (s.tenant id = none → fails (.tenantChange q id cfg) 3) ∧
    (∀ z, s.tenant id = some z → ¬ moves z → cfgOk cfg = false → fails (.tenantChange q id cfg) 3) ∧
    (∀ z, s.tenant id = some z → ¬ moves z → cfgOk cfg = true → starts (.tenantChange q id cfg) fun n =>
      let y := (n.tenant id).getD z
      let same : Prop := z.cfg.cmdBase = cfg.cmdBase ∧ z.cfg.cmdLog = cfg.cmdLog
      { y with cfg := cfg, fqTail := 0, cmdHead := if same then y.cmdHead else 0, cmdTail := if same then y.cmdTail else 0 }) ∧
    (s.tenant id = none → fails (.tenantDisable q id) 3) ∧
    (∀ z, s.tenant id = some z → id ≠ q → z.cmdWait.isSome = true → exec (.tenantDisable q id) s = .next s) ∧
    (∀ z, s.tenant id = some z → (id ≠ q → z.cmdWait = none) → Gives (.tenantDisable q id) s fun t => ∃ m, Completes s m q 0 x ∧
      t = { m with tenants := mdel m.tenants id, enrolled := s.enrolled.filter fun e => decide (e.tenant ≠ id) })) ∧
  (∀ (id gpa : Nat) (entry : Dword), ¬ busy id → s.tenant id = none ∨ 2 ^ 48 ≤ gpa →
    (Begins s q 0x04 true x → fails (.mapCommand q id gpa entry) 3) ∧
    (Begins s q 0x05 true x → fails (.zeroCommand q id gpa entry) 3)) ∧
  (∀ (id gpa : Nat) (entry : Dword) (z : Tenant), s.tenant id = some z → gpa < 2 ^ 48 → ¬ busy id →
    risingFrom 0 z.stage2 = true →
    let e := entry.toNat
    let p := e / 2 ^ 21 % 2 ^ 27
    let refused : Prop := e / 2 ^ 48 ≠ 0 ∨ e / 2 ^ 4 % 2 ^ 17 ≠ 0 ∨
      (e % 2 = 1 ∧ (e / 8 % 2 = 1 ∨ 294912 ≤ p ∨
        16 * ((List.range 24).filter fun b => (s.column (p / 384)).live.getLsbD b).length ≤ p % 384 ∨
        mget s.frameKey p ≠ some id))
    let old := (mget z.stage2 (gpa / 2 ^ 21)).getD 0
    let sets := fun (t : State) (v : Dword) => t.mem = s.mem ∧
      (∃ y, t.tenant id = some y ∧ (mget y.stage2 (gpa / 2 ^ 21)).getD 0 = v ∧
        ∀ k, k ≠ gpa / 2 ^ 21 → mget y.stage2 k = mget z.stage2 k) ∧
      (v ≠ old → ∀ c ∈ t.cores, ∀ b ∈ c.2.tlb, ¬ (b.tenant = id ∧ b.peer = false ∧ b.gpa / 2 ^ 21 = gpa / 2 ^ 21))
    (Begins s q 0x04 true x →
      (refused → fails (.mapCommand q id gpa entry) 4) ∧
      (¬ refused → Gives (.mapCommand q id gpa entry) s fun t => sets t entry ∧ ∃ ids rows,
        (t.tenant q).bind (·.cmdWait) = some (.drain id ids rows) ∧
        (∀ a ∈ s.accesses, a.tenant = id → (∃ l ∈ a.lanes, l.pa / 2 ^ 21 = old.toNat / 2 ^ 21 % 2 ^ 27) → a.id ∈ ids) ∧
        ∀ (k i : Nat) (g : Group) (r : RowSlot), t.group k = some g → g.rec_.tenant = id → g.rows[i]? = some r →
          (r.state = .queued ∨ r.state = .activating) → r.pa / 2 ^ 21 = old.toNat / 2 ^ 21 % 2 ^ 27 → (k, i) ∈ rows)) ∧
    (Begins s q 0x05 true x →
      (e % 2 = 0 → fails (.zeroCommand q id gpa entry) 3) ∧
      (e % 2 = 1 → refused → fails (.zeroCommand q id gpa entry) 4) ∧
      (e % 2 = 1 → ¬ refused → Gives (.zeroCommand q id gpa entry) s fun t => (∃ v, sets t v ∧
          v.getLsbD 0 = false ∧ v.getLsbD 3 = true ∧ ∀ j, j ≠ 0 → j ≠ 3 → v.getLsbD j = entry.getLsbD j) ∧
        (t.tenant q).bind (·.cmdWait) = some (.zero id gpa entry))) ∧
    (x.cmdWait = some (.zero id gpa entry) → e % 2 = 1 → Gives (.zeroFillComplete q) s fun t => ∃ m y,
      m.tenant q = some y ∧ y.cmdKey = x.cmdKey ∧ Completes m t q 0 y ∧
      (∀ k, m.byte k = if k / 2 ^ 21 = p then 0 else s.byte k) ∧
      (m.tenant id).bind (fun y => mget y.stage2 (gpa / 2 ^ 21)) = some entry)) ∧
  (∀ id ids rows, x.cmdWait = some (.drain id ids rows) →
    let opens := fun (p : Nat × Nat) => ∃ g r, s.group p.1 = some g ∧ g.rows[p.2]? = some r ∧ (r.state = .queued ∨ r.state = .activating)
    ((∃ a ∈ s.accesses, a.id ∈ ids) ∨ (∃ p ∈ rows, opens p) → exec (.translationDrainComplete q) s = .next s) ∧
    ((∀ p ∈ rows, ¬ opens p) → (∀ i ∈ ids, (∀ a ∈ s.accesses, a.id ≠ i) ∧ (∀ a ∈ s.engs, a.id ≠ i) ∧ (∀ a ∈ s.kvs, a.id ≠ i) ∧
      ∀ a ∈ s.takes, a.id ≠ i) → fails (.translationDrainComplete q) 0)) ∧
  (Begins s q 0x06 true x → ∀ (slot : Nat) (key : BitVec 512) (lo hi : Nat), let i := Instr.keyCommand q slot key lo hi
    (¬ busy slot → 32 ≤ slot ∨ hi < lo ∨ 294912 < hi → fails i 3) ∧
    (¬ busy slot → slot < 32 → lo ≤ hi → hi ≤ 294912 → risingFrom 0 s.frameKey = true → Gives i s fun t => ∃ m,
      Completes m t q 0 x ∧ m.keys = mset s.keys slot key ∧
      (∀ p, mget m.frameKey p = if lo ≤ p ∧ p < hi then some slot else mget s.frameKey p) ∧
      ∀ p, let old := s.framePair p; let new := m.framePair p
        (old = new → ∀ k, k / 2 ^ 21 = p → m.byte k = s.byte k) ∧
        (old ≠ new → mget s.noisy p = none → ∀ k j, k % 16 = 0 → k / 2 ^ 21 = p → j < 16 →
          ((reread old new k (s.bytes k 16))[j]?).getD (m.byte (k + j)) = m.byte (k + j)))) ∧
  (Begins s q 0x09 true x → risingFrom 0 s.groups = true → ∀ col bank, let c := s.column col
    let moves := fun (i : Instr) (op : RemapOp) => Gives i s fun t => (t.column col).remap = some (op, q) ∧
      t.tenant q = some { x with cmdWait := some (.remap col) } ∧ t.mem = s.mem ∧
      ∀ (k j : Nat) (g : Group) (r : RowSlot), s.group k = some g → g.core = col → g.rows[j]? = some r →
        (t.group k).bind (fun y => y.rows[j]?) =
          some (if r.state = .activating ∨ r.state = .opened then { r with state := .closed, reason := 5 } else r)
    let named : Prop := ∃ y ∈ s.tenants, ∃ e ∈ y.2.stage2, (e.2.getLsbD 0 = true ∨ e.2.getLsbD 3 = true ∧
        ∃ w ∈ s.tenants, ∃ gpa v, w.2.cmdWait = some (.zero y.1 gpa v) ∧ gpa / 2 ^ 21 = e.1) ∧
      let f := e.2.toNat / 2 ^ 21 % 2 ^ 27
      let lo := col * 384 + (16 * ((List.range 24).filter fun b => c.live.getLsbD b).length - 16)
      lo ≤ f ∧ f < lo + 16
    (768 ≤ col ∨ (∀ p ∈ c.pending, p.1 ≠ bank) → fails (.remapCompleteRetirement q col bank) 3) ∧
    (col < 768 → (∃ p ∈ c.pending, p.1 = bank) → c.remap = none →
      (named → fails (.remapCompleteRetirement q col bank) 4) ∧
      (¬ named → moves (.remapCompleteRetirement q col bank) (.retire bank))) ∧
    (col < 768 → c.remap.isSome = true →
      ((∃ p ∈ c.pending, p.1 = bank) → exec (.remapCompleteRetirement q col bank) s = .next s) ∧
      (bank ∈ c.temporary → exec (.remapReadmit q col bank) s = .next s)) ∧
    (768 ≤ col ∨ bank ∉ c.temporary → fails (.remapReadmit q col bank) 3) ∧
    (col < 768 → bank ∈ c.temporary → c.remap = none → ∀ d, c.temps[bank / 2]? = some d →
      (92 < d → fails (.remapReadmit q col bank) 4) ∧ (d ≤ 92 → moves (.remapReadmit q col bank) (.readmit bank)))) ∧
  ∀ col op, (s.column col).remap = some (op, q) → Gives (.remappingStepComplete col) s fun t => ∃ m,
    Completes m t q 0 x ∧ (m.column col).remap = none ∧ (∀ k, k ≠ col → m.column k = s.column k) ∧
    let c := s.column col
    let first := col * 384 + 16 * ((List.range 24).filter fun b => c.live.getLsbD b).length
    ∀ bank, bank < 24 →
      (op = .retire bank → (∀ b, b < 24 → (m.column col).live.getLsbD b = (c.live.getLsbD b && decide (b ≠ bank))) ∧
        (∀ p ∈ (m.column col).pending, p.1 ≠ bank) ∧ (∀ k, m.byte k = s.byte k) ∧
        ((bank, true) ∈ c.pending → bank ∈ (m.column col).temporary)) ∧
      (op = .readmit bank → (∀ b, b < 24 → (m.column col).live.getLsbD b = (c.live.getLsbD b || decide (b = bank))) ∧
        bank ∉ (m.column col).temporary ∧
        ∀ k, (k / 2 ^ 21 < first ∨ first + 16 ≤ k / 2 ^ 21) → m.byte k = s.byte k)

/-- R175, R176, R171, R191: the debug command: halting, resuming, reading and writing context, a thread's state and point and an empty
region table entry among it, one packet of a slot, one packet of one thread, which waits for what any issue waits for and whose command
completes once that packet has been issued.  Its statuses and the layout of its items are the model's (log 25), and so is what writing
Parked does to a thread that waits for nothing (log 110) and that a step waits for a walk of its fetch (log 48, 108). -/
def Obligations.DebugCommands : Prop :=
  (∀ (s : State) (q : Nat) (x : Tenant) (guid : Nat) (k : Option Nat), s.tenant q = some x → MemOk s →
    x.cmdWait = some (.step guid k true) → s.idle guid = true → Completes s (s.pollStep q) q 0 x) ∧
  ∀ (s : State) (q : Nat) (x : Tenant) (guid tid : Nat) (item : CtxItem) (v : Dword), Begins s q 0x08 false x → MemOk s →
  let fails := fun (i : Instr) (status : Nat) => Gives i s fun t => Completes s t q status x
  let ends := fun (i : Instr) (y : Group) => Gives i s fun t => ∃ m, OneGroup s m guid y ∧ Completes m t q 0 x
  let others := [Instr.debugSingleStep q guid, .debugThreadStep q guid tid, .debugResume q guid,
    .debugReadContext q guid tid item, .debugWriteContext q guid tid item v]
  (s.group guid = none → ∀ i ∈ Instr.debugHalt q guid :: others, fails i 3) ∧
  ∀ g, s.group guid = some g →
    (g.rec_.tenant ≠ q → ∀ i ∈ Instr.debugHalt q guid :: others, fails i 2) ∧
    (g.rec_.tenant = q →
      let since := g.threads.map fun u => { u with lastIssue := s.stime - u.lastIssue }
      let halted := { g with underDebug := true, halted := true, threads := if g.halted then g.threads else since }
      (s.idle guid = true → ends (.debugHalt q guid) halted) ∧
      (s.idle guid = false → Gives (.debugHalt q guid) s fun t => OneGroup s t guid halted) ∧
      (¬ (g.underDebug = true ∧ g.halted = true) → ∀ i ∈ others, fails i 3) ∧
      (g.underDebug = true → g.halted = true → s.idle guid = false → ∀ i ∈ others, exec i s = .next s) ∧
      (g.underDebug = true → g.halted = true → s.idle guid = true →
        ends (.debugResume q guid) { g with halted := false, threads := since } ∧
        (g.readItem tid item = none →
          fails (.debugReadContext q guid tid item) 3 ∧ fails (.debugWriteContext q guid tid item v) 3) ∧
        (∀ w, g.readItem tid item = some w → Gives (.debugReadContext q guid tid item) s fun t =>
          Completes { s with debugOut := s.debugOut ++ [(q, w)] } t q 0 x) ∧
        (∀ n, item = .s n → n < g.sregs.length →
          ends (.debugWriteContext q guid tid item v) { g with sregs := g.sregs.set n v }) ∧
        (∀ u, g.thread tid = some u →
          let reads := fun (it : CtxItem) (w : Dword) => g.readItem tid it = some w
          let writes := fun (u' : Thread) => Gives (.debugWriteContext q guid tid item v) s fun t => ∃ m y,
            OneGroup s m guid y ∧ Completes m t q 0 x ∧ y.thread tid = some u' ∧ (∀ j, j ≠ tid → y.thread j = g.thread j)
          (∀ n w, u.regs[n]? = some w → reads (.v n) (w.setWidth 64)) ∧
          (∀ n w, u.preds[n]? = some w → reads (.p n) (if w then 1 else 0)) ∧
          (∀ n w, u.handles[n]? = some w → reads (.h n) (w.setWidth 64)) ∧ reads .point (epcOf u.point) ∧
          reads .fpmode (u.fpmode.setWidth 64) ∧ reads .nflags (u.nflags.setWidth 64) ∧ reads .batchCounter (u.batch.setWidth 64) ∧ reads .depth (BitVec.ofNat 64 u.traps.length) ∧
          (∀ n l, u.traps[n]? = some l → reads (.epc n) l.epc ∧ reads (.tval n) l.tval ∧ reads (.tmask n) (l.tmask.setWidth 64)) ∧
          (∀ n w, g.sregs[n]? = some w → reads (.s n) w) ∧ (∀ n r, g.rows[n]? = some r → reads (.rowSlot n) (BitVec.ofNat 64 r.va)) ∧
          (∀ n r, g.regions[n]? = some (some r) →
            reads (.regionRange n) (BitVec.ofNat 64 (r.base % 2 ^ 32 + r.size % 2 ^ 32 * 2 ^ 32)) ∧
            reads (.regionClaim n) (BitVec.ofNat 64 ((r.claim.map (· + 1)).getD 0)) ∧
            (item = .regionClaim n → 
              let r1 : Region := { r with claim := if v.toNat = 0 then none else some (v.toNat - 1) }
              ends (.debugWriteContext q guid tid item v) { g with regions := g.regions.set n (some r1) })) ∧
          (∀ n, g.regions[n]? = some none → reads (.regionRange n) 0 ∧ (item = .regionRange n → v.toNat / 2 ^ 32 ≠ 0 → ∃ r : Region,
            r.base = v.toNat % 2 ^ 32 ∧ r.size = v.toNat / 2 ^ 32 ∧ r.lost = false ∧ r.claim = none ∧
            ends (.debugWriteContext q guid tid item v) { g with regions := g.regions.set n (some r) })) ∧
          (∀ n, n < g.regions.length → item = .regionRange n → v.toNat / 2 ^ 32 = 0 →
            ends (.debugWriteContext q guid tid item v) { g with regions := g.regions.set n none }) ∧
          (∀ n, item = .v n → n < u.regs.length → writes { u with regs := u.regs.set n (v.setWidth 32) }) ∧
          (∀ n, item = .p n → n < u.preds.length → writes { u with preds := u.preds.set n (v.getLsbD 0) }) ∧
          (∀ n, item = .h n → n < u.handles.length → writes { u with handles := u.handles.set n (v.setWidth 32) }) ∧
          (item = .fpmode → writes { u with fpmode := v.setWidth 2 }) ∧ (item = .nflags → writes { u with nflags := v.setWidth 7 }) ∧
          (item = .batchCounter → writes { u with batch := v.setWidth 32 }) ∧
          (item = .runState → 4 < v.toNat → fails (.debugWriteContext q guid tid item v) 3) ∧
          (item = .runState →
            let same := Gives (.debugWriteContext q guid tid item v) s fun t => Completes s t q 0 x
            let stands : Prop := writes { u with run := .runnable, point := u.here, arrival := s.stime }
            let parked : Prop := ∃ w a b, u.run = .parked w a b
            let leaves := fun (f : State → State) =>
              exec (.debugWriteContext q guid tid item v) s = .next ((f (s.exitNow guid tid)).complete q 0)
            (v = 0 → (u.run = .runnable → same) ∧ (u.run ≠ .runnable → stands)) ∧
            (v = 1 → (parked → same) ∧ (¬ parked → stands)) ∧
            (v = 2 → writes { u with run := .gathering, quad :=
              ((s.peek g u.point.pc).bind fun bs => gatherKind g.nregs bs u.word).getD false }) ∧
            (v = 3 → (u.run = .exited → same) ∧ (u.run = .retired → writes { u with run := .exited }) ∧
              (u.live = true → leaves id)) ∧
            (v = 4 → (u.run = .retired → same) ∧ (u.run = .exited → writes { u with run := .retired }) ∧
              (u.live = true → leaves fun m => m.onThread guid tid fun u => { u with run := .retired }))) ∧
          (item = .depth → 4 < v.toNat → fails (.debugWriteContext q guid tid item v) 3) ∧
          (item = .point → v.toNat / 2 ^ 54 % 4 = 3 → fails (.debugWriteContext q guid tid item v) 3) ∧
          (item = .point → v.toNat / 2 ^ 54 % 4 ≠ 3 →
            let p : Point := { prio := BitVec.ofNat 8 (v.toNat / 2 ^ 56), pc := v.toNat % 2 ^ 54, word := v.toNat / 2 ^ 54 % 4 }
            (u.run = .runnable ∨ u.run = .gathering →
              writes { u with run := .runnable, point := p, word := p.word, arrival := s.stime }) ∧
            (∀ w a b, u.run = .parked w a b → writes { u with run := .parked w p p, point := p, word := p.word }) ∧
            (u.live = false → writes { u with point := p, word := p.word }))) ∧
        let stepping := fun (m : State) (k : Option Nat) (begun : Bool) =>
          { m with tenants := mset s.tenants q { x with cmdWait := some (.step guid k begun) } }
        (g.stopping = true ∨ (∃ w ∈ s.walks, w.guid = guid) →
          exec (.debugSingleStep q guid) s = .next (stepping s none false) ∧
          exec (.debugThreadStep q guid tid) s = .next (stepping s (some tid) false)) ∧
        (g.stopping = false → (∀ w ∈ s.walks, w.guid ≠ guid) →
          (g.thread tid = none → fails (.debugThreadStep q guid tid) 3) ∧
          (∀ u, g.thread tid = some u →
            (s.steppable g u = false → fails (.debugThreadStep q guid tid) 4) ∧
            let b : Bundle := { slot := g.slotOf tid, tids := [tid], collective := false }
            (s.steppable g u = true → s.slotOpen g.core (g.slotOf tid) = false ∨ s.bundleReady guid g b = false →
              exec (.debugThreadStep q guid tid) s = .next (stepping s (some tid) false)) ∧
            (∀ va, s.steppable g u = true → s.slotOpen g.core (g.slotOf tid) = true → s.bundleReady guid g b = true →
              s.fetchFor g u.here = .miss va →
              exec (.debugThreadStep q guid tid) s = .next { stepping s (some tid) false with
                nextId := s.nextId + 1, walks := s.walks ++ [⟨s.nextId, g.core, guid, tid, g.rec_.tenant, va, 2, u.here, [tid]⟩] }) ∧
            ∀ bs, s.steppable g u = true → u.due = none → s.fetchFor g u.here = .ok bs → s.bundleReady guid g b = true →
              s.slotOpen g.core (g.slotOf tid) = true → Gives (.debugThreadStep q guid tid) s fun t => ∃ c y,
                t.tenant q = some { x with cmdWait := some (.step guid (some tid) true) } ∧ t.mem = s.mem ∧ t.cur = some c ∧
                c.guid = guid ∧ c.active = [tid] ∧ c.pc = u.point.pc ∧ c.first = u.word ∧ c.bytes = bs ∧
                t.group guid = some y ∧ y.entries = g.entries ∧ y.threads = g.threads) ∧
          let h := s.gatherGroup g
          let s1 := s.setGroup guid h
          ((∀ i, i < 4 → s1.eligible guid h i = []) → Gives (.debugSingleStep q guid) s fun t => ∃ m,
            OneGroup s m guid h ∧ Completes m t q 4 x) ∧
          ∀ i e b p, i < 4 → (∀ j, j < i → s1.eligible guid h j = []) → chooseEntry i (s1.eligible guid h i) = some e →
            s1.chooseBundle guid h i e = some b → h.bundleHere b = some p →
            (s1.slotOpen h.core i = false → exec (.debugSingleStep q guid) s = .next (stepping s1 none false)) ∧
            (∀ va, s1.slotOpen h.core i = true → s1.fetchFor h p = .miss va →
              exec (.debugSingleStep q guid) s = .next ((stepping s1 none false).fetchWalks guid h b.tids va p)) ∧
            (s1.slotOpen h.core i = true → (∀ va, s1.fetchFor h p ≠ .miss va) → exec (.debugSingleStep q guid) s = .next
              (((stepping s1 none true).onGroup guid fun y => y.countIssue i e (s1.eligible guid h i)).begin guid b)))))

/-! ### The outside world -/

/-- R32, R88, R90, R101, R102, R103, R177, R182 to R186: bring-up; accesses of the host, of a peer and of RDMA, with what they
change, what they get back, what a failed one leaves, and when they wait; launch packets, flits and messages.  A port cuts a payload
into blocks of 256 bytes and sends each in its shortest encoding, which decodes to the block.  The model's are the addressing of
RDMA by tenant and guest-physical address (log 10), the die-0 queue (log 17), the entry of KIND 4 of a fabric packet (log 55), and
every such access waiting while any column is in a remapping step (log 89). -/
def Obligations.OutsideAccesses : Prop :=
  (∀ (s : State) (lit : Nat) (failed : List (Nat × Nat)), let i := Instr.powerOnReset lit failed
    (s.ready = true → exec i s = .next s) ∧
    (s.ready = false → Gives i s fun t => t.ready = true ∧ t.budget = 1800 ∧ t.keys = [] ∧ t.frameKey = [] ∧
      (∀ y ∈ t.tenants, y.2.stage2 = []) ∧ t.mem = s.mem ∧
      (∀ core b, core < 768 → b < 64 → (t.core core).lit.getLsbD b = decide (b < max 8 (min 64 lit))) ∧
      ∀ col b, col < 768 → b < 24 →
        (t.column col).live.getLsbD b = ((s.column col).live.getLsbD b && !decide ((col, b) ∈ failed)))) ∧
  (∀ (s : State) (tenant : Option Nat) (va : Nat) (bs : List Byte) (len : Nat), MemOk s →
    let w := Instr.hostAccess tenant va (some bs) len
    let r := Instr.hostAccess tenant va none len
    let q := tenant.getD 0
    let denied := fun (i : Instr) (access : Nat) (replies : List Reply) =>
      let entry := fun (e : FaultEntry) =>
        e.kind = 2 ∧ e.cause = 0x20 ∧ e.tenant = q ∧ e.access = access ∧ e.addr = va % 2 ^ 57 ∧ e.core = 1023
      (s.dieRoom 0 = true → (∀ h ∈ s.heldFaults, h.1 ≠ 0) → ∃ e, entry e ∧ exec i s = .next { s with
        dieQ := s.dieQ ++ [(0, e)], nextToken := s.nextToken + 1, replies := replies }) ∧
      (s.dieRoom 0 = false → ∃ e, entry e ∧ exec i s = .next { s with
        heldFaults := s.heldFaults ++ [(0, e)], replies := replies })
    let spoilt := fun (i : Instr) (access addr : Nat) (replies : List Reply) =>
      s.dieRoom 0 = true → (∀ h ∈ s.heldFaults, h.1 ≠ 0) → Gives i s fun t => ∃ e, t = { s with
        dieQ := s.dieQ ++ [(0, e)], nextToken := s.nextToken + 1, columns := t.columns, replies := replies,
        netBad := s.netBad.filter fun m => decide (m ≠ .outside) } ∧
        e.kind = 3 ∧ e.cause = 0x21 ∧ e.tenant = q ∧ e.access = access ∧ e.addr = addr
    ((∃ c ∈ s.columns, c.2.remap.isSome = true) → exec w s = .next s ∧ exec r s = .next s) ∧
    (s.hostReady tenant va (some bs) len = false → exec w s = .next s) ∧
    (s.hostReady tenant va none len = false → exec r s = .next s) ∧
    (s.hostReady tenant va (some bs) len = true →
      (s.tablePlaces q va bs.length 1 = none → s.tableError q va bs.length 1 = none → denied w 1 s.replies) ∧
      (∀ ps, s.tablePlaces q va bs.length 1 = some ps → NetMark.outside ∈ s.netBad → spoilt w 1 va s.replies) ∧
      (∀ pa, s.tablePlaces q va bs.length 1 = none → s.tableError q va bs.length 1 = some pa →
        spoilt w 1 (va % 2 ^ 57) s.replies) ∧
      ∀ ps, s.tablePlaces q va bs.length 1 = some ps → ps.Nodup → (∀ p ∈ ps, p < Config.peerBase) → s.badUnits = [] →
        NetMark.outside ∉ s.netBad →
        Gives w s fun t => t = { s with mem := t.mem } ∧ (∀ i p, ps[i]? = some p → t.byte p = bs.getD i 0) ∧
          ∀ k, k ∉ ps → t.byte k = s.byte k) ∧
    (s.hostReady tenant va none len = true →
      (s.tablePlaces q va len 0 = none → s.tableError q va len 0 = none → denied r 0 (s.replies ++ [⟨.host, none, []⟩])) ∧
      (∀ pa, s.tablePlaces q va len 0 = none → s.tableError q va len 0 = some pa →
        spoilt r 0 (va % 2 ^ 57) (s.replies ++ [⟨.host, none, []⟩])) ∧
      ∀ ps, s.tablePlaces q va len 0 = some ps →
        (NetMark.outside ∈ s.netBad ∨ (∃ p ∈ ps, s.badAt p 1 = true) → spoilt r 0 va (s.replies ++ [⟨.host, none, []⟩])) ∧
        ((∀ p ∈ ps, p < Config.peerBase) → s.badUnits = [] → NetMark.outside ∉ s.netBad →
          exec r s = .next { s with replies := s.replies ++ [⟨.host, some (ps.map s.byte), []⟩] }))) ∧
  (∀ (s : State) (tenant sender : Nat) (record : BitVec 512), let i := Instr.fabricLaunchPacket ⟨tenant, sender⟩ record
    let r := LaunchRec.ofNat record.toNat
    (s.tenant tenant = none → exec i s = .next s) ∧
    ∀ x, s.tenant tenant = some x →
      let permits : Prop := x.cfg.launchOn = true ∧ sender ∈ x.cfg.senders ∧ r.entry ∈ x.cfg.entries ∧ r.cls ≤ x.cfg.maxClass
      let dropped := { s with tenants := mset s.tenants tenant { x with drops := x.drops + 1 } }
      let entry := fun (e : FaultEntry) => e.kind = 4 ∧ e.tenant = tenant ∧ e.core = 1023
      (¬ permits → exec i s = .next dropped) ∧
      (permits → s.checkLaunch r tenant = none →
        (s.dieRoom 0 = true → (∀ h ∈ s.heldFaults, h.1 ≠ 0) → ∃ e, entry e ∧ exec i s = .next { dropped with
          dieQ := s.dieQ ++ [(0, e)], nextToken := s.nextToken + 1 }) ∧
        (s.dieRoom 0 = false → ∃ e, entry e ∧ exec i s = .next { dropped with heldFaults := s.heldFaults ++ [(0, e)] })) ∧
      ∀ l, permits → s.checkLaunch r tenant = some l → l.rec_.lo < l.rec_.hi → (∀ y ∈ s.ranges, y.a < y.b) →
        let y : Range := { cluster := s.leastPool tenant, launch := s.nextId, a := l.rec_.lo, b := l.rec_.hi, owner := none,
                           task := none }
        exec i s = .next
          { s with nextId := s.nextId + 1, launches := mset s.launches s.nextId l, ranges := s.ranges ++ [y] }) ∧
  (∀ (s : State) (tenant from_ gpa pa : Nat), MemOk s → s.badUnits = [] → NetMark.outside ∉ s.netBad → gpa < 2 ^ 39 →
    (∀ c ∈ s.columns, c.2.remap = none) →
    let within := fun (n : Nat) => 0 < n ∧ gpa / 2 ^ 21 = (gpa + n - 1) / 2 ^ 21
    let mapped := fun (read write : Bool) => ∃ rd wr, s.stage2 tenant gpa = .ok pa rd wr ∧ (read = true → rd = true) ∧
      (write = true → wr = true)
    let reach := fun (n : Nat) (read write : Bool) => mapped read write ∧ ∀ i, i < n → s.served (pa + i) = true
    let held := fun (n : Nat) (read write : Bool) => mapped read write ∧ ∃ i, i < n ∧ s.served (pa + i) = false
    let denied := fun (read write : Bool) => (∃ f, s.stage2 tenant gpa = .no f) ∨
      ∃ rd wr, s.stage2 tenant gpa = .ok pa rd wr ∧ (read = true ∧ rd = false ∨ write = true ∧ wr = false)
    let peer := fun (op : PeerOp) => Instr.fabricPeerAccess tenant from_ gpa op
    let tells := fun (m : State) (bs : Option (List Byte)) => { m with replies := s.replies ++ [⟨.peer from_, bs, wireOf (bs.getD [])⟩] }
    let changes := fun (op : PeerOp) (w v : Nat) => within w →
      (held w true true → exec (peer op) s = .next s) ∧
      (reach w true true → Gives (peer op) s fun t => ∃ m, Writes s m pa (leBytes w v) ∧ t = tells m (some (s.bytes pa w))) ∧
      (denied true true → exec (peer op) s = .next (tells s none))
    (∀ bs : List Byte, within bs.length →
      (held bs.length false true → exec (.rdmaWrite tenant gpa bs) s = .next s ∧ exec (peer (.write bs)) s = .next s) ∧
      (reach bs.length false true → (Gives (.rdmaWrite tenant gpa bs) s fun t => Writes s t pa bs) ∧
        Gives (peer (.write bs)) s fun t => ∃ m, Writes s m pa bs ∧ t = tells m (some [])) ∧
      (denied false true → exec (.rdmaWrite tenant gpa bs) s = .next s ∧ exec (peer (.write bs)) s = .next (tells s none))) ∧
    (∀ n, within n →
      (held n true false → exec (.rdmaRead tenant gpa n) s = .next s ∧ exec (peer (.read n)) s = .next s) ∧
      (reach n true false → exec (peer (.read n)) s = .next (tells s (some (s.bytes pa n))) ∧
        exec (.rdmaRead tenant gpa n) s = .next { s with replies := s.replies ++ [⟨.ethernet, some (s.bytes pa n), []⟩] }) ∧
      (denied true false → exec (peer (.read n)) s = .next (tells s none) ∧
        exec (.rdmaRead tenant gpa n) s = .next { s with replies := s.replies ++ [⟨.ethernet, none, []⟩] })) ∧
    (∀ v : Dword, changes (.add v) 8 (min (s.num pa 8 + v.toNat) (2 ^ 64 - 1))) ∧
    (∀ (w8 : Bool) (cmp new : Dword), let w := if w8 then 8 else 4
      changes (.cas w8 cmp new) w (if s.num pa w = cmp.toNat then new.toNat else s.num pa w)) ∧
    ∀ (opt : Nat) (v : Dword), changes (.atomic opt v) (optBytes opt) (atomFn opt (s.num pa (optBytes opt)) v.toNat)) ∧
  (∀ (s : State) (port left : Nat) (ok : Bool) (tag : Byte) (body block : List Byte),
    (36 ≤ port → exec (.flitReceive port ok tag ⟨body, left⟩) s = .next s) ∧
    (port < 36 → ok = false → exec (.flitReceive port ok tag ⟨body, left⟩) s = .next { s with resent := s.resent + 1 }) ∧
    (block.length = 256 → let e := sendBlock block
      (port < 36 → exec (.flitReceive port true (BitVec.ofNat 8 e.1) ⟨e.2, left⟩) s = .next
        { s with portIn := s.portIn ++ [(port, block.take left)] }) ∧
      (blockOf tag body = some block → e.2.length ≤ body.length ∧ (e.2.length = body.length → e.1 ≤ tag.toNat))) ∧
    (body.length = 4 → blockOf 2#8 body = some ((List.replicate 64 body).flatten)) ∧
    (∀ mask : List Byte, mask.length = 32 → blockOf 3#8 (mask ++ body) = some block → block.length = 256 ∧
      body = (block.zipIdx.filter fun p => (mask.getD (p.2 / 8) 0).getLsbD (p.2 % 8)).map (·.1) ∧
      ∀ i, i < 256 → (mask.getD (i / 8) 0).getLsbD (i % 8) = false → block.getD i 0 = 0) ∧
    (port < 36 → (tag.toNat < 4 → blockOf tag body = none) → exec (.flitReceive port true tag ⟨body, left⟩) s =
      .next { s with resent := s.resent + 1 })) ∧
  (∀ bs : List Byte, (payloadBlocks bs).flatten.take bs.length = bs ∧ (∀ b ∈ payloadBlocks bs, b.length = 256) ∧
    (wireOf bs).length = (bs.length + 255) / 256 ∧
    ∀ (i : Nat) (b : List Byte), (payloadBlocks bs)[i]? = some b → ∃ e, (wireOf bs)[i]? = some e ∧
      blockOf (e.headD 0) e.tail = some b) ∧
  ∀ (s : State) (port : Nat) (data : List Byte),
    (port < 4 → exec (.rdmaSend port data) s = .next { s with portIn := s.portIn ++ [(36 + port, data)] }) ∧
    (4 ≤ port → exec (.rdmaSend port data) s = .next s)

/-! ### The dispatcher and the issue slots -/

/-- R28 to R43, R88, R90, R103, R192, R260: what a launch record must satisfy; the launch queue and the task queues; the start of a
group, the request of a core, the start of a gang, migration, and pre-emption by class.  The model's are the choice among the ranges
that a core could run (log 54), one request of a core in a clock (log 84), the occupancy of a sender's slot and the order of ties
(log 92), which windows migration may clear (log 53), and waiting for the banks that a record lies in (log 89). -/
def Obligations.DispatcherActions : Prop :=
  (∀ (s : State) (r : LaunchRec) (tenant : Nat),
    (∃ l, s.checkLaunch r tenant = some l) ↔
      (r.reserved = false ∧ r.entry % 12 = 0 ∧ 1 ≤ r.threads ∧ r.threads ≤ 1024 ∧ 1 ≤ r.regs8 ∧ 1 ≤ r.gang ∧ r.gang ≤ 24 ∧
        r.rows ≤ 8 ∧ r.acc ≤ 8 ∧ r.nrgn ≤ 8 ∧ r.nuni ≤ 64 ∧ r.lo ≤ r.hi ∧ (r.gang = 1 ∨ (r.hi - r.lo) % r.gang = 0) ∧
        r.done % 8 = 0 ∧ r.tenant = tenant ∧ (s.readTables tenant r.uimg (8 * r.nuni)).isSome = true ∧
        ∃ bs, s.readTables tenant r.rgns (16 * r.nrgn) = some bs ∧ let es := numbersOf 16 r.nrgn bs
          (∀ e ∈ es, e % 2 ^ 32 ≠ 0 ∧ e % 2 ^ 12 = 0 ∧ e / 2 ^ 35 % 2 ^ 29 = 0 ∧ e / 2 ^ 121 % 2 ^ 7 = 0) ∧
          ((es.filter fun e => decide (e / 2 ^ 32 % 8 = 7)).map fun e => e % 2 ^ 32).sum ≤ 0x80000)) ∧
  (∀ (s : State) (tenant : Nat), (∃ c ∈ s.clustersOf tenant, c < 32) → let b := s.leastPool tenant
    b < 32 ∧ b ∈ s.clustersOf tenant ∧ ∀ c ∈ s.clustersOf tenant, c < 32 →
      s.poolSize b < s.poolSize c ∨ s.poolSize b = s.poolSize c ∧ b ≤ c) ∧
  (∀ (s : State) (tenant : Nat) (x : Tenant), s.tenant tenant = some x → let i := Instr.launchQueueAccept tenant
    (x.launchQ = [] → exec i s = .next s) ∧
    ∀ (d : QueuedLaunch) (ds : List QueuedLaunch), x.launchQ = d :: ds →
      let served := s.recordServed d.rec_ tenant && s.ackServed d.core tenant d.ack
      let bad := s.recordBad d.rec_ tenant
      (s.behind d.guid d.tid d.id = true ∨ served = false → exec i s = .next s) ∧
      (s.checkLaunch d.rec_ tenant = none ∨ bad.isSome = true → s.roomFor d.core = false → exec i s = .next s) ∧
      let left := { s with tenants := mset s.tenants tenant { x with launchQ := ds } }
      (∀ l, s.behind d.guid d.tid d.id = false → served = true → bad = none → s.checkLaunch d.rec_ tenant = some l → l.rec_.lo < l.rec_.hi →
        (∀ y ∈ s.ranges, y.a < y.b) →
        let y : Range := { cluster := d.core / 24, launch := s.nextId, a := l.rec_.lo, b := l.rec_.hi, owner := none,
                           task := none }
        let placed := { left with nextId := s.nextId + 1, launches := mset s.launches s.nextId l, ranges := s.ranges ++ [y] }
        (d.ack = none → exec i s = .next placed) ∧
        ∀ va pa, d.ack = some va → placed.xlateEng d.core tenant va 1 = .ok pa → pa < Config.peerBase → s.badUnits = [] →
          MemOk s → Gives i s fun t => t = { placed with mem := t.mem, clines := t.clines } ∧ ∀ k, t.byte k =
            if pa ≤ k ∧ k < pa + 8 then (leBytes 8 (min (s.num pa 8 + 1) (2 ^ 64 - 1))).getD (k - pa) 0 else s.byte k) ∧
      (s.behind d.guid d.tid d.id = false → served = true → d.ack = none → s.roomFor d.core = true →
        let from_ := fun (e : FaultEntry) => e.tenant = tenant ∧ e.core = d.core ∧ e.gid = BitVec.ofNat 32 d.gid ∧
          e.tid = BitVec.ofNat 32 d.tid
        (bad = none → s.checkLaunch d.rec_ tenant = none → Gives i s fun t => ∃ e : FaultEntry,
          t.dieQ = s.dieQ ++ [(dieOfEntry d.core, e)] ∧ e.kind = 4 ∧ from_ e ∧ e.addr = d.va ∧
          t = { left with dieQ := t.dieQ, nextToken := s.nextToken + 1 }) ∧
        ∀ va, bad = some va → Gives i s fun t => ∃ e x : FaultEntry, (∃ y, t.tenant tenant = some y ∧ y.launchQ = ds) ∧
          e.kind = 4 ∧ from_ e ∧ e.addr = d.va ∧ x.kind = 3 ∧ x.cause = 0x21 ∧ from_ x ∧ x.addr = va ∧
          (t.dieQ = s.dieQ ++ [(dieOfEntry d.core, e), (dieOfEntry d.core, x)] ∨ t.dieQ = s.dieQ ++ [(dieOfEntry d.core, e)] ∧
            t.heldFaults = s.heldFaults ++ [(dieOfEntry d.core, x)]))) ∧
  (∀ (s : State) (sender receiver : Nat) (q : TaskRec), let i := Instr.taskRecordPlacement sender receiver
    s.tasks.find? (fun t => decide (t.sender = sender) && decide (t.receiver = receiver)) = some q →
    let served := s.recordServed q.rec_ q.tenant && s.ackServed sender q.tenant q.ack
    let bad := s.recordBad q.rec_ q.tenant
    ((∃ r ∈ s.ranges, r.owner = some receiver ∧ r.task = some sender) ∨ s.behind q.guid q.tid q.id = true ∨ served = false →
      exec i s = .next s) ∧
    ((∀ r ∈ s.ranges, ¬ (r.owner = some receiver ∧ r.task = some sender)) → s.behind q.guid q.tid q.id = false → served = true →
      q.ack = none →
      let from_ := fun (e : FaultEntry) => e.tenant = q.tenant ∧ e.core = sender ∧ e.gid = BitVec.ofNat 32 q.gid ∧
        e.tid = BitVec.ofNat 32 q.tid
      (∀ l, bad = none → s.checkLaunch q.rec_ q.tenant = some l → l.rec_.lo < l.rec_.hi → (∀ y ∈ s.ranges, y.a < y.b) →
        let free := (s.core receiver).hot || decide (1 < l.rec_.gang)
        let y : Range := { cluster := receiver / 24, launch := s.nextId, a := l.rec_.lo, b := l.rec_.hi,
                           owner := if free then none else some receiver, task := if free then none else some sender }
        exec i s = .next
          { s with tasks := s.tasks.erase q, nextId := s.nextId + 1, launches := mset s.launches s.nextId l,
                   ranges := s.ranges ++ [y] }) ∧
      (bad = none → s.checkLaunch q.rec_ q.tenant = none → s.roomFor sender = true → Gives i s fun t => ∃ e : FaultEntry,
        t.dieQ = s.dieQ ++ [(dieOfEntry sender, e)] ∧ e.kind = 4 ∧ from_ e ∧ e.addr = q.va ∧
        t = { s with tasks := s.tasks.erase q, dieQ := t.dieQ, nextToken := s.nextToken + 1 }) ∧
      ∀ va, bad = some va → s.roomFor sender = true → Gives i s fun t => ∃ e x : FaultEntry, t.tasks = s.tasks.erase q ∧
        e.kind = 4 ∧ from_ e ∧ e.addr = q.va ∧ x.kind = 3 ∧ x.cause = 0x21 ∧ from_ x ∧ x.addr = va ∧
        (t.dieQ = s.dieQ ++ [(dieOfEntry sender, e), (dieOfEntry sender, x)] ∨ t.dieQ = s.dieQ ++ [(dieOfEntry sender, e)] ∧
          t.heldFaults = s.heldFaults ++ [(dieOfEntry sender, x)]))) ∧
  (∀ (s : State) (core : Nat), let i := Instr.groupStart core
    ((s.core core).hot = true → exec i s = .next s) ∧
    ((∀ r ∈ s.ranges, r.owner = some core → s.couldRun core r = false) → exec i s = .next s) ∧
    ∀ (r : Range) (l : Launch) (blocks : List (Nat × Nat × Nat)) (regions : List Region), (s.core core).hot = false → r ∈ s.ranges → r.owner = some core → s.couldRun core r = true →
      (∀ q ∈ s.ranges, q.owner = some core → s.couldRun core q = true → q ≠ r →
        s.startsBefore r q = true ∧ s.startsBefore q r = false) →
      s.launchOf r = some l → s.room core l = some (blocks, regions) → MemOk s → s.noisy = [] →
      Gives i s fun t => ∃ g : Group, t.group s.nextId = some g ∧ (∀ k, k ≠ s.nextId → t.group k = s.group k) ∧
        t.ranges = (s.ranges.map fun y => if y = r then { r with a := r.a + 1 } else y).filter (fun y => decide (y.a < y.b)) ∧
        g.gid = r.a ∧ g.launch = r.launch ∧ g.core = core ∧ g.rec_ = l.rec_ ∧ g.gangOf = none ∧ g.blocks = blocks ∧
        g.regions = (regions.map some ++ List.replicate 32 none).take 32 ∧ g.threads.length = l.rec_.threads ∧
        (∀ (j : Nat) (u : Thread), g.threads[j]? = some u → u.tid = j ∧ u.run = .runnable ∧ u.point = Point.mk 0 (l.rec_.entry / 12) 0 ∧
          u.regs = List.replicate (8 * l.rec_.regs8) 0 ∧ u.preds = List.replicate 7 false ∧
          u.handles = List.replicate 8 0 ∧ u.fpmode = 0 ∧ u.nflags = 0 ∧ u.batch = 0 ∧ u.traps = []) ∧
        (∀ (j : Nat) (rg : Region), regions.length ≤ 8 → regions[j]? = some rg → g.sregs[56 + j]? = some (BitVec.ofNat 64 rg.base)) ∧
        ∀ rg ∈ regions, ∀ j, j < rg.size → t.byte (padKey core rg.base + j) = 0) ∧
  (∀ (s : State) (core : Nat) (r : Range), s.couldRun core r = true ↔ ∃ l, s.launchOf r = some l ∧ l.rec_.gang = 1 ∧
    core / 24 ∈ s.clustersOf l.rec_.tenant ∧ r.cluster ∈ s.clustersOf l.rec_.tenant ∧ s.awayOf r.launch = false ∧
    (s.room core l).isSome = true) ∧
  (∀ (s : State) (core : Nat), s.grangeWaiter core = none → let i := Instr.coreRequest core
    let could := s.couldRun core
    let own := core / 24
    ((s.core core).hot = true ∨ (∃ r ∈ s.ranges, r.owner = some core) ∨ s.stime < (s.core core).asks → exec i s = .next s) ∧
    ((∀ k, s.wanted k could = none) → exec i s = .next s) ∧
    ∀ (k launch : Nat) (u : Range), (s.core core).hot = false → (s.core core).asks ≤ s.stime →
      (∀ r ∈ s.ranges, r.owner ≠ some core) → (s.wanted own could ≠ none → k = own) →
      (s.wanted own could = none → k < 32 ∧ (∀ j, j < 32 → s.longest j could ≤ s.longest k could) ∧
        ∀ j, j < k → s.longest j could < s.longest k could) →
      s.wanted k could = some launch → s.largestRange k launch = some u →
      let h := (u.b - u.a + 1) / 2
      let lo := if u.owner = none then u.a else u.b - h
      let hi := if u.owner = none then u.a + h else u.b
      let left := if u.owner = none then { u with a := u.a + h } else { u with b := u.b - h }
      Gives i s fun t => (t.core core).lo = lo ∧ (t.core core).hi = hi ∧ (t.core core).asks = s.stime + 1 ∧
        (t.core core).served = s.stime + 1 ∧ t.ranges = (s.ranges.map fun y => if y = u then left else y).filter (fun y => decide (y.a < y.b)) ++
          [{ cluster := core / 24, launch := launch, a := lo, b := hi, owner := some core, task := none }] ∧
        t = { s with ranges := t.ranges, cores := t.cores, servedAt := s.stime + 1 }) ∧
  (∀ (s : State) (cluster : Nat), let gs := s.gangRanges cluster
    let fits := fun (l : Launch) => !((windowsOf cluster l.rec_.gang).filter (s.windowOk l)).isEmpty
    ((∀ p ∈ gs, s.awayOf p.1.launch = true ∨ fits p.2 = false) → exec (.gangStart cluster) s = .next s) ∧
    (∀ (r : Range) (l : Launch) (c : Nat), firstBy gangBefore (gs.filter fun p => !s.awayOf p.1.launch && fits p.2) = some (r, l) →
      (windowsOf cluster l.rec_.gang).find? (s.windowOk l) = some c →
      Gives (.gangStart cluster) s fun t =>
        (∀ m, m < l.rec_.gang → ∃ g : Group, t.group (s.nextId + m) = some g ∧ g.core = c + m ∧ g.gid = r.a + m ∧
          g.launch = r.launch ∧ g.gangOf = some s.nextId) ∧
        t.ranges = (s.ranges.map fun y => if y = r then { r with a := r.a + l.rec_.gang } else y).filter
          (fun y => decide (y.a < y.b))) ∧
    (gs = [] → exec (.gangMigration cluster) s = .next s) ∧
    ∀ (r : Range) (l : Launch), firstBy gangBefore gs = some (r, l) →
      (fits l = true → exec (.gangMigration cluster) s = .next s) ∧
      (fits l = false → (∀ p ∈ s.groups, p.2.core / 24 = cluster → p.2.moveTo = none) →
        let plans : List (List (Nat × Nat)) := (windowsOf cluster l.rec_.gang).filterMap fun c => if s.windowMovable l c
          then s.planMoves cluster c l.rec_.gang (s.windowGroups c l.rec_.gang) else none
        (plans = [] → exec (.gangMigration cluster) s = .next s) ∧
        (plans ≠ [] → ∃ ms ∈ plans, (∀ p ∈ plans, ms.length ≤ p.length) ∧ Gives (.gangMigration cluster) s fun t =>
          t = { s with groups := t.groups } ∧
          ∀ k, ((∀ p ∈ ms, p.1 ≠ k) → t.group k = s.group k) ∧
            ∀ core, (ms.filter fun p => decide (p.1 = k)) = [(k, core)] →
              t.group k = (s.group k).map fun g => { g with stopping := true, moveTo := some core }))) ∧
  ∀ (s : State) (launch : Nat) (l : Launch), mget s.launches launch = some l → let i := Instr.classPreemption launch
    (l.rec_.cls ≠ 3 ∨ (∀ r ∈ s.ranges, r.launch ≠ launch) ∨ s.someRoom l = true ∨ s.victims l = [] → exec i s = .next s) ∧
    ∀ (k : Nat) (g : Group), l.rec_.cls = 3 → (∃ r ∈ s.ranges, r.launch = launch) → s.someRoom l = false → (k, g) ∈ s.victims l →
      (∀ p ∈ s.victims l, p ≠ (k, g) → g.since < p.2.since) → s.group k = some g →
      (s.stime < g.since + 120000 → exec i s = .next s) ∧
      (g.since + 120000 ≤ s.stime → exec i s = .next { s with groups := s.groups.map fun p =>
        (p.1, if p.1 = k ∨ sameGang g p.2 = true then { p.2 with stopping := true } else p.2) })

/-- R11, R14 to R17, R41, R100, R192: a slot that may not issue does nothing; a slot serves the group, the entry and the
bundle that the rules choose, and the bundle's packet begins; a merge tick, once gathering is done, remakes the bundles of each
slot and point so that no two threads of a bundle stand in different quads of one position or at different words.  That a packet that
may be a latch producer waits for a replayable fault of the packet after it is the model's (log 108). -/
def Obligations.IssueSlotsAndMergeTicks : Prop :=
  (∀ (s : State) (core slot : Nat), let i := Instr.issueSlotSelect core slot
    (s.slotOpen core slot = false ∨ 4 ≤ slot → exec i s = .next s) ∧
    (s.slotOpen core slot = true → slot < 4 →
      let s1 := (s.gatherCore core).endHoldsOn core slot
      let cs := s1.slotGroups core slot
      (cs = [] → exec i s = .next s1) ∧
      ∀ (k : Nat) (g : Group) (es : List Entry) (e : Entry) (b : Bundle), s1.chooseGroup slot cs = some (k, g, es) → chooseEntry slot es = some e →
        let s2 := s1.countGroups slot k cs
        s2.chooseBundle k g slot e = some b →
          exec i s = .next ((s2.onGroup k fun y => y.countIssue slot e es).begin k b))) ∧
  (∀ (s : State) (slot : Nat) (cs : List (Nat × Group × List Entry)) (c : Nat × Group × List Entry),
    s.chooseGroup slot cs = some c → c ∈ cs ∧
      ((∃ d ∈ cs, 1024 ≤ d.2.1.passes.getD slot 0) → 1024 ≤ c.2.1.passes.getD slot 0 ∧
        ∀ d ∈ cs, d.2.1.passes.getD slot 0 ≤ c.2.1.passes.getD slot 0) ∧
      ((∀ d ∈ cs, d.2.1.passes.getD slot 0 < 1024) → ∀ d ∈ cs, d.2.1.rec_.cls ≤ c.2.1.rec_.cls ∧
        (d.2.1.rec_.cls = c.2.1.rec_.cls → s.oldestArrival slot c ≤ s.oldestArrival slot d ∧
          (s.oldestArrival slot c = s.oldestArrival slot d → c.2.1.gid ≤ d.2.1.gid)))) ∧
  (∀ (slot : Nat) (es : List Entry) (e : Entry), chooseEntry slot es = some e → e ∈ es ∧
    ((∃ f ∈ es, f.passes.getD slot 0 = 64) → e.passes.getD slot 0 = 64 ∧
      ∀ f ∈ es, f.passes.getD slot 0 = 64 → e.reached.getD slot 0 ≤ f.reached.getD slot 0) ∧
    ((∀ f ∈ es, f.passes.getD slot 0 ≠ 64) → ∀ f ∈ es, f.point.prio.toNat ≤ e.point.prio.toNat ∧
      (f.point.prio = e.point.prio → e.point.pc < f.point.pc ∨ e.point.pc = f.point.pc ∧ e.point.word ≤ f.point.word))) ∧
  (∀ (s : State) (k : Nat) (g : Group) (slot : Nat) (e : Entry) (b : Bundle), s.chooseBundle k g slot e = some b →
    b ∈ g.bundles ∧ b.slot = slot ∧ g.bundlePoint b = some e.point ∧
      ∀ d ∈ s.readyBundles k g slot e, g.bundleArrival b ≤ g.bundleArrival d) ∧
  (∀ (s : State) (k : Nat) (g : Group) (b : Bundle) (p : Point) (bs : List Byte), s.group k = some g →
    g.bundleHere b = some p → (∀ t ∈ b.tids, ∀ u, g.thread t = some u → u.due = none) →
    s.fetchFor g p = .ok bs → ∃ (c : Ctx) (y : Group), (s.begin k b).cached g.core g.launch p.pc = some bs ∧
      (s.begin k b).cur = some c ∧ c.guid = k ∧ c.core = g.core ∧
      c.slot = b.slot ∧ c.pc = p.pc ∧ c.first = p.word ∧ c.bytes = bs ∧ c.active.Perm b.tids ∧ c.collective = b.collective ∧
      (c.active.map fun t => t % 32).Pairwise (· ≤ ·) ∧ (s.begin k b).group k = some y ∧
      y = { g with bundles := g.bundles.filter fun d => decide (d ≠ b) } ∧
      (b.slot < ((s.core g.core).slotAt).length → ((s.begin k b).core g.core).slotAt.getD b.slot 0 =
        s.clock g.core + if (s.column g.core).neigh then 2 else 1) ∧
      ((s.begin k b).core g.core).turn = (s.clock g.core + 1, b.slot)) ∧
  ∀ (s : State) (core : Nat),
    (s.clock core % 8 ≠ 0 → exec (.mergeTick core) s = .next s) ∧
    (s.clock core % 8 = 0 → Gives (.mergeTick core) s fun t => t = { s with groups := t.groups } ∧
      ∀ (k : Nat) (g : Group), s.group k = some g →
        (g.core ≠ core ∨ g.halted = true → t.group k = some g) ∧
        (g.core = core → g.halted = false → let h := s.gatherGroup g
          (∀ b ∈ h.bundles, b.collective = false → b.slot < 4 ∧ (∃ e ∈ h.entries, h.bundlePoint b = some e.point) ∧
            ∀ i ∈ b.tids, ∃ u, h.thread i = some u ∧ u.word < 3) →
          ∃ y : Group, t.group k = some y ∧ y = { h with bundles := y.bundles } ∧
            (∀ b ∈ h.bundles, b.collective = true → b ∈ y.bundles) ∧
            (∀ slot tid, (∃ b ∈ h.bundles, b.slot = slot ∧ tid ∈ b.tids) ↔ ∃ b ∈ y.bundles, b.slot = slot ∧ tid ∈ b.tids) ∧
            ∀ b ∈ y.bundles, b.collective = false → ∀ i ∈ b.tids, ∀ j ∈ b.tids,
              (h.thread i).map (·.word) = (h.thread j).map (·.word) ∧ (i / 4 % 8 = j / 4 % 8 → i / 4 = j / 4)))

/-! ### Heat, capacity, pre-emption, faults -/

/-- R6, R37, R72 to R78, R87, R88, R98 to R100, R181, R211, R319: what a thermal sample leaves of a column and its core; a bank that
needs repair; planned reductions, loss points, emergencies and raises, with the banks chosen, FLOOR, the regions lost and the traps of
their waiters; caps and clocks.  The operands that name banks, caps and clocks are the model's (log 9), and so are NEIGH changing at
samples alone (log 68), the first frame an event names (logs 69 and 107), that a repair found for a bank which is not live or is pending
already is dropped (log 104), and that a thread parked on any line of a lost region traps (log 70). -/
def Obligations.CapacityAndHeat : Prop :=
  (∀ (s : State) (col : Nat) (ts : List Nat), let i := Instr.thermalSample [(col, ts)]
    (s.stime % 2400 ≠ 0 → exec i s = .next s) ∧
    (s.stime % 2400 = 0 → col < 768 → ts.length = 12 → (∀ p ∈ s.columns, p.1 = col) →
      (s.column col).doubled.length = 12 → (s.column col).temps.length = 12 → Gives i s fun t =>
        let c := s.column col; let d := t.column col; let h := ts.foldl max 0
        d.temps = ts ∧ (∀ k, k ≠ col → t.column k = s.column k) ∧
        (∀ (j x : Nat) (old : Option Nat), ts[j]? = some x → c.doubled[j]? = some old →
          d.doubled[j]? = some (if 85 < x then some (old.getD s.stime) else if x ≤ 82 then none else old)) ∧
        d.neigh = (if 85 < h then c.neigh || s.foreignFrame col else if h ≤ 82 then false else c.neigh) ∧
        (t.core col).hot = (if 95 < h then true else if h ≤ 92 then false else (s.core col).hot) ∧
        (let hottest : Prop := ∃ j k : Nat, ts[j]? = some h ∧ d.doubled[j]? = some (some k);
          (105 < h → d.capt = 12) ∧ (95 < h → h ≤ 105 → d.capt = 24) ∧ (h ≤ 95 → hottest → d.capt = 48) ∧
          (h ≤ 95 → ¬ hottest → d.capt = 96)) ∧
        d.allow = (if d.neigh then min (min d.capb d.capt) (d.capt / 2) else min d.capb d.capt) ∧
        (c.modeAt.length = 24 → ∀ bank, bank < 24 → let twice := d.doubledBank bank; let m := d.modeAt.getD bank 0;
          let due := fun (n : Nat) => n % (if twice then 4680 else 9360) = (if twice then 195 else 390) * bank;
          (twice = c.doubledBank bank → m = c.modeAt.getD bank 0) ∧
          (twice ≠ c.doubledBank bank →
            (c.doubledAt bank s.stime = twice → ∀ n, s.stime ≤ n → d.doubledAt bank n = twice) ∧
            (c.doubledAt bank s.stime ≠ twice → s.stime ≤ m ∧ due m ∧ (∀ n, s.stime ≤ n → n < m → ¬ due n) ∧
              ∀ n, d.doubledAt bank n = if n < m then !twice else twice))) ∧
        (∀ bank r, bank < 24 → mget c.refresh bank = some r → mget d.refresh bank = some r) ∧
        (∀ bank, bank < 24 → 105 < ts.getD (bank / 2) 0 → c.live.getLsbD bank = true → (∀ p ∈ c.pending, p.1 ≠ bank) →
          (bank, true) ∈ d.pending) ∧
        ((s.core col).hot = false → 95 < h → ∀ r ∈ t.ranges, r.owner ≠ some col))) ∧
  (∀ (s : State) (col bank : Nat), let c := s.column col; let i := Instr.repairRetirementPending col bank
    (768 ≤ col ∨ c.live.getLsbD bank = false ∨ (∃ p ∈ c.pending, p.1 = bank) → exec i s = .next s) ∧
    (col < 768 → c.live.getLsbD bank = true → (∀ p ∈ c.pending, p.1 ≠ bank) → exec i s = .next { s with
      columns := mset s.columns col { c with pending := c.pending ++ [(bank, false)] },
      events := s.events ++
        [(col, bank, 16 * ((List.range 24).filter fun b => c.live.getLsbD b).length - 16)] })) ∧
  (∀ (s : State) (core n notice : Nat),
    let c := s.core core
    let lit := ((List.range 64).filter fun b => c.lit.getLsbD b).length
    let rs := s.coreRegions core
    let warned := fun (t : State) => ∀ (k : Nat) (g : Group), s.group k = some g → g.core = core →
      (t.group k).map (·.threads) = some (g.threads.map fun u => { u with capFlag := true })
    let candidate := fun (b : Nat) => 8 ≤ b ∧ b < 64 ∧ c.lit.getLsbD b = true ∧ b ∉ c.chosen
    let before := fun (a b : Nat) => (bankRank rs a = none ∧ (bankRank rs b = none → b < a)) ∨
      ∃ p q, bankRank rs a = some p ∧ bankRank rs b = some q ∧
        (p < q ∨ p = q ∧ (bankPages rs a < bankPages rs b ∨ bankPages rs a = bankPages rs b ∧ b < a))
    let picks := fun (bs : List Nat) (k : Nat) => bs.length = k ∧ bs.Nodup ∧ (∀ b ∈ bs, candidate b) ∧ bs.Pairwise before ∧
      ∀ a b, b ∈ bs → candidate a → a ∉ bs → before b a
    let darkens := fun (t : State) (bs : List Nat) =>
      (∀ b, b < 64 → (t.core core).lit.getLsbD b = (c.lit.getLsbD b && decide (b ∉ bs))) ∧
      (t.core core).chosen = c.chosen.filter (fun b => decide (b ∉ bs)) ∧
      c.floor ≤ (t.core core).floor ∧
      (∀ b k, b ∈ bs → bankRank rs b = some k → min 7 (k + 1) ≤ (t.core core).floor) ∧
      ((t.core core).floor = c.floor ∨ ∃ b k, b ∈ bs ∧ bankRank rs b = some k ∧ (t.core core).floor = min 7 (k + 1)) ∧
      (∀ (k j : Nat) (g : Group) (r : Region), s.group k = some g → g.core = core → g.regions[j]? = some (some r) →
        (t.group k).bind (fun y => y.regions[j]?) = some (some (if ∃ b ∈ bs, r.reserves b = true then
          { r with lost := true, darkened := r.darkened ++ bs.filter r.reserves } else r))) ∧
      ∀ (k j key : Nat) (g : Group) (u : Thread) (r : Region) (w : Wait) (p q : Point), (s.groups.map (·.1)).Nodup →
        s.group k = some g → (g.threads.map (·.tid)).Nodup → g.thread j = some u → u.run = .parked w p q → w.onKey = some key →
        u.later = [] → r ∈ rs → r.lost = false → r.dropped = false → r.darkened = [] → (∃ b ∈ bs, r.reserves b = true) →
        padKey core r.base ≤ key → key < padKey core r.base + r.size →
        (∀ x ∈ rs, x ≠ r → key < padKey core x.base ∨ padKey core x.base + x.size ≤ key) →
        ∃ y d, t.thread k j = some y ∧ y.run = .runnable ∧ y.point.pc = p.pc ∧ y.due = some d ∧ d.code = 0x11 ∧
          d.handler = r.handler ∧ d.tval = BitVec.ofNat 64 (addrFrom g.core key)
    (768 ≤ core ∨ n = 0 ∨ lit < 8 + c.chosen.length + n → exec (.plannedReduction core n notice) s = .next s) ∧
    (core < 768 → 0 < n → 8 + c.chosen.length + n ≤ lit → Gives (.plannedReduction core n notice) s fun t => ∃ bs : List Nat,
      t.core core = { c with
        chosen := c.chosen ++ bs, due := if c.chosen = [] then s.stime + notice else max c.due (s.stime + notice) } ∧
      picks bs n ∧ warned t) ∧
    (768 ≤ core ∨ n = 0 ∨ lit < 8 + n → exec (.thermalEmergency core n) s = .next s) ∧
    (core < 768 → 0 < n → 8 + n ≤ lit → Gives (.thermalEmergency core n) s fun t => ∃ bs : List Nat,
      picks bs (n - (c.chosen.take n).length) ∧ darkens t (c.chosen.take n ++ bs)) ∧
    (768 ≤ core ∨ n = 0 → exec (.relight core n) s = .next s) ∧
    (core < 768 → 0 < n →
      let dark := ((List.range 64).filter fun b => !c.lit.getLsbD b).take (n - c.chosen.length)
      Gives (.relight core n) s fun t => (t.core core).chosen = c.chosen.take (c.chosen.length - n) ∧
        (∀ b, b < 64 → (t.core core).lit.getLsbD b = (c.lit.getLsbD b || decide (b ∈ dark))) ∧
        (t.core core).floor = (if dark = [] then c.floor else 0) ∧ warned t) ∧
    (c.chosen = [] ∨ s.stime < c.due → exec (.lossPoint core) s = .next s) ∧
    (c.chosen ≠ [] → c.due ≤ s.stime → Gives (.lossPoint core) s fun t => (t.core core).chosen = [] ∧ darkens t c.chosen)) ∧
  ∀ (s : State) (col cap island mhz : Nat),
    (col < 768 → cap ≤ 96 → exec (.parasolCapAndClockTrade [(col, cap)] []) s = .next
      { s with columns := mset s.columns col { s.column col with capb := cap } }) ∧
    (island < 128 → mhz ≤ (if island < 96 then 2400 else 1200) → Gives (.parasolCapAndClockTrade [] [(island, mhz)]) s fun t =>
      t = { s with islands := t.islands } ∧ (t.island island).mhz = mhz ∧ (t.island island).cut = decide (mhz < islandTop island) ∧
      (∀ k, k ≠ island → t.island k = s.island k) ∧
      ∀ core, core < 768 → t.clock core = s.clock core ∧ t.iclock core = s.iclock core ∧ ∀ n, s.stime ≤ n →
        let later : State := { t with stime := n }
        core / 12 = island → later.clock core ≠ s.clock core → later.iclock core = mhz + if mhz < 2400 then 2 ^ 16 else 0)

/-- R27, R81, R83, R88, R90, R97, R103, R167 to R174, R185, R322: a group told to stop is saved once it is quiet, with what it carries
and what it loses; it resumes as a bundle of each thread, with its carried bytes and its copies; a hung group is reported; a walk fills
the cache, or makes a fault entry and parks its threads, or traps its thread, once the group is back where it is being pre-empted; fault
entries go to their tenant's ring.  The model's are the size and replacement of the translation cache (log 12), CAUSE 0 in an entry of
KIND 1 (log 83), walks beyond the walker's waiting (log 48), a damaged member of a gang (log 66), stall time counted from the last issue
(log 71), a slot that was never held returning Closed (log 32), a region Lost before reserving no pages (log 102), and waits for a column
in a remapping step (log 89). -/
def Obligations.PreemptionAndFaults : Prop :=
  (∀ (s : State) (guid : Nat) (g : Group) (x : Tenant), s.group guid = some g → g.gangOf = none →
    s.tenant g.rec_.tenant = some x → risingFrom 0 s.groups = true → let i := Instr.preemption guid
    (s.savable guid = false → exec i s = .next s) ∧
    (s.savable guid = true → x.cfg.saveBytes < x.saveUsed + s.saveSize g →
      Gives i s fun t => OneGroup s t guid { g with stopping := false, moveTo := none }) ∧
    (s.savable guid = true → x.saveUsed + s.saveSize g ≤ x.cfg.saveBytes → s.copies = [] → (s.core g.core).sync = [] →
      (∀ r ∈ g.rows, r.state = .free ∨ r.state = .closed) → Gives i s fun t => ∃ v : Saved,
        t.saved = s.saved ++ [v] ∧ t.group guid = none ∧ (∀ k, k ≠ guid → t.group k = s.group k) ∧ t.mem = s.mem ∧
        t.tenant g.rec_.tenant = some { x with saveUsed := x.saveUsed + v.bytes } ∧ v.guid = guid ∧ v.home = none ∧
        v.bytes = 4096 + g.rec_.threads * (256 + 32 * g.rec_.regs8) + 16896 * g.rec_.acc +
          ((g.regions.filterMap id).map fun r => if r.lost = false ∧ (g.rec_.pthr ≤ r.rank ∨ r.rank = 7) then r.size else 0).sum ∧
        v.group.sregs = g.sregs ∧ v.group.tiles = g.tiles ∧ v.group.cb2 = g.cb2 ∧ v.group.staging.empty = true ∧
        v.group.threads.map (fun u => { u with lastIssue := 0 }) = g.threads.map (fun u => { u with lastIssue := 0 }) ∧
        v.group.rows = g.rows.map (fun r => { r with state := .closed, reason := 3 }) ∧
        ∀ (j : Nat) (r : Region), g.regions[j]? = some (some r) →
          (r.lost = false → (g.rec_.pthr ≤ r.rank ∨ r.rank = 7) → v.group.regions[j]? = some (some { r with claim := none }) ∧
            (r.base, s.bytes (padKey g.core r.base) r.size) ∈ v.carried) ∧
          (r.lost = true ∨ r.rank < g.rec_.pthr ∧ r.rank ≠ 7 → v.group.regions[j]? = some (some { r with
            lost := true, dropped := true, claim := if r.lost then r.claim else none })))) ∧
  (∀ (s : State) (v : Saved) (core : Nat) (x : Tenant), s.savedGang v.guid = [v] → v.group.gangOf = none → s.tenant v.group.rec_.tenant = some x →
    let i := fun ok => Instr.resumption v.guid core ok
    (s.backOk v core = false → ∀ ok, exec (i ok) s = .next s) ∧
    (s.backOk v core = true → (∀ u ∈ v.group.threads, (u.run = .runnable ∨ u.run = .exited ∨ u.run = .retired) ∧
        u.later = []) → MemOk s → Gives (i true) s fun t => ∃ y : Group, t.group v.guid = some y ∧ y.core = core ∧ y.gid = v.group.gid ∧
        (∀ k, k ≠ v.guid → t.group k = s.group k) ∧ t.saved = s.saved.filter (fun w => decide (w.guid ≠ v.guid)) ∧
        (∀ c ∈ t.clines, c.cluster ≠ core / 24) ∧ t.tenant v.group.rec_.tenant = some { x with saveUsed := x.saveUsed - v.bytes } ∧
        y.regions = v.group.regions ∧ y.sregs = v.group.sregs ∧ y.tiles = v.group.tiles ∧ y.rows = v.group.rows ∧
        y.passes = [0, 0, 0, 0] ∧ y.threads.length = v.group.threads.length ∧
        (∀ (j : Nat) (u w : Thread), v.group.threads[j]? = some u → y.threads[j]? = some w →
          w = { u with capFlag := true, lastIssue := w.lastIssue, arrival := w.arrival } ∧
          (u.run = .runnable → w.arrival = s.stime ∧ ∃ b ∈ y.bundles, b.tids = [u.tid])) ∧
        (∀ b ∈ y.bundles, b.tids.length = 1) ∧
        (∀ c ∈ v.copies, ∃ d ∈ t.copies, d.id = c.id ∧ d.core = core ∧ d.paused = none ∧ d.owed.length = c.owed.length) ∧
        (∀ c ∈ s.copies, (if c.guid = v.guid then { c with core := core } else c) ∈ t.copies) ∧
        ∀ a bs, v.carried = [(a, bs)] → ∀ j, j < bs.length → t.byte (padKey core a + j) = bs.getD j 0) ∧
    (s.backOk v core = true → s.roomFor v.group.core = true → v.held = [] → Gives (i false) s fun t =>
      (∃ e ∈ t.dieQ, e.1 = dieOfEntry v.group.core ∧ e.2.kind = 7 ∧ e.2.tenant = v.group.rec_.tenant ∧
        e.2.gid = BitVec.ofNat 32 v.group.gid) ∧ t.saved = s.saved.filter (fun w => decide (w.guid ≠ v.guid)))) ∧
  (∀ (s : State) (guid : Nat) (g : Group), s.group guid = some g → let i := Instr.hangReport guid
    let stalls := fun (u : Thread) => (u.run = .gathering ∨ ∃ w p q, u.run = .parked w p q) ∧ u.lastIssue + 4800000000 ≤ s.stime
    (g.halted = true ∨ (∀ u ∈ g.threads, ¬ stalls u) ∨ g.hangReported = true ∧ (∃ u ∈ g.threads, u.live = true ∧ u.issuedSince = false) →
      exec i s = .next s) ∧
    ∀ u, g.halted = false → g.hangReported = false → stalls u →
      (∃ before after, g.threads = before ++ u :: after ∧ ∀ w ∈ before, ¬ stalls w) → let die := g.core / 192
      Gives i s fun t => ∃ e : FaultEntry, e.kind = 5 ∧ e.core = g.core ∧ e.tenant = g.rec_.tenant ∧
        e.gid = BitVec.ofNat 32 g.gid ∧ e.tid = BitVec.ofNat 32 u.tid ∧ e.addr = u.point.pc * 12 % 2 ^ 57 ∧
        t.group guid = some { g with hangReported := true, threads := g.threads.map fun w => { w with issuedSince := false } } ∧
        (s.dieRoom die = true → (∀ h ∈ s.heldFaults, h.1 ≠ die) → t.dieQ = s.dieQ ++ [(die, e)] ∧ t.heldFaults = s.heldFaults) ∧
        (s.dieRoom die = false → t.dieQ = s.dieQ ∧ t.heldFaults = s.heldFaults ++ [(die, e)])) ∧
  (∀ (s : State) (w : Walk) (g : Group) (u : Thread), s.walks.find? (fun y => decide (y.id = w.id)) = some w →
    s.walking w = true → s.group w.guid = some g → g.thread w.tid = some u → u.live = true → w.parks u = false →
    let i := Instr.translationWalk w.id
    ((∃ c ∈ s.columns, c.2.remap.isSome = true) ∨ s.servedAll (s.walkPlaces w.tenant w.va) = false → exec i s = .next s) ∧
    ((∀ c ∈ s.columns, c.2.remap = none) → s.servedAll (s.walkPlaces w.tenant w.va) = true →
    let gone := s.walks.filter fun y => decide (y.id ≠ w.id)
    (NetMark.item w.id ∈ s.netBad → w.sharers = [w.tid] → g.stopping = false → ∃ m z : State, m = { s with
        walks := gone,
        packets := s.packets.map fun (c : Ctx) =>
          if c.guid = w.guid then { c with active := c.active.filter fun t => decide (t ≠ w.tid) } else c } ∧
      z = m.takeTrap w.guid w.tid w.at_ w.at_.word 0x21 (BitVec.ofNat 64 w.va) 0 w.access ∧
      exec i s = .next { z with columns := s.columns, netBad := z.netBad.filter fun n => decide (n ≠ .item w.id) }) ∧
    (NetMark.item w.id ∉ s.netBad → (∀ p ∈ s.walkPlaces w.tenant w.va, p < Config.peerBase) →
    (∀ e, s.walkNow w.tenant w.va = .page e → exec i s = .next { s with
      walks := gone,
      cores := mset s.cores w.core { s.core w.core with tlb := (e :: (s.core w.core).tlb).take 512 } }) ∧
    (s.walkNow w.tenant w.va = .no .replayable → s.roomFor w.core = true → Gives i s fun t =>
      t.walks = gone ∧ (∀ j ∈ w.sharers, ∀ v, g.thread j = some v → t.thread w.guid j = some { v with
        run := .parked (.fault s.nextToken w.va w.access) w.at_ w.at_, point := v.standing w.at_, word := w.at_.word,
        parkWord := w.at_.word }) ∧
      ∃ e : FaultEntry, t.dieQ = s.dieQ ++ [(dieOfEntry w.core, e)] ∧ e.kind = 1 ∧ e.cause = 0 ∧ e.tenant = w.tenant ∧
        e.access = w.access ∧ e.addr = w.va ∧ e.token = s.nextToken) ∧
    ∀ code : Byte, (code = 0x20 ∧ s.walkNow w.tenant w.va = .no .fatal) ∨
        (code = 0x21 ∧ ∃ pa, s.walkNow w.tenant w.va = .no (.error pa)) → w.sharers = [w.tid] →
      let m : State := { s with
        walks := gone,
        packets := s.packets.map fun (c : Ctx) =>
          if c.guid = w.guid then { c with active := c.active.filter fun t => decide (t ≠ w.tid) } else c }
      (g.stopping = false → exec i s = .next
        (m.takeTrap w.guid w.tid w.at_ w.at_.word code (BitVec.ofNat 64 w.va) 0 w.access)) ∧
      (g.stopping = true → Gives i s fun t => t = { m with groups := t.groups } ∧ t.thread w.guid w.tid = some { u with
        run := .runnable, point := u.standing w.at_, word := w.at_.word, arrival := s.stime,
        due := some ⟨code, BitVec.ofNat 64 w.va, 0, w.access, some w.at_.word⟩ })))) ∧
  (∀ (s : State) (die : Nat) (e : FaultEntry) (x : Tenant),
    s.dieQ.find? (fun p => decide (p.1 = die) && s.ringRoom p.2.tenant) = some (die, e) → s.tenant e.tenant = some x → MemOk s →
    Gives (.faultEntryTransfer die) s fun t => ∃ m n,
      Writes s m (Config.hostBase + x.cfg.fqBase + 32 * (x.fqTail % 2 ^ x.cfg.fqLog)) (leBytes 32 e.num) ∧
      Writes m n (Config.hostBase + x.cfg.fqCtl) (leBytes 4 ((x.fqTail + 1) % 2 ^ 32)) ∧
      t = { n with dieQ := s.dieQ.erase (die, e),
                   tenants := mset s.tenants e.tenant { x with fqTail := (x.fqTail + 1) % 2 ^ 32 } }) ∧
  ∀ e : FaultEntry, e.kind < 2 ^ 8 → e.cause < 2 ^ 8 → e.tenant < 16 → e.core < 2 ^ 10 → e.access < 4 → e.addr < 2 ^ 57 →
    e.pcause < 2 ^ 7 → e.num % 2 ^ 8 = e.kind ∧ e.num / 2 ^ 8 % 2 ^ 8 = e.cause ∧ e.num / 2 ^ 16 % 16 = e.tenant ∧
      e.num / 2 ^ 20 % 2 ^ 10 = e.core ∧ e.num / 2 ^ 30 % 4 = e.access ∧ e.num / 2 ^ 32 % 2 ^ 32 = e.gid.toNat ∧
      e.num / 2 ^ 64 % 2 ^ 32 = e.tid.toNat ∧ e.num / 2 ^ 96 % 2 ^ 57 = e.addr ∧ e.num / 2 ^ 153 % 2 ^ 7 = e.pcause ∧
      e.num / 2 ^ 160 % 2 ^ 32 = e.token.toNat ∧ e.num / 2 ^ 192 = e.clock.toNat

/-! ### The step, the encodings, and what every step keeps -/

/-- R12, R22, R23, R124, R159, R161, R187 to R192, R204, R205, R208: a step whose packet holds well-formed instructions at its next
issue, chained or not, runs exactly those in the bundle's threads, a reader of latches once they are defined and a collective once
its unit is whole, then marks them, charges the slot, and moves past their words: to the next issue of the packet, or, after its
last word, to the next packet, with a producer's latches to its consumer.  Of a chained issue the threads that fail at a word take no
part, and the others run it again without them.  Threads whose unit is not whole gather.  An event that the outside world makes is
run likewise.  The model's is that a parked thread of a chained issue settles at its end (log 39). -/
def Obligations.StepRunsDecodedInstruction : Prop :=
  (∀ (s : State) (c : Ctx) (g : Group), s.cur = some c → s.group c.guid = some g →
    (∀ tid ∈ c.active, ∃ u, g.thread tid = some u ∧ u.run = .runnable) → c.active ≠ [] →
    c.first ∈ (packetInstrs g.nregs c.bytes).map (·.1) → (c.producer = true → c.first = 0 → producerOk g.nregs c.bytes = true) →
    let defined := fun (i : Instr) => (i.uses.latches ≠ [] → c.paired = true) ∧
      ∀ k ∈ i.uses.latches, ∀ tid ∈ c.active, ∃ v, (k, tid, v) ∈ c.prev
    let whole := fun (quad : Bool) (tid : Nat) => let w := if quad then 4 else 32
      (∀ u ∈ g.threads, u.live = true → u.tid / w = tid / w → u.tid ∈ c.active) ∧
        (quad = false → ∀ j ∈ c.active, j / 32 = tid / 32)
    let made := fun (t m : State) (d : Ctx) (is : List Instr) =>
      step s = .next (((((t.readsDone m d g is).markIssued d).charge d is).afterIssue).settle)
    (∀ (i : Instr) (t : State), decodeAt g.nregs c.bytes c.first = .ok i → chainBit (wordOfBytes c.bytes c.first) = false →
      (i.isTransfer = true → c.first + instrWords i = 3) → defined i →
      let c1 := { c with
        here := c.first, after := c.first + instrWords i, chained := false, snap := [], snapS := [] }
      (∀ quad, i.gathers = some quad → (∀ tid ∈ c.active, ¬ whole quad tid) → ∃ m : State, step s = .next m.settle ∧
        m.cur = none ∧ ∀ tid u, tid ∈ c.active → g.thread tid = some u →
          m.thread c.guid tid = some { u with run := .gathering, word := c.first, quad := quad }) ∧
      ((∀ quad, i.gathers = some quad → ∀ tid ∈ c.active, whole quad tid) → exec i { s with cur := some c1 } = .next t →
        t.missed = [] → made t { s with cur := some c1 } c1 [i])) ∧
    ∀ (is : List (Nat × Instr)) (after : Nat), IssueWords g.nregs c.bytes c.first is after → 1 < is.length →
      (is.Pairwise fun a b => (a.2.pipe = .none ∨ a.2.pipe ≠ b.2.pipe) ∧ a.2.uses.clash b.2.uses g.nregs = false) →
      (∀ p ∈ is, defined p.2) → (∀ quad, issueKind is = some quad → ∀ tid ∈ c.active, whole quad tid) → sldAhead is = none →
      let c1 := { c with here := c.first, after := after, chained := true, snap := g.threads, snapS := g.sregs }
      let m : State := { s with cur := some c1 }
      c.traps = [] → c.retries = [] → c.misses = [] →
      (∀ t, WordsRun is m t → t.missed = [] → made (t.settleChained c1) m c1 (is.map (·.2)) ∧
        ((∀ d, t.cur = some d → d.waits = []) → t.settleChained c1 = t)) ∧
      ∀ t0 t, runWords exec is m = .next t0 → t0.missed = [] → let f := t0.failed
        let others := c.active.filter fun tid => !f.tids.contains tid
        f.tids ≠ [] → others ≠ [] → WordsRun is { s with cur := some { c1 with active := others } } t → t.missed = [] →
        made ((t.onCur fun d => { d with traps := f.traps, retries := f.retries }).settleChained c1) m c1 (is.map (·.2))) ∧
  (∀ (s : State) (i : Instr) (rest : List Input), s.cur = none → s.inputs = .event i :: rest →
    Input.waits s (.event i) = false →
    (∀ t, exec i { s with inputs := rest } = .next t → step s = .next t.settle) ∧
    ∀ f, exec i { s with inputs := rest } = .fault f → step s = .fault f) ∧
  ∀ (s : State) (c : Ctx) (g : Group), s.cur = some c → s.group c.guid = some g → c.moves = [] → c.active ≠ [] →
    c.active.Nodup → (∀ tid ∈ c.active, ∃ u, g.thread tid = some u ∧ u.run = .runnable) →
    (c.after < 3 → s.afterIssue = { s with
      cur := none, packets := s.packets ++ [{ c with
        first := c.after, here := c.after, chained := false, snap := [], snapS := [], traps := [], retries := [],
        waits := [], misses := [] }] }) ∧
    (∀ bs, 3 ≤ c.after → c.producer = true → s.fetch g (c.pc + 1) = .ok bs → ∃ d : Ctx,
      s.afterIssue.packets = s.packets ++ [d] ∧ d.guid = c.guid ∧ d.active.Perm c.active ∧ d.pc = c.pc + 1 ∧ d.first = 0 ∧
      d.bytes = bs ∧ d.prev = c.latches ∧ d.paired = true) ∧
    (3 ≤ c.after → c.producer = false → c.yielded = false →
      s.afterIssue = { s with cur := none, groups := s.afterIssue.groups } ∧
      ∀ tid u, tid ∈ c.active → g.thread tid = some u → s.afterIssue.thread c.guid tid =
        some { u with point := { prio := u.point.prio, pc := c.pc + 1, word := 0 }, word := 0, arrival := s.stime })

/-- R188, R206, R207: words that the spec writes out decode to the instructions they stand for; the chain bit is no part of the
instruction. -/
def Obligations.SpecWordsDecode : Prop :=
  decode 8 0x0D844200#32 none = .ok (.icmp { pd := 1, cond := 1, bs := false, a := 4, b := 0 }) ∧
  decode 8 0x0D888205#32 none = .ok (.icmp { pd := 2, cond := 2, bs := false, a := 4, b := 5 }) ∧
  decode 8 0x00800000#32 none = .ok .nop ∧ decode 8 0x80800000#32 none = .ok .nop ∧
  decode 8 0x01000000#32 none = .ok .exit ∧
  decode 8 0x36014080#32 none = .ok (.sfirst { d := 5, a := 1 }) ∧
  chainBit 0x80800000#32 = true ∧ chainBit 0x00800000#32 = false ∧
  (decode 8 0x00800001#32 none).toOption = none ∧ (decode 8 0x7F800000#32 none).toOption = none

/-- R9, R64, R77, R87, R98, R100, R178, R179, R186: what reset leaves: tenant 0 alone, with HV and all 32 clusters, its queue empty;
bring-up still to run; the module budget 1,800 W; the pinned pool of every core lit, no row held, every bank live, the activation caps
at 96; memory lists nothing, in canonical form, and no byte is marked bad.  What an unlisted byte reads as is the model's choice (log
2), and so are temperatures, clocks and the model's own fields (log 1, 4, 5). -/
def Obligations.ResetValues : Prop :=
  let s := State.reset
  s.mem = [] ∧ s.badUnits = [] ∧ s.netBad = [] ∧ MemOk s ∧ BudgetOk s ∧ s.budget = 1800 ∧ s.ready = false ∧ s.stime = 0 ∧ s.groups = [] ∧ s.keys = [] ∧ s.cur = none ∧
  (∀ k, k ≠ 0 → s.tenant k = none) ∧
  (∃ x, s.tenant 0 = some x ∧ x.cfg.hv = true ∧ x.cfg.clusters = List.range 32 ∧ x.cmdHead = 0 ∧ x.cmdTail = 0) ∧
  (∀ core b, b < 64 → (s.core core).lit.getLsbD b = decide (b < 8)) ∧ (∀ core, (s.core core).floor = 0 ∧ (s.core core).tlb = []) ∧
  (∀ col, (s.column col).capb = 96 ∧ (s.column col).capt = 96 ∧ (s.column col).allow = 96 ∧ (s.column col).neigh = false) ∧
  ∀ col b, b < 24 → (s.column col).live.getLsbD b = true ∧ (s.column col).pending = [] ∧ (s.column col).queue = []

/-- R187 to R201, R206 to R208: every well-formed instruction, with every operand at every value its encoding admits, decodes
from the words that the encoder gives it; and a word that decodes is, bit for bit, the encoder's word of its instruction, so
that no bit of an encoding is dropped and none is ignored. -/
def Obligations.DecodeEncodeAgree : Prop :=
  (∀ (n : Nat) (chain : Bool) (i : Instr), i.wf n = true →
    decode n (encode chain i).1 (encode chain i).2 = .ok i ∧ chainBit (encode chain i).1 = chain ∧
    (encode chain i).2.isSome = i.twoWords) ∧
  ∀ (n : Nat) (w0 : Word) (w1 : Option Word) (i : Instr), decode n w0 w1 = .ok i →
    i.wf n = true ∧ encode (chainBit w0) i = (w0, if i.twoWords then w1 else none)

/-- R102, R103, R179, R181: every step from every state, whatever the outside world does, keeps memory in canonical form, and the
budget in force within what the budget command allows. -/
def Obligations.StepKeepsMemoryFormAndBudget : Prop :=
  ∀ s t : State, step s = .next t → (MemOk s → MemOk t) ∧ (BudgetOk s → BudgetOk t)
end

