-- ==== Sys2Proof/Laws/Maps.lean ====
section
/-! SUPPORT. Laws of the sparse maps: reading after writing, and the rising order of keys. -/

namespace Sys2Proof.Machine

variable {α : Type}

theorem mget_mset_self (m : SMap α) (k : Nat) (v : α) : mget (mset m k v) k = some v := by
  induction m with
  | nil => simp [mset, mget]
  | cons p m ih =>
    obtain ⟨j, w⟩ := p
    simp only [mset]
    split
    · simp [mget]
    · split
      · simp [mget]
      · simp only [mget]; rw [if_neg ‹_›, if_neg ‹_›]; exact ih

theorem mget_mset_other (m : SMap α) (k j : Nat) (v : α) (h : j ≠ k) : mget (mset m k v) j = mget m j := by
  induction m with
  | nil => simp [mset, mget, h]
  | cons p m ih =>
    obtain ⟨i, w⟩ := p
    simp only [mset]
    split
    · subst i
      simp only [mget, if_neg h]
    · split
      · simp only [mget, if_neg h]
        by_cases hj : j < k
        · rw [if_pos hj, if_neg (by omega), if_pos (by omega)]
        · rw [if_neg hj]
      · simp only [mget]
        split
        · rfl
        · split
          · rfl
          · exact ih

theorem mget_mset (m : SMap α) (k j : Nat) (v : α) :
    mget (mset m k v) j = if j = k then some v else mget m j := by
  split
  · subst j; exact mget_mset_self m k v
  · exact mget_mset_other m k j v ‹_›

theorem risingFrom_cons {lo : Nat} {p : Nat × α} {m : SMap α} :
    risingFrom lo (p :: m) = true ↔ lo ≤ p.1 ∧ risingFrom (p.1 + 1) m = true := by
  obtain ⟨k, v⟩ := p; simp [risingFrom]

theorem risingFrom_mono {lo hi : Nat} {m : SMap α} (h : risingFrom hi m = true) (hl : lo ≤ hi) :
    risingFrom lo m = true := by
  cases m with
  | nil => rfl
  | cons p m => exact risingFrom_cons.2 ⟨Nat.le_trans hl (risingFrom_cons.1 h).1, (risingFrom_cons.1 h).2⟩

theorem mget_below {lo : Nat} {m : SMap α} (h : risingFrom lo m = true) {k : Nat} (hk : k < lo) : mget m k = none := by
  cases m with
  | nil => rfl
  | cons p m =>
    have hj := (risingFrom_cons.1 h).1
    simp only [mget]
    rw [if_neg (by omega), if_pos (by omega)]

theorem risingFrom_mset {lo : Nat} {m : SMap α} (h : risingFrom lo m = true) {k : Nat} (hk : lo ≤ k) (v : α) :
    risingFrom lo (mset m k v) = true := by
  induction m generalizing lo with
  | nil => simpa [mset, risingFrom] using hk
  | cons p m ih =>
    obtain ⟨hj, hm⟩ := risingFrom_cons.1 h
    simp only [mset]
    split
    · exact risingFrom_cons.2 ⟨hk, by simpa [‹k = p.1›] using hm⟩
    · split
      · exact risingFrom_cons.2 ⟨hk, risingFrom_cons.2 ⟨by simp only; omega, hm⟩⟩
      · exact risingFrom_cons.2 ⟨hj, ih hm (by omega)⟩

theorem risingFrom_mdel {lo : Nat} {m : SMap α} (h : risingFrom lo m = true) (k : Nat) :
    risingFrom lo (mdel m k) = true := by
  induction m generalizing lo with
  | nil => rfl
  | cons p m ih =>
    obtain ⟨hj, hm⟩ := risingFrom_cons.1 h
    simp only [mdel]
    split
    · exact risingFrom_mono hm (by omega)
    · split
      · exact h
      · exact risingFrom_cons.2 ⟨hj, ih hm⟩

theorem mget_mdel {lo : Nat} {m : SMap α} (h : risingFrom lo m = true) (k j : Nat) :
    mget (mdel m k) j = if j = k then none else mget m j := by
  induction m generalizing lo with
  | nil => simp [mdel, mget]
  | cons p m ih =>
    obtain ⟨i, w⟩ := p
    obtain ⟨hi, hm⟩ := risingFrom_cons.1 h
    simp only [mdel]
    split
    · subst i
      split
      · subst j; exact mget_below hm (by simp)
      · simp only [mget, if_neg ‹¬ j = k›]
        split
        · exact mget_below hm (by simp only; omega)
        · rfl
    · split
      · split
        · subst j; simp only [mget]; rw [if_neg ‹_›, if_pos ‹_›]
        · rfl
      · simp only [mget, ih hm]
        split
        · split
          · omega
          · rfl
        · split
          · split <;> rfl
          · rfl

theorem mem_of_mget {m : SMap α} {k : Nat} {v : α} (h : mget m k = some v) : (k, v) ∈ m := by
  induction m with
  | nil => simp [mget] at h
  | cons p m ih =>
    obtain ⟨j, w⟩ := p
    simp only [mget] at h
    split at h
    · subst j; simp_all
    · split at h
      · simp at h
      · exact List.mem_cons_of_mem _ (ih h)

theorem mget_of_mem {lo : Nat} {m : SMap α} (hr : risingFrom lo m = true) {k : Nat} {v : α} (h : (k, v) ∈ m) :
    mget m k = some v := by
  induction m generalizing lo with
  | nil => simp at h
  | cons p m ih =>
    obtain ⟨j, w⟩ := p
    obtain ⟨hj, hm⟩ := risingFrom_cons.1 hr
    rcases List.mem_cons.mp h with e | e
    · simp at e; obtain ⟨rfl, rfl⟩ := e; simp [mget]
    · have hk := ih hm e
      have : ¬ k < j + 1 := fun hlt => by rw [mget_below hm hlt] at hk; simp at hk
      simp only [mget]; rw [if_neg (by omega), if_neg (by omega)]; exact hk

theorem lo_le_of_mem {lo : Nat} {m : SMap α} (h : risingFrom lo m = true) {c : Nat × α} (hc : c ∈ m) : lo ≤ c.1 := by
  induction m generalizing lo with
  | nil => simp at hc
  | cons p m ih =>
    obtain ⟨hp, hm⟩ := risingFrom_cons.1 h
    rcases List.mem_cons.mp hc with rfl | hc
    · exact hp
    · have := ih hm hc; omega

theorem risingFrom_filter {lo : Nat} {m : SMap α} (h : risingFrom lo m = true) (p : Nat × α → Bool) :
    risingFrom lo (m.filter p) = true := by
  induction m generalizing lo with
  | nil => rfl
  | cons c m ih =>
    obtain ⟨hc, hm⟩ := risingFrom_cons.1 h
    simp only [List.filter]
    split
    · exact risingFrom_cons.2 ⟨hc, ih hm⟩
    · exact risingFrom_mono (ih hm) (by omega)

end Sys2Proof.Machine
end

