-- ==== Sys2Proof/Laws/Issue.lean ====
section
/-! SUPPORT. What the shared operations of an issue do: lane results, latches, uniform results. -/

namespace Sys2Proof.Machine

/-! ### Groups and threads -/

theorem group_setGroup (s : State) (k j : Nat) (x : Group) :
    (s.setGroup k x).group j = if j = k then some x else s.group j := mget_mset _ _ _ _

theorem group_onGroup (s : State) (k j : Nat) (f : Group → Group) :
    (s.onGroup k f).group j = if j = k then (s.group k).map f else s.group j := by
  unfold State.onGroup
  split
  · rw [group_setGroup]; simp [*]
  · split
    · subst j; simp [*]
    · rfl

theorem find_map_tid (l : List Thread) (f : Thread → Thread) (hf : ∀ u, (f u).tid = u.tid) (tid : Nat) :
    (l.map f).find? (fun t => decide (t.tid = tid)) = (l.find? fun t => decide (t.tid = tid)).map f := by
  induction l with
  | nil => rfl
  | cons a l ih =>
    simp only [List.map_cons, List.find?_cons, hf]
    split
    · rfl
    · exact ih

theorem find_tid {l : List Thread} {tid : Nat} {u : Thread} (h : l.find? (fun t => decide (t.tid = tid)) = some u) :
    u.tid = tid := by simpa using List.find?_some h

theorem Group.thread_tid {g : Group} {tid : Nat} {u : Thread} (h : g.thread tid = some u) : u.tid = tid := find_tid h

theorem thread_eq (s : State) (k tid : Nat) : s.thread k tid = (s.group k).bind fun g => g.thread tid := by
  unfold State.thread; split <;> simp [*]

theorem Group.thread_onThread (g : Group) (tid j : Nat) (f : Thread → Thread) (hf : ∀ u, (f u).tid = u.tid) :
    (g.onThread tid f).thread j = if j = tid then (g.thread tid).map f else g.thread j := by
  unfold Group.onThread Group.thread
  rw [find_map_tid _ _ (fun u => by split <;> simp [hf])]
  by_cases hj : j = tid
  · subst j
    rw [if_pos rfl]
    cases h : g.threads.find? (fun t => decide (t.tid = tid)) with
    | none => rfl
    | some u => simp [find_tid h]
  · rw [if_neg hj]
    cases h : g.threads.find? (fun t => decide (t.tid = j)) with
    | none => rfl
    | some u => simp [find_tid h, hj]

theorem thread_onThread (s : State) (k tid j : Nat) (f : Thread → Thread) (hf : ∀ u, (f u).tid = u.tid) :
    (s.onThread k tid f).thread k j = if j = tid then (s.thread k tid).map f else s.thread k j := by
  simp only [thread_eq, State.onThread, group_onGroup, if_pos]
  cases h : s.group k with
  | none => simp
  | some g => simp [Group.thread_onThread g tid j f hf]

/-! ### Thread updates keep the thread's index -/

@[simp] theorem setReg_tid (t : Thread) (d : Code) (v : Word) : (t.setReg d v).tid = t.tid := by
  unfold Thread.setReg; split <;> rfl
@[simp] theorem setRegAt_tid (t : Thread) (d : Code) (k : Nat) (v : Word) : (t.setRegAt d k v).tid = t.tid := by
  unfold Thread.setRegAt; split <;> rfl
@[simp] theorem setPair_tid (t : Thread) (d : Code) (v : Dword) : (t.setPair d v).tid = t.tid := by
  simp [Thread.setPair]
@[simp] theorem setPred_tid (t : Thread) (p : Pred) (b : Bool) : (t.setPred p b).tid = t.tid := by
  unfold Thread.setPred; split <;> rfl
@[simp] theorem addFlags_tid (t : Thread) (fl : Flags) : (t.addFlags fl).tid = t.tid := rfl
@[simp] theorem result_tid (t : Thread) (k : Bool) (d : Code) (v : Word) : (t.result k d v).tid = t.tid := by
  unfold Thread.result; split <;> simp
@[simp] theorem setSized_tid (t : Thread) (w : Bool) (d : Code) (v : Dword) : (t.setSized w d v).tid = t.tid := by
  unfold Thread.setSized; split <;> simp
@[simp] theorem setLoad_tid (t : Thread) (ty : Nat) (v : Code) (bs : List Byte) : (t.setLoad ty v bs).tid = t.tid := by
  unfold Thread.setLoad; split <;> simp

/-! ### Lane results -/

theorem issue_eq {s : State} {c : Ctx} {g : Group} (h : InIssue s c g) (f : Ctx → Group → State) : s.issue f = f c g := by
  unfold State.issue; simp [h.cur, h.group]

/-- The issue with latches added is still the issue, over the same group. -/
theorem inIssue_withCur {s : State} {c : Ctx} {g : Group} (h : InIssue s c g) (c' : Ctx) (hc : c'.guid = c.guid) :
    InIssue { s with cur := some c' } c' g := ⟨rfl, by rw [hc]; exact h.group⟩

theorem latchResults_eq {s : State} {c : Ctx} {g : Group} (h : InIssue s c g) (f : Ctx → Group → Thread → Word) :
    s.latchResults f = { s with cur := some { c with latches := c.latches ++ latchesOf c g (f c g) } } := by
  unfold State.latchResults
  rw [issue_eq h]
  simp [State.onCur, h.cur, latchesOf]

theorem lanes_eq {s : State} {c : Ctx} {g : Group} (h : InIssue s c g) (f : Ctx → Group → Thread → Thread) :
    s.lanes f = s.setGroup c.guid { g with threads := g.threads.map fun t => if c.active.contains t.tid then f c g t else t } :=
  issue_eq h _

/-- What a lane update does, whatever latches stand in the issue. -/
theorem lanes_effect_of (s : State) (c : Ctx) (g : Group) (ls : List (Nat × Nat × Word))
    (f : Thread → Thread) (hf : ∀ u, (f u).tid = u.tid) :
    LaneEffect s (State.setGroup { s with cur := some { c with latches := c.latches ++ ls } } c.guid
      { g with threads := g.threads.map fun t => if c.active.contains t.tid then f t else t }) c g ls f where
  rest := rfl
  others k hk := by rw [group_setGroup, if_neg hk]; rfl
  group := ⟨_, by rw [group_setGroup, if_pos rfl]⟩
  threads tid := by
    rw [thread_eq, group_setGroup, if_pos rfl]
    show Group.thread _ tid = _
    unfold Group.thread
    rw [find_map_tid _ _ (fun u => by split <;> simp [hf])]
    cases hu : g.threads.find? (fun t => decide (t.tid = tid)) with
    | none => rfl
    | some u => simp [find_tid hu]
  memory _ := rfl

theorem lanes_effect {s : State} {c : Ctx} {g : Group} (h : InIssue s c g) (f : Ctx → Group → Thread → Thread)
    (hf : ∀ u, (f c g u).tid = u.tid) : LaneEffect s (s.lanes f) c g [] (f c g) := by
  have e := lanes_effect_of s c g [] (f c g) hf
  rw [lanes_eq h]
  simpa [← h.cur] using e

theorem lanes_effect_latched {s : State} {c : Ctx} {g : Group} (h : InIssue s c g) (v : Ctx → Group → Thread → Word)
    (f : Ctx → Group → Thread → Thread) (hf : ∀ u, (f c g u).tid = u.tid)
    (hc : ∀ ls u, f { c with latches := ls } g u = f c g u) :
    LaneEffect s ((s.latchResults v).lanes f) c g (latchesOf c g (v c g)) (f c g) := by
  rw [latchResults_eq h,
    lanes_eq (inIssue_withCur h { c with latches := c.latches ++ latchesOf c g (v c g) } rfl)]
  simp only [hc]
  exact lanes_effect_of s c g _ (f c g) hf

/-- What an ALU instruction does, for a result that does not read the latches of its own packet. -/
theorem alu_effect {s : State} {c : Ctx} {g : Group} (h : InIssue s c g) (k : Bool) (d : Code)
    (f : Ctx → Group → Thread → Word) (hc : ∀ ls u, f { c with latches := ls } g u = f c g u) :
    AluEffect s (s.alu k d f) c g k d (f c g) :=
  lanes_effect_latched h f _ (fun u => result_tid u k d _) fun ls u => by simp only [hc]

theorem fpAlu_effect {s : State} {c : Ctx} {g : Group} (h : InIssue s c g) (k : Bool) (d : Code)
    (f : Ctx → Group → Thread → Word × Flags) (hc : ∀ ls u, f { c with latches := ls } g u = f c g u) :
    FpAluEffect s (s.fpAlu k d f) c g k d (f c g) :=
  lanes_effect_latched h (fun c g u => (f c g u).1) _ (fun u => by simp) fun ls u => by simp only [hc]

theorem fpLane_effect {s : State} {c : Ctx} {g : Group} (h : InIssue s c g) (d : Code)
    (f : Ctx → Group → Thread → Word × Flags) : FpEffect s (s.fpLane d f) c g d (f c g) :=
  lanes_effect h _ fun u => by simp

/-! ### Threads one after another -/

theorem acting_inIssue {s : State} {tid : Nat} {c : Ctx} {g : Group} {u : Thread} (h : Acting s tid c g u) :
    InIssue s c g := ⟨h.cur, h.group⟩

theorem acting_tid {s : State} {tid : Nat} {c : Ctx} {g : Group} {u : Thread} (h : Acting s tid c g u) : u.tid = tid :=
  find_tid h.thread

theorem foldl_inOrder (p : State → Nat → State → Prop) (f : State → Nat → State) (hp : ∀ s tid, p s tid (f s tid))
    (l : List Nat) (s : State) : InOrder p l s (l.foldl f s) := by
  induction l generalizing s with
  | nil => exact .done s
  | cons a l ih => exact .next a l s _ _ (hp s a) (ih _)

/-- The active threads of an issue act in turn. -/
theorem eachActive_inOrder {s : State} {c : Ctx} {g : Group} (h : InIssue s c g) (f : State → Ctx → Group → Thread → State)
    (p : State → Ctx → Group → Thread → State → Prop) (hp : ∀ s tid c g u, Acting s tid c g u → p s c g u (f s c g u)) :
    InOrder (fun a tid b => ∀ c g u, Acting a tid c g u → p a c g u b) c.active s (s.eachActive f) := by
  rw [State.eachActive, issue_eq h]
  refine foldl_inOrder _ _ (fun s tid c g u ha => ?_) _ _
  rw [issue_eq (acting_inIssue ha)]
  simp only [ha.thread]
  exact hp s tid c g u ha

/-- A thread of the issue changed, and nothing else. -/
theorem oneThread_effect {s : State} {tid : Nat} {c : Ctx} {g : Group} {u : Thread} (h : Acting s tid c g u)
    (f : Thread → Thread) (hf : ∀ v, (f v).tid = v.tid) : OneThread s (s.onThread c.guid u.tid f) c u (f u) where
  rest := by unfold State.onThread State.onGroup; split <;> rfl
  thread := by
    rw [thread_onThread _ _ _ _ _ hf, if_pos rfl, thread_eq, h.group]
    simp [acting_tid h, h.thread]
  others k j hk := by
    by_cases e : k = c.guid
    · subst k; rw [thread_onThread _ _ _ _ _ hf, if_neg (by tauto)]
    · simp only [thread_eq, State.onThread, group_onGroup, if_neg e]
  groups k := by
    simp only [State.onThread, group_onGroup]
    split
    · subst k; cases s.group c.guid <;> rfl
    · rfl

/-! ### Uniform results -/

theorem setUni_effect {s : State} {c : Ctx} {g : Group} (h : InIssue s c g) (d : Code) (f : Ctx → Group → Dword) :
    UniEffect s (s.setUni d f) c g d.toNat (f c g) := by
  have e : s.setUni d f = s.setGroup c.guid { g with sregs := setAt g.sregs d.toNat (f c g) } := issue_eq h _
  rw [e]
  exact ⟨rfl, fun k hk => by rw [group_setGroup, if_neg hk], by rw [group_setGroup, if_pos rfl]; rfl, fun _ => rfl⟩

/-! ### Operands do not read the packet's own latches -/

@[simp] theorem val_latches (c : Ctx) (ls : List (Nat × Nat × Word)) (t : Thread) (a : Code) :
    Ctx.val { c with latches := ls } t a = c.val t a := rfl
@[simp] theorem valAt_latches (c : Ctx) (ls : List (Nat × Nat × Word)) (t : Thread) (a : Code) (k : Nat) :
    Ctx.valAt { c with latches := ls } t a k = c.valAt t a k := rfl
@[simp] theorem opB_latches (c : Ctx) (ls : List (Nat × Nat × Word)) (g : Group) (t : Thread) (bs : Bool) (b : Code) :
    Ctx.opB { c with latches := ls } g t bs b = c.opB g t bs b := rfl
@[simp] theorem pred_latches (c : Ctx) (ls : List (Nat × Nat × Word)) (t : Thread) (p : Pred) :
    Ctx.pred { c with latches := ls } t p = c.pred t p := rfl
@[simp] theorem mode_latches (c : Ctx) (ls : List (Nat × Nat × Word)) (t : Thread) :
    Ctx.mode { c with latches := ls } t = c.mode t := rfl

theorem aluLA_effect {s : State} {c : Ctx} {g : Group} (h : InIssue s c g) (f : LA) (op : Word → Word → Word) :
    AluEffect s (s.aluLA f op) c g f.k f.d fun u => op (c.val u f.a) (c.opB g u f.bs f.b) :=
  alu_effect h f.k f.d _ fun _ _ => rfl

theorem aluLA3_effect {s : State} {c : Ctx} {g : Group} (h : InIssue s c g) (f : LA) (op : Word → Word → Word → Word) :
    AluEffect s (s.aluLA3 f op) c g f.k f.d fun u => op (c.val u f.a) (c.opB g u f.bs f.b) (c.val u f.d) :=
  alu_effect h f.k f.d _ fun _ _ => rfl

theorem aluLA1_effect {s : State} {c : Ctx} {g : Group} (h : InIssue s c g) (f : LA1) (op : Word → Word) :
    AluEffect s (s.aluLA1 f op) c g f.k f.d fun u => op (c.val u f.a) :=
  alu_effect h f.k f.d _ fun _ _ => rfl

end Sys2Proof.Machine
end

