-- ==== Sys2Proof/Laws/Memory.lean ====
section
/-! SUPPORT. Laws of the memory list: reading after writing, and the canonical form, which every operation keeps. -/

namespace Sys2Proof.Machine

variable {noisy : SMap FrameBase} {m : List Host.Cell}

theorem memGet_memSet (h : Memory.wf noisy m) (k j : Nat) (b : Byte) :
    memGet noisy (memSet noisy m k b) j = if j = k then b else memGet noisy m j := by
  unfold memSet memGet
  by_cases hb : b = unlisted noisy k
  · rw [if_pos hb, mget_mdel h.1]
    by_cases hj : j = k
    · subst j; simp [hb]
    · rw [if_neg hj, if_neg hj]
  · rw [if_neg hb, mget_mset]
    by_cases hj : j = k
    · rw [if_pos hj, if_pos hj]
    · rw [if_neg hj, if_neg hj]

theorem mem_mset {α : Type} {s : SMap α} {k : Nat} {v : α} {c : Nat × α} (h : c ∈ mset s k v) : c = (k, v) ∨ c ∈ s := by
  induction s with
  | nil => simp [mset] at h; exact .inl h
  | cons p s ih =>
    obtain ⟨j, w⟩ := p
    simp only [mset] at h
    split at h
    · rcases List.mem_cons.mp h with h | h
      · exact .inl h
      · exact .inr (List.mem_cons_of_mem _ h)
    · split at h
      · rcases List.mem_cons.mp h with h | h
        · exact .inl h
        · exact .inr h
      · rcases List.mem_cons.mp h with rfl | h
        · exact .inr List.mem_cons_self
        · rcases ih h with h | h
          · exact .inl h
          · exact .inr (List.mem_cons_of_mem _ h)

theorem mem_mdel {α : Type} {s : SMap α} {k : Nat} {c : Nat × α} (h : c ∈ mdel s k) : c ∈ s := by
  induction s with
  | nil => simp [mdel] at h
  | cons p s ih =>
    obtain ⟨j, w⟩ := p
    simp only [mdel] at h
    split at h
    · exact List.mem_cons_of_mem _ h
    · split at h
      · exact h
      · rcases List.mem_cons.mp h with rfl | h
        · exact List.mem_cons_self
        · exact List.mem_cons_of_mem _ (ih h)

theorem memSet_wf (h : Memory.wf noisy m) (k : Nat) (b : Byte) : Memory.wf noisy (memSet noisy m k b) := by
  unfold memSet
  split
  · exact ⟨risingFrom_mdel h.1 k, fun c hc => h.2 c (mem_mdel hc)⟩
  · refine ⟨risingFrom_mset h.1 (Nat.zero_le k) b, fun c hc => ?_⟩
    rcases mem_mset hc with rfl | hc
    · assumption
    · exact h.2 c hc

theorem memWrite_wf (h : Memory.wf noisy m) (k : Nat) (bs : List Byte) : Memory.wf noisy (memWrite noisy m k bs) := by
  induction bs generalizing m k with
  | nil => exact h
  | cons b bs ih => exact ih (memSet_wf h k b) (k + 1)

theorem memDrop_wf (h : Memory.wf noisy m) (lo hi : Nat) : Memory.wf noisy (memDrop m lo hi) :=
  ⟨risingFrom_filter h.1 _, fun c hc => h.2 c (List.mem_filter.mp hc).1⟩

theorem memGet_memWrite (h : Memory.wf noisy m) (k j : Nat) (bs : List Byte) :
    memGet noisy (memWrite noisy m k bs) j =
      if k ≤ j ∧ j < k + bs.length then bs.getD (j - k) 0 else memGet noisy m j := by
  induction bs generalizing m k with
  | nil => rw [if_neg (by simp)]; rfl
  | cons b bs ih =>
    simp only [memWrite, ih (memSet_wf h k b), memGet_memSet h, List.length_cons]
    by_cases hj : j = k
    · subst j
      rw [if_neg (by omega), if_pos rfl, if_pos (by omega)]; simp
    · by_cases hk : k + 1 ≤ j ∧ j < k + 1 + bs.length
      · rw [if_pos hk, if_pos (by omega), show j - k = (j - (k + 1)) + 1 by omega]; simp
      · rw [if_neg hk, if_neg hj, if_neg (by omega)]

theorem memGet_memWrite_outside (h : Memory.wf noisy m) {k j : Nat} {bs : List Byte}
    (hj : j < k ∨ k + bs.length ≤ j) : memGet noisy (memWrite noisy m k bs) j = memGet noisy m j := by
  rw [memGet_memWrite h, if_neg (by omega)]

theorem memRead_memWrite (h : Memory.wf noisy m) (k : Nat) (bs : List Byte) :
    memRead noisy (memWrite noisy m k bs) k bs.length = bs := by
  have get : ∀ (n i : Nat), i + n = bs.length → memRead noisy (memWrite noisy m k bs) (k + i) n = bs.drop i := by
    intro n
    induction n with
    | zero => intro i hi; simp [memRead, List.drop_of_length_le (show bs.length ≤ i by omega)]
    | succ n ih =>
      intro i hi
      rw [memRead, memGet_memWrite h, if_pos (by omega), show k + i + 1 = k + (i + 1) by omega, ih (i + 1) (by omega),
        show k + i - k = i by omega, List.drop_eq_getElem_cons (show i < bs.length by omega)]
      simp [List.getD, List.getElem?_eq_getElem (show i < bs.length by omega)]
  simpa using get bs.length 0 (by omega)

/-- A frame dropped from memory, whatever its unlisted bytes are made to stand for. -/
theorem memDrop_frame_wf (h : Memory.wf noisy m) {noisy' : SMap FrameBase} (p : Nat)
    (hn : ∀ q, q ≠ p → mget noisy' q = mget noisy q) :
    Memory.wf noisy' (memDrop m (p * Config.frameBytes) ((p + 1) * Config.frameBytes)) := by
  refine ⟨risingFrom_filter h.1 _, fun c hc => ?_⟩
  obtain ⟨hc, ho⟩ := List.mem_filter.mp hc
  have hp : c.1 / Config.frameBytes ≠ p := by
    intro e
    have ho' : c.1 < p * 2097152 ∨ (p + 1) * 2097152 ≤ c.1 := by
      simp only [Bool.or_eq_true] at ho
      exact ho.imp of_decide_eq_true of_decide_eq_true
    have e' : c.1 / 2097152 = p := e
    omega
  have : unlisted noisy' c.1 = unlisted noisy c.1 := by simp only [unlisted, hn _ hp]
  rw [this]
  exact h.2 c hc

theorem reset_mem_wf : Memory.wf State.reset.noisy State.reset.mem := ⟨rfl, by simp [State.reset]⟩

end Sys2Proof.Machine
end

