-- ==== Sys2Proof/Laws/Access.lean ====
section
/-! SUPPORT. What the shared operations of ordinary and scratchpad accesses do. -/

namespace Sys2Proof.Machine

theorem checks_map {g : Group} {th : Nat → Thread} (f : Thread → Lane) (l : List Nat)
    (h : ∀ tid ∈ l, g.thread tid = some (th tid)) :
    (l.filterMap fun tid => (g.thread tid).map fun t => (tid, f t)) = l.map fun tid => (tid, f (th tid)) := by
  induction l with
  | nil => rfl
  | cons a l ih =>
    simp only [List.filterMap_cons, List.map_cons, h a (by simp), Option.map_some, ih fun t ht => h t (by simp [ht])]

theorem failLanes_ok (s : State) (l : List Nat) (k : Nat → Nat) (access : Nat) :
    s.failLanes (l.map fun tid => (tid, Lane.ok (k tid))) access = s := by
  unfold State.failLanes
  induction l with
  | nil => rfl
  | cons a l ih =>
    simp only [List.map_cons, List.foldl_cons] at ih ⊢
    exact ih

/-- The check of a lane of a DRAM form. -/
def laneCheck (s : State) (both : Bool) (w access : Nat) (g : Group) (va : Nat) : Lane :=
  if both then s.atomicLane g va w else s.dramLane g va w access

theorem checkedAccess_form {s : State} {c : Ctx} {g : Group} (h : InIssue s c g) (i : Instr) (kind : AccKind)
    (addr : Ctx → Group → Thread → Nat) (w access : Nat) (both : Bool) (hb : both = true → access = 1)
    (mk : Ctx → Thread → Dword × Dword × List Byte)
    (e : exec i s = .next (s.checkedAccess kind addr (laneCheck s both w access) access mk)) :
    DramForm i s c g (addr c g) w access both kind (mk c) where
  issues th pa hr := by
    rw [e, State.checkedAccess, issue_eq h]
    have hc : (c.checks g fun t => laneCheck s both w access g (addr c g t)) =
        c.active.map fun tid => (tid, Lane.ok (pa tid)) := by
      unfold Ctx.checks
      rw [checks_map (th := th) _ _ fun t ht => (hr.each t ht).1]
      refine List.map_congr_left fun tid ht => ?_
      obtain ⟨-, ha, hx, hy⟩ := hr.each tid ht
      cases both with
      | false => simp [laneCheck, State.dramLane, ha, hx]
      | true => cases hb rfl; simp [laneCheck, State.atomicLane, State.dramLane, ha, hx, hy rfl]
    simp only [hc]
    have hl : ((c.active.map fun tid => (tid, Lane.ok (pa tid))).filterMap (checkedLane g (addr c g) (mk c))) = c.active.map fun tid =>
            LaneAcc.mk tid (addr c g (th tid)) (pa tid) (decide (Config.peerBase ≤ pa tid))
              (mk c (th tid)).1 (mk c (th tid)).2.1 (mk c (th tid)).2.2 := by
      rw [List.filterMap_map, ← List.filterMap_eq_map]
      refine List.filterMap_congr fun tid ht => ?_
      have := (hr.each tid ht).1
      simp [checkedLane, this, laneAcc, Group.thread_tid this]
    simp only [hl, failLanes_ok]
    rw [State.addAccess, if_neg (by simp [hr.nonempty])]
    rfl
  fails tid u ha hu := by
    rw [e, State.checkedAccess, issue_eq h]
    have ht := Group.thread_tid hu
    refine ⟨fun hm => ?_, fun k hm hx => ?_, fun p k hbt hm hx hy => ?_, fun hm hx => ?_⟩
    · cases both <;> simp [laneCheck, State.atomicLane, Ctx.checks, checkedLane, State.dramLane, State.failLanes, State.failLane,
        State.addAccess, *]
    · cases both with
      | false => simp [laneCheck, Ctx.checks, checkedLane, State.dramLane, State.failLanes, State.failLane, State.addAccess, *]
      | true =>
        cases hb rfl
        simp [laneCheck, State.atomicLane, Ctx.checks, checkedLane, State.dramLane, State.failLanes, State.failLane,
          State.addAccess, *]
    · subst hbt
      cases hb rfl
      simp [laneCheck, State.atomicLane, Ctx.checks, checkedLane, State.dramLane, State.failLanes, State.failLane,
        State.addAccess, *]
    · cases both with
      | false =>
        simp [laneCheck, Ctx.checks, checkedLane, State.dramLane, State.failLanes, State.failLane, State.addAccess,
          State.missing, State.onCur, *]
        exact ⟨c, h.cur, by simp [ha]⟩
      | true =>
        cases hb rfl
        simp [laneCheck, State.atomicLane, Ctx.checks, checkedLane, State.dramLane, State.failLanes, State.failLane,
          State.addAccess, State.missing, State.onCur, *]
        exact ⟨c, h.cur, by simp [ha]⟩

theorem dramAccess_form {s : State} {c : Ctx} {g : Group} (h : InIssue s c g) (i : Instr) (kind : AccKind)
    (addr : Ctx → Group → Thread → Nat) (w access : Nat) (mk : Ctx → Thread → Dword × Dword × List Byte)
    (e : exec i s = .next (s.dramAccess kind addr w access mk)) :
    DramForm i s c g (addr c g) w access false kind (mk c) :=
  checkedAccess_form h i kind addr w access false (by simp) mk e

theorem atomicAccess_form {s : State} {c : Ctx} {g : Group} (h : InIssue s c g) (i : Instr) (kind : AccKind)
    (addr : Ctx → Group → Thread → Nat) (w : Nat) (mk : Ctx → Thread → Dword × Dword × List Byte)
    (e : exec i s = .next (s.atomicAccess kind addr w mk)) :
    DramForm i s c g (addr c g) w 1 true kind (mk c) :=
  checkedAccess_form h i kind addr w 1 true (by simp) mk e

theorem okLanes_inOrder (p : State → Ctx → Group → Thread → Nat → State → Prop)
    (f : State → Ctx → Group → Thread → Nat → State) (hp : ∀ s tid c g u k, Acting s tid c g u → p s c g u k (f s c g u k))
    (key : Nat → Nat) (l : List Nat) (s : State) :
    InOrder (fun a tid b => ∀ c g u, Acting a tid c g u → p a c g u (key tid) b) l s
      (s.okLanes (l.map fun tid => (tid, Lane.ok (key tid))) f) := by
  unfold State.okLanes
  rw [List.foldl_map]
  refine foldl_inOrder _ _ (fun s tid c g u ha => ?_) _ _
  show p s c g u (key tid) (s.issue _)
  rw [issue_eq (acting_inIssue ha)]
  simp only [ha.thread]
  exact hp s tid c g u (key tid) ha

theorem onCur_eq {s : State} {c : Ctx} (h : s.cur = some c) (f : Ctx → Ctx) :
    s.onCur f = { s with cur := some (f c) } := by simp [State.onCur, h]

theorem foldl_mask (l : List Nat) (a : Nat → Nat) (m : Word) (i : Nat) (hi : i < 32) :
    ((l.map fun tid => (tid, Lane.trap 0x10 (a tid) 0)).foldl
      (fun m x => if x.2.outside then m ||| (1#32 <<< laneOf x.1) else m) m).getLsbD i = (m.getLsbD i || l.any fun tid => decide (tid % 32 = i)) := by
  induction l generalizing m with
  | nil => simp
  | cons b l ih =>
    simp only [List.map_cons, List.foldl_cons, List.any_cons] at ih ⊢
    rw [ih]
    simp [Lane.outside, hi, laneOf, Bool.or_assoc]
    congr 1
    congr 1
    rw [Bool.eq_iff_iff]
    simp
    omega

theorem raise_chained {s : State} {c : Ctx} {g : Group} (h : InIssue s c g) (hc : c.chained = true) (tid : Nat)
    (code : Byte) (tval : Dword) (tmask : Word) (handler : Nat) (ticket : Option Nat) :
    s.raise tid code tval tmask handler ticket =
      { s with cur := some { c with traps := c.traps ++ [⟨tid, c.here, code, tval, tmask, handler, ticket⟩] } } := by
  rw [State.raise, issue_eq h, if_pos hc, onCur_eq h.cur]

theorem raise_all {s : State} {c : Ctx} {g : Group} (h : InIssue s c g) (hc : c.chained = true) (l : List Nat)
    (a : Nat → Nat) (m : Word) :
    (l.map fun tid => (tid, Lane.trap 0x10 (a tid) 0)).foldl (fun (s : State) x => s.failLane m 0 x.1 x.2) s =
      { s with cur := some { c with traps := c.traps ++
        (l.map fun tid => ⟨tid, c.here, 0x10, BitVec.ofNat 64 (a tid), m, 0, none⟩) } } := by
  induction l generalizing s c with
  | nil => simp [← h.cur]
  | cons b l ih =>
    simp only [List.map_cons, List.foldl_cons] at ih ⊢
    rw [State.failLane, raise_chained h hc]
    have h' : InIssue { s with cur := some { c with traps := c.traps ++ [⟨b, c.here, 0x10, BitVec.ofNat 64 (a b), m, 0, none⟩] } }
      { c with traps := c.traps ++ [⟨b, c.here, 0x10, BitVec.ofNat 64 (a b), m, 0, none⟩] } g := inIssue_withCur h _ rfl
    have := ih h' hc
    simp only [State.failLane, if_pos] at this ⊢
    rw [this]
    simp

theorem padAccess_form {s : State} {c : Ctx} {g : Group} (h : InIssue s c g) (i : Instr) (addr : Ctx → Thread → Nat)
    (w : Nat) (waits : Bool) (f : State → Ctx → Group → Thread → Nat → State)
    (p : State → Ctx → Group → Thread → Nat → State → Prop)
    (hp : ∀ s tid c g u k, Acting s tid c g u → p s c g u k (f s c g u k))
    (e : exec i s = .next (s.padAccess addr w waits f)) : PadForm i s c g (addr c) w waits p where
  completes th key hk := by
    have hc : (c.checks g fun t => s.padLane g (addr c t) w waits) = c.active.map fun tid => (tid, Lane.ok (key tid)) := by
      unfold Ctx.checks
      rw [checks_map (th := th) _ _ fun t ht => (hk t ht).1]
      refine List.map_congr_left fun tid ht => ?_
      obtain ⟨-, ha, hx, hw⟩ := hk tid ht
      cases waits <;> simp_all [State.padLane]
    refine ⟨_, e, ?_⟩
    rw [State.padAccess, issue_eq h]
    simp only [hc, failLanes_ok]
    exact okLanes_inOrder p f hp key _ _
  fails tid u ha hu := by
    rw [e, State.padAccess, issue_eq h]
    refine ⟨fun hm => ?_, fun a hm hx => ?_, fun a k hm hx => ?_, fun k hm hx hw hl => ?_⟩ <;>
      simp [Ctx.checks, State.padLane, State.failLanes, State.failLane, Lane.outside, State.okLanes, *, tmaskOf, laneOf]
    congr 1
    apply BitVec.eq_of_toNat_eq
    simp [Nat.shiftLeft_eq]
  mask th a hc hk := by
    have hcs : (c.checks g fun t => s.padLane g (addr c t) w waits) =
        c.active.map fun tid => (tid, Lane.trap 0x10 (a tid) 0) := by
      unfold Ctx.checks
      rw [checks_map (th := th) _ _ fun t ht => (hk t ht).1]
      refine List.map_congr_left fun tid ht => ?_
      obtain ⟨-, ha, hx⟩ := hk tid ht
      simp_all [State.padLane]
    refine ⟨tmaskOf (c.active.map fun tid => (tid, Lane.trap 0x10 (a tid) 0)), fun l hl => ?_, ?_⟩
    · have := foldl_mask c.active a 0 l hl
      simpa [tmaskOf] using this
    · rw [e, State.padAccess, issue_eq h]
      simp only [hcs]
      have hok : ∀ (s : State) (l : List Nat), s.okLanes (l.map fun tid => (tid, Lane.trap 0x10 (a tid) 0)) f = s := by
        intro s l
        unfold State.okLanes
        induction l with
        | nil => rfl
        | cons b l ih => simpa using ih
      rw [hok]
      exact congrArg _ (raise_all h hc _ _ _)

end Sys2Proof.Machine
end

