-- ==== Sys2Proof/Laws/State.lean ====
section
/-! SUPPORT. What each update of the state, of a group and of a thread leaves: one lemma for each field that it does not
touch, and the value of the one that it sets. -/

namespace Sys2Proof.Machine

/-! ### State.setGroup -/

@[simp] theorem State.setGroup_stime (s : State) (k : Nat) (x : Group) : (s.setGroup k x).stime = s.stime := rfl
@[simp] theorem State.setGroup_mem (s : State) (k : Nat) (x : Group) : (s.setGroup k x).mem = s.mem := rfl
@[simp] theorem State.setGroup_noisy (s : State) (k : Nat) (x : Group) : (s.setGroup k x).noisy = s.noisy := rfl
@[simp] theorem State.setGroup_badUnits (s : State) (k : Nat) (x : Group) : (s.setGroup k x).badUnits = s.badUnits := rfl
@[simp] theorem State.setGroup_netBad (s : State) (k : Nat) (x : Group) : (s.setGroup k x).netBad = s.netBad := rfl
@[simp] theorem State.setGroup_cores (s : State) (k : Nat) (x : Group) : (s.setGroup k x).cores = s.cores := rfl
@[simp] theorem State.setGroup_columns (s : State) (k : Nat) (x : Group) : (s.setGroup k x).columns = s.columns := rfl
@[simp] theorem State.setGroup_groups (s : State) (k : Nat) (x : Group) : (s.setGroup k x).groups = mset s.groups k x := rfl
@[simp] theorem State.setGroup_saved (s : State) (k : Nat) (x : Group) : (s.setGroup k x).saved = s.saved := rfl
@[simp] theorem State.setGroup_launches (s : State) (k : Nat) (x : Group) : (s.setGroup k x).launches = s.launches := rfl
@[simp] theorem State.setGroup_ranges (s : State) (k : Nat) (x : Group) : (s.setGroup k x).ranges = s.ranges := rfl
@[simp] theorem State.setGroup_tasks (s : State) (k : Nat) (x : Group) : (s.setGroup k x).tasks = s.tasks := rfl
@[simp] theorem State.setGroup_tenants (s : State) (k : Nat) (x : Group) : (s.setGroup k x).tenants = s.tenants := rfl
@[simp] theorem State.setGroup_keys (s : State) (k : Nat) (x : Group) : (s.setGroup k x).keys = s.keys := rfl
@[simp] theorem State.setGroup_frameKey (s : State) (k : Nat) (x : Group) : (s.setGroup k x).frameKey = s.frameKey := rfl
@[simp] theorem State.setGroup_dieQ (s : State) (k : Nat) (x : Group) : (s.setGroup k x).dieQ = s.dieQ := rfl
@[simp] theorem State.setGroup_heldFaults (s : State) (k : Nat) (x : Group) : (s.setGroup k x).heldFaults = s.heldFaults := rfl
@[simp] theorem State.setGroup_islands (s : State) (k : Nat) (x : Group) : (s.setGroup k x).islands = s.islands := rfl
@[simp] theorem State.setGroup_accesses (s : State) (k : Nat) (x : Group) : (s.setGroup k x).accesses = s.accesses := rfl
@[simp] theorem State.setGroup_clines (s : State) (k : Nat) (x : Group) : (s.setGroup k x).clines = s.clines := rfl
@[simp] theorem State.setGroup_walks (s : State) (k : Nat) (x : Group) : (s.setGroup k x).walks = s.walks := rfl
@[simp] theorem State.setGroup_copies (s : State) (k : Nat) (x : Group) : (s.setGroup k x).copies = s.copies := rfl
@[simp] theorem State.setGroup_takes (s : State) (k : Nat) (x : Group) : (s.setGroup k x).takes = s.takes := rfl
@[simp] theorem State.setGroup_engs (s : State) (k : Nat) (x : Group) : (s.setGroup k x).engs = s.engs := rfl
@[simp] theorem State.setGroup_kvs (s : State) (k : Nat) (x : Group) : (s.setGroup k x).kvs = s.kvs := rfl
@[simp] theorem State.setGroup_hmsgs (s : State) (k : Nat) (x : Group) : (s.setGroup k x).hmsgs = s.hmsgs := rfl
@[simp] theorem State.setGroup_dones (s : State) (k : Nat) (x : Group) : (s.setGroup k x).dones = s.dones := rfl
@[simp] theorem State.setGroup_enrolled (s : State) (k : Nat) (x : Group) : (s.setGroup k x).enrolled = s.enrolled := rfl
@[simp] theorem State.setGroup_budget (s : State) (k : Nat) (x : Group) : (s.setGroup k x).budget = s.budget := rfl
@[simp] theorem State.setGroup_draw (s : State) (k : Nat) (x : Group) : (s.setGroup k x).draw = s.draw := rfl
@[simp] theorem State.setGroup_ready (s : State) (k : Nat) (x : Group) : (s.setGroup k x).ready = s.ready := rfl
@[simp] theorem State.setGroup_events (s : State) (k : Nat) (x : Group) : (s.setGroup k x).events = s.events := rfl
@[simp] theorem State.setGroup_debugOut (s : State) (k : Nat) (x : Group) : (s.setGroup k x).debugOut = s.debugOut := rfl
@[simp] theorem State.setGroup_domain (s : State) (k : Nat) (x : Group) : (s.setGroup k x).domain = s.domain := rfl
@[simp] theorem State.setGroup_peerOut (s : State) (k : Nat) (x : Group) : (s.setGroup k x).peerOut = s.peerOut := rfl
@[simp] theorem State.setGroup_replies (s : State) (k : Nat) (x : Group) : (s.setGroup k x).replies = s.replies := rfl
@[simp] theorem State.setGroup_portIn (s : State) (k : Nat) (x : Group) : (s.setGroup k x).portIn = s.portIn := rfl
@[simp] theorem State.setGroup_resent (s : State) (k : Nat) (x : Group) : (s.setGroup k x).resent = s.resent := rfl
@[simp] theorem State.setGroup_packets (s : State) (k : Nat) (x : Group) : (s.setGroup k x).packets = s.packets := rfl
@[simp] theorem State.setGroup_cur (s : State) (k : Nat) (x : Group) : (s.setGroup k x).cur = s.cur := rfl
@[simp] theorem State.setGroup_servedAt (s : State) (k : Nat) (x : Group) : (s.setGroup k x).servedAt = s.servedAt := rfl
@[simp] theorem State.setGroup_nextId (s : State) (k : Nat) (x : Group) : (s.setGroup k x).nextId = s.nextId := rfl
@[simp] theorem State.setGroup_nextToken (s : State) (k : Nat) (x : Group) : (s.setGroup k x).nextToken = s.nextToken := rfl
@[simp] theorem State.setGroup_inputs (s : State) (k : Nat) (x : Group) : (s.setGroup k x).inputs = s.inputs := rfl
@[simp] theorem State.setGroup_sched (s : State) (k : Nat) (x : Group) : (s.setGroup k x).sched = s.sched := rfl

/-! ### State.setCore -/

@[simp] theorem State.setCore_stime (s : State) (k : Nat) (x : Core) : (s.setCore k x).stime = s.stime := rfl
@[simp] theorem State.setCore_mem (s : State) (k : Nat) (x : Core) : (s.setCore k x).mem = s.mem := rfl
@[simp] theorem State.setCore_noisy (s : State) (k : Nat) (x : Core) : (s.setCore k x).noisy = s.noisy := rfl
@[simp] theorem State.setCore_badUnits (s : State) (k : Nat) (x : Core) : (s.setCore k x).badUnits = s.badUnits := rfl
@[simp] theorem State.setCore_netBad (s : State) (k : Nat) (x : Core) : (s.setCore k x).netBad = s.netBad := rfl
@[simp] theorem State.setCore_cores (s : State) (k : Nat) (x : Core) : (s.setCore k x).cores = mset s.cores k x := rfl
@[simp] theorem State.setCore_columns (s : State) (k : Nat) (x : Core) : (s.setCore k x).columns = s.columns := rfl
@[simp] theorem State.setCore_groups (s : State) (k : Nat) (x : Core) : (s.setCore k x).groups = s.groups := rfl
@[simp] theorem State.setCore_saved (s : State) (k : Nat) (x : Core) : (s.setCore k x).saved = s.saved := rfl
@[simp] theorem State.setCore_launches (s : State) (k : Nat) (x : Core) : (s.setCore k x).launches = s.launches := rfl
@[simp] theorem State.setCore_ranges (s : State) (k : Nat) (x : Core) : (s.setCore k x).ranges = s.ranges := rfl
@[simp] theorem State.setCore_tasks (s : State) (k : Nat) (x : Core) : (s.setCore k x).tasks = s.tasks := rfl
@[simp] theorem State.setCore_tenants (s : State) (k : Nat) (x : Core) : (s.setCore k x).tenants = s.tenants := rfl
@[simp] theorem State.setCore_keys (s : State) (k : Nat) (x : Core) : (s.setCore k x).keys = s.keys := rfl
@[simp] theorem State.setCore_frameKey (s : State) (k : Nat) (x : Core) : (s.setCore k x).frameKey = s.frameKey := rfl
@[simp] theorem State.setCore_dieQ (s : State) (k : Nat) (x : Core) : (s.setCore k x).dieQ = s.dieQ := rfl
@[simp] theorem State.setCore_heldFaults (s : State) (k : Nat) (x : Core) : (s.setCore k x).heldFaults = s.heldFaults := rfl
@[simp] theorem State.setCore_islands (s : State) (k : Nat) (x : Core) : (s.setCore k x).islands = s.islands := rfl
@[simp] theorem State.setCore_accesses (s : State) (k : Nat) (x : Core) : (s.setCore k x).accesses = s.accesses := rfl
@[simp] theorem State.setCore_clines (s : State) (k : Nat) (x : Core) : (s.setCore k x).clines = s.clines := rfl
@[simp] theorem State.setCore_walks (s : State) (k : Nat) (x : Core) : (s.setCore k x).walks = s.walks := rfl
@[simp] theorem State.setCore_copies (s : State) (k : Nat) (x : Core) : (s.setCore k x).copies = s.copies := rfl
@[simp] theorem State.setCore_takes (s : State) (k : Nat) (x : Core) : (s.setCore k x).takes = s.takes := rfl
@[simp] theorem State.setCore_engs (s : State) (k : Nat) (x : Core) : (s.setCore k x).engs = s.engs := rfl
@[simp] theorem State.setCore_kvs (s : State) (k : Nat) (x : Core) : (s.setCore k x).kvs = s.kvs := rfl
@[simp] theorem State.setCore_hmsgs (s : State) (k : Nat) (x : Core) : (s.setCore k x).hmsgs = s.hmsgs := rfl
@[simp] theorem State.setCore_dones (s : State) (k : Nat) (x : Core) : (s.setCore k x).dones = s.dones := rfl
@[simp] theorem State.setCore_enrolled (s : State) (k : Nat) (x : Core) : (s.setCore k x).enrolled = s.enrolled := rfl
@[simp] theorem State.setCore_budget (s : State) (k : Nat) (x : Core) : (s.setCore k x).budget = s.budget := rfl
@[simp] theorem State.setCore_draw (s : State) (k : Nat) (x : Core) : (s.setCore k x).draw = s.draw := rfl
@[simp] theorem State.setCore_ready (s : State) (k : Nat) (x : Core) : (s.setCore k x).ready = s.ready := rfl
@[simp] theorem State.setCore_events (s : State) (k : Nat) (x : Core) : (s.setCore k x).events = s.events := rfl
@[simp] theorem State.setCore_debugOut (s : State) (k : Nat) (x : Core) : (s.setCore k x).debugOut = s.debugOut := rfl
@[simp] theorem State.setCore_domain (s : State) (k : Nat) (x : Core) : (s.setCore k x).domain = s.domain := rfl
@[simp] theorem State.setCore_peerOut (s : State) (k : Nat) (x : Core) : (s.setCore k x).peerOut = s.peerOut := rfl
@[simp] theorem State.setCore_replies (s : State) (k : Nat) (x : Core) : (s.setCore k x).replies = s.replies := rfl
@[simp] theorem State.setCore_portIn (s : State) (k : Nat) (x : Core) : (s.setCore k x).portIn = s.portIn := rfl
@[simp] theorem State.setCore_resent (s : State) (k : Nat) (x : Core) : (s.setCore k x).resent = s.resent := rfl
@[simp] theorem State.setCore_packets (s : State) (k : Nat) (x : Core) : (s.setCore k x).packets = s.packets := rfl
@[simp] theorem State.setCore_cur (s : State) (k : Nat) (x : Core) : (s.setCore k x).cur = s.cur := rfl
@[simp] theorem State.setCore_servedAt (s : State) (k : Nat) (x : Core) : (s.setCore k x).servedAt = s.servedAt := rfl
@[simp] theorem State.setCore_nextId (s : State) (k : Nat) (x : Core) : (s.setCore k x).nextId = s.nextId := rfl
@[simp] theorem State.setCore_nextToken (s : State) (k : Nat) (x : Core) : (s.setCore k x).nextToken = s.nextToken := rfl
@[simp] theorem State.setCore_inputs (s : State) (k : Nat) (x : Core) : (s.setCore k x).inputs = s.inputs := rfl
@[simp] theorem State.setCore_sched (s : State) (k : Nat) (x : Core) : (s.setCore k x).sched = s.sched := rfl

/-! ### State.setColumn -/

@[simp] theorem State.setColumn_stime (s : State) (k : Nat) (x : Column) : (s.setColumn k x).stime = s.stime := rfl
@[simp] theorem State.setColumn_mem (s : State) (k : Nat) (x : Column) : (s.setColumn k x).mem = s.mem := rfl
@[simp] theorem State.setColumn_noisy (s : State) (k : Nat) (x : Column) : (s.setColumn k x).noisy = s.noisy := rfl
@[simp] theorem State.setColumn_badUnits (s : State) (k : Nat) (x : Column) : (s.setColumn k x).badUnits = s.badUnits := rfl
@[simp] theorem State.setColumn_netBad (s : State) (k : Nat) (x : Column) : (s.setColumn k x).netBad = s.netBad := rfl
@[simp] theorem State.setColumn_cores (s : State) (k : Nat) (x : Column) : (s.setColumn k x).cores = s.cores := rfl
@[simp] theorem State.setColumn_columns (s : State) (k : Nat) (x : Column) : (s.setColumn k x).columns = mset s.columns k x := rfl
@[simp] theorem State.setColumn_groups (s : State) (k : Nat) (x : Column) : (s.setColumn k x).groups = s.groups := rfl
@[simp] theorem State.setColumn_saved (s : State) (k : Nat) (x : Column) : (s.setColumn k x).saved = s.saved := rfl
@[simp] theorem State.setColumn_launches (s : State) (k : Nat) (x : Column) : (s.setColumn k x).launches = s.launches := rfl
@[simp] theorem State.setColumn_ranges (s : State) (k : Nat) (x : Column) : (s.setColumn k x).ranges = s.ranges := rfl
@[simp] theorem State.setColumn_tasks (s : State) (k : Nat) (x : Column) : (s.setColumn k x).tasks = s.tasks := rfl
@[simp] theorem State.setColumn_tenants (s : State) (k : Nat) (x : Column) : (s.setColumn k x).tenants = s.tenants := rfl
@[simp] theorem State.setColumn_keys (s : State) (k : Nat) (x : Column) : (s.setColumn k x).keys = s.keys := rfl
@[simp] theorem State.setColumn_frameKey (s : State) (k : Nat) (x : Column) : (s.setColumn k x).frameKey = s.frameKey := rfl
@[simp] theorem State.setColumn_dieQ (s : State) (k : Nat) (x : Column) : (s.setColumn k x).dieQ = s.dieQ := rfl
@[simp] theorem State.setColumn_heldFaults (s : State) (k : Nat) (x : Column) : (s.setColumn k x).heldFaults = s.heldFaults := rfl
@[simp] theorem State.setColumn_islands (s : State) (k : Nat) (x : Column) : (s.setColumn k x).islands = s.islands := rfl
@[simp] theorem State.setColumn_accesses (s : State) (k : Nat) (x : Column) : (s.setColumn k x).accesses = s.accesses := rfl
@[simp] theorem State.setColumn_clines (s : State) (k : Nat) (x : Column) : (s.setColumn k x).clines = s.clines := rfl
@[simp] theorem State.setColumn_walks (s : State) (k : Nat) (x : Column) : (s.setColumn k x).walks = s.walks := rfl
@[simp] theorem State.setColumn_copies (s : State) (k : Nat) (x : Column) : (s.setColumn k x).copies = s.copies := rfl
@[simp] theorem State.setColumn_takes (s : State) (k : Nat) (x : Column) : (s.setColumn k x).takes = s.takes := rfl
@[simp] theorem State.setColumn_engs (s : State) (k : Nat) (x : Column) : (s.setColumn k x).engs = s.engs := rfl
@[simp] theorem State.setColumn_kvs (s : State) (k : Nat) (x : Column) : (s.setColumn k x).kvs = s.kvs := rfl
@[simp] theorem State.setColumn_hmsgs (s : State) (k : Nat) (x : Column) : (s.setColumn k x).hmsgs = s.hmsgs := rfl
@[simp] theorem State.setColumn_dones (s : State) (k : Nat) (x : Column) : (s.setColumn k x).dones = s.dones := rfl
@[simp] theorem State.setColumn_enrolled (s : State) (k : Nat) (x : Column) : (s.setColumn k x).enrolled = s.enrolled := rfl
@[simp] theorem State.setColumn_budget (s : State) (k : Nat) (x : Column) : (s.setColumn k x).budget = s.budget := rfl
@[simp] theorem State.setColumn_draw (s : State) (k : Nat) (x : Column) : (s.setColumn k x).draw = s.draw := rfl
@[simp] theorem State.setColumn_ready (s : State) (k : Nat) (x : Column) : (s.setColumn k x).ready = s.ready := rfl
@[simp] theorem State.setColumn_events (s : State) (k : Nat) (x : Column) : (s.setColumn k x).events = s.events := rfl
@[simp] theorem State.setColumn_debugOut (s : State) (k : Nat) (x : Column) : (s.setColumn k x).debugOut = s.debugOut := rfl
@[simp] theorem State.setColumn_domain (s : State) (k : Nat) (x : Column) : (s.setColumn k x).domain = s.domain := rfl
@[simp] theorem State.setColumn_peerOut (s : State) (k : Nat) (x : Column) : (s.setColumn k x).peerOut = s.peerOut := rfl
@[simp] theorem State.setColumn_replies (s : State) (k : Nat) (x : Column) : (s.setColumn k x).replies = s.replies := rfl
@[simp] theorem State.setColumn_portIn (s : State) (k : Nat) (x : Column) : (s.setColumn k x).portIn = s.portIn := rfl
@[simp] theorem State.setColumn_resent (s : State) (k : Nat) (x : Column) : (s.setColumn k x).resent = s.resent := rfl
@[simp] theorem State.setColumn_packets (s : State) (k : Nat) (x : Column) : (s.setColumn k x).packets = s.packets := rfl
@[simp] theorem State.setColumn_cur (s : State) (k : Nat) (x : Column) : (s.setColumn k x).cur = s.cur := rfl
@[simp] theorem State.setColumn_servedAt (s : State) (k : Nat) (x : Column) : (s.setColumn k x).servedAt = s.servedAt := rfl
@[simp] theorem State.setColumn_nextId (s : State) (k : Nat) (x : Column) : (s.setColumn k x).nextId = s.nextId := rfl
@[simp] theorem State.setColumn_nextToken (s : State) (k : Nat) (x : Column) : (s.setColumn k x).nextToken = s.nextToken := rfl
@[simp] theorem State.setColumn_inputs (s : State) (k : Nat) (x : Column) : (s.setColumn k x).inputs = s.inputs := rfl
@[simp] theorem State.setColumn_sched (s : State) (k : Nat) (x : Column) : (s.setColumn k x).sched = s.sched := rfl

/-! ### State.setTenant -/

@[simp] theorem State.setTenant_stime (s : State) (k : Nat) (x : Tenant) : (s.setTenant k x).stime = s.stime := rfl
@[simp] theorem State.setTenant_mem (s : State) (k : Nat) (x : Tenant) : (s.setTenant k x).mem = s.mem := rfl
@[simp] theorem State.setTenant_noisy (s : State) (k : Nat) (x : Tenant) : (s.setTenant k x).noisy = s.noisy := rfl
@[simp] theorem State.setTenant_badUnits (s : State) (k : Nat) (x : Tenant) : (s.setTenant k x).badUnits = s.badUnits := rfl
@[simp] theorem State.setTenant_netBad (s : State) (k : Nat) (x : Tenant) : (s.setTenant k x).netBad = s.netBad := rfl
@[simp] theorem State.setTenant_cores (s : State) (k : Nat) (x : Tenant) : (s.setTenant k x).cores = s.cores := rfl
@[simp] theorem State.setTenant_columns (s : State) (k : Nat) (x : Tenant) : (s.setTenant k x).columns = s.columns := rfl
@[simp] theorem State.setTenant_groups (s : State) (k : Nat) (x : Tenant) : (s.setTenant k x).groups = s.groups := rfl
@[simp] theorem State.setTenant_saved (s : State) (k : Nat) (x : Tenant) : (s.setTenant k x).saved = s.saved := rfl
@[simp] theorem State.setTenant_launches (s : State) (k : Nat) (x : Tenant) : (s.setTenant k x).launches = s.launches := rfl
@[simp] theorem State.setTenant_ranges (s : State) (k : Nat) (x : Tenant) : (s.setTenant k x).ranges = s.ranges := rfl
@[simp] theorem State.setTenant_tasks (s : State) (k : Nat) (x : Tenant) : (s.setTenant k x).tasks = s.tasks := rfl
@[simp] theorem State.setTenant_tenants (s : State) (k : Nat) (x : Tenant) : (s.setTenant k x).tenants = mset s.tenants k x := rfl
@[simp] theorem State.setTenant_keys (s : State) (k : Nat) (x : Tenant) : (s.setTenant k x).keys = s.keys := rfl
@[simp] theorem State.setTenant_frameKey (s : State) (k : Nat) (x : Tenant) : (s.setTenant k x).frameKey = s.frameKey := rfl
@[simp] theorem State.setTenant_dieQ (s : State) (k : Nat) (x : Tenant) : (s.setTenant k x).dieQ = s.dieQ := rfl
@[simp] theorem State.setTenant_heldFaults (s : State) (k : Nat) (x : Tenant) : (s.setTenant k x).heldFaults = s.heldFaults := rfl
@[simp] theorem State.setTenant_islands (s : State) (k : Nat) (x : Tenant) : (s.setTenant k x).islands = s.islands := rfl
@[simp] theorem State.setTenant_accesses (s : State) (k : Nat) (x : Tenant) : (s.setTenant k x).accesses = s.accesses := rfl
@[simp] theorem State.setTenant_clines (s : State) (k : Nat) (x : Tenant) : (s.setTenant k x).clines = s.clines := rfl
@[simp] theorem State.setTenant_walks (s : State) (k : Nat) (x : Tenant) : (s.setTenant k x).walks = s.walks := rfl
@[simp] theorem State.setTenant_copies (s : State) (k : Nat) (x : Tenant) : (s.setTenant k x).copies = s.copies := rfl
@[simp] theorem State.setTenant_takes (s : State) (k : Nat) (x : Tenant) : (s.setTenant k x).takes = s.takes := rfl
@[simp] theorem State.setTenant_engs (s : State) (k : Nat) (x : Tenant) : (s.setTenant k x).engs = s.engs := rfl
@[simp] theorem State.setTenant_kvs (s : State) (k : Nat) (x : Tenant) : (s.setTenant k x).kvs = s.kvs := rfl
@[simp] theorem State.setTenant_hmsgs (s : State) (k : Nat) (x : Tenant) : (s.setTenant k x).hmsgs = s.hmsgs := rfl
@[simp] theorem State.setTenant_dones (s : State) (k : Nat) (x : Tenant) : (s.setTenant k x).dones = s.dones := rfl
@[simp] theorem State.setTenant_enrolled (s : State) (k : Nat) (x : Tenant) : (s.setTenant k x).enrolled = s.enrolled := rfl
@[simp] theorem State.setTenant_budget (s : State) (k : Nat) (x : Tenant) : (s.setTenant k x).budget = s.budget := rfl
@[simp] theorem State.setTenant_draw (s : State) (k : Nat) (x : Tenant) : (s.setTenant k x).draw = s.draw := rfl
@[simp] theorem State.setTenant_ready (s : State) (k : Nat) (x : Tenant) : (s.setTenant k x).ready = s.ready := rfl
@[simp] theorem State.setTenant_events (s : State) (k : Nat) (x : Tenant) : (s.setTenant k x).events = s.events := rfl
@[simp] theorem State.setTenant_debugOut (s : State) (k : Nat) (x : Tenant) : (s.setTenant k x).debugOut = s.debugOut := rfl
@[simp] theorem State.setTenant_domain (s : State) (k : Nat) (x : Tenant) : (s.setTenant k x).domain = s.domain := rfl
@[simp] theorem State.setTenant_peerOut (s : State) (k : Nat) (x : Tenant) : (s.setTenant k x).peerOut = s.peerOut := rfl
@[simp] theorem State.setTenant_replies (s : State) (k : Nat) (x : Tenant) : (s.setTenant k x).replies = s.replies := rfl
@[simp] theorem State.setTenant_portIn (s : State) (k : Nat) (x : Tenant) : (s.setTenant k x).portIn = s.portIn := rfl
@[simp] theorem State.setTenant_resent (s : State) (k : Nat) (x : Tenant) : (s.setTenant k x).resent = s.resent := rfl
@[simp] theorem State.setTenant_packets (s : State) (k : Nat) (x : Tenant) : (s.setTenant k x).packets = s.packets := rfl
@[simp] theorem State.setTenant_cur (s : State) (k : Nat) (x : Tenant) : (s.setTenant k x).cur = s.cur := rfl
@[simp] theorem State.setTenant_servedAt (s : State) (k : Nat) (x : Tenant) : (s.setTenant k x).servedAt = s.servedAt := rfl
@[simp] theorem State.setTenant_nextId (s : State) (k : Nat) (x : Tenant) : (s.setTenant k x).nextId = s.nextId := rfl
@[simp] theorem State.setTenant_nextToken (s : State) (k : Nat) (x : Tenant) : (s.setTenant k x).nextToken = s.nextToken := rfl
@[simp] theorem State.setTenant_inputs (s : State) (k : Nat) (x : Tenant) : (s.setTenant k x).inputs = s.inputs := rfl
@[simp] theorem State.setTenant_sched (s : State) (k : Nat) (x : Tenant) : (s.setTenant k x).sched = s.sched := rfl

/-! ### State.write -/

@[simp] theorem State.write_stime (s : State) (k : Nat) (bs : List Byte) : (s.write k bs).stime = s.stime := rfl
@[simp] theorem State.write_mem (s : State) (k : Nat) (bs : List Byte) : (s.write k bs).mem = memWrite s.noisy s.mem k bs := rfl
@[simp] theorem State.write_noisy (s : State) (k : Nat) (bs : List Byte) : (s.write k bs).noisy = s.noisy := rfl
@[simp] theorem State.write_badUnits (s : State) (k : Nat) (bs : List Byte) : (s.write k bs).badUnits = s.badUnits := rfl
@[simp] theorem State.write_netBad (s : State) (k : Nat) (bs : List Byte) : (s.write k bs).netBad = s.netBad := rfl
@[simp] theorem State.write_cores (s : State) (k : Nat) (bs : List Byte) : (s.write k bs).cores = s.cores := rfl
@[simp] theorem State.write_columns (s : State) (k : Nat) (bs : List Byte) : (s.write k bs).columns = s.columns := rfl
@[simp] theorem State.write_groups (s : State) (k : Nat) (bs : List Byte) : (s.write k bs).groups = s.groups := rfl
@[simp] theorem State.write_saved (s : State) (k : Nat) (bs : List Byte) : (s.write k bs).saved = s.saved := rfl
@[simp] theorem State.write_launches (s : State) (k : Nat) (bs : List Byte) : (s.write k bs).launches = s.launches := rfl
@[simp] theorem State.write_ranges (s : State) (k : Nat) (bs : List Byte) : (s.write k bs).ranges = s.ranges := rfl
@[simp] theorem State.write_tasks (s : State) (k : Nat) (bs : List Byte) : (s.write k bs).tasks = s.tasks := rfl
@[simp] theorem State.write_tenants (s : State) (k : Nat) (bs : List Byte) : (s.write k bs).tenants = s.tenants := rfl
@[simp] theorem State.write_keys (s : State) (k : Nat) (bs : List Byte) : (s.write k bs).keys = s.keys := rfl
@[simp] theorem State.write_frameKey (s : State) (k : Nat) (bs : List Byte) : (s.write k bs).frameKey = s.frameKey := rfl
@[simp] theorem State.write_dieQ (s : State) (k : Nat) (bs : List Byte) : (s.write k bs).dieQ = s.dieQ := rfl
@[simp] theorem State.write_heldFaults (s : State) (k : Nat) (bs : List Byte) : (s.write k bs).heldFaults = s.heldFaults := rfl
@[simp] theorem State.write_islands (s : State) (k : Nat) (bs : List Byte) : (s.write k bs).islands = s.islands := rfl
@[simp] theorem State.write_accesses (s : State) (k : Nat) (bs : List Byte) : (s.write k bs).accesses = s.accesses := rfl
@[simp] theorem State.write_clines (s : State) (k : Nat) (bs : List Byte) : (s.write k bs).clines = s.clines := rfl
@[simp] theorem State.write_walks (s : State) (k : Nat) (bs : List Byte) : (s.write k bs).walks = s.walks := rfl
@[simp] theorem State.write_copies (s : State) (k : Nat) (bs : List Byte) : (s.write k bs).copies = s.copies := rfl
@[simp] theorem State.write_takes (s : State) (k : Nat) (bs : List Byte) : (s.write k bs).takes = s.takes := rfl
@[simp] theorem State.write_engs (s : State) (k : Nat) (bs : List Byte) : (s.write k bs).engs = s.engs := rfl
@[simp] theorem State.write_kvs (s : State) (k : Nat) (bs : List Byte) : (s.write k bs).kvs = s.kvs := rfl
@[simp] theorem State.write_hmsgs (s : State) (k : Nat) (bs : List Byte) : (s.write k bs).hmsgs = s.hmsgs := rfl
@[simp] theorem State.write_dones (s : State) (k : Nat) (bs : List Byte) : (s.write k bs).dones = s.dones := rfl
@[simp] theorem State.write_enrolled (s : State) (k : Nat) (bs : List Byte) : (s.write k bs).enrolled = s.enrolled := rfl
@[simp] theorem State.write_budget (s : State) (k : Nat) (bs : List Byte) : (s.write k bs).budget = s.budget := rfl
@[simp] theorem State.write_draw (s : State) (k : Nat) (bs : List Byte) : (s.write k bs).draw = s.draw := rfl
@[simp] theorem State.write_ready (s : State) (k : Nat) (bs : List Byte) : (s.write k bs).ready = s.ready := rfl
@[simp] theorem State.write_events (s : State) (k : Nat) (bs : List Byte) : (s.write k bs).events = s.events := rfl
@[simp] theorem State.write_debugOut (s : State) (k : Nat) (bs : List Byte) : (s.write k bs).debugOut = s.debugOut := rfl
@[simp] theorem State.write_domain (s : State) (k : Nat) (bs : List Byte) : (s.write k bs).domain = s.domain := rfl
@[simp] theorem State.write_peerOut (s : State) (k : Nat) (bs : List Byte) : (s.write k bs).peerOut = s.peerOut := rfl
@[simp] theorem State.write_replies (s : State) (k : Nat) (bs : List Byte) : (s.write k bs).replies = s.replies := rfl
@[simp] theorem State.write_portIn (s : State) (k : Nat) (bs : List Byte) : (s.write k bs).portIn = s.portIn := rfl
@[simp] theorem State.write_resent (s : State) (k : Nat) (bs : List Byte) : (s.write k bs).resent = s.resent := rfl
@[simp] theorem State.write_packets (s : State) (k : Nat) (bs : List Byte) : (s.write k bs).packets = s.packets := rfl
@[simp] theorem State.write_cur (s : State) (k : Nat) (bs : List Byte) : (s.write k bs).cur = s.cur := rfl
@[simp] theorem State.write_servedAt (s : State) (k : Nat) (bs : List Byte) : (s.write k bs).servedAt = s.servedAt := rfl
@[simp] theorem State.write_nextId (s : State) (k : Nat) (bs : List Byte) : (s.write k bs).nextId = s.nextId := rfl
@[simp] theorem State.write_nextToken (s : State) (k : Nat) (bs : List Byte) : (s.write k bs).nextToken = s.nextToken := rfl
@[simp] theorem State.write_inputs (s : State) (k : Nat) (bs : List Byte) : (s.write k bs).inputs = s.inputs := rfl
@[simp] theorem State.write_sched (s : State) (k : Nat) (bs : List Byte) : (s.write k bs).sched = s.sched := rfl

/-! ### State.onCur -/

@[simp] theorem State.onCur_stime (s : State) (f : Ctx → Ctx) : (s.onCur f).stime = s.stime := rfl
@[simp] theorem State.onCur_mem (s : State) (f : Ctx → Ctx) : (s.onCur f).mem = s.mem := rfl
@[simp] theorem State.onCur_noisy (s : State) (f : Ctx → Ctx) : (s.onCur f).noisy = s.noisy := rfl
@[simp] theorem State.onCur_badUnits (s : State) (f : Ctx → Ctx) : (s.onCur f).badUnits = s.badUnits := rfl
@[simp] theorem State.onCur_netBad (s : State) (f : Ctx → Ctx) : (s.onCur f).netBad = s.netBad := rfl
@[simp] theorem State.onCur_cores (s : State) (f : Ctx → Ctx) : (s.onCur f).cores = s.cores := rfl
@[simp] theorem State.onCur_columns (s : State) (f : Ctx → Ctx) : (s.onCur f).columns = s.columns := rfl
@[simp] theorem State.onCur_groups (s : State) (f : Ctx → Ctx) : (s.onCur f).groups = s.groups := rfl
@[simp] theorem State.onCur_saved (s : State) (f : Ctx → Ctx) : (s.onCur f).saved = s.saved := rfl
@[simp] theorem State.onCur_launches (s : State) (f : Ctx → Ctx) : (s.onCur f).launches = s.launches := rfl
@[simp] theorem State.onCur_ranges (s : State) (f : Ctx → Ctx) : (s.onCur f).ranges = s.ranges := rfl
@[simp] theorem State.onCur_tasks (s : State) (f : Ctx → Ctx) : (s.onCur f).tasks = s.tasks := rfl
@[simp] theorem State.onCur_tenants (s : State) (f : Ctx → Ctx) : (s.onCur f).tenants = s.tenants := rfl
@[simp] theorem State.onCur_keys (s : State) (f : Ctx → Ctx) : (s.onCur f).keys = s.keys := rfl
@[simp] theorem State.onCur_frameKey (s : State) (f : Ctx → Ctx) : (s.onCur f).frameKey = s.frameKey := rfl
@[simp] theorem State.onCur_dieQ (s : State) (f : Ctx → Ctx) : (s.onCur f).dieQ = s.dieQ := rfl
@[simp] theorem State.onCur_heldFaults (s : State) (f : Ctx → Ctx) : (s.onCur f).heldFaults = s.heldFaults := rfl
@[simp] theorem State.onCur_islands (s : State) (f : Ctx → Ctx) : (s.onCur f).islands = s.islands := rfl
@[simp] theorem State.onCur_accesses (s : State) (f : Ctx → Ctx) : (s.onCur f).accesses = s.accesses := rfl
@[simp] theorem State.onCur_clines (s : State) (f : Ctx → Ctx) : (s.onCur f).clines = s.clines := rfl
@[simp] theorem State.onCur_walks (s : State) (f : Ctx → Ctx) : (s.onCur f).walks = s.walks := rfl
@[simp] theorem State.onCur_copies (s : State) (f : Ctx → Ctx) : (s.onCur f).copies = s.copies := rfl
@[simp] theorem State.onCur_takes (s : State) (f : Ctx → Ctx) : (s.onCur f).takes = s.takes := rfl
@[simp] theorem State.onCur_engs (s : State) (f : Ctx → Ctx) : (s.onCur f).engs = s.engs := rfl
@[simp] theorem State.onCur_kvs (s : State) (f : Ctx → Ctx) : (s.onCur f).kvs = s.kvs := rfl
@[simp] theorem State.onCur_hmsgs (s : State) (f : Ctx → Ctx) : (s.onCur f).hmsgs = s.hmsgs := rfl
@[simp] theorem State.onCur_dones (s : State) (f : Ctx → Ctx) : (s.onCur f).dones = s.dones := rfl
@[simp] theorem State.onCur_enrolled (s : State) (f : Ctx → Ctx) : (s.onCur f).enrolled = s.enrolled := rfl
@[simp] theorem State.onCur_budget (s : State) (f : Ctx → Ctx) : (s.onCur f).budget = s.budget := rfl
@[simp] theorem State.onCur_draw (s : State) (f : Ctx → Ctx) : (s.onCur f).draw = s.draw := rfl
@[simp] theorem State.onCur_ready (s : State) (f : Ctx → Ctx) : (s.onCur f).ready = s.ready := rfl
@[simp] theorem State.onCur_events (s : State) (f : Ctx → Ctx) : (s.onCur f).events = s.events := rfl
@[simp] theorem State.onCur_debugOut (s : State) (f : Ctx → Ctx) : (s.onCur f).debugOut = s.debugOut := rfl
@[simp] theorem State.onCur_domain (s : State) (f : Ctx → Ctx) : (s.onCur f).domain = s.domain := rfl
@[simp] theorem State.onCur_peerOut (s : State) (f : Ctx → Ctx) : (s.onCur f).peerOut = s.peerOut := rfl
@[simp] theorem State.onCur_replies (s : State) (f : Ctx → Ctx) : (s.onCur f).replies = s.replies := rfl
@[simp] theorem State.onCur_portIn (s : State) (f : Ctx → Ctx) : (s.onCur f).portIn = s.portIn := rfl
@[simp] theorem State.onCur_resent (s : State) (f : Ctx → Ctx) : (s.onCur f).resent = s.resent := rfl
@[simp] theorem State.onCur_packets (s : State) (f : Ctx → Ctx) : (s.onCur f).packets = s.packets := rfl
@[simp] theorem State.onCur_servedAt (s : State) (f : Ctx → Ctx) : (s.onCur f).servedAt = s.servedAt := rfl
@[simp] theorem State.onCur_cur (s : State) (f : Ctx → Ctx) : (s.onCur f).cur = s.cur.map f := rfl
@[simp] theorem State.onCur_nextId (s : State) (f : Ctx → Ctx) : (s.onCur f).nextId = s.nextId := rfl
@[simp] theorem State.onCur_nextToken (s : State) (f : Ctx → Ctx) : (s.onCur f).nextToken = s.nextToken := rfl
@[simp] theorem State.onCur_inputs (s : State) (f : Ctx → Ctx) : (s.onCur f).inputs = s.inputs := rfl
@[simp] theorem State.onCur_sched (s : State) (f : Ctx → Ctx) : (s.onCur f).sched = s.sched := rfl

/-! ### State.bump -/

@[simp] theorem State.bump_stime (s : State) : (s.bump).stime = s.stime := rfl
@[simp] theorem State.bump_mem (s : State) : (s.bump).mem = s.mem := rfl
@[simp] theorem State.bump_noisy (s : State) : (s.bump).noisy = s.noisy := rfl
@[simp] theorem State.bump_badUnits (s : State) : (s.bump).badUnits = s.badUnits := rfl
@[simp] theorem State.bump_netBad (s : State) : (s.bump).netBad = s.netBad := rfl
@[simp] theorem State.bump_cores (s : State) : (s.bump).cores = s.cores := rfl
@[simp] theorem State.bump_columns (s : State) : (s.bump).columns = s.columns := rfl
@[simp] theorem State.bump_groups (s : State) : (s.bump).groups = s.groups := rfl
@[simp] theorem State.bump_saved (s : State) : (s.bump).saved = s.saved := rfl
@[simp] theorem State.bump_launches (s : State) : (s.bump).launches = s.launches := rfl
@[simp] theorem State.bump_ranges (s : State) : (s.bump).ranges = s.ranges := rfl
@[simp] theorem State.bump_tasks (s : State) : (s.bump).tasks = s.tasks := rfl
@[simp] theorem State.bump_tenants (s : State) : (s.bump).tenants = s.tenants := rfl
@[simp] theorem State.bump_keys (s : State) : (s.bump).keys = s.keys := rfl
@[simp] theorem State.bump_frameKey (s : State) : (s.bump).frameKey = s.frameKey := rfl
@[simp] theorem State.bump_dieQ (s : State) : (s.bump).dieQ = s.dieQ := rfl
@[simp] theorem State.bump_heldFaults (s : State) : (s.bump).heldFaults = s.heldFaults := rfl
@[simp] theorem State.bump_islands (s : State) : (s.bump).islands = s.islands := rfl
@[simp] theorem State.bump_accesses (s : State) : (s.bump).accesses = s.accesses := rfl
@[simp] theorem State.bump_clines (s : State) : (s.bump).clines = s.clines := rfl
@[simp] theorem State.bump_walks (s : State) : (s.bump).walks = s.walks := rfl
@[simp] theorem State.bump_copies (s : State) : (s.bump).copies = s.copies := rfl
@[simp] theorem State.bump_takes (s : State) : (s.bump).takes = s.takes := rfl
@[simp] theorem State.bump_engs (s : State) : (s.bump).engs = s.engs := rfl
@[simp] theorem State.bump_kvs (s : State) : (s.bump).kvs = s.kvs := rfl
@[simp] theorem State.bump_hmsgs (s : State) : (s.bump).hmsgs = s.hmsgs := rfl
@[simp] theorem State.bump_dones (s : State) : (s.bump).dones = s.dones := rfl
@[simp] theorem State.bump_enrolled (s : State) : (s.bump).enrolled = s.enrolled := rfl
@[simp] theorem State.bump_budget (s : State) : (s.bump).budget = s.budget := rfl
@[simp] theorem State.bump_draw (s : State) : (s.bump).draw = s.draw := rfl
@[simp] theorem State.bump_ready (s : State) : (s.bump).ready = s.ready := rfl
@[simp] theorem State.bump_events (s : State) : (s.bump).events = s.events := rfl
@[simp] theorem State.bump_debugOut (s : State) : (s.bump).debugOut = s.debugOut := rfl
@[simp] theorem State.bump_domain (s : State) : (s.bump).domain = s.domain := rfl
@[simp] theorem State.bump_peerOut (s : State) : (s.bump).peerOut = s.peerOut := rfl
@[simp] theorem State.bump_replies (s : State) : (s.bump).replies = s.replies := rfl
@[simp] theorem State.bump_portIn (s : State) : (s.bump).portIn = s.portIn := rfl
@[simp] theorem State.bump_resent (s : State) : (s.bump).resent = s.resent := rfl
@[simp] theorem State.bump_packets (s : State) : (s.bump).packets = s.packets := rfl
@[simp] theorem State.bump_cur (s : State) : (s.bump).cur = s.cur := rfl
@[simp] theorem State.bump_servedAt (s : State) : (s.bump).servedAt = s.servedAt := rfl
@[simp] theorem State.bump_nextId (s : State) : (s.bump).nextId = s.nextId + 1 := rfl
@[simp] theorem State.bump_nextToken (s : State) : (s.bump).nextToken = s.nextToken := rfl
@[simp] theorem State.bump_inputs (s : State) : (s.bump).inputs = s.inputs := rfl
@[simp] theorem State.bump_sched (s : State) : (s.bump).sched = s.sched := rfl

/-! ### State.dropCluster -/

@[simp] theorem State.dropCluster_stime (s : State) (k : Nat) : (s.dropCluster k).stime = s.stime := rfl
@[simp] theorem State.dropCluster_mem (s : State) (k : Nat) : (s.dropCluster k).mem = s.mem := rfl
@[simp] theorem State.dropCluster_noisy (s : State) (k : Nat) : (s.dropCluster k).noisy = s.noisy := rfl
@[simp] theorem State.dropCluster_badUnits (s : State) (k : Nat) : (s.dropCluster k).badUnits = s.badUnits := rfl
@[simp] theorem State.dropCluster_netBad (s : State) (k : Nat) : (s.dropCluster k).netBad = s.netBad := rfl
@[simp] theorem State.dropCluster_cores (s : State) (k : Nat) : (s.dropCluster k).cores = s.cores := rfl
@[simp] theorem State.dropCluster_columns (s : State) (k : Nat) : (s.dropCluster k).columns = s.columns := rfl
@[simp] theorem State.dropCluster_groups (s : State) (k : Nat) : (s.dropCluster k).groups = s.groups := rfl
@[simp] theorem State.dropCluster_saved (s : State) (k : Nat) : (s.dropCluster k).saved = s.saved := rfl
@[simp] theorem State.dropCluster_launches (s : State) (k : Nat) : (s.dropCluster k).launches = s.launches := rfl
@[simp] theorem State.dropCluster_ranges (s : State) (k : Nat) : (s.dropCluster k).ranges = s.ranges := rfl
@[simp] theorem State.dropCluster_tasks (s : State) (k : Nat) : (s.dropCluster k).tasks = s.tasks := rfl
@[simp] theorem State.dropCluster_tenants (s : State) (k : Nat) : (s.dropCluster k).tenants = s.tenants := rfl
@[simp] theorem State.dropCluster_keys (s : State) (k : Nat) : (s.dropCluster k).keys = s.keys := rfl
@[simp] theorem State.dropCluster_frameKey (s : State) (k : Nat) : (s.dropCluster k).frameKey = s.frameKey := rfl
@[simp] theorem State.dropCluster_dieQ (s : State) (k : Nat) : (s.dropCluster k).dieQ = s.dieQ := rfl
@[simp] theorem State.dropCluster_heldFaults (s : State) (k : Nat) : (s.dropCluster k).heldFaults = s.heldFaults := rfl
@[simp] theorem State.dropCluster_islands (s : State) (k : Nat) : (s.dropCluster k).islands = s.islands := rfl
@[simp] theorem State.dropCluster_accesses (s : State) (k : Nat) : (s.dropCluster k).accesses = s.accesses := rfl
@[simp] theorem State.dropCluster_clines (s : State) (k : Nat) : (s.dropCluster k).clines = s.clines.filter fun c => decide (c.cluster ≠ k) := rfl
@[simp] theorem State.dropCluster_walks (s : State) (k : Nat) : (s.dropCluster k).walks = s.walks := rfl
@[simp] theorem State.dropCluster_copies (s : State) (k : Nat) : (s.dropCluster k).copies = s.copies := rfl
@[simp] theorem State.dropCluster_takes (s : State) (k : Nat) : (s.dropCluster k).takes = s.takes := rfl
@[simp] theorem State.dropCluster_engs (s : State) (k : Nat) : (s.dropCluster k).engs = s.engs := rfl
@[simp] theorem State.dropCluster_kvs (s : State) (k : Nat) : (s.dropCluster k).kvs = s.kvs := rfl
@[simp] theorem State.dropCluster_hmsgs (s : State) (k : Nat) : (s.dropCluster k).hmsgs = s.hmsgs := rfl
@[simp] theorem State.dropCluster_dones (s : State) (k : Nat) : (s.dropCluster k).dones = s.dones := rfl
@[simp] theorem State.dropCluster_enrolled (s : State) (k : Nat) : (s.dropCluster k).enrolled = s.enrolled := rfl
@[simp] theorem State.dropCluster_budget (s : State) (k : Nat) : (s.dropCluster k).budget = s.budget := rfl
@[simp] theorem State.dropCluster_draw (s : State) (k : Nat) : (s.dropCluster k).draw = s.draw := rfl
@[simp] theorem State.dropCluster_ready (s : State) (k : Nat) : (s.dropCluster k).ready = s.ready := rfl
@[simp] theorem State.dropCluster_events (s : State) (k : Nat) : (s.dropCluster k).events = s.events := rfl
@[simp] theorem State.dropCluster_debugOut (s : State) (k : Nat) : (s.dropCluster k).debugOut = s.debugOut := rfl
@[simp] theorem State.dropCluster_domain (s : State) (k : Nat) : (s.dropCluster k).domain = s.domain := rfl
@[simp] theorem State.dropCluster_peerOut (s : State) (k : Nat) : (s.dropCluster k).peerOut = s.peerOut := rfl
@[simp] theorem State.dropCluster_replies (s : State) (k : Nat) : (s.dropCluster k).replies = s.replies := rfl
@[simp] theorem State.dropCluster_portIn (s : State) (k : Nat) : (s.dropCluster k).portIn = s.portIn := rfl
@[simp] theorem State.dropCluster_resent (s : State) (k : Nat) : (s.dropCluster k).resent = s.resent := rfl
@[simp] theorem State.dropCluster_packets (s : State) (k : Nat) : (s.dropCluster k).packets = s.packets := rfl
@[simp] theorem State.dropCluster_cur (s : State) (k : Nat) : (s.dropCluster k).cur = s.cur := rfl
@[simp] theorem State.dropCluster_servedAt (s : State) (k : Nat) : (s.dropCluster k).servedAt = s.servedAt := rfl
@[simp] theorem State.dropCluster_nextId (s : State) (k : Nat) : (s.dropCluster k).nextId = s.nextId := rfl
@[simp] theorem State.dropCluster_nextToken (s : State) (k : Nat) : (s.dropCluster k).nextToken = s.nextToken := rfl
@[simp] theorem State.dropCluster_inputs (s : State) (k : Nat) : (s.dropCluster k).inputs = s.inputs := rfl
@[simp] theorem State.dropCluster_sched (s : State) (k : Nat) : (s.dropCluster k).sched = s.sched := rfl

/-! ### State.onGroup -/

@[simp] theorem State.onGroup_stime (s : State) (k : Nat) (f : Group → Group) : (s.onGroup k f).stime = s.stime := by
  unfold State.onGroup; split <;> rfl
@[simp] theorem State.onGroup_mem (s : State) (k : Nat) (f : Group → Group) : (s.onGroup k f).mem = s.mem := by
  unfold State.onGroup; split <;> rfl
@[simp] theorem State.onGroup_noisy (s : State) (k : Nat) (f : Group → Group) : (s.onGroup k f).noisy = s.noisy := by
  unfold State.onGroup; split <;> rfl
@[simp] theorem State.onGroup_badUnits (s : State) (k : Nat) (f : Group → Group) : (s.onGroup k f).badUnits = s.badUnits := by
  unfold State.onGroup; split <;> rfl
@[simp] theorem State.onGroup_cores (s : State) (k : Nat) (f : Group → Group) : (s.onGroup k f).cores = s.cores := by
  unfold State.onGroup; split <;> rfl
@[simp] theorem State.onGroup_columns (s : State) (k : Nat) (f : Group → Group) : (s.onGroup k f).columns = s.columns := by
  unfold State.onGroup; split <;> rfl
@[simp] theorem State.onGroup_saved (s : State) (k : Nat) (f : Group → Group) : (s.onGroup k f).saved = s.saved := by
  unfold State.onGroup; split <;> rfl
@[simp] theorem State.onGroup_launches (s : State) (k : Nat) (f : Group → Group) : (s.onGroup k f).launches = s.launches := by
  unfold State.onGroup; split <;> rfl
@[simp] theorem State.onGroup_ranges (s : State) (k : Nat) (f : Group → Group) : (s.onGroup k f).ranges = s.ranges := by
  unfold State.onGroup; split <;> rfl
@[simp] theorem State.onGroup_tasks (s : State) (k : Nat) (f : Group → Group) : (s.onGroup k f).tasks = s.tasks := by
  unfold State.onGroup; split <;> rfl
@[simp] theorem State.onGroup_tenants (s : State) (k : Nat) (f : Group → Group) : (s.onGroup k f).tenants = s.tenants := by
  unfold State.onGroup; split <;> rfl
@[simp] theorem State.onGroup_keys (s : State) (k : Nat) (f : Group → Group) : (s.onGroup k f).keys = s.keys := by
  unfold State.onGroup; split <;> rfl
@[simp] theorem State.onGroup_frameKey (s : State) (k : Nat) (f : Group → Group) : (s.onGroup k f).frameKey = s.frameKey := by
  unfold State.onGroup; split <;> rfl
@[simp] theorem State.onGroup_dieQ (s : State) (k : Nat) (f : Group → Group) : (s.onGroup k f).dieQ = s.dieQ := by
  unfold State.onGroup; split <;> rfl
@[simp] theorem State.onGroup_heldFaults (s : State) (k : Nat) (f : Group → Group) : (s.onGroup k f).heldFaults = s.heldFaults := by
  unfold State.onGroup; split <;> rfl
@[simp] theorem State.onGroup_islands (s : State) (k : Nat) (f : Group → Group) : (s.onGroup k f).islands = s.islands := by
  unfold State.onGroup; split <;> rfl
@[simp] theorem State.onGroup_accesses (s : State) (k : Nat) (f : Group → Group) : (s.onGroup k f).accesses = s.accesses := by
  unfold State.onGroup; split <;> rfl
@[simp] theorem State.onGroup_clines (s : State) (k : Nat) (f : Group → Group) : (s.onGroup k f).clines = s.clines := by
  unfold State.onGroup; split <;> rfl
@[simp] theorem State.onGroup_walks (s : State) (k : Nat) (f : Group → Group) : (s.onGroup k f).walks = s.walks := by
  unfold State.onGroup; split <;> rfl
@[simp] theorem State.onGroup_copies (s : State) (k : Nat) (f : Group → Group) : (s.onGroup k f).copies = s.copies := by
  unfold State.onGroup; split <;> rfl
@[simp] theorem State.onGroup_takes (s : State) (k : Nat) (f : Group → Group) : (s.onGroup k f).takes = s.takes := by
  unfold State.onGroup; split <;> rfl
@[simp] theorem State.onGroup_engs (s : State) (k : Nat) (f : Group → Group) : (s.onGroup k f).engs = s.engs := by
  unfold State.onGroup; split <;> rfl
@[simp] theorem State.onGroup_kvs (s : State) (k : Nat) (f : Group → Group) : (s.onGroup k f).kvs = s.kvs := by
  unfold State.onGroup; split <;> rfl
@[simp] theorem State.onGroup_hmsgs (s : State) (k : Nat) (f : Group → Group) : (s.onGroup k f).hmsgs = s.hmsgs := by
  unfold State.onGroup; split <;> rfl
@[simp] theorem State.onGroup_dones (s : State) (k : Nat) (f : Group → Group) : (s.onGroup k f).dones = s.dones := by
  unfold State.onGroup; split <;> rfl
@[simp] theorem State.onGroup_enrolled (s : State) (k : Nat) (f : Group → Group) : (s.onGroup k f).enrolled = s.enrolled := by
  unfold State.onGroup; split <;> rfl
@[simp] theorem State.onGroup_budget (s : State) (k : Nat) (f : Group → Group) : (s.onGroup k f).budget = s.budget := by
  unfold State.onGroup; split <;> rfl
@[simp] theorem State.onGroup_draw (s : State) (k : Nat) (f : Group → Group) : (s.onGroup k f).draw = s.draw := by
  unfold State.onGroup; split <;> rfl
@[simp] theorem State.onGroup_ready (s : State) (k : Nat) (f : Group → Group) : (s.onGroup k f).ready = s.ready := by
  unfold State.onGroup; split <;> rfl
@[simp] theorem State.onGroup_events (s : State) (k : Nat) (f : Group → Group) : (s.onGroup k f).events = s.events := by
  unfold State.onGroup; split <;> rfl
@[simp] theorem State.onGroup_debugOut (s : State) (k : Nat) (f : Group → Group) : (s.onGroup k f).debugOut = s.debugOut := by
  unfold State.onGroup; split <;> rfl
@[simp] theorem State.onGroup_domain (s : State) (k : Nat) (f : Group → Group) : (s.onGroup k f).domain = s.domain := by
  unfold State.onGroup; split <;> rfl
@[simp] theorem State.onGroup_peerOut (s : State) (k : Nat) (f : Group → Group) : (s.onGroup k f).peerOut = s.peerOut := by
  unfold State.onGroup; split <;> rfl
@[simp] theorem State.onGroup_replies (s : State) (k : Nat) (f : Group → Group) : (s.onGroup k f).replies = s.replies := by
  unfold State.onGroup; split <;> rfl
@[simp] theorem State.onGroup_portIn (s : State) (k : Nat) (f : Group → Group) : (s.onGroup k f).portIn = s.portIn := by
  unfold State.onGroup; split <;> rfl
@[simp] theorem State.onGroup_resent (s : State) (k : Nat) (f : Group → Group) : (s.onGroup k f).resent = s.resent := by
  unfold State.onGroup; split <;> rfl
@[simp] theorem State.onGroup_packets (s : State) (k : Nat) (f : Group → Group) : (s.onGroup k f).packets = s.packets := by
  unfold State.onGroup; split <;> rfl
@[simp] theorem State.onGroup_cur (s : State) (k : Nat) (f : Group → Group) : (s.onGroup k f).cur = s.cur := by
  unfold State.onGroup; split <;> rfl
@[simp] theorem State.onGroup_servedAt (s : State) (k : Nat) (f : Group → Group) : (s.onGroup k f).servedAt = s.servedAt := by
  unfold State.onGroup; split <;> rfl
@[simp] theorem State.onGroup_nextId (s : State) (k : Nat) (f : Group → Group) : (s.onGroup k f).nextId = s.nextId := by
  unfold State.onGroup; split <;> rfl
@[simp] theorem State.onGroup_nextToken (s : State) (k : Nat) (f : Group → Group) : (s.onGroup k f).nextToken = s.nextToken := by
  unfold State.onGroup; split <;> rfl
@[simp] theorem State.onGroup_inputs (s : State) (k : Nat) (f : Group → Group) : (s.onGroup k f).inputs = s.inputs := by
  unfold State.onGroup; split <;> rfl
@[simp] theorem State.onGroup_sched (s : State) (k : Nat) (f : Group → Group) : (s.onGroup k f).sched = s.sched := by
  unfold State.onGroup; split <;> rfl

/-! ### State.onThread -/

@[simp] theorem State.onThread_stime (s : State) (k tid : Nat) (f : Thread → Thread) : (s.onThread k tid f).stime = s.stime := s.onGroup_stime k _
@[simp] theorem State.onThread_mem (s : State) (k tid : Nat) (f : Thread → Thread) : (s.onThread k tid f).mem = s.mem := s.onGroup_mem k _
@[simp] theorem State.onThread_noisy (s : State) (k tid : Nat) (f : Thread → Thread) : (s.onThread k tid f).noisy = s.noisy := s.onGroup_noisy k _
@[simp] theorem State.onThread_badUnits (s : State) (k tid : Nat) (f : Thread → Thread) : (s.onThread k tid f).badUnits = s.badUnits := s.onGroup_badUnits k _
@[simp] theorem State.onThread_cores (s : State) (k tid : Nat) (f : Thread → Thread) : (s.onThread k tid f).cores = s.cores := s.onGroup_cores k _
@[simp] theorem State.onThread_columns (s : State) (k tid : Nat) (f : Thread → Thread) : (s.onThread k tid f).columns = s.columns := s.onGroup_columns k _
@[simp] theorem State.onThread_saved (s : State) (k tid : Nat) (f : Thread → Thread) : (s.onThread k tid f).saved = s.saved := s.onGroup_saved k _
@[simp] theorem State.onThread_launches (s : State) (k tid : Nat) (f : Thread → Thread) : (s.onThread k tid f).launches = s.launches := s.onGroup_launches k _
@[simp] theorem State.onThread_ranges (s : State) (k tid : Nat) (f : Thread → Thread) : (s.onThread k tid f).ranges = s.ranges := s.onGroup_ranges k _
@[simp] theorem State.onThread_tasks (s : State) (k tid : Nat) (f : Thread → Thread) : (s.onThread k tid f).tasks = s.tasks := s.onGroup_tasks k _
@[simp] theorem State.onThread_tenants (s : State) (k tid : Nat) (f : Thread → Thread) : (s.onThread k tid f).tenants = s.tenants := s.onGroup_tenants k _
@[simp] theorem State.onThread_keys (s : State) (k tid : Nat) (f : Thread → Thread) : (s.onThread k tid f).keys = s.keys := s.onGroup_keys k _
@[simp] theorem State.onThread_frameKey (s : State) (k tid : Nat) (f : Thread → Thread) : (s.onThread k tid f).frameKey = s.frameKey := s.onGroup_frameKey k _
@[simp] theorem State.onThread_dieQ (s : State) (k tid : Nat) (f : Thread → Thread) : (s.onThread k tid f).dieQ = s.dieQ := s.onGroup_dieQ k _
@[simp] theorem State.onThread_heldFaults (s : State) (k tid : Nat) (f : Thread → Thread) : (s.onThread k tid f).heldFaults = s.heldFaults := s.onGroup_heldFaults k _
@[simp] theorem State.onThread_islands (s : State) (k tid : Nat) (f : Thread → Thread) : (s.onThread k tid f).islands = s.islands := s.onGroup_islands k _
@[simp] theorem State.onThread_accesses (s : State) (k tid : Nat) (f : Thread → Thread) : (s.onThread k tid f).accesses = s.accesses := s.onGroup_accesses k _
@[simp] theorem State.onThread_clines (s : State) (k tid : Nat) (f : Thread → Thread) : (s.onThread k tid f).clines = s.clines := s.onGroup_clines k _
@[simp] theorem State.onThread_walks (s : State) (k tid : Nat) (f : Thread → Thread) : (s.onThread k tid f).walks = s.walks := s.onGroup_walks k _
@[simp] theorem State.onThread_copies (s : State) (k tid : Nat) (f : Thread → Thread) : (s.onThread k tid f).copies = s.copies := s.onGroup_copies k _
@[simp] theorem State.onThread_takes (s : State) (k tid : Nat) (f : Thread → Thread) : (s.onThread k tid f).takes = s.takes := s.onGroup_takes k _
@[simp] theorem State.onThread_engs (s : State) (k tid : Nat) (f : Thread → Thread) : (s.onThread k tid f).engs = s.engs := s.onGroup_engs k _
@[simp] theorem State.onThread_kvs (s : State) (k tid : Nat) (f : Thread → Thread) : (s.onThread k tid f).kvs = s.kvs := s.onGroup_kvs k _
@[simp] theorem State.onThread_hmsgs (s : State) (k tid : Nat) (f : Thread → Thread) : (s.onThread k tid f).hmsgs = s.hmsgs := s.onGroup_hmsgs k _
@[simp] theorem State.onThread_dones (s : State) (k tid : Nat) (f : Thread → Thread) : (s.onThread k tid f).dones = s.dones := s.onGroup_dones k _
@[simp] theorem State.onThread_enrolled (s : State) (k tid : Nat) (f : Thread → Thread) : (s.onThread k tid f).enrolled = s.enrolled := s.onGroup_enrolled k _
@[simp] theorem State.onThread_budget (s : State) (k tid : Nat) (f : Thread → Thread) : (s.onThread k tid f).budget = s.budget := s.onGroup_budget k _
@[simp] theorem State.onThread_draw (s : State) (k tid : Nat) (f : Thread → Thread) : (s.onThread k tid f).draw = s.draw := s.onGroup_draw k _
@[simp] theorem State.onThread_ready (s : State) (k tid : Nat) (f : Thread → Thread) : (s.onThread k tid f).ready = s.ready := s.onGroup_ready k _
@[simp] theorem State.onThread_events (s : State) (k tid : Nat) (f : Thread → Thread) : (s.onThread k tid f).events = s.events := s.onGroup_events k _
@[simp] theorem State.onThread_debugOut (s : State) (k tid : Nat) (f : Thread → Thread) : (s.onThread k tid f).debugOut = s.debugOut := s.onGroup_debugOut k _
@[simp] theorem State.onThread_domain (s : State) (k tid : Nat) (f : Thread → Thread) : (s.onThread k tid f).domain = s.domain := s.onGroup_domain k _
@[simp] theorem State.onThread_peerOut (s : State) (k tid : Nat) (f : Thread → Thread) : (s.onThread k tid f).peerOut = s.peerOut := s.onGroup_peerOut k _
@[simp] theorem State.onThread_replies (s : State) (k tid : Nat) (f : Thread → Thread) : (s.onThread k tid f).replies = s.replies := s.onGroup_replies k _
@[simp] theorem State.onThread_portIn (s : State) (k tid : Nat) (f : Thread → Thread) : (s.onThread k tid f).portIn = s.portIn := s.onGroup_portIn k _
@[simp] theorem State.onThread_resent (s : State) (k tid : Nat) (f : Thread → Thread) : (s.onThread k tid f).resent = s.resent := s.onGroup_resent k _
@[simp] theorem State.onThread_packets (s : State) (k tid : Nat) (f : Thread → Thread) : (s.onThread k tid f).packets = s.packets := s.onGroup_packets k _
@[simp] theorem State.onThread_cur (s : State) (k tid : Nat) (f : Thread → Thread) : (s.onThread k tid f).cur = s.cur := s.onGroup_cur k _
@[simp] theorem State.onThread_servedAt (s : State) (k tid : Nat) (f : Thread → Thread) : (s.onThread k tid f).servedAt = s.servedAt := s.onGroup_servedAt k _
@[simp] theorem State.onThread_nextId (s : State) (k tid : Nat) (f : Thread → Thread) : (s.onThread k tid f).nextId = s.nextId := s.onGroup_nextId k _
@[simp] theorem State.onThread_nextToken (s : State) (k tid : Nat) (f : Thread → Thread) : (s.onThread k tid f).nextToken = s.nextToken := s.onGroup_nextToken k _
@[simp] theorem State.onThread_inputs (s : State) (k tid : Nat) (f : Thread → Thread) : (s.onThread k tid f).inputs = s.inputs := s.onGroup_inputs k _
@[simp] theorem State.onThread_sched (s : State) (k tid : Nat) (f : Thread → Thread) : (s.onThread k tid f).sched = s.sched := s.onGroup_sched k _

/-! ### State.arrive -/

@[simp] theorem State.arrive_stime (s : State) (k tid : Nat) (p : Point) : (s.arrive k tid p).stime = s.stime := s.onGroup_stime k _
@[simp] theorem State.arrive_mem (s : State) (k tid : Nat) (p : Point) : (s.arrive k tid p).mem = s.mem := s.onGroup_mem k _
@[simp] theorem State.arrive_noisy (s : State) (k tid : Nat) (p : Point) : (s.arrive k tid p).noisy = s.noisy := s.onGroup_noisy k _
@[simp] theorem State.arrive_badUnits (s : State) (k tid : Nat) (p : Point) : (s.arrive k tid p).badUnits = s.badUnits := s.onGroup_badUnits k _
@[simp] theorem State.arrive_cores (s : State) (k tid : Nat) (p : Point) : (s.arrive k tid p).cores = s.cores := s.onGroup_cores k _
@[simp] theorem State.arrive_columns (s : State) (k tid : Nat) (p : Point) : (s.arrive k tid p).columns = s.columns := s.onGroup_columns k _
@[simp] theorem State.arrive_saved (s : State) (k tid : Nat) (p : Point) : (s.arrive k tid p).saved = s.saved := s.onGroup_saved k _
@[simp] theorem State.arrive_launches (s : State) (k tid : Nat) (p : Point) : (s.arrive k tid p).launches = s.launches := s.onGroup_launches k _
@[simp] theorem State.arrive_ranges (s : State) (k tid : Nat) (p : Point) : (s.arrive k tid p).ranges = s.ranges := s.onGroup_ranges k _
@[simp] theorem State.arrive_tasks (s : State) (k tid : Nat) (p : Point) : (s.arrive k tid p).tasks = s.tasks := s.onGroup_tasks k _
@[simp] theorem State.arrive_tenants (s : State) (k tid : Nat) (p : Point) : (s.arrive k tid p).tenants = s.tenants := s.onGroup_tenants k _
@[simp] theorem State.arrive_keys (s : State) (k tid : Nat) (p : Point) : (s.arrive k tid p).keys = s.keys := s.onGroup_keys k _
@[simp] theorem State.arrive_frameKey (s : State) (k tid : Nat) (p : Point) : (s.arrive k tid p).frameKey = s.frameKey := s.onGroup_frameKey k _
@[simp] theorem State.arrive_dieQ (s : State) (k tid : Nat) (p : Point) : (s.arrive k tid p).dieQ = s.dieQ := s.onGroup_dieQ k _
@[simp] theorem State.arrive_heldFaults (s : State) (k tid : Nat) (p : Point) : (s.arrive k tid p).heldFaults = s.heldFaults := s.onGroup_heldFaults k _
@[simp] theorem State.arrive_islands (s : State) (k tid : Nat) (p : Point) : (s.arrive k tid p).islands = s.islands := s.onGroup_islands k _
@[simp] theorem State.arrive_accesses (s : State) (k tid : Nat) (p : Point) : (s.arrive k tid p).accesses = s.accesses := s.onGroup_accesses k _
@[simp] theorem State.arrive_clines (s : State) (k tid : Nat) (p : Point) : (s.arrive k tid p).clines = s.clines := s.onGroup_clines k _
@[simp] theorem State.arrive_walks (s : State) (k tid : Nat) (p : Point) : (s.arrive k tid p).walks = s.walks := s.onGroup_walks k _
@[simp] theorem State.arrive_copies (s : State) (k tid : Nat) (p : Point) : (s.arrive k tid p).copies = s.copies := s.onGroup_copies k _
@[simp] theorem State.arrive_takes (s : State) (k tid : Nat) (p : Point) : (s.arrive k tid p).takes = s.takes := s.onGroup_takes k _
@[simp] theorem State.arrive_engs (s : State) (k tid : Nat) (p : Point) : (s.arrive k tid p).engs = s.engs := s.onGroup_engs k _
@[simp] theorem State.arrive_kvs (s : State) (k tid : Nat) (p : Point) : (s.arrive k tid p).kvs = s.kvs := s.onGroup_kvs k _
@[simp] theorem State.arrive_hmsgs (s : State) (k tid : Nat) (p : Point) : (s.arrive k tid p).hmsgs = s.hmsgs := s.onGroup_hmsgs k _
@[simp] theorem State.arrive_dones (s : State) (k tid : Nat) (p : Point) : (s.arrive k tid p).dones = s.dones := s.onGroup_dones k _
@[simp] theorem State.arrive_enrolled (s : State) (k tid : Nat) (p : Point) : (s.arrive k tid p).enrolled = s.enrolled := s.onGroup_enrolled k _
@[simp] theorem State.arrive_budget (s : State) (k tid : Nat) (p : Point) : (s.arrive k tid p).budget = s.budget := s.onGroup_budget k _
@[simp] theorem State.arrive_draw (s : State) (k tid : Nat) (p : Point) : (s.arrive k tid p).draw = s.draw := s.onGroup_draw k _
@[simp] theorem State.arrive_ready (s : State) (k tid : Nat) (p : Point) : (s.arrive k tid p).ready = s.ready := s.onGroup_ready k _
@[simp] theorem State.arrive_events (s : State) (k tid : Nat) (p : Point) : (s.arrive k tid p).events = s.events := s.onGroup_events k _
@[simp] theorem State.arrive_debugOut (s : State) (k tid : Nat) (p : Point) : (s.arrive k tid p).debugOut = s.debugOut := s.onGroup_debugOut k _
@[simp] theorem State.arrive_domain (s : State) (k tid : Nat) (p : Point) : (s.arrive k tid p).domain = s.domain := s.onGroup_domain k _
@[simp] theorem State.arrive_peerOut (s : State) (k tid : Nat) (p : Point) : (s.arrive k tid p).peerOut = s.peerOut := s.onGroup_peerOut k _
@[simp] theorem State.arrive_replies (s : State) (k tid : Nat) (p : Point) : (s.arrive k tid p).replies = s.replies := s.onGroup_replies k _
@[simp] theorem State.arrive_portIn (s : State) (k tid : Nat) (p : Point) : (s.arrive k tid p).portIn = s.portIn := s.onGroup_portIn k _
@[simp] theorem State.arrive_resent (s : State) (k tid : Nat) (p : Point) : (s.arrive k tid p).resent = s.resent := s.onGroup_resent k _
@[simp] theorem State.arrive_packets (s : State) (k tid : Nat) (p : Point) : (s.arrive k tid p).packets = s.packets := s.onGroup_packets k _
@[simp] theorem State.arrive_cur (s : State) (k tid : Nat) (p : Point) : (s.arrive k tid p).cur = s.cur := s.onGroup_cur k _
@[simp] theorem State.arrive_servedAt (s : State) (k tid : Nat) (p : Point) : (s.arrive k tid p).servedAt = s.servedAt := s.onGroup_servedAt k _
@[simp] theorem State.arrive_nextId (s : State) (k tid : Nat) (p : Point) : (s.arrive k tid p).nextId = s.nextId := s.onGroup_nextId k _
@[simp] theorem State.arrive_nextToken (s : State) (k tid : Nat) (p : Point) : (s.arrive k tid p).nextToken = s.nextToken := s.onGroup_nextToken k _
@[simp] theorem State.arrive_inputs (s : State) (k tid : Nat) (p : Point) : (s.arrive k tid p).inputs = s.inputs := s.onGroup_inputs k _
@[simp] theorem State.arrive_sched (s : State) (k tid : Nat) (p : Point) : (s.arrive k tid p).sched = s.sched := s.onGroup_sched k _

/-! ### State.wake -/

@[simp] theorem State.wake_stime (s : State) (k tid : Nat) (p : Point) : (s.wake k tid p).stime = s.stime := s.onGroup_stime k _
@[simp] theorem State.wake_mem (s : State) (k tid : Nat) (p : Point) : (s.wake k tid p).mem = s.mem := s.onGroup_mem k _
@[simp] theorem State.wake_noisy (s : State) (k tid : Nat) (p : Point) : (s.wake k tid p).noisy = s.noisy := s.onGroup_noisy k _
@[simp] theorem State.wake_badUnits (s : State) (k tid : Nat) (p : Point) : (s.wake k tid p).badUnits = s.badUnits := s.onGroup_badUnits k _
@[simp] theorem State.wake_cores (s : State) (k tid : Nat) (p : Point) : (s.wake k tid p).cores = s.cores := s.onGroup_cores k _
@[simp] theorem State.wake_columns (s : State) (k tid : Nat) (p : Point) : (s.wake k tid p).columns = s.columns := s.onGroup_columns k _
@[simp] theorem State.wake_saved (s : State) (k tid : Nat) (p : Point) : (s.wake k tid p).saved = s.saved := s.onGroup_saved k _
@[simp] theorem State.wake_launches (s : State) (k tid : Nat) (p : Point) : (s.wake k tid p).launches = s.launches := s.onGroup_launches k _
@[simp] theorem State.wake_ranges (s : State) (k tid : Nat) (p : Point) : (s.wake k tid p).ranges = s.ranges := s.onGroup_ranges k _
@[simp] theorem State.wake_tasks (s : State) (k tid : Nat) (p : Point) : (s.wake k tid p).tasks = s.tasks := s.onGroup_tasks k _
@[simp] theorem State.wake_tenants (s : State) (k tid : Nat) (p : Point) : (s.wake k tid p).tenants = s.tenants := s.onGroup_tenants k _
@[simp] theorem State.wake_keys (s : State) (k tid : Nat) (p : Point) : (s.wake k tid p).keys = s.keys := s.onGroup_keys k _
@[simp] theorem State.wake_frameKey (s : State) (k tid : Nat) (p : Point) : (s.wake k tid p).frameKey = s.frameKey := s.onGroup_frameKey k _
@[simp] theorem State.wake_dieQ (s : State) (k tid : Nat) (p : Point) : (s.wake k tid p).dieQ = s.dieQ := s.onGroup_dieQ k _
@[simp] theorem State.wake_heldFaults (s : State) (k tid : Nat) (p : Point) : (s.wake k tid p).heldFaults = s.heldFaults := s.onGroup_heldFaults k _
@[simp] theorem State.wake_islands (s : State) (k tid : Nat) (p : Point) : (s.wake k tid p).islands = s.islands := s.onGroup_islands k _
@[simp] theorem State.wake_accesses (s : State) (k tid : Nat) (p : Point) : (s.wake k tid p).accesses = s.accesses := s.onGroup_accesses k _
@[simp] theorem State.wake_clines (s : State) (k tid : Nat) (p : Point) : (s.wake k tid p).clines = s.clines := s.onGroup_clines k _
@[simp] theorem State.wake_walks (s : State) (k tid : Nat) (p : Point) : (s.wake k tid p).walks = s.walks := s.onGroup_walks k _
@[simp] theorem State.wake_copies (s : State) (k tid : Nat) (p : Point) : (s.wake k tid p).copies = s.copies := s.onGroup_copies k _
@[simp] theorem State.wake_takes (s : State) (k tid : Nat) (p : Point) : (s.wake k tid p).takes = s.takes := s.onGroup_takes k _
@[simp] theorem State.wake_engs (s : State) (k tid : Nat) (p : Point) : (s.wake k tid p).engs = s.engs := s.onGroup_engs k _
@[simp] theorem State.wake_kvs (s : State) (k tid : Nat) (p : Point) : (s.wake k tid p).kvs = s.kvs := s.onGroup_kvs k _
@[simp] theorem State.wake_hmsgs (s : State) (k tid : Nat) (p : Point) : (s.wake k tid p).hmsgs = s.hmsgs := s.onGroup_hmsgs k _
@[simp] theorem State.wake_dones (s : State) (k tid : Nat) (p : Point) : (s.wake k tid p).dones = s.dones := s.onGroup_dones k _
@[simp] theorem State.wake_enrolled (s : State) (k tid : Nat) (p : Point) : (s.wake k tid p).enrolled = s.enrolled := s.onGroup_enrolled k _
@[simp] theorem State.wake_budget (s : State) (k tid : Nat) (p : Point) : (s.wake k tid p).budget = s.budget := s.onGroup_budget k _
@[simp] theorem State.wake_draw (s : State) (k tid : Nat) (p : Point) : (s.wake k tid p).draw = s.draw := s.onGroup_draw k _
@[simp] theorem State.wake_ready (s : State) (k tid : Nat) (p : Point) : (s.wake k tid p).ready = s.ready := s.onGroup_ready k _
@[simp] theorem State.wake_events (s : State) (k tid : Nat) (p : Point) : (s.wake k tid p).events = s.events := s.onGroup_events k _
@[simp] theorem State.wake_debugOut (s : State) (k tid : Nat) (p : Point) : (s.wake k tid p).debugOut = s.debugOut := s.onGroup_debugOut k _
@[simp] theorem State.wake_domain (s : State) (k tid : Nat) (p : Point) : (s.wake k tid p).domain = s.domain := s.onGroup_domain k _
@[simp] theorem State.wake_peerOut (s : State) (k tid : Nat) (p : Point) : (s.wake k tid p).peerOut = s.peerOut := s.onGroup_peerOut k _
@[simp] theorem State.wake_replies (s : State) (k tid : Nat) (p : Point) : (s.wake k tid p).replies = s.replies := s.onGroup_replies k _
@[simp] theorem State.wake_portIn (s : State) (k tid : Nat) (p : Point) : (s.wake k tid p).portIn = s.portIn := s.onGroup_portIn k _
@[simp] theorem State.wake_resent (s : State) (k tid : Nat) (p : Point) : (s.wake k tid p).resent = s.resent := s.onGroup_resent k _
@[simp] theorem State.wake_packets (s : State) (k tid : Nat) (p : Point) : (s.wake k tid p).packets = s.packets := s.onGroup_packets k _
@[simp] theorem State.wake_cur (s : State) (k tid : Nat) (p : Point) : (s.wake k tid p).cur = s.cur := s.onGroup_cur k _
@[simp] theorem State.wake_servedAt (s : State) (k tid : Nat) (p : Point) : (s.wake k tid p).servedAt = s.servedAt := s.onGroup_servedAt k _
@[simp] theorem State.wake_nextId (s : State) (k tid : Nat) (p : Point) : (s.wake k tid p).nextId = s.nextId := s.onGroup_nextId k _
@[simp] theorem State.wake_nextToken (s : State) (k tid : Nat) (p : Point) : (s.wake k tid p).nextToken = s.nextToken := s.onGroup_nextToken k _
@[simp] theorem State.wake_inputs (s : State) (k tid : Nat) (p : Point) : (s.wake k tid p).inputs = s.inputs := s.onGroup_inputs k _
@[simp] theorem State.wake_sched (s : State) (k tid : Nat) (p : Point) : (s.wake k tid p).sched = s.sched := s.onGroup_sched k _

/-! ### Group.onThread -/

@[simp] theorem Group.onThread_gid (g : Group) (tid : Nat) (f : Thread → Thread) : (g.onThread tid f).gid = g.gid := rfl
@[simp] theorem Group.onThread_launch (g : Group) (tid : Nat) (f : Thread → Thread) : (g.onThread tid f).launch = g.launch := rfl
@[simp] theorem Group.onThread_core (g : Group) (tid : Nat) (f : Thread → Thread) : (g.onThread tid f).core = g.core := rfl
@[simp] theorem Group.onThread_rec_ (g : Group) (tid : Nat) (f : Thread → Thread) : (g.onThread tid f).rec_ = g.rec_ := rfl
@[simp] theorem Group.onThread_gangOf (g : Group) (tid : Nat) (f : Thread → Thread) : (g.onThread tid f).gangOf = g.gangOf := rfl
@[simp] theorem Group.onThread_blocks (g : Group) (tid : Nat) (f : Thread → Thread) : (g.onThread tid f).blocks = g.blocks := rfl
@[simp] theorem Group.onThread_sregs (g : Group) (tid : Nat) (f : Thread → Thread) : (g.onThread tid f).sregs = g.sregs := rfl
@[simp] theorem Group.onThread_regions (g : Group) (tid : Nat) (f : Thread → Thread) : (g.onThread tid f).regions = g.regions := rfl
@[simp] theorem Group.onThread_rows (g : Group) (tid : Nat) (f : Thread → Thread) : (g.onThread tid f).rows = g.rows := rfl
@[simp] theorem Group.onThread_tiles (g : Group) (tid : Nat) (f : Thread → Thread) : (g.onThread tid f).tiles = g.tiles := rfl
@[simp] theorem Group.onThread_cb2 (g : Group) (tid : Nat) (f : Thread → Thread) : (g.onThread tid f).cb2 = g.cb2 := rfl
@[simp] theorem Group.onThread_staging (g : Group) (tid : Nat) (f : Thread → Thread) : (g.onThread tid f).staging = g.staging := rfl
@[simp] theorem Group.onThread_entries (g : Group) (tid : Nat) (f : Thread → Thread) : (g.onThread tid f).entries = g.entries := rfl
@[simp] theorem Group.onThread_bundles (g : Group) (tid : Nat) (f : Thread → Thread) : (g.onThread tid f).bundles = g.bundles := rfl
@[simp] theorem Group.onThread_passes (g : Group) (tid : Nat) (f : Thread → Thread) : (g.onThread tid f).passes = g.passes := rfl
@[simp] theorem Group.onThread_issues (g : Group) (tid : Nat) (f : Thread → Thread) : (g.onThread tid f).issues = g.issues := rfl
@[simp] theorem Group.onThread_since (g : Group) (tid : Nat) (f : Thread → Thread) : (g.onThread tid f).since = g.since := rfl
@[simp] theorem Group.onThread_underDebug (g : Group) (tid : Nat) (f : Thread → Thread) : (g.onThread tid f).underDebug = g.underDebug := rfl
@[simp] theorem Group.onThread_halted (g : Group) (tid : Nat) (f : Thread → Thread) : (g.onThread tid f).halted = g.halted := rfl
@[simp] theorem Group.onThread_hangReported (g : Group) (tid : Nat) (f : Thread → Thread) : (g.onThread tid f).hangReported = g.hangReported := rfl
@[simp] theorem Group.onThread_stopping (g : Group) (tid : Nat) (f : Thread → Thread) : (g.onThread tid f).stopping = g.stopping := rfl
@[simp] theorem Group.onThread_moveTo (g : Group) (tid : Nat) (f : Thread → Thread) : (g.onThread tid f).moveTo = g.moveTo := rfl

/-! ### Group.unbundle -/

@[simp] theorem Group.unbundle_gid (g : Group) (tid : Nat) : (g.unbundle tid).gid = g.gid := rfl
@[simp] theorem Group.unbundle_launch (g : Group) (tid : Nat) : (g.unbundle tid).launch = g.launch := rfl
@[simp] theorem Group.unbundle_core (g : Group) (tid : Nat) : (g.unbundle tid).core = g.core := rfl
@[simp] theorem Group.unbundle_rec_ (g : Group) (tid : Nat) : (g.unbundle tid).rec_ = g.rec_ := rfl
@[simp] theorem Group.unbundle_gangOf (g : Group) (tid : Nat) : (g.unbundle tid).gangOf = g.gangOf := rfl
@[simp] theorem Group.unbundle_blocks (g : Group) (tid : Nat) : (g.unbundle tid).blocks = g.blocks := rfl
@[simp] theorem Group.unbundle_threads (g : Group) (tid : Nat) : (g.unbundle tid).threads = g.threads := rfl
@[simp] theorem Group.unbundle_sregs (g : Group) (tid : Nat) : (g.unbundle tid).sregs = g.sregs := rfl
@[simp] theorem Group.unbundle_regions (g : Group) (tid : Nat) : (g.unbundle tid).regions = g.regions := rfl
@[simp] theorem Group.unbundle_rows (g : Group) (tid : Nat) : (g.unbundle tid).rows = g.rows := rfl
@[simp] theorem Group.unbundle_tiles (g : Group) (tid : Nat) : (g.unbundle tid).tiles = g.tiles := rfl
@[simp] theorem Group.unbundle_cb2 (g : Group) (tid : Nat) : (g.unbundle tid).cb2 = g.cb2 := rfl
@[simp] theorem Group.unbundle_staging (g : Group) (tid : Nat) : (g.unbundle tid).staging = g.staging := rfl
@[simp] theorem Group.unbundle_entries (g : Group) (tid : Nat) : (g.unbundle tid).entries = g.entries := rfl
@[simp] theorem Group.unbundle_passes (g : Group) (tid : Nat) : (g.unbundle tid).passes = g.passes := rfl
@[simp] theorem Group.unbundle_issues (g : Group) (tid : Nat) : (g.unbundle tid).issues = g.issues := rfl
@[simp] theorem Group.unbundle_since (g : Group) (tid : Nat) : (g.unbundle tid).since = g.since := rfl
@[simp] theorem Group.unbundle_underDebug (g : Group) (tid : Nat) : (g.unbundle tid).underDebug = g.underDebug := rfl
@[simp] theorem Group.unbundle_halted (g : Group) (tid : Nat) : (g.unbundle tid).halted = g.halted := rfl
@[simp] theorem Group.unbundle_hangReported (g : Group) (tid : Nat) : (g.unbundle tid).hangReported = g.hangReported := rfl
@[simp] theorem Group.unbundle_stopping (g : Group) (tid : Nat) : (g.unbundle tid).stopping = g.stopping := rfl
@[simp] theorem Group.unbundle_moveTo (g : Group) (tid : Nat) : (g.unbundle tid).moveTo = g.moveTo := rfl

/-! ### Group.arrive -/

@[simp] theorem Group.arrive_gid (g : Group) (now tid : Nat) (p : Point) : (g.arrive now tid p).gid = g.gid := rfl
@[simp] theorem Group.arrive_launch (g : Group) (now tid : Nat) (p : Point) : (g.arrive now tid p).launch = g.launch := rfl
@[simp] theorem Group.arrive_core (g : Group) (now tid : Nat) (p : Point) : (g.arrive now tid p).core = g.core := rfl
@[simp] theorem Group.arrive_rec_ (g : Group) (now tid : Nat) (p : Point) : (g.arrive now tid p).rec_ = g.rec_ := rfl
@[simp] theorem Group.arrive_gangOf (g : Group) (now tid : Nat) (p : Point) : (g.arrive now tid p).gangOf = g.gangOf := rfl
@[simp] theorem Group.arrive_blocks (g : Group) (now tid : Nat) (p : Point) : (g.arrive now tid p).blocks = g.blocks := rfl
@[simp] theorem Group.arrive_sregs (g : Group) (now tid : Nat) (p : Point) : (g.arrive now tid p).sregs = g.sregs := rfl
@[simp] theorem Group.arrive_regions (g : Group) (now tid : Nat) (p : Point) : (g.arrive now tid p).regions = g.regions := rfl
@[simp] theorem Group.arrive_rows (g : Group) (now tid : Nat) (p : Point) : (g.arrive now tid p).rows = g.rows := rfl
@[simp] theorem Group.arrive_tiles (g : Group) (now tid : Nat) (p : Point) : (g.arrive now tid p).tiles = g.tiles := rfl
@[simp] theorem Group.arrive_cb2 (g : Group) (now tid : Nat) (p : Point) : (g.arrive now tid p).cb2 = g.cb2 := rfl
@[simp] theorem Group.arrive_staging (g : Group) (now tid : Nat) (p : Point) : (g.arrive now tid p).staging = g.staging := rfl
@[simp] theorem Group.arrive_entries (g : Group) (now tid : Nat) (p : Point) : (g.arrive now tid p).entries = g.entries := rfl
@[simp] theorem Group.arrive_passes (g : Group) (now tid : Nat) (p : Point) : (g.arrive now tid p).passes = g.passes := rfl
@[simp] theorem Group.arrive_issues (g : Group) (now tid : Nat) (p : Point) : (g.arrive now tid p).issues = g.issues := rfl
@[simp] theorem Group.arrive_since (g : Group) (now tid : Nat) (p : Point) : (g.arrive now tid p).since = g.since := rfl
@[simp] theorem Group.arrive_underDebug (g : Group) (now tid : Nat) (p : Point) : (g.arrive now tid p).underDebug = g.underDebug := rfl
@[simp] theorem Group.arrive_halted (g : Group) (now tid : Nat) (p : Point) : (g.arrive now tid p).halted = g.halted := rfl
@[simp] theorem Group.arrive_hangReported (g : Group) (now tid : Nat) (p : Point) : (g.arrive now tid p).hangReported = g.hangReported := rfl
@[simp] theorem Group.arrive_stopping (g : Group) (now tid : Nat) (p : Point) : (g.arrive now tid p).stopping = g.stopping := rfl
@[simp] theorem Group.arrive_moveTo (g : Group) (now tid : Nat) (p : Point) : (g.arrive now tid p).moveTo = g.moveTo := rfl

/-! ### Group.wake -/

@[simp] theorem Group.wake_gid (g : Group) (now tid : Nat) (p : Point) : (g.wake now tid p).gid = g.gid := rfl
@[simp] theorem Group.wake_launch (g : Group) (now tid : Nat) (p : Point) : (g.wake now tid p).launch = g.launch := rfl
@[simp] theorem Group.wake_core (g : Group) (now tid : Nat) (p : Point) : (g.wake now tid p).core = g.core := rfl
@[simp] theorem Group.wake_rec_ (g : Group) (now tid : Nat) (p : Point) : (g.wake now tid p).rec_ = g.rec_ := rfl
@[simp] theorem Group.wake_gangOf (g : Group) (now tid : Nat) (p : Point) : (g.wake now tid p).gangOf = g.gangOf := rfl
@[simp] theorem Group.wake_blocks (g : Group) (now tid : Nat) (p : Point) : (g.wake now tid p).blocks = g.blocks := rfl
@[simp] theorem Group.wake_sregs (g : Group) (now tid : Nat) (p : Point) : (g.wake now tid p).sregs = g.sregs := rfl
@[simp] theorem Group.wake_regions (g : Group) (now tid : Nat) (p : Point) : (g.wake now tid p).regions = g.regions := rfl
@[simp] theorem Group.wake_rows (g : Group) (now tid : Nat) (p : Point) : (g.wake now tid p).rows = g.rows := rfl
@[simp] theorem Group.wake_tiles (g : Group) (now tid : Nat) (p : Point) : (g.wake now tid p).tiles = g.tiles := rfl
@[simp] theorem Group.wake_cb2 (g : Group) (now tid : Nat) (p : Point) : (g.wake now tid p).cb2 = g.cb2 := rfl
@[simp] theorem Group.wake_staging (g : Group) (now tid : Nat) (p : Point) : (g.wake now tid p).staging = g.staging := rfl
@[simp] theorem Group.wake_entries (g : Group) (now tid : Nat) (p : Point) : (g.wake now tid p).entries = g.entries := rfl
@[simp] theorem Group.wake_passes (g : Group) (now tid : Nat) (p : Point) : (g.wake now tid p).passes = g.passes := rfl
@[simp] theorem Group.wake_issues (g : Group) (now tid : Nat) (p : Point) : (g.wake now tid p).issues = g.issues := rfl
@[simp] theorem Group.wake_since (g : Group) (now tid : Nat) (p : Point) : (g.wake now tid p).since = g.since := rfl
@[simp] theorem Group.wake_underDebug (g : Group) (now tid : Nat) (p : Point) : (g.wake now tid p).underDebug = g.underDebug := rfl
@[simp] theorem Group.wake_halted (g : Group) (now tid : Nat) (p : Point) : (g.wake now tid p).halted = g.halted := rfl
@[simp] theorem Group.wake_hangReported (g : Group) (now tid : Nat) (p : Point) : (g.wake now tid p).hangReported = g.hangReported := rfl
@[simp] theorem Group.wake_stopping (g : Group) (now tid : Nat) (p : Point) : (g.wake now tid p).stopping = g.stopping := rfl
@[simp] theorem Group.wake_moveTo (g : Group) (now tid : Nat) (p : Point) : (g.wake now tid p).moveTo = g.moveTo := rfl

/-! ### Group.park -/

@[simp] theorem Group.park_gid (g : Group) (tid : Nat) (w : Wait) (p q : Point) (i : Nat) : (g.park tid w p q i).gid = g.gid := rfl
@[simp] theorem Group.park_launch (g : Group) (tid : Nat) (w : Wait) (p q : Point) (i : Nat) : (g.park tid w p q i).launch = g.launch := rfl
@[simp] theorem Group.park_core (g : Group) (tid : Nat) (w : Wait) (p q : Point) (i : Nat) : (g.park tid w p q i).core = g.core := rfl
@[simp] theorem Group.park_rec_ (g : Group) (tid : Nat) (w : Wait) (p q : Point) (i : Nat) : (g.park tid w p q i).rec_ = g.rec_ := rfl
@[simp] theorem Group.park_gangOf (g : Group) (tid : Nat) (w : Wait) (p q : Point) (i : Nat) : (g.park tid w p q i).gangOf = g.gangOf := rfl
@[simp] theorem Group.park_blocks (g : Group) (tid : Nat) (w : Wait) (p q : Point) (i : Nat) : (g.park tid w p q i).blocks = g.blocks := rfl
@[simp] theorem Group.park_sregs (g : Group) (tid : Nat) (w : Wait) (p q : Point) (i : Nat) : (g.park tid w p q i).sregs = g.sregs := rfl
@[simp] theorem Group.park_regions (g : Group) (tid : Nat) (w : Wait) (p q : Point) (i : Nat) : (g.park tid w p q i).regions = g.regions := rfl
@[simp] theorem Group.park_rows (g : Group) (tid : Nat) (w : Wait) (p q : Point) (i : Nat) : (g.park tid w p q i).rows = g.rows := rfl
@[simp] theorem Group.park_tiles (g : Group) (tid : Nat) (w : Wait) (p q : Point) (i : Nat) : (g.park tid w p q i).tiles = g.tiles := rfl
@[simp] theorem Group.park_cb2 (g : Group) (tid : Nat) (w : Wait) (p q : Point) (i : Nat) : (g.park tid w p q i).cb2 = g.cb2 := rfl
@[simp] theorem Group.park_staging (g : Group) (tid : Nat) (w : Wait) (p q : Point) (i : Nat) : (g.park tid w p q i).staging = g.staging := rfl
@[simp] theorem Group.park_entries (g : Group) (tid : Nat) (w : Wait) (p q : Point) (i : Nat) : (g.park tid w p q i).entries = g.entries := rfl
@[simp] theorem Group.park_passes (g : Group) (tid : Nat) (w : Wait) (p q : Point) (i : Nat) : (g.park tid w p q i).passes = g.passes := rfl
@[simp] theorem Group.park_issues (g : Group) (tid : Nat) (w : Wait) (p q : Point) (i : Nat) : (g.park tid w p q i).issues = g.issues := rfl
@[simp] theorem Group.park_since (g : Group) (tid : Nat) (w : Wait) (p q : Point) (i : Nat) : (g.park tid w p q i).since = g.since := rfl
@[simp] theorem Group.park_underDebug (g : Group) (tid : Nat) (w : Wait) (p q : Point) (i : Nat) : (g.park tid w p q i).underDebug = g.underDebug := rfl
@[simp] theorem Group.park_halted (g : Group) (tid : Nat) (w : Wait) (p q : Point) (i : Nat) : (g.park tid w p q i).halted = g.halted := rfl
@[simp] theorem Group.park_hangReported (g : Group) (tid : Nat) (w : Wait) (p q : Point) (i : Nat) : (g.park tid w p q i).hangReported = g.hangReported := rfl
@[simp] theorem Group.park_stopping (g : Group) (tid : Nat) (w : Wait) (p q : Point) (i : Nat) : (g.park tid w p q i).stopping = g.stopping := rfl
@[simp] theorem Group.park_moveTo (g : Group) (tid : Nat) (w : Wait) (p q : Point) (i : Nat) : (g.park tid w p q i).moveTo = g.moveTo := rfl

/-! ### Group.tidy -/

@[simp] theorem Group.tidy_gid (g : Group) : (g.tidy).gid = g.gid := rfl
@[simp] theorem Group.tidy_launch (g : Group) : (g.tidy).launch = g.launch := rfl
@[simp] theorem Group.tidy_core (g : Group) : (g.tidy).core = g.core := rfl
@[simp] theorem Group.tidy_rec_ (g : Group) : (g.tidy).rec_ = g.rec_ := rfl
@[simp] theorem Group.tidy_gangOf (g : Group) : (g.tidy).gangOf = g.gangOf := rfl
@[simp] theorem Group.tidy_blocks (g : Group) : (g.tidy).blocks = g.blocks := rfl
@[simp] theorem Group.tidy_threads (g : Group) : (g.tidy).threads = g.threads := rfl
@[simp] theorem Group.tidy_sregs (g : Group) : (g.tidy).sregs = g.sregs := rfl
@[simp] theorem Group.tidy_regions (g : Group) : (g.tidy).regions = g.regions := rfl
@[simp] theorem Group.tidy_rows (g : Group) : (g.tidy).rows = g.rows := rfl
@[simp] theorem Group.tidy_tiles (g : Group) : (g.tidy).tiles = g.tiles := rfl
@[simp] theorem Group.tidy_cb2 (g : Group) : (g.tidy).cb2 = g.cb2 := rfl
@[simp] theorem Group.tidy_staging (g : Group) : (g.tidy).staging = g.staging := rfl
@[simp] theorem Group.tidy_bundles (g : Group) : (g.tidy).bundles = g.bundles := rfl
@[simp] theorem Group.tidy_passes (g : Group) : (g.tidy).passes = g.passes := rfl
@[simp] theorem Group.tidy_issues (g : Group) : (g.tidy).issues = g.issues := rfl
@[simp] theorem Group.tidy_since (g : Group) : (g.tidy).since = g.since := rfl
@[simp] theorem Group.tidy_underDebug (g : Group) : (g.tidy).underDebug = g.underDebug := rfl
@[simp] theorem Group.tidy_halted (g : Group) : (g.tidy).halted = g.halted := rfl
@[simp] theorem Group.tidy_hangReported (g : Group) : (g.tidy).hangReported = g.hangReported := rfl
@[simp] theorem Group.tidy_stopping (g : Group) : (g.tidy).stopping = g.stopping := rfl
@[simp] theorem Group.tidy_moveTo (g : Group) : (g.tidy).moveTo = g.moveTo := rfl

end Sys2Proof.Machine
end

