-- ==== Sys2Proof/Laws/Operands.lean ====
section
/-! SUPPORT. What the writes of a thread's registers, predicates and flags leave unchanged. -/

namespace Sys2Proof.Machine

/-! ### Thread.setReg -/

@[simp] theorem Thread.setReg_run (t : Thread) (d : Code) (v : Word) : (t.setReg d v).run = t.run := by
  unfold Thread.setReg; split <;> rfl
@[simp] theorem Thread.setReg_point (t : Thread) (d : Code) (v : Word) : (t.setReg d v).point = t.point := by
  unfold Thread.setReg; split <;> rfl
@[simp] theorem Thread.setReg_arrival (t : Thread) (d : Code) (v : Word) : (t.setReg d v).arrival = t.arrival := by
  unfold Thread.setReg; split <;> rfl
@[simp] theorem Thread.setReg_preds (t : Thread) (d : Code) (v : Word) : (t.setReg d v).preds = t.preds := by
  unfold Thread.setReg; split <;> rfl
@[simp] theorem Thread.setReg_handles (t : Thread) (d : Code) (v : Word) : (t.setReg d v).handles = t.handles := by
  unfold Thread.setReg; split <;> rfl
@[simp] theorem Thread.setReg_tickets (t : Thread) (d : Code) (v : Word) : (t.setReg d v).tickets = t.tickets := by
  unfold Thread.setReg; split <;> rfl
@[simp] theorem Thread.setReg_fpmode (t : Thread) (d : Code) (v : Word) : (t.setReg d v).fpmode = t.fpmode := by
  unfold Thread.setReg; split <;> rfl
@[simp] theorem Thread.setReg_nflags (t : Thread) (d : Code) (v : Word) : (t.setReg d v).nflags = t.nflags := by
  unfold Thread.setReg; split <;> rfl
@[simp] theorem Thread.setReg_batch (t : Thread) (d : Code) (v : Word) : (t.setReg d v).batch = t.batch := by
  unfold Thread.setReg; split <;> rfl
@[simp] theorem Thread.setReg_batches (t : Thread) (d : Code) (v : Word) : (t.setReg d v).batches = t.batches := by
  unfold Thread.setReg; split <;> rfl
@[simp] theorem Thread.setReg_openOutcome (t : Thread) (d : Code) (v : Word) : (t.setReg d v).openOutcome = t.openOutcome := by
  unfold Thread.setReg; split <;> rfl
@[simp] theorem Thread.setReg_openFlags (t : Thread) (d : Code) (v : Word) : (t.setReg d v).openFlags = t.openFlags := by
  unfold Thread.setReg; split <;> rfl
@[simp] theorem Thread.setReg_traps (t : Thread) (d : Code) (v : Word) : (t.setReg d v).traps = t.traps := by
  unfold Thread.setReg; split <;> rfl
@[simp] theorem Thread.setReg_capFlag (t : Thread) (d : Code) (v : Word) : (t.setReg d v).capFlag = t.capFlag := by
  unfold Thread.setReg; split <;> rfl
@[simp] theorem Thread.setReg_lastIssue (t : Thread) (d : Code) (v : Word) : (t.setReg d v).lastIssue = t.lastIssue := by
  unfold Thread.setReg; split <;> rfl
@[simp] theorem Thread.setReg_issuedSince (t : Thread) (d : Code) (v : Word) : (t.setReg d v).issuedSince = t.issuedSince := by
  unfold Thread.setReg; split <;> rfl
@[simp] theorem Thread.setReg_due (t : Thread) (d : Code) (v : Word) : (t.setReg d v).due = t.due := by
  unfold Thread.setReg; split <;> rfl
@[simp] theorem Thread.setReg_grant (t : Thread) (d : Code) (v : Word) : (t.setReg d v).grant = t.grant := by
  unfold Thread.setReg; split <;> rfl

/-! ### Thread.setRegAt -/

@[simp] theorem Thread.setRegAt_run (t : Thread) (d : Code) (k : Nat) (v : Word) : (t.setRegAt d k v).run = t.run := by
  unfold Thread.setRegAt; split <;> rfl
@[simp] theorem Thread.setRegAt_point (t : Thread) (d : Code) (k : Nat) (v : Word) : (t.setRegAt d k v).point = t.point := by
  unfold Thread.setRegAt; split <;> rfl
@[simp] theorem Thread.setRegAt_arrival (t : Thread) (d : Code) (k : Nat) (v : Word) : (t.setRegAt d k v).arrival = t.arrival := by
  unfold Thread.setRegAt; split <;> rfl
@[simp] theorem Thread.setRegAt_preds (t : Thread) (d : Code) (k : Nat) (v : Word) : (t.setRegAt d k v).preds = t.preds := by
  unfold Thread.setRegAt; split <;> rfl
@[simp] theorem Thread.setRegAt_handles (t : Thread) (d : Code) (k : Nat) (v : Word) : (t.setRegAt d k v).handles = t.handles := by
  unfold Thread.setRegAt; split <;> rfl
@[simp] theorem Thread.setRegAt_tickets (t : Thread) (d : Code) (k : Nat) (v : Word) : (t.setRegAt d k v).tickets = t.tickets := by
  unfold Thread.setRegAt; split <;> rfl
@[simp] theorem Thread.setRegAt_fpmode (t : Thread) (d : Code) (k : Nat) (v : Word) : (t.setRegAt d k v).fpmode = t.fpmode := by
  unfold Thread.setRegAt; split <;> rfl
@[simp] theorem Thread.setRegAt_nflags (t : Thread) (d : Code) (k : Nat) (v : Word) : (t.setRegAt d k v).nflags = t.nflags := by
  unfold Thread.setRegAt; split <;> rfl
@[simp] theorem Thread.setRegAt_batch (t : Thread) (d : Code) (k : Nat) (v : Word) : (t.setRegAt d k v).batch = t.batch := by
  unfold Thread.setRegAt; split <;> rfl
@[simp] theorem Thread.setRegAt_batches (t : Thread) (d : Code) (k : Nat) (v : Word) : (t.setRegAt d k v).batches = t.batches := by
  unfold Thread.setRegAt; split <;> rfl
@[simp] theorem Thread.setRegAt_openOutcome (t : Thread) (d : Code) (k : Nat) (v : Word) : (t.setRegAt d k v).openOutcome = t.openOutcome := by
  unfold Thread.setRegAt; split <;> rfl
@[simp] theorem Thread.setRegAt_openFlags (t : Thread) (d : Code) (k : Nat) (v : Word) : (t.setRegAt d k v).openFlags = t.openFlags := by
  unfold Thread.setRegAt; split <;> rfl
@[simp] theorem Thread.setRegAt_traps (t : Thread) (d : Code) (k : Nat) (v : Word) : (t.setRegAt d k v).traps = t.traps := by
  unfold Thread.setRegAt; split <;> rfl
@[simp] theorem Thread.setRegAt_capFlag (t : Thread) (d : Code) (k : Nat) (v : Word) : (t.setRegAt d k v).capFlag = t.capFlag := by
  unfold Thread.setRegAt; split <;> rfl
@[simp] theorem Thread.setRegAt_lastIssue (t : Thread) (d : Code) (k : Nat) (v : Word) : (t.setRegAt d k v).lastIssue = t.lastIssue := by
  unfold Thread.setRegAt; split <;> rfl
@[simp] theorem Thread.setRegAt_issuedSince (t : Thread) (d : Code) (k : Nat) (v : Word) : (t.setRegAt d k v).issuedSince = t.issuedSince := by
  unfold Thread.setRegAt; split <;> rfl
@[simp] theorem Thread.setRegAt_due (t : Thread) (d : Code) (k : Nat) (v : Word) : (t.setRegAt d k v).due = t.due := by
  unfold Thread.setRegAt; split <;> rfl
@[simp] theorem Thread.setRegAt_grant (t : Thread) (d : Code) (k : Nat) (v : Word) : (t.setRegAt d k v).grant = t.grant := by
  unfold Thread.setRegAt; split <;> rfl

/-! ### Thread.setPair -/

@[simp] theorem Thread.setPair_run (t : Thread) (d : Code) (v : Dword) : (t.setPair d v).run = t.run := by
  simp [Thread.setPair]
@[simp] theorem Thread.setPair_point (t : Thread) (d : Code) (v : Dword) : (t.setPair d v).point = t.point := by
  simp [Thread.setPair]
@[simp] theorem Thread.setPair_arrival (t : Thread) (d : Code) (v : Dword) : (t.setPair d v).arrival = t.arrival := by
  simp [Thread.setPair]
@[simp] theorem Thread.setPair_preds (t : Thread) (d : Code) (v : Dword) : (t.setPair d v).preds = t.preds := by
  simp [Thread.setPair]
@[simp] theorem Thread.setPair_handles (t : Thread) (d : Code) (v : Dword) : (t.setPair d v).handles = t.handles := by
  simp [Thread.setPair]
@[simp] theorem Thread.setPair_tickets (t : Thread) (d : Code) (v : Dword) : (t.setPair d v).tickets = t.tickets := by
  simp [Thread.setPair]
@[simp] theorem Thread.setPair_fpmode (t : Thread) (d : Code) (v : Dword) : (t.setPair d v).fpmode = t.fpmode := by
  simp [Thread.setPair]
@[simp] theorem Thread.setPair_nflags (t : Thread) (d : Code) (v : Dword) : (t.setPair d v).nflags = t.nflags := by
  simp [Thread.setPair]
@[simp] theorem Thread.setPair_batch (t : Thread) (d : Code) (v : Dword) : (t.setPair d v).batch = t.batch := by
  simp [Thread.setPair]
@[simp] theorem Thread.setPair_batches (t : Thread) (d : Code) (v : Dword) : (t.setPair d v).batches = t.batches := by
  simp [Thread.setPair]
@[simp] theorem Thread.setPair_openOutcome (t : Thread) (d : Code) (v : Dword) : (t.setPair d v).openOutcome = t.openOutcome := by
  simp [Thread.setPair]
@[simp] theorem Thread.setPair_openFlags (t : Thread) (d : Code) (v : Dword) : (t.setPair d v).openFlags = t.openFlags := by
  simp [Thread.setPair]
@[simp] theorem Thread.setPair_traps (t : Thread) (d : Code) (v : Dword) : (t.setPair d v).traps = t.traps := by
  simp [Thread.setPair]
@[simp] theorem Thread.setPair_capFlag (t : Thread) (d : Code) (v : Dword) : (t.setPair d v).capFlag = t.capFlag := by
  simp [Thread.setPair]
@[simp] theorem Thread.setPair_lastIssue (t : Thread) (d : Code) (v : Dword) : (t.setPair d v).lastIssue = t.lastIssue := by
  simp [Thread.setPair]
@[simp] theorem Thread.setPair_issuedSince (t : Thread) (d : Code) (v : Dword) : (t.setPair d v).issuedSince = t.issuedSince := by
  simp [Thread.setPair]
@[simp] theorem Thread.setPair_due (t : Thread) (d : Code) (v : Dword) : (t.setPair d v).due = t.due := by
  simp [Thread.setPair]
@[simp] theorem Thread.setPair_grant (t : Thread) (d : Code) (v : Dword) : (t.setPair d v).grant = t.grant := by
  simp [Thread.setPair]

/-! ### Thread.setPred -/

@[simp] theorem Thread.setPred_run (t : Thread) (p : Pred) (b : Bool) : (t.setPred p b).run = t.run := by
  unfold Thread.setPred; split <;> rfl
@[simp] theorem Thread.setPred_point (t : Thread) (p : Pred) (b : Bool) : (t.setPred p b).point = t.point := by
  unfold Thread.setPred; split <;> rfl
@[simp] theorem Thread.setPred_arrival (t : Thread) (p : Pred) (b : Bool) : (t.setPred p b).arrival = t.arrival := by
  unfold Thread.setPred; split <;> rfl
@[simp] theorem Thread.setPred_regs (t : Thread) (p : Pred) (b : Bool) : (t.setPred p b).regs = t.regs := by
  unfold Thread.setPred; split <;> rfl
@[simp] theorem Thread.setPred_handles (t : Thread) (p : Pred) (b : Bool) : (t.setPred p b).handles = t.handles := by
  unfold Thread.setPred; split <;> rfl
@[simp] theorem Thread.setPred_tickets (t : Thread) (p : Pred) (b : Bool) : (t.setPred p b).tickets = t.tickets := by
  unfold Thread.setPred; split <;> rfl
@[simp] theorem Thread.setPred_fpmode (t : Thread) (p : Pred) (b : Bool) : (t.setPred p b).fpmode = t.fpmode := by
  unfold Thread.setPred; split <;> rfl
@[simp] theorem Thread.setPred_nflags (t : Thread) (p : Pred) (b : Bool) : (t.setPred p b).nflags = t.nflags := by
  unfold Thread.setPred; split <;> rfl
@[simp] theorem Thread.setPred_batch (t : Thread) (p : Pred) (b : Bool) : (t.setPred p b).batch = t.batch := by
  unfold Thread.setPred; split <;> rfl
@[simp] theorem Thread.setPred_batches (t : Thread) (p : Pred) (b : Bool) : (t.setPred p b).batches = t.batches := by
  unfold Thread.setPred; split <;> rfl
@[simp] theorem Thread.setPred_openOutcome (t : Thread) (p : Pred) (b : Bool) : (t.setPred p b).openOutcome = t.openOutcome := by
  unfold Thread.setPred; split <;> rfl
@[simp] theorem Thread.setPred_openFlags (t : Thread) (p : Pred) (b : Bool) : (t.setPred p b).openFlags = t.openFlags := by
  unfold Thread.setPred; split <;> rfl
@[simp] theorem Thread.setPred_traps (t : Thread) (p : Pred) (b : Bool) : (t.setPred p b).traps = t.traps := by
  unfold Thread.setPred; split <;> rfl
@[simp] theorem Thread.setPred_capFlag (t : Thread) (p : Pred) (b : Bool) : (t.setPred p b).capFlag = t.capFlag := by
  unfold Thread.setPred; split <;> rfl
@[simp] theorem Thread.setPred_lastIssue (t : Thread) (p : Pred) (b : Bool) : (t.setPred p b).lastIssue = t.lastIssue := by
  unfold Thread.setPred; split <;> rfl
@[simp] theorem Thread.setPred_issuedSince (t : Thread) (p : Pred) (b : Bool) : (t.setPred p b).issuedSince = t.issuedSince := by
  unfold Thread.setPred; split <;> rfl
@[simp] theorem Thread.setPred_due (t : Thread) (p : Pred) (b : Bool) : (t.setPred p b).due = t.due := by
  unfold Thread.setPred; split <;> rfl
@[simp] theorem Thread.setPred_grant (t : Thread) (p : Pred) (b : Bool) : (t.setPred p b).grant = t.grant := by
  unfold Thread.setPred; split <;> rfl

/-! ### Thread.addFlags -/

@[simp] theorem Thread.addFlags_run (t : Thread) (fl : Flags) : (t.addFlags fl).run = t.run := rfl
@[simp] theorem Thread.addFlags_point (t : Thread) (fl : Flags) : (t.addFlags fl).point = t.point := rfl
@[simp] theorem Thread.addFlags_arrival (t : Thread) (fl : Flags) : (t.addFlags fl).arrival = t.arrival := rfl
@[simp] theorem Thread.addFlags_regs (t : Thread) (fl : Flags) : (t.addFlags fl).regs = t.regs := rfl
@[simp] theorem Thread.addFlags_preds (t : Thread) (fl : Flags) : (t.addFlags fl).preds = t.preds := rfl
@[simp] theorem Thread.addFlags_handles (t : Thread) (fl : Flags) : (t.addFlags fl).handles = t.handles := rfl
@[simp] theorem Thread.addFlags_tickets (t : Thread) (fl : Flags) : (t.addFlags fl).tickets = t.tickets := rfl
@[simp] theorem Thread.addFlags_fpmode (t : Thread) (fl : Flags) : (t.addFlags fl).fpmode = t.fpmode := rfl
@[simp] theorem Thread.addFlags_batch (t : Thread) (fl : Flags) : (t.addFlags fl).batch = t.batch := rfl
@[simp] theorem Thread.addFlags_batches (t : Thread) (fl : Flags) : (t.addFlags fl).batches = t.batches := rfl
@[simp] theorem Thread.addFlags_openOutcome (t : Thread) (fl : Flags) : (t.addFlags fl).openOutcome = t.openOutcome := rfl
@[simp] theorem Thread.addFlags_openFlags (t : Thread) (fl : Flags) : (t.addFlags fl).openFlags = t.openFlags := rfl
@[simp] theorem Thread.addFlags_traps (t : Thread) (fl : Flags) : (t.addFlags fl).traps = t.traps := rfl
@[simp] theorem Thread.addFlags_capFlag (t : Thread) (fl : Flags) : (t.addFlags fl).capFlag = t.capFlag := rfl
@[simp] theorem Thread.addFlags_lastIssue (t : Thread) (fl : Flags) : (t.addFlags fl).lastIssue = t.lastIssue := rfl
@[simp] theorem Thread.addFlags_issuedSince (t : Thread) (fl : Flags) : (t.addFlags fl).issuedSince = t.issuedSince := rfl
@[simp] theorem Thread.addFlags_due (t : Thread) (fl : Flags) : (t.addFlags fl).due = t.due := rfl
@[simp] theorem Thread.addFlags_grant (t : Thread) (fl : Flags) : (t.addFlags fl).grant = t.grant := rfl

end Sys2Proof.Machine
end

