-- ==== Sys2Proof/Laws/Ops.lean ====
section
/-! SUPPORT. What each shared operation can do, said once: memory keeps its form and reads back, a thread arrives or parks and
no other thread changes, a trap ends in one of the ways of R162 to R164. -/

namespace Sys2Proof.Machine

/-! ### Memory -/

theorem memOk_of_eq {s t : State} (hm : t.mem = s.mem) (hn : t.noisy = s.noisy) (h : MemOk s) : MemOk t := by
  unfold MemOk at *; rwa [hm, hn]

theorem memOk_write {s : State} (h : MemOk s) (k : Nat) (bs : List Byte) : MemOk (s.write k bs) := ⟨h.1, memWrite_wf h.2 k bs⟩

theorem byte_write {s : State} (h : MemOk s) (k j : Nat) (bs : List Byte) :
    (s.write k bs).byte j = if k ≤ j ∧ j < k + bs.length then bs.getD (j - k) 0 else s.byte j := memGet_memWrite h.2 k j bs

theorem bytes_write_self {s : State} (h : MemOk s) (k : Nat) (bs : List Byte) : (s.write k bs).bytes k bs.length = bs :=
  memRead_memWrite h.2 k bs

theorem memOk_reset : MemOk State.reset := ⟨rfl, reset_mem_wf⟩

/-- A write at a translated place: to memory, or a request to a peer with memory unchanged (R182). -/
theorem devWrite_cases (s : State) (tenant k : Nat) (bs : List Byte) :
    (k < Config.peerBase ∧ s.devWrite tenant k bs = s.write k bs) ∨
      (Config.peerBase ≤ k ∧ ∃ r, s.devWrite tenant k bs = { s with peerOut := s.peerOut ++ [r] }) := by
  unfold State.devWrite
  split
  · exact .inr ⟨by assumption, _, rfl⟩
  · exact .inl ⟨by omega, rfl⟩

theorem memOk_devWrite {s : State} (h : MemOk s) (tenant k : Nat) (bs : List Byte) : MemOk (s.devWrite tenant k bs) := by
  obtain ⟨-, e⟩ | ⟨-, r, e⟩ := devWrite_cases s tenant k bs <;> rw [e]
  · exact memOk_write h k bs
  · exact h

/-! ### Arrivals and parking -/

theorem onGroup_rest (s : State) (k : Nat) (f : Group → Group) : s.onGroup k f = { s with groups := (s.onGroup k f).groups } := by
  unfold State.onGroup; split <;> rfl

theorem arrive_rest (s : State) (k tid : Nat) (p : Point) : s.arrive k tid p = { s with groups := (s.arrive k tid p).groups } :=
  onGroup_rest s k _

/-- A thread arrives as a bundle of its own; no other thread of any group changes. -/
theorem thread_arrive (s : State) (k tid j i : Nat) (p : Point) : (s.arrive k tid p).thread i j =
    (s.thread i j).map fun u =>
      if i = k ∧ j = tid then { u with run := .runnable, point := p, word := p.word, arrival := s.stime } else u := by
  simp only [thread_eq, State.arrive, group_onGroup]
  by_cases h : i = k
  · subst h
    cases s.group i with
    | none => simp
    | some g =>
      simp only [if_true, Option.map_some, Option.bind_some]
      show ((g.unbundle tid).onThread tid _).thread j = _
      rw [Group.thread_onThread _ _ _ _ (by intro u; rfl)]
      by_cases hj : j = tid <;> simp [hj, Group.unbundle, Group.thread]
  · simp [h]

/-- A thread parks at its issue; no other thread of its group changes, and it is in no bundle. -/
theorem thread_park (g : Group) (tid j : Nat) (w : Wait) (p q : Point) (i : Nat) : (g.park tid w p q i).thread j =
    (g.thread j).map fun u => if j = tid then
      { u with run := .parked w p q, point := u.standing p, word := p.word, parkWord := i } else u := by
  show ((g.unbundle tid).onThread tid _).thread j = _
  rw [Group.thread_onThread _ _ _ _ (by intro u; rfl)]
  by_cases hj : j = tid <;> simp [hj, Group.unbundle, Group.thread]

theorem not_mem_unbundle (g : Group) (tid : Nat) : ∀ b ∈ (g.unbundle tid).bundles, tid ∉ b.tids := by
  intro b hb
  simp only [Group.unbundle, List.mem_filter, List.mem_map] at hb
  obtain ⟨⟨a, -, rfl⟩, -⟩ := hb
  simp

/-! ### Traps -/

/-- Where a trap of a thread that stands goes: into debug, to a fatal end, to a walk of the vector table, to a wait for its column, to the
end by its error, or one level deeper to the handler's first packet. -/
theorem tryTrap_cases {s : State} {k tid : Nat} {x : Group} {t : Thread} (hg : s.group k = some x) (ht : x.thread tid = some t)
    (p : Point) (word : Nat) (code : Byte) (tval : Dword) (tmask : Word) (handler : Nat) :
    let r := s.tryTrap k tid p word code tval tmask handler
    let s1 := s.onThread k tid fun u => u.clearHandle code handler
    (x.underDebug = true ∧ code = 0x50 ∧ r = s.debugStop k tid x p handler) ∨
    (4 ≤ t.traps.length ∧ r = s.fatalTrap k tid x p code tval (accessOf code handler) ((t.traps.head?.map fun l => l.code.toNat).getD 0)) ∨
    (∃ va, s.trapDest k tid x code.toNat handler = .miss va ∧ r = s.parkWalk k tid x va 0 p) ∨
    (∃ pa, s.trapDest k tid x code.toNat handler = .wait pa ∧ r = s.onGroup k fun y => y.park tid (.column pa) p p) ∨
    (∃ va, s.trapDest k tid x code.toNat handler = .error va ∧ r = s.fatalTrap k tid x p 0x21 (BitVec.ofNat 64 va) 0 0) ∨
    (∃ a, s.trapDest k tid x code.toNat handler = .entry a ∧ (a = 0 ∨ a % 12 ≠ 0) ∧ r = s1.fatalTrap k tid x p code tval (accessOf code handler) 0) ∨
    (∃ a, s.trapDest k tid x code.toNat handler = .entry a ∧ a ≠ 0 ∧ a % 12 = 0 ∧ t.traps.length < 4 ∧
      r = (s1.onThread k tid fun u => { u with traps := trapLevel p word code tval tmask :: u.traps }).arrive k tid
        { prio := p.prio, pc := a / 12, word := 0 }) := by
  simp only [State.tryTrap, hg, ht]
  split
  · rename_i h; exact .inl ⟨h.1, h.2, rfl⟩
  · split
    · rename_i h; exact .inr (.inl ⟨h, rfl⟩)
    · split
      · rename_i va h; exact .inr (.inr (.inl ⟨va, h, rfl⟩))
      · rename_i pa h; exact .inr (.inr (.inr (.inl ⟨pa, h, rfl⟩)))
      · rename_i va h; exact .inr (.inr (.inr (.inr (.inl ⟨va, h, rfl⟩))))
      · rename_i a h
        split
        · rename_i hz; exact .inr (.inr (.inr (.inr (.inr (.inl ⟨a, h, hz, rfl⟩)))))
        · rename_i hz
          exact .inr (.inr (.inr (.inr (.inr (.inr ⟨a, h, by omega, by omega, by omega, rfl⟩)))))

end Sys2Proof.Machine
end

