-- ==== Sys2Proof/Laws/Regions.lean ====
section
/-! SUPPORT. What the region table answers for an address. -/

namespace Sys2Proof.Machine

theorem findSome_entryAt_none (a : Nat) (l : List (Option Region)) (j : Nat)
    (h : ∀ r, some r ∈ l → a < r.base ∨ r.base + r.size ≤ a) : (l.zipIdx j).findSome? (entryAt a) = none := by
  induction l generalizing j with
  | nil => rfl
  | cons x l ih =>
    simp only [List.zipIdx_cons, List.findSome?_cons]
    cases x with
    | none => exact ih _ fun r hr => h r (by simp [hr])
    | some r =>
      have : r.covers a = false := by have := h r (by simp); simp [Region.covers]; omega
      simp only [entryAt, this]
      exact ih _ fun r hr => h r (by simp [hr])

theorem findSome_entryAt_some (a : Nat) (l : List (Option Region)) (j : Nat) (r : Region) (h : some r ∈ l)
    (hb : r.base ≤ a) (hs : a < r.base + r.size)
    (hu : ∀ q, some q ∈ l → q.base ≤ a → a < q.base + q.size → q = r) :
    ∃ i, (l.zipIdx j).findSome? (entryAt a) = some (j + i, r) ∧ l[i]? = some (some r) := by
  induction l generalizing j with
  | nil => simp at h
  | cons x l ih =>
    simp only [List.zipIdx_cons, List.findSome?_cons]
    cases x with
    | none =>
      obtain ⟨i, h1, h2⟩ := ih (j + 1) (by simpa using h) fun q hq => hu q (by simp [hq])
      exact ⟨i + 1, by simp only [entryAt, h1]; congr 2; omega, by simpa using h2⟩
    | some q =>
      by_cases hq : q.covers a = true
      · have := hu q (by simp) (by simp [Region.covers] at hq; omega) (by simp [Region.covers] at hq; omega)
        subst this
        exact ⟨0, by simp [entryAt, hq], by simp⟩
      · have hne : r ≠ q := by rintro rfl; simp [Region.covers] at hq; omega
        obtain ⟨i, h1, h2⟩ := ih (j + 1) (by simpa [hne] using h) fun q hq => hu q (by simp [hq])
        exact ⟨i + 1, by simp only [entryAt, if_neg hq, h1]; congr 2; omega, by simpa using h2⟩

/-- No region of the group holds the address. -/
theorem regionAt_none {g : Group} {a : Nat} (h : ∀ r, some r ∈ g.regions → a < r.base ∨ r.base + r.size ≤ a) :
    g.regionAt a = none := findSome_entryAt_none a _ 0 h

/-- One region of the group holds the address. -/
theorem regionAt_some {g : Group} {a : Nat} {r : Region} (h : some r ∈ g.regions) (hb : r.base ≤ a)
    (hs : a < r.base + r.size) (hu : ∀ q, some q ∈ g.regions → q.base ≤ a → a < q.base + q.size → q = r) :
    ∃ i, g.regionAt a = some (i, r) ∧ g.regions[i]? = some (some r) := by
  simpa [Group.regionAt] using findSome_entryAt_some a g.regions 0 r h hb hs hu

end Sys2Proof.Machine
end

