-- ==== Sys2Proof/Tests/Slice0.lean ====
section
/-! SUPPORT. Tests: words of the spec and their instructions, ill-formed terms, single steps, and for every statement with
hypotheses a state and operands that meet them.  Expected results are the spec's own examples or calculated by hand from its
rules. -/

set_option maxRecDepth 100000
set_option exponentiation.threshold 1000

namespace Sys2Proof.Tests

open Machine

/-! ### Decoding: one word for every instruction, laid out by hand from R195, R206 and R207 -/

/-- Row 0x0_ of the opcode map. -/
theorem test_decode_row0 : ∀ p ∈ ([
    (0x00800000, 0x00000000, .nop),
    (0x01000000, 0x00000000, .exit),
    (0x01800000, 0x00000000, .yield),
    (0x02000007, 0x00000000, .trap 7),
    (0x02800012, 0x00000000, .bkpt 18),
    (0x03000000, 0x00000000, .xret),
    (0x03800000, 0x00000000, .evwait 0),
    (0x04060040, 0x00000000, .sysr { v := 6, sreg := 64 }),
    (0x04860020, 0x00000000, .sysw { v := 6, sreg := 32 }),
    (0x05181008, 0xFFFFFFFF, .bra { p := 1, neg := true, tprio := 2, fprio := 1, off := 0xFFFFFFFF }),
    (0x05701009, 0x00000010, .bru { p := 7, neg := false, tprio := 2, fprio := 1, off := 16 }),
    (0x0510100A, 0x00000010, .call { p := 1, neg := false, tprio := 2, fprio := 1, off := 16 }),
    (0x05818500, 0x00000000, .brx { prio := 3, a := 10 }),
    (0x06000000, 0x00000000, .ret)] : List (Word × Word × Instr)), (decode 120 p.1 (some p.2.1)).toOption = some p.2.2 := by decide

/-- Row 0x1_ of the opcode map. -/
theorem test_decode_row1 : ∀ p ∈ ([
    (0x08228245, 0x00000000, .iadd { k := false, bs := true, d := 10, a := 4, b := 69 }),
    (0x08A28245, 0x00000000, .isub { k := false, bs := true, d := 10, a := 4, b := 69 }),
    (0x09228245, 0x00000000, .imul { k := false, bs := true, d := 10, a := 4, b := 69 }),
    (0x09A28245, 0x00000000, .imulhS32 { k := false, bs := true, d := 10, a := 4, b := 69 }),
    (0x0A228245, 0x00000000, .imulhN32 { k := false, bs := true, d := 10, a := 4, b := 69 }),
    (0x0AA28245, 0x00000000, .imad { k := false, bs := true, d := 10, a := 4, b := 69 }),
    (0x0B228245, 0x00000000, .iminS32 { k := false, bs := true, d := 10, a := 4, b := 69 }),
    (0x0BA28245, 0x00000000, .iminN32 { k := false, bs := true, d := 10, a := 4, b := 69 }),
    (0x0C228245, 0x00000000, .imaxS32 { k := false, bs := true, d := 10, a := 4, b := 69 }),
    (0x0CA28245, 0x00000000, .imaxN32 { k := false, bs := true, d := 10, a := 4, b := 69 }),
    (0x0D5F027C, 0x00000000, .iabs { k := true, d := 124, a := 4 }),
    (0x0D844200, 0x00000000, .icmp { bs := false, pd := 1, cond := 1, a := 4, b := 0 }),
    (0x0E028286, 0x00000000, .lea { k := false, bs := false, d := 10, a := 5, b := 6 }),
    (0x0E980283, 0x00000000, .sel { p := 1, neg := true, bs := false, d := 5, b := 3 }),
    (0x0F02BE7E, 0x00000000, .mov { k := false, bs := false, d := 10, b := 126 })] : List (Word × Word × Instr)), (decode 120 p.1 (some p.2.1)).toOption = some p.2.2 := by decide

/-- Row 0x2_ of the opcode map. -/
theorem test_decode_row2 : ∀ p ∈ ([
    (0x10228245, 0x00000000, .and { k := false, bs := true, d := 10, a := 4, b := 69 }),
    (0x10A28245, 0x00000000, .or { k := false, bs := true, d := 10, a := 4, b := 69 }),
    (0x11228245, 0x00000000, .xor { k := false, bs := true, d := 10, a := 4, b := 69 }),
    (0x11A28245, 0x00000000, .shl { k := false, bs := true, d := 10, a := 4, b := 69 }),
    (0x12228245, 0x00000000, .shr { k := false, bs := true, d := 10, a := 4, b := 69 }),
    (0x12A28245, 0x00000000, .sar { k := false, bs := true, d := 10, a := 4, b := 69 }),
    (0x13228245, 0x00000000, .bfx { k := false, bs := true, d := 10, a := 4, b := 69 }),
    (0x13A28245, 0x00000000, .bfi { k := false, bs := true, d := 10, a := 4, b := 69 }),
    (0x1400C17C, 0x00000000, .popc { k := false, d := 3, a := 2 }),
    (0x1480C17C, 0x00000000, .clz { k := false, d := 3, a := 2 }),
    (0x1500C17C, 0x00000000, .brev { k := false, d := 3, a := 2 }),
    (0x15B2B8C0, 0x00000000, .plop { pd := 3, pa := 1, pb := 2, pc := 7, tt := 192 }),
    (0x1604FFFE, 0x00000000, .movi { k := false, d := 9, imm := 32766 }),
    (0x16814000, 0x89ABCDEF, .movl { d := 5, lit := 0x89ABCDEF })] : List (Word × Word × Instr)), (decode 120 p.1 (some p.2.1)).toOption = some p.2.2 := by decide

/-- Row 0x3_ of the opcode map. -/
theorem test_decode_row3 : ∀ p ∈ ([
    (0x18228245, 0x00000000, .fadd { k := false, bs := true, d := 10, a := 4, b := 69 }),
    (0x18A28245, 0x00000000, .fmul { k := false, bs := true, d := 10, a := 4, b := 69 }),
    (0x19228245, 0x00000000, .ffma { k := false, bs := true, d := 10, a := 4, b := 69 }),
    (0x19A28245, 0x00000000, .fmin { k := false, bs := true, d := 10, a := 4, b := 69 }),
    (0x1A228245, 0x00000000, .fmax { k := false, bs := true, d := 10, a := 4, b := 69 }),
    (0x1ABAC209, 0x00000000, .fcmp { bs := true, pd := 6, cond := 11, a := 4, b := 9 }),
    (0x1B00C104, 0x00000000, .frnd { k := false, d := 3, a := 2, rc := 4 }),
    (0x1B80C17C, 0x00000000, .fexp2 { d := 3, a := 2 }),
    (0x1C00C17C, 0x00000000, .flog2 { d := 3, a := 2 }),
    (0x1C80C17C, 0x00000000, .frcp { d := 3, a := 2 }),
    (0x1D00C17C, 0x00000000, .frsq { d := 3, a := 2 }),
    (0x1D80C17C, 0x00000000, .fsqrt { d := 3, a := 2 }),
    (0x1E2140FC, 0x00003088, .cvt { sat := true, d := 5, a := 1, b := 124, sfmt := 3, dfmt := 0, rnd := 4, eidx := 2 }),
    (0x1E814082, 0x00000308, .cvtp { sat := false, d := 5, a := 1, b := 2, sfmt := 0, dfmt := 3, rnd := 0, eidx := 2 })] : List (Word × Word × Instr)), (decode 120 p.1 (some p.2.1)).toOption = some p.2.2 := by decide

/-- Row 0x4_ of the opcode map. -/
theorem test_decode_row4 : ∀ p ∈ ([
    (0x20228245, 0x00000000, .paddBf16 { k := false, bs := true, d := 10, a := 4, b := 69 }),
    (0x20A28245, 0x00000000, .paddF16 { k := false, bs := true, d := 10, a := 4, b := 69 }),
    (0x21228245, 0x00000000, .pmulBf16 { k := false, bs := true, d := 10, a := 4, b := 69 }),
    (0x21A28245, 0x00000000, .pmulF16 { k := false, bs := true, d := 10, a := 4, b := 69 }),
    (0x22228245, 0x00000000, .pfmaBf16 { k := false, bs := true, d := 10, a := 4, b := 69 }),
    (0x22A28245, 0x00000000, .pfmaF16 { k := false, bs := true, d := 10, a := 4, b := 69 }),
    (0x23018103, 0x00000002, .dp4 { k := false, bs := false, d := 6, a := 2, b := 3, sga := true, sgb := false }),
    (0x23A28245, 0x00000000, .dp8 { k := false, bs := true, d := 10, a := 4, b := 69 }),
    (0x240282B1, 0x00000000, .qxch { d := 5, a := 2, sel := 177 }),
    (0x2481C205, 0x00000000, .xlane { bs := false, d := 7, a := 4, b := 5 }),
    (0x2524C300, 0x00000000, .wvote { pd := 2, k := 1, pa := 3, d := 6 })] : List (Word × Word × Instr)), (decode 120 p.1 (some p.2.1)).toOption = some p.2.2 := by decide

/-- Row 0x5_ of the opcode map. -/
theorem test_decode_row5 : ∀ p ∈ ([
    (0x280A040C, 0x001F3E00, .mmfBf16 { d := 40, a := 8, b := 12, sca := 124, scb := 124, sela := 0, selb := 0, sga := false, sgb := false }),
    (0x288A040C, 0x001F3E00, .mmfF16 { d := 40, a := 8, b := 12, sca := 124, scb := 124, sela := 0, selb := 0, sga := false, sgb := false }),
    (0x290A040C, 0x000306B0, .mmfE4m3 { d := 40, a := 8, b := 12, sca := 12, scb := 13, sela := 1, selb := 2, sga := false, sgb := false }),
    (0x298A040C, 0x000306B0, .mmfE5m2 { d := 40, a := 8, b := 12, sca := 12, scb := 13, sela := 1, selb := 2, sga := false, sgb := false }),
    (0x2A0A040C, 0x000306B0, .mmfE2m1 { d := 40, a := 8, b := 12, sca := 12, scb := 13, sela := 1, selb := 2, sga := false, sgb := false }),
    (0x2A8A040C, 0x001F3E04, .mmfS8 { d := 40, a := 8, b := 12, sca := 124, scb := 124, sela := 0, selb := 0, sga := true, sgb := false })] : List (Word × Word × Instr)), (decode 120 p.1 (some p.2.1)).toOption = some p.2.2 := by decide

/-- Row 0x6_ of the opcode map. -/
theorem test_decode_row6 : ∀ p ∈ ([
    (0x300C5841, 0x00000000, .sadd { d := 49, a := 48, b := 65 }),
    (0x308C5841, 0x00000000, .ssub { d := 49, a := 48, b := 65 }),
    (0x310C5841, 0x00000000, .smul { d := 49, a := 48, b := 65 }),
    (0x318C5841, 0x00000000, .sand { d := 49, a := 48, b := 65 }),
    (0x320C5841, 0x00000000, .sor { d := 49, a := 48, b := 65 }),
    (0x328C5841, 0x00000000, .sxor { d := 49, a := 48, b := 65 }),
    (0x330C5841, 0x00000000, .sshl { d := 49, a := 48, b := 65 }),
    (0x338C5841, 0x00000000, .sshr { d := 49, a := 48, b := 65 }),
    (0x34088184, 0x00000000, .scmp { pd := 2, cond := 2, a := 3, b := 4 }),
    (0x34850003, 0x00000000, .smov { d := 20, b := 3 }),
    (0x35250000, 0x80000000, .smovl { half := 1, d := 20, lit := 0x80000000 }),
    (0x358C5841, 0x00000000, .sld { d := 49, a := 48, b := 65 }),
    (0x36014080, 0x00000000, .sfirst { d := 5, a := 1 })] : List (Word × Word × Instr)), (decode 120 p.1 (some p.2.1)).toOption = some p.2.2 := by decide

/-- Row 0x7_ of the opcode map. -/
theorem test_decode_row7 : ∀ p ∈ ([
    (0x38594186, 0x00000000, .ld { ty := 5, sc := 2, ord := 1, base := 1, a := 3, v := 6 }),
    (0x38A04182, 0x00000000, .st { ty := 2, sc := 0, ord := 0, base := 1, a := 3, v := 2 }),
    (0x39600308, 0x00000000, .lds { ty := 6, sc := 0, ord := 0, a := 6, v := 8 }),
    (0x39E00308, 0x00000000, .sts { ty := 6, sc := 0, ord := 0, a := 6, v := 8 }),
    (0x3A410106, 0x000000CB, .atom { sc := 2, d := 4, a := 2, b := 6, space := false, base := 1, ord := 2, opt := 11 }),
    (0x3A810100, 0x00000161, .acas { sc := 0, d := 4, a := 2, b := 0, space := false, base := 2, ord := 3, opt := 1 }),
    (0x3B5F0106, 0x000000C0, .red { sc := 2, d := 124, a := 2, b := 6, space := false, base := 1, ord := 2, opt := 0 }),
    (0x3BD80000, 0x00000000, .fence { sc := 2, kind := 3 }),
    (0x3C404103, 0x00000000, .promote { sc := 2, d := 1, a := 2, b := 3 }),
    (0x3C840101, 0x00000000, .ctadd { sc := 0, space := false, base := 1, a := 2, v := 1 }),
    (0x3D100184, 0x00000000, .ctwait { sc := 0, space := true, base := 0, a := 3, v := 4 }),
    (0x3D900184, 0x00000000, .ctread { sc := 0, space := true, base := 0, a := 3, v := 4 }),
    (0x3E7004FC, 0x00000000, .cseal 9),
    (0x3EF03E09, 0x00000000, .cwait 9),
    (0x3F700A09, 0x00000000, .cstat { d := 20, a := 9 })] : List (Word × Word × Instr)), (decode 120 p.1 (some p.2.1)).toOption = some p.2.2 := by decide

/-- Row 0x8_ of the opcode map. -/
theorem test_decode_row8 : ∀ p ∈ ([
    (0x40104288, 0x00000000, .ralloc { p := 1, g := true, d := 5, a := 8 }),
    (0x40903E05, 0x00000000, .rfree { p := 1, a := 5 }),
    (0x41114305, 0x00000000, .rrank { p := 1, x := 5, d := 6, a := 5 }),
    (0x41F00305, 0x00000000, .rstat { d := 6, a := 5 }),
    (0x41F04305, 0x00000000, .rstatClaim { d := 6, a := 5 }),
    (0x42210308, 0x00000000, .hcreate { pd := 2, h := 1, d := 6, b := 8 }),
    (0x42833E06, 0x00000000, .hjoin { h := 3, b := 6 }),
    (0x43033E7C, 0x00000000, .hleave 3),
    (0x4383047C, 0x00000000, .hbar { h := 3, d := 8 }),
    (0x442B3E09, 0x00000000, .harr { kind := 5, h := 3, b := 9 }),
    (0x4483047C, 0x00000000, .hwait { h := 3, d := 8 }),
    (0x45130401, 0x00000000, .hvote { kind := 2, h := 3, d := 8, b := 1 }),
    (0x45B30409, 0x00000000, .hred { kind := 6, h := 3, d := 8, b := 9 }),
    (0x4603047C, 0x00000000, .hquery { h := 3, d := 8 }),
    (0x460B047C, 0x00000000, .hqueryHdl { h := 3, d := 8 }),
    (0x46833E7C, 0x00000000, .hdiss 3),
    (0x4710027C, 0x00000000, .grangeRead { p := 1, d := 4 }),
    (0x4710427C, 0x00000000, .grangeTake { p := 1, d := 4 })] : List (Word × Word × Instr)), (decode 120 p.1 (some p.2.1)).toOption = some p.2.2 := by decide

/-- Row 0x9_ of the opcode map. -/
theorem test_decode_row9 : ∀ p ∈ ([
    (0x4800A400, 0x00000000, .cpy { u := 41 }),
    (0x4880A400, 0x00000000, .mx { u := 41 }),
    (0x4900A400, 0x00000000, .mxdrain { u := 41 }),
    (0x4980A400, 0x00000000, .attn { u := 41 }),
    (0x4981A400, 0x00000000, .attnMerge { u := 41 }),
    (0x4A002401, 0x00000000, .cbload { u := 9, space := true }),
    (0x4AA12804, 0x00000000, .enq { pd := 2, lq := false, ack := true, u := 10, a := 4 }),
    (0x4B00A185, 0x00000000, .ropen { u := 40, slot := 3, a := 5 }),
    (0x4BAC0088, 0x00000000, .rtake { pd := 2, try_ := true, dest := true, slot := 1, a := 8 }),
    (0x4C00017C, 0x00000000, .rclose 2),
    (0x4C800106, 0x00000000, .rpoll { slot := 2, a := 6 }),
    (0x4D001814, 0x00000000, .kvfind { u := 6, x := 20 }),
    (0x4D801814, 0x00000000, .kvins { u := 6, x := 20 }),
    (0x4D811814, 0x00000000, .kvinsSeal { u := 6, x := 20 }),
    (0x4E001814, 0x00000000, .kvdel { u := 6, x := 20 }),
    (0x4E801814, 0x00000000, .kvpfx { u := 6, x := 20 }),
    (0x4E811814, 0x00000000, .kvpfxIns { u := 6, x := 20 }),
    (0x4E821814, 0x00000000, .kvpfxDel { u := 6, x := 20 })] : List (Word × Word × Instr)), (decode 120 p.1 (some p.2.1)).toOption = some p.2.2 := by decide


/-- Words that the spec writes out (R188, R206 to R208, and the examples of its instruction pages). -/
theorem test_decode_spec_words : ∀ p ∈ ([
    (0x00800000, 0, .nop), (0x80800000, 0, .nop),
    (0x0D844200, 0, .icmp { pd := 1, cond := 1, bs := false, a := 4, b := 0 }),
    (0x0D888205, 0, .icmp { pd := 2, cond := 2, bs := false, a := 4, b := 5 }),
    (0x05101810, 0xFFFFFFFF, .bra { p := 1, neg := false, tprio := 3, fprio := 2, off := 0xFFFFFFFF }),
    (0x36014080, 0, .sfirst { d := 5, a := 1 }),
    (0x02800012, 0, .bkpt 0x12)] : List (Word × Word × Instr)), (decode 120 p.1 (some p.2.1)).toOption = some p.2.2 := by decide

/-- Words that are no instruction: reserved bits, an unassigned operation, a register beyond the grant, a missing second
word. -/
theorem test_decode_refuses :
    (decode 16 0x00000000 none).toOption.isNone = true ∧ (decode 16 0x00800001 none).toOption.isNone = true ∧
    (decode 16 0x7F800000 none).toOption.isNone = true ∧ (decode 16 0x0202007F none).toOption.isNone = true ∧
    (decode 16 0x06800000 none).toOption.isNone = true ∧ (decode 8 0x08228245 none).toOption.isNone = true ∧
    (decode 120 0x16814000 none).toOption.isNone = true := by decide

/-! ### Well-formedness: a term that each check refuses, in a thread of 16 registers -/

theorem smoke_wf_registers : ∀ i ∈ ([
    .iadd { k := false, bs := false, d := 16, a := 0, b := 0 }, .iadd { k := false, bs := false, d := 120, a := 0, b := 0 },
    .iadd { k := false, bs := false, d := 0, a := 16, b := 0 }, .iadd { k := false, bs := false, d := 0, a := 0, b := 127 },
    .iadd { k := true, bs := false, d := 0, a := 0, b := 0 }, .iabs { k := true, d := 3, a := 0 }, .iabs { k := false, d := 0, a := 16 },
    .lea { k := true, bs := false, d := 124, a := 0, b := 0 }, .lea { k := false, bs := false, d := 15, a := 0, b := 0 },
    .lea { k := false, bs := false, d := 0, a := 0, b := 15 }, .lea { k := false, bs := false, d := 0, a := 16, b := 0 },
    .sel { p := 0, neg := false, bs := false, d := 16, b := 0 }, .sel { p := 0, neg := false, bs := false, d := 0, b := 16 },
    .mov { k := true, bs := false, d := 0, b := 0 }, .mov { k := false, bs := false, d := 16, b := 0 },
    .mov { k := false, bs := false, d := 0, b := 16 }, .movi { k := true, d := 0, imm := 0 }, .movi { k := false, d := 16, imm := 0 },
    .movl { d := 16, lit := 0 }, .brx { prio := 0, a := 15 }, .fexp2 { d := 0, a := 16 }, .fexp2 { d := 16, a := 0 },
    .qxch { d := 16, a := 0, sel := 0 }, .xlane { bs := false, d := 0, a := 0, b := 16 }, .cseal 16, .cwait 16,
    .cstat { d := 0, a := 16 }, .rrank { p := 0, x := 0, d := 0, a := 16 }, .rfree { p := 0, a := 16 }, .rpoll { slot := 0, a := 16 },
    .hbar { h := 0, d := 16 }, .hwait { h := 0, d := 15 }, .hqueryHdl { h := 0, d := 16 }, .hjoin { h := 0, b := 16 },
    .grangeRead { p := 0, d := 15 }, .grangeTake { p := 0, d := 15 }, .promote { sc := 0, d := 0, a := 16, b := 0 },
    .ropen { u := 0, slot := 0, a := 16 }, .rstat { d := 0, a := 16 }, .rstatClaim { d := 16, a := 0 }] : List Instr),
    i.wf 16 = false := by decide

theorem smoke_wf_codes : ∀ i ∈ ([
    .evwait 1, .sysr { v := 0, sreg := 9 }, .sysr { v := 15, sreg := 0x012 }, .sysr { v := 16, sreg := 0 },
    .sysw { v := 0, sreg := 0 }, .sysw { v := 15, sreg := 0x020 }, .sysw { v := 16, sreg := 0x030 },
    .bru { p := 0, neg := false, tprio := 0, fprio := 0, off := 0 }, .bru { p := 7, neg := true, tprio := 0, fprio := 0, off := 0 },
    .icmp { bs := false, pd := 0, cond := 10, a := 0, b := 0 }, .fcmp { bs := false, pd := 0, cond := 6, a := 0, b := 0 },
    .fcmp { bs := false, pd := 0, cond := 9, a := 0, b := 0 }, .fcmp { bs := false, pd := 0, cond := 12, a := 0, b := 0 },
    .frnd { k := false, d := 0, a := 0, rc := 5 }, .frnd { k := true, d := 124, a := 0, rc := 0 },
    .cvt { sat := false, d := 0, a := 0, b := 0, sfmt := 0, dfmt := 0, rnd := 0, eidx := 0 },
    .cvt { sat := false, d := 0, a := 0, b := 124, sfmt := 12, dfmt := 0, rnd := 0, eidx := 0 },
    .cvt { sat := false, d := 0, a := 0, b := 124, sfmt := 0, dfmt := 12, rnd := 0, eidx := 0 },
    .cvt { sat := false, d := 0, a := 0, b := 124, sfmt := 0, dfmt := 0, rnd := 5, eidx := 0 },
    .cvt { sat := false, d := 0, a := 0, b := 124, sfmt := 0, dfmt := 0, rnd := 0, eidx := 1 },
    .cvtp { sat := false, d := 0, a := 0, b := 0, sfmt := 0, dfmt := 0, rnd := 0, eidx := 0 },
    .cvtp { sat := false, d := 0, a := 0, b := 0, sfmt := 0, dfmt := 1, rnd := 0, eidx := 1 },
    .wvote { pd := 0, k := 2, pa := 0, d := 0 },
    .mmfBf16 { d := 0, a := 0, b := 0, sca := 0, scb := 124, sela := 0, selb := 0, sga := false, sgb := false },
    .mmfBf16 { d := 0, a := 0, b := 0, sca := 124, scb := 124, sela := 0, selb := 0, sga := true, sgb := false },
    .mmfBf16 { d := 0, a := 13, b := 0, sca := 124, scb := 124, sela := 0, selb := 0, sga := false, sgb := false },
    .mmfE4m3 { d := 0, a := 0, b := 0, sca := 16, scb := 0, sela := 0, selb := 0, sga := false, sgb := false },
    .mmfS8 { d := 15, a := 0, b := 0, sca := 124, scb := 124, sela := 0, selb := 0, sga := false, sgb := false },
    .scmp { pd := 0, cond := 10, a := 0, b := 0 }, .scmp { pd := 0, cond := 0, a := 64, b := 0 },
    .sadd { d := 64, a := 0, b := 0 }, .sadd { d := 0, a := 64, b := 0 }, .smov { d := 64, b := 0 }, .smovl { half := 3, d := 0, lit := 0 },
    .smovl { half := 0, d := 64, lit := 0 }, .sfirst { d := 64, a := 0 }, .sfirst { d := 0, a := 16 }, .sld { d := 0, a := 64, b := 0 }] :
    List Instr), i.wf 16 = false := by decide

theorem smoke_wf_memory : ∀ i ∈ ([
    .ld { ty := 7, sc := 0, ord := 0, base := 0, a := 0, v := 0 }, .ld { ty := 4, sc := 0, ord := 2, base := 0, a := 0, v := 0 },
    .ld { ty := 5, sc := 0, ord := 0, base := 0, a := 0, v := 15 }, .ld { ty := 6, sc := 0, ord := 0, base := 0, a := 0, v := 13 },
    .st { ty := 1, sc := 0, ord := 0, base := 0, a := 0, v := 0 }, .st { ty := 4, sc := 0, ord := 1, base := 0, a := 0, v := 0 },
    .lds { ty := 4, sc := 0, ord := 0, a := 16, v := 0 }, .sts { ty := 3, sc := 0, ord := 0, a := 0, v := 0 },
    .atom { sc := 0, d := 0, a := 0, b := 0, space := true, base := 1, ord := 0, opt := 0 },
    .atom { sc := 0, d := 0, a := 0, b := 0, space := false, base := 0, ord := 0, opt := 14 },
    .atom { sc := 0, d := 1, a := 0, b := 0, space := false, base := 0, ord := 0, opt := 1 },
    .atom { sc := 0, d := 0, a := 0, b := 1, space := false, base := 0, ord := 0, opt := 10 },
    .acas { sc := 0, d := 0, a := 0, b := 15, space := false, base := 0, ord := 0, opt := 0 },
    .acas { sc := 0, d := 0, a := 0, b := 14, space := false, base := 0, ord := 0, opt := 1 },
    .acas { sc := 0, d := 0, a := 0, b := 0, space := false, base := 0, ord := 0, opt := 2 },
    .red { sc := 0, d := 0, a := 0, b := 0, space := false, base := 0, ord := 0, opt := 0 },
    .red { sc := 0, d := 124, a := 0, b := 0, space := false, base := 0, ord := 0, opt := 9 },
    .red { sc := 0, d := 124, a := 0, b := 0, space := false, base := 0, ord := 0, opt := 10 },
    .ctadd { sc := 0, space := true, base := 1, a := 0, v := 0 }, .ctadd { sc := 0, space := false, base := 0, a := 0, v := 16 },
    .ctwait { sc := 0, space := false, base := 0, a := 0, v := 15 }, .ctread { sc := 0, space := false, base := 0, a := 0, v := 15 },
    .ralloc { p := 0, g := false, d := 0, a := 2 }, .ralloc { p := 0, g := false, d := 0, a := 16 },
    .ralloc { p := 0, g := false, d := 0, a := 120 }, .hcreate { pd := 0, h := 0, d := 0, b := 15 },
    .harr { kind := 0, h := 0, b := 0 }, .harr { kind := 1, h := 0, b := 8 }, .harr { kind := 4, h := 0, b := 16 },
    .harr { kind := 13, h := 0, b := 0 }, .hvote { kind := 0, h := 0, d := 0, b := 124 }, .hvote { kind := 4, h := 0, d := 0, b := 0 },
    .hvote { kind := 1, h := 0, d := 15, b := 0 }, .hred { kind := 3, h := 0, d := 0, b := 0 }, .hred { kind := 13, h := 0, d := 0, b := 0 },
    .enq { pd := 0, lq := false, ack := true, u := 63, a := 0 }, .enq { pd := 0, lq := true, ack := false, u := 0, a := 0 },
    .enq { pd := 0, lq := false, ack := false, u := 0, a := 16 }, .rtake { pd := 0, try_ := false, dest := true, slot := 0, a := 0 },
    .rtake { pd := 7, try_ := false, dest := false, slot := 0, a := 0 }, .rtake { pd := 7, try_ := false, dest := true, slot := 0, a := 16 },
    .kvfind { u := 0, x := 1 }, .kvfind { u := 0, x := 14 }, .kvinsSeal { u := 0, x := 16 }, .kvpfx { u := 0, x := 14 },
    .kvpfxIns { u := 0, x := 12 }, .kvfind { u := 0, x := 118 }] : List Instr), i.wf 16 = false := by decide

/-- The greatest registers of the grant pass. -/
theorem smoke_wf_accepts : ∀ i ∈ ([
    .iadd { k := true, bs := true, d := 124, a := 15, b := 127 }, .lea { k := false, bs := false, d := 14, a := 126, b := 124 },
    .ld { ty := 6, sc := 3, ord := 1, base := 3, a := 124, v := 12 }, .atom { sc := 0, d := 14, a := 0, b := 14, space := true, base := 0, ord := 3, opt := 10 },
    .kvpfxIns { u := 63, x := 10 }, .mmfE4m3 { d := 14, a := 14, b := 14, sca := 15, scb := 15, sela := 3, selb := 3, sga := false, sgb := false }] :
    List Instr), i.wf 16 = true := by decide

/-! ### Single steps: the instruction stands next in a group of one thread, placed by `withFetchWord` -/

/-- The machine whose next step runs an instruction in thread 0 of group 0, the machine then changed by `f`. -/
def ready (i : Instr) (f : State → State) : State :=
  let e := encode false i
  f (State.reset.withFetchWord (if i.twoWords then 64 else 32) (e.1.toNat + (e.2.getD 0).toNat * 2 ^ 32))

/-- What that step leaves. -/
def ran (i : Instr) (f : State → State) : Option State :=
  match step (ready i f) with
  | .next t => some t
  | _ => none

/-- Thread 0 of group 0 with some registers set. -/
def withRegs (l : List (Nat × Word)) (s : State) : State :=
  s.onThread 0 0 fun t => { t with regs := l.foldl (fun r p => r.set p.1 p.2) t.regs }

/-- Group 0 with some uniform registers set. -/
def withSregs (l : List (Nat × Dword)) (s : State) : State :=
  s.onGroup 0 fun g => { g with sregs := l.foldl (fun r p => r.set p.1 p.2) g.sregs }

/-- What a step reads from thread 0 of group 0 when it is done. -/
def seen {α : Type} (i : Instr) (f : State → State) (p : Thread → α) : Option α :=
  (ran i f).bind fun s => (s.thread 0 0).map p

/-- v10 after an instruction with A in v4, B in v5 and D in v10. -/
def gives (i : Instr) (a b d : Word) : Option Nat :=
  seen i (withRegs [(4, a), (5, b), (10, d)]) fun t => (t.regs.getD 10 0).toNat

/-- v10 and %nflags. -/
def givesFp (i : Instr) (a b d : Word) : Option (Nat × Nat) :=
  seen i (withRegs [(4, a), (5, b), (10, d)]) fun t => ((t.regs.getD 10 0).toNat, t.nflags.toNat)

/-- D v10, A v4, B v5. -/
def opA : LA := { k := false, bs := false, d := 10, a := 4, b := 5 }
def opA1 : LA1 := { k := false, d := 10, a := 4 }
def opA2 : LA2 := { d := 10, a := 4 }

theorem test_add_wraps : gives (.iadd opA) 0xFFFFFFFF 7 0 = some 6 ∧ gives (.isub opA) 3 5 0 = some 0xFFFFFFFE := by decide

theorem test_products : gives (.imul opA) 0x10001 0x10001 0 = some 0x20001 ∧
    gives (.imulhS32 opA) 0xFFFFFFFF 2 0 = some 0xFFFFFFFF ∧ gives (.imulhN32 opA) 0xFFFFFFFF 2 0 = some 1 ∧
    gives (.imad opA) 3 4 5 = some 17 := by decide

theorem test_min_max_sign : gives (.iminS32 opA) 0xFFFFFFFF 1 0 = some 0xFFFFFFFF ∧ gives (.iminN32 opA) 0xFFFFFFFF 1 0 = some 1 ∧
    gives (.imaxS32 opA) 0xFFFFFFFF 1 0 = some 1 ∧ gives (.imaxN32 opA) 0xFFFFFFFF 1 0 = some 0xFFFFFFFF ∧
    gives (.iabs opA1) 0xFFFFFFFD 0 0 = some 3 := by decide

theorem test_bitwise : gives (.and opA) 0xFF00FF00 0x0FF00FF0 0 = some 0x0F000F00 ∧
    gives (.or opA) 0xFF00FF00 0x0FF00FF0 0 = some 0xFFF0FFF0 ∧ gives (.xor opA) 0xFF00FF00 0x0FF00FF0 0 = some 0xF0F0F0F0 := by decide

/-- R306: an amount of 32 or more shifts everything out. -/
theorem test_shifts_past_the_width : gives (.shl opA) 1 32 9 = some 0 ∧ gives (.shr opA) 0x80000000 32 9 = some 0 ∧
    gives (.sar opA) 0x80000000 33 9 = some 0xFFFFFFFF ∧ gives (.sar opA) 0x80000000 4 0 = some 0xF8000000 := by decide

/-- R245: POS 4, LEN 8, sign bit of the field set and extended; LEN cut at the top of the word. -/
theorem test_bit_fields : gives (.bfx opA) 0x00000F50 0x00010804 0 = some 0xFFFFFFF5 ∧
    gives (.bfx opA) 0xF0000000 0x00000C1C 0 = some 0xF ∧ gives (.bfi opA) 0xFF 0x00000404 0 = some 0xF0 := by decide

theorem test_counts : gives (.popc opA1) 0xF0F0 0 0 = some 8 ∧ gives (.clz opA1) 0 0 1 = some 32 ∧ gives (.clz opA1) 0x10000 0 0 = some 15 ∧
    gives (.brev opA1) 1 0 0 = some 0x80000000 := by decide

/-- R204: K discards the result; R277: the immediate is sign-extended. -/
theorem test_moves : gives (.movi { k := false, d := 10, imm := 0x7FFF }) 0 0 1 = some 0xFFFFFFFF ∧
    gives (.movl { d := 10, lit := 0x89ABCDEF }) 0 0 0 = some 0x89ABCDEF ∧
    gives (.mov { k := true, bs := false, d := 124, b := 5 }) 0 6 9 = some 9 ∧
    gives (.mov { k := false, bs := true, d := 10, b := 127 }) 0 0 0 = some 63 ∧
    gives (.sel { p := 7, neg := true, bs := false, d := 10, b := 5 }) 0 6 9 = some 9 := by decide

/-- R274: a carry into the high word. -/
theorem test_lea_carries : seen (.lea { k := false, bs := false, d := 10, a := 4, b := 6 }) (withRegs [(4, 2), (6, 0xFFFFFFFF), (7, 1)])
    (fun t => (t.regs.getD 10 0, t.regs.getD 11 0)) = some (1, 2) := by decide

theorem test_compares : seen (.icmp { bs := false, pd := 1, cond := 2, a := 4, b := 5 }) (withRegs [(4, 0xFFFFFFFF), (5, 1)])
      (fun t => t.preds.getD 1 false) = some true ∧
    seen (.icmp { bs := false, pd := 1, cond := 6, a := 4, b := 5 }) (withRegs [(4, 0xFFFFFFFF), (5, 1)])
      (fun t => t.preds.getD 1 false) = some false ∧
    seen (.fcmp { bs := false, pd := 1, cond := 0, a := 4, b := 5 }) (withRegs [(4, 0x80000000)])
      (fun t => t.preds.getD 1 false) = some true ∧
    seen (.plop { pd := 2, pa := 7, pb := 0, pc := 7, tt := 0x20 }) id (fun t => t.preds.getD 2 false) = some true := by decide

/-- R52, R263: 1 + 2 = 3, 3 × −2 = −6, 2 × 3 + 1 = 7; +∞ − ∞ is the canonical NaN with NV; −0 lies below +0. -/
theorem test_float : givesFp (.fadd opA) 0x3F800000 0x40000000 0 = some (0x40400000, 0) ∧
    givesFp (.fmul opA) 0x40400000 0xC0000000 0 = some (0xC0C00000, 0) ∧
    givesFp (.ffma opA) 0x40000000 0x40400000 0x3F800000 = some (0x40E00000, 0) ∧
    givesFp (.fadd opA) 0x7F800000 0xFF800000 0 = some (0x7FC00000, fNV.toNat) ∧
    givesFp (.fmin opA) 0 0x80000000 0 = some (0x80000000, 0) ∧ givesFp (.fmax opA) 0x80000000 0 0 = some (0, 0) := by decide

/-- R55 to R57, R266: exact cases. -/
theorem test_special_functions : givesFp (.frcp opA2) 0x40000000 0 0 = some (0x3F000000, 0) ∧
    givesFp (.frsq opA2) 0x40800000 0 0 = some (0x3F000000, 0) ∧ givesFp (.fsqrt opA2) 0x40800000 0 0 = some (0x40000000, 0) ∧
    givesFp (.fexp2 opA2) 0x40400000 0 0 = some (0x41000000, 0) ∧ givesFp (.flog2 opA2) 0x41000000 0 0 = some (0x40400000, 0) ∧
    givesFp (.frcp opA2) 0x80000000 0 0 = some (0xFF800000, fDZ.toNat) := by decide

/-- R257, R266: 2.5 rounds to the even 2; −1.5 in E4M3 is BC; 300 clamps to 127 in INT8. -/
theorem test_conversions : (gives (.frnd { k := false, d := 10, a := 4, rc := 0 }) 0x40200000 0 0) = some 0x40000000 ∧
    (gives (.cvt { sat := true, d := 10, a := 4, b := 124, sfmt := 0, dfmt := 3, rnd := 0, eidx := 0 }) 0xBFC00000 0 0) = some 0xBC ∧
    (gives (.cvt { sat := true, d := 10, a := 4, b := 124, sfmt := 0, dfmt := 8, rnd := 0, eidx := 0 }) 0x43960000 0 0) = some 0x7F := by decide

/-- R285: (1, 2) + (1, 1) in FP16 and in BF16, products, and a fused multiply-add. -/
theorem test_packed : gives (.paddF16 opA) 0x3C004000 0x3C003C00 0 = some 0x40004200 ∧
    gives (.paddBf16 opA) 0x3F804000 0x3F803F80 0 = some 0x40004040 ∧
    gives (.pmulF16 opA) 0x40004000 0x3C004000 0 = some 0x40004400 ∧ gives (.pmulBf16 opA) 0x40004000 0x3F804000 0 = some 0x40004080 ∧
    gives (.pfmaF16 opA) 0x40004000 0x3C004000 0x3C003C00 = some 0x42004500 ∧
    gives (.pfmaBf16 opA) 0x40004000 0x3F804000 0x3F803F80 = some 0x404040A0 := by decide

/-- R259: 4 × (−1 × 2) + 1 = −7; 8 × (−1 × −1) = 8; a sum past 2^31 − 1 clamps with SAT. -/
theorem test_dot_products :
    gives (.dp4 { k := false, bs := false, d := 10, a := 4, b := 5, sga := false, sgb := false }) 0xFFFFFFFF 0x02020202 1 = some 0xFFFFFFF9 ∧
    gives (.dp8 opA) 0xFFFFFFFF 0xFFFFFFFF 0 = some 8 ∧
    givesFp (.dp8 opA) 0xFFFFFFFF 0xFFFFFFFF 0x7FFFFFFF = some (0x7FFFFFFF, fSAT.toNat) := by decide

/-- R289, R311, R312: a lane alone in its home warp. -/
theorem test_lane_exchange : gives (.qxch { d := 10, a := 4, sel := 0 }) 5 0 1 = some 5 ∧ gives (.qxch { d := 10, a := 4, sel := 1 }) 5 0 1 = some 0 ∧
    gives (.xlane { bs := true, d := 10, a := 4, b := 64 }) 5 0 1 = some 5 ∧ gives (.xlane { bs := true, d := 10, a := 4, b := 65 }) 5 0 1 = some 0 ∧
    gives (.wvote { pd := 1, k := 0, pa := 7, d := 10 }) 0 0 9 = some 1 := by decide

/-- The uniform register 9 after an instruction with A in s4 and B in s5. -/
def givesS (i : Instr) (a b d : Dword) : Option Nat :=
  (ran i (withSregs [(4, a), (5, b), (9, d)])).bind fun s => (s.group 0).map fun g => (g.sregs.getD 9 0).toNat

def opU : LAu := { d := 9, a := 4, b := 5 }

theorem test_uniform : givesS (.sadd opU) 0xFFFFFFFFFFFFFFFF 2 0 = some 1 ∧ givesS (.ssub opU) 1 2 0 = some 0xFFFFFFFFFFFFFFFF ∧
    givesS (.smul opU) 0x100000001 0x100000001 0 = some 0x200000001 ∧ givesS (.sshl opU) 1 63 0 = some 0x8000000000000000 ∧
    givesS (.sshr opU) 0x8000000000000000 63 0 = some 1 ∧ givesS (.sand opU) 12 10 0 = some 8 ∧ givesS (.sor opU) 12 10 0 = some 14 ∧
    givesS (.sxor opU) 12 10 0 = some 6 := by decide

theorem test_uniform_moves : givesS (.smov { d := 9, b := 5 }) 0 7 0 = some 7 ∧
    givesS (.smovl { half := 0, d := 9, lit := 0x80000000 }) 0 0 5 = some 0xFFFFFFFF80000000 ∧
    givesS (.smovl { half := 2, d := 9, lit := 3 }) 0 0 5 = some 0x300000005 ∧
    (ran (.sfirst { d := 9, a := 4 }) (withRegs [(4, 0xFFFFFFFF)])).bind (fun s => (s.group 0).map fun g => (g.sregs.getD 9 0).toNat) =
      some 0xFFFFFFFF ∧
    (ran (.scmp { pd := 1, cond := 2, a := 4, b := 5 }) (withSregs [(4, 0xFFFFFFFFFFFFFFFF)])).bind
      (fun s => (s.thread 0 0).map fun t => t.preds.getD 1 false) = some true := by decide

/-- R246, R310 with no vector table: the trap has no destination, so it is fatal, and places an entry of KIND 2. -/
theorem test_trap_without_table : (ran (.trap 7) id).map (fun s => s.dieQ.map fun e => (e.2.kind, e.2.cause, e.2.addr)) = some [(2, 0x51, 7)] ∧
    (ran (.bkpt 9) id).map (fun s => s.dieQ.map fun e => (e.2.kind, e.2.cause, e.2.addr)) = some [(2, 0x50, 9)] := by decide

/-- R314: XRET pops the level; packet, word and priority come from %epc. -/
theorem test_xret : seen .xret (fun s => s.onThread 0 0 fun t => { t with traps := [⟨0x0580000000000007, 0, 0x51, 0, 0⟩] })
    (fun t => (t.point.prio.toNat, t.point.pc, t.point.word, t.traps.length)) = some (5, 7, 2, 0) := by decide

/-- R261: EVWAIT with the flag set clears it; without it the thread parks. -/
theorem test_evwait : seen (.evwait 0) (fun s => s.onThread 0 0 fun t => { t with capFlag := true }) (fun t => (t.capFlag, t.run)) =
      some (false, .runnable) ∧
    seen (.evwait 0) id (fun t => decide (t.run = .runnable)) = some false := by decide

/-- R247, R249, R301: a taken branch, one that falls through, a jump through a pair, a call and its return. -/
theorem test_branches : seen (.bra { p := 7, neg := false, tprio := 3, fprio := 2, off := 5 }) id (fun t => (t.point.prio.toNat, t.point.pc)) =
      some (3, 5) ∧
    seen (.bra { p := 7, neg := true, tprio := 3, fprio := 2, off := 5 }) id (fun t => (t.point.prio.toNat, t.point.pc)) = some (2, 1) ∧
    seen (.bru { p := 7, neg := false, tprio := 9, fprio := 0, off := 2 }) id (fun t => (t.point.prio.toNat, t.point.pc)) = some (9, 2) ∧
    seen (.brx { prio := 4, a := 4 }) (withRegs [(4, 24)]) (fun t => (t.point.prio.toNat, t.point.pc)) = some (4, 2) := by decide

theorem test_call_and_return :
    seen (.call { p := 7, neg := false, tprio := 3, fprio := 2, off := 5 }) id
      (fun t => (t.point.pc, t.regs.getD 118 0, t.regs.getD 119 0)) = some (5, 1, 0x02000000) ∧
    seen .ret (withRegs [(118, 9), (119, 0x06000000)]) (fun t => (t.point.prio.toNat, t.point.pc)) = some (6, 9) := by decide

/-- R210, R309: %tid of thread 0 and %gid; %fpmode takes RND alone. -/
theorem test_system_registers : seen (.sysr { v := 10, sreg := 0x000 }) (withRegs [(10, 9)]) (fun t => t.regs.getD 10 1) = some 0 ∧
    seen (.sysw { v := 4, sreg := 0x030 }) (withRegs [(4, 0xFFFFFFFF)]) (fun t => t.fpmode.toNat) = some 3 ∧
    seen (.sysw { v := 4, sreg := 0x031 }) (withRegs [(4, 0xFFFFFFFF)]) (fun t => t.nflags.toNat) = some 127 := by decide

/-- R261, R262, R283, R315: NOP leaves the thread's registers; EXIT of the last thread ends the group. -/
theorem test_nop_exit : seen .nop (withRegs [(10, 9)]) (fun t => (t.regs.getD 10 0, t.run)) = some (9, .runnable) ∧
    (ran .exit id).map (fun s => (s.group 0).isSome) = some false ∧
    seen .yield (withRegs [(10, 9)]) (fun t => t.regs.getD 10 0) = some 9 := by decide

/-- Group 0 holds a region of one page of bank 8 with rank 2 at 0x80000, its page reading as listed. -/
def withRegion (s : State) : State :=
  (s.onGroup 0 fun g => { g with regions := g.regions.set 0 (some (Region.fresh 0x80000 4096 2 24 false)) }).write
    (padKey 0 0x80000) [0x84, 0x01, 0x02, 0x03, 0x05, 0x06, 0x07, 0x08]

/-- R197, R273, R308: a sign-extended byte, a pair, and a store read back; out of bounds traps 0x10, misaligned 0x01. -/
theorem test_scratchpad : seen (.lds { ty := 1, sc := 0, ord := 0, a := 4, v := 10 }) (withRegs [(4, 0x80000)] ∘ withRegion)
      (fun t => (t.regs.getD 10 0).toNat) = some 0xFFFFFF84 ∧
    seen (.lds { ty := 5, sc := 0, ord := 0, a := 4, v := 10 }) (withRegs [(4, 0x80000)] ∘ withRegion)
      (fun t => ((t.regs.getD 10 0).toNat, (t.regs.getD 11 0).toNat)) = some (0x03020184, 0x08070605) ∧
    (ran (.sts { ty := 2, sc := 0, ord := 0, a := 4, v := 5 }) (withRegs [(4, 0x80FFE), (5, 0x1234ABCD)] ∘ withRegion)).map
      (fun s => s.bytes (padKey 0 0x80FFD) 3) = some [0, 0xCD, 0xAB] ∧
    (ran (.sts { ty := 4, sc := 0, ord := 0, a := 4, v := 5 }) (withRegs [(4, 0x81000)] ∘ withRegion)).map
      (fun s => s.dieQ.map fun e => (e.2.cause, e.2.addr)) = some [(0x10, 0x81000)] ∧
    (ran (.lds { ty := 4, sc := 0, ord := 0, a := 4, v := 10 }) (withRegs [(4, 0x80002)] ∘ withRegion)).map
      (fun s => s.dieQ.map fun e => (e.2.cause, e.2.addr)) = some [(0x01, 0x80002)] := by decide

/-- R241, R243, R256, R300: atomics on scratchpad words. -/
theorem test_scratchpad_atomics :
    (ran (.atom { sc := 0, d := 10, a := 4, b := 5, space := true, base := 0, ord := 0, opt := 0 })
      (withRegs [(4, 0x80000), (5, 1)] ∘ withRegion)).map
      (fun s => (s.num (padKey 0 0x80000) 4, (s.thread 0 0).map fun t => (t.regs.getD 10 0).toNat)) = some (0x03020185, some 0x03020184) ∧
    (ran (.acas { sc := 0, d := 10, a := 4, b := 6, space := true, base := 0, ord := 0, opt := 0 })
      (withRegs [(4, 0x80000), (6, 0x03020184), (7, 9)] ∘ withRegion)).map (fun s => s.num (padKey 0 0x80000) 4) = some 9 ∧
    (ran (.red { sc := 0, d := 124, a := 4, b := 5, space := true, base := 0, ord := 0, opt := 8 })
      (withRegs [(4, 0x80000), (5, 0x84)] ∘ withRegion)).map (fun s => s.num (padKey 0 0x80000) 4) = some 0x03020100 ∧
    (ran (.ctadd { sc := 0, space := true, base := 0, a := 4, v := 5 })
      (withRegs [(4, 0x80000), (5, 2)] ∘ withRegion)).map (fun s => s.num (padKey 0 0x80000) 8) = some 0x0807060503020186 := by decide

/-- R110, R273, R308: a DRAM access is issued at its place; R105: it holds the bytes that a store brings. -/
theorem test_dram_access :
    (ran (.st { ty := 2, sc := 0, ord := 0, base := 1, a := 4, v := 5 }) (withRegs [(4, 0x10), (5, 0x1234ABCD)] ∘ withSregs [(49, 0x100)])).map
      (fun s => s.accesses.map fun a => a.lanes.map fun l => (l.pa, l.bytes)) = some [[(0x110, [0xCD, 0xAB])]] ∧
    (ran (.ld { ty := 4, sc := 0, ord := 0, base := 0, a := 4, v := 10 }) (withRegs [(4, 0x12)])).map
      (fun s => s.dieQ.map fun e => (e.2.cause, e.2.addr)) = some [(0x01, 0x12)] := by decide

/-- Core 0 with banks 0 to 8 lit. -/
def nineLit (s : State) : State := s.setCore 0 { s.core 0 with lit := 0x1FF }

/-- R68, R290: a region of rank 3 goes to the first page of bank 8, the only one lit above the pool; no size that is not whole
pages; no room where bank 8 is dark. -/
theorem test_ralloc : seen (.ralloc { p := 1, g := true, d := 10, a := 4 }) (nineLit ∘ withRegs [(4, 4096), (5, 3), (6, 24), (7, 0)])
      (fun t => ((t.regs.getD 10 0).toNat, t.preds.getD 1 false)) = some (0x80000, true) ∧
    seen (.ralloc { p := 1, g := true, d := 10, a := 4 }) (nineLit ∘ withRegs [(4, 4097), (5, 3), (6, 24), (7, 0)])
      (fun t => ((t.regs.getD 10 0).toNat, t.preds.getD 1 true)) = some (4, false) ∧
    seen (.ralloc { p := 1, g := true, d := 10, a := 4 }) (withRegs [(4, 4096), (5, 3), (6, 24), (7, 0)])
      (fun t => ((t.regs.getD 10 0).toNat, t.preds.getD 1 true)) = some (1, false) := by decide

/-- R291 to R293: RFREE by the last byte of a region, RRANK of a region alone in its bank, RSTAT of a Live line of rank 2. -/
theorem test_regions : seen (.rfree { p := 1, a := 4 }) (withRegs [(4, 0x80FFF)] ∘ withRegion) (fun t => t.preds.getD 1 false) = some true ∧
    seen (.rrank { p := 1, x := 5, d := 10, a := 4 }) (withRegs [(4, 0x80000), (10, 9)] ∘ withRegion)
      (fun t => ((t.regs.getD 10 9).toNat, t.preds.getD 1 false)) = some (0, true) ∧
    seen (.rstat { d := 10, a := 4 }) (withRegs [(4, 0x80000)] ∘ withRegion) (fun t => (t.regs.getD 10 0).toNat) = some 16 := by decide

/-- R254, R255, R258: the first batch is number 1, complete at once. -/
theorem test_batches : seen (.cseal 10) id (fun t => (t.regs.getD 10 0, t.batch)) = some (1, 1) ∧
    seen (.cstat { d := 10, a := 4 }) (withRegs [(4, 1)] ∘ fun s => s.onThread 0 0 fun t => { t with batch := 1, batches := [⟨1, 2, 3⟩] })
      (fun t => (t.regs.getD 10 0).toNat) = some 0x1203 ∧
    seen (.cwait 4) (withRegs [(4, 1)]) (fun t => t.run) = some .runnable := by decide

/-- R129, R128: HCREATE sends to its own core and parks; R128: HQUERY.hdl reads the handle register; R130: an empty one traps 0x40. -/
theorem test_synchronisation : (ran (.hcreate { pd := 1, h := 2, d := 10, b := 4 }) (withRegs [(4, 0x80000), (5, 1)] ∘ withRegion)).map
      (fun s => s.hmsgs.map fun m => (m.home, m.op)) = some [(0, .create 2 10 1 0x80000 1)] ∧
    seen (.hqueryHdl { h := 2, d := 10 }) (fun s => s.onThread 0 0 fun t => { t with handles := t.handles.set 2 0x4001 })
      (fun t => (t.regs.getD 10 0).toNat) = some 0x4001 ∧
    (ran (.hbar { h := 2, d := 10 }) id).map (fun s => s.dieQ.map fun e => (e.2.cause, e.2.addr)) = some [(0x40, 0)] := by decide

/-- R91, R296 to R298: ROPEN of a row of the core's own column queues it; RPOLL reads Queued; RTAKE of a Free slot traps 0x30. -/
theorem test_rows : (ran (.ropen { u := 9, slot := 1, a := 4 }) (withRegs [(4, 0x10)])).map
      (fun s => ((s.column 0).queue, (s.group 0).map fun g => (g.rows.getD 1 RowSlot.free).state)) = some ([⟨0, 1⟩], some .queued) ∧
    seen (.rpoll { slot := 1, a := 10 }) (fun s => s.onGroup 0 fun g => { g with rows := g.rows.set 1 { RowSlot.free with state := .queued } })
      (fun t => (t.regs.getD 10 0).toNat) = some 1 ∧
    (ran (.rtake { pd := 7, try_ := false, dest := false, slot := 1, a := 124 }) id).map
      (fun s => s.dieQ.map fun e => (e.2.cause, e.2.addr)) = some [(0x30, 1)] := by decide

/-- R164, R165: a trap to a handler at byte address 24: packet 2, one level, %cause with DEPTH 1. -/
theorem test_taking_a_trap :
    let s := ((ready .nop fun s => s.onGroup 0 fun g => { g with rec_ := { g.rec_ with rowh := 24 } })).takeTrap 0 0 ⟨1, 3, 2⟩ 2 0x31 7 0 0
    (s.thread 0 0).map (fun t => (t.point.prio.toNat, t.point.pc, t.point.word, t.traps.map fun l => (l.epc.toNat, l.tval.toNat))) =
      some (1, 2, 0, [(0x0180000000000003, 7)]) := by decide

/-- R34, R268: an index taken from the core's range. -/
theorem test_grange : seen (.grangeTake { p := 1, d := 10 })
    (fun s => { s with ranges := [⟨0, 1, 5, 7, some 0, none⟩] })
    (fun t => (t.regs.getD 10 0, t.regs.getD 11 0, t.preds.getD 1 false)) = some (5, 7, true) := by decide

/-- Log 86: the AES-256 example of FIPS 197, appendix C.3. -/
theorem test_cipher : aesEncrypt (roundKeys ((List.range 32).map (BitVec.ofNat 8))) ((List.range 16).map fun i => BitVec.ofNat 8 (i * 17)) =
    (leBytes 16 0x8ea2b7ca516745bfeafc49904b496089).reverse := by decide +kernel

/-! ### Witnesses: what meets the hypotheses of each statement -/

/-- A launch of two threads with 16 registers, eight rows and two tiles, its vector table at 0x1000, its row handler at 24. -/
def wLaunch : Launch :=
  { rec_ := { LaunchRec.ofNat 0 with threads := 2, regs8 := 2, gang := 1, rows := 8, acc := 2, hi := 4, tvt := 0x1000, rowh := 24 },
    uimg := [], regions := [], seen := [0], ended := [], done := false, hidden := [] }

/-- Its group on core 0: one region of two pages in bank 8. -/
def wG : Group := Group.start 0 0 5 1 wLaunch none [(0, 0, 1)] [Region.fresh 0x80000 8192 2 24 false]

/-- A page of 2 MiB that every access is allowed. -/
def wPage : TlbEntry :=
  { tenant := 0, va := 0, size := 0x200000, pa := 0, rd := true, wr := true, ex := true, peer := false, gpa := 0 }

/-- Both threads at word 0 of packet 0, of three NOPs. -/
def wC : Ctx :=
  Ctx.start 0 0 0 [0, 1] ⟨0, 0, 0⟩ ((bytesOfWord 0x00800000) ++ (bytesOfWord 0x00800000) ++ (bytesOfWord 0x00800000)) false

def wS : State :=
  { State.reset with ready := true, nextId := 2, groups := [(0, wG)], launches := [(1, wLaunch)],
                     cores := [(0, { Core.reset.addTlb wPage with lit := 0xFFF })], cur := some wC }

/-- Its two threads. -/
def wT (tid : Nat) : Thread := Thread.start tid 16 0 ⟨0, 0, 0⟩

/-- The same with the thread 0 alone in the issue. -/
def oneC : Ctx := { wC with active := [0] }
def oneS : State := { wS with cur := some oneC }

theorem witness_issue : InIssue wS wC wG := ⟨by decide, by decide⟩
theorem witness_issue_one : InIssue oneS oneC wG := ⟨by decide, by decide⟩
theorem witness_acting : Acting wS 0 wC wG (wT 0) ∧ Acting wS 1 wC wG (wT 1) := ⟨⟨by decide, by decide, by decide⟩, by decide, by decide, by decide⟩

theorem witness_UniformOperandOfLanes :
    (63 : Code).toNat < 64 ∧ (opA.bs = false) ∧ { opA with bs := true, b := 63 }.bs = true := by decide

theorem witness_OperandSources : wC.chained = false ∧ (119 : Code).toNat < 120 ∧ 64 ≤ (64 : Code).toNat ∧ 64 ≤ (127 : Code).toNat ∧
    (122 : Code).toNat = 120 + 2 ∧ { wC with prev := [(2, 0, 7)] }.prev = [(2, (wT 0).tid, 7)] ∧
    { wC with chained := true, snap := [wT 0] }.chained = true ∧
    ({ wC with chained := true, snap := [wT 0] }.snap.find? fun x => decide (x.tid = (wT 0).tid)) = some (wT 0) := by decide

theorem witness_ResultsWritten : (15 : Code).toNat < (wT 0).regs.length ∧ 120 ≤ (124 : Code).toNat ∧
    (14 : Code).toNat + 1 < (wT 0).regs.length ∧ (6 : Pred).toNat < (wT 0).preds.length ∧ (6 : Pred) ≠ 7 := by decide

theorem witness_IntegerArithmetic : InIssue wS wC wG := witness_issue
theorem witness_AndOrXor : InIssue wS wC wG := witness_issue
theorem witness_Shifts : InIssue wS wC wG := witness_issue

/-- POS 28 and LEN 12, cut to 4; LEN 0; A zero and not zero. -/
theorem witness_BitFieldsAndCounts : InIssue wS wC wG ∧
    (min ((0x0C1C : Word).toNat / 256 % 64) (32 - (0x0C1C : Word).toNat % 32) = 4 ∧ wC.val (wT 0) 0 = 0 ∧
      { wC with prev := [] }.val (wT 1) 126 ≠ 0) := ⟨witness_issue, by decide⟩

theorem witness_MovesAndSelect : InIssue wS wC wG := witness_issue
theorem witness_IntegerPredicates : InIssue wS wC wG := witness_issue

/-- A NaN; numbers; +∞ with −∞; ∞ with 0. -/
theorem witness_FloatArithmetic : InIssue wS wC wG ∧ (dec32 0x7FC00001 = .nan ∧ dec32 0x3F800000 ≠ .nan ∧
    dec32 0x7F800000 = .inf false ∧ dec32 0xFF800000 = .inf (!false) ∧ (∃ e, e = (-149 : Int) ∧ dec32 0 = .fin false 0 e) ∧
    (dec32 0x3F800000).add 0 (dec32 0x3F800000) ≠ .nan ∧ (dec32 0x3F800000).mul (dec32 0x40000000) ≠ .nan) :=
  ⟨witness_issue, by decide, by decide, by decide, by decide, ⟨-149, rfl, by decide⟩, by decide, by decide⟩

theorem witness_FloatCompare : InIssue wS wC wG ∧ (dec32 0x7FC00000 = .nan ∧ dec32 0x80000000 ≠ .nan) := ⟨witness_issue, by decide⟩

/-- FP32 to E4M3 into the elements 2 and 3, the greatest EIDX that CVTP takes. -/
theorem witness_FloatUnary : InIssue wS wC wG ∧ (3 < 4 ∧ 15 < fmtBits 3 * 2 ∧ fmtBits 3 * (2 + 2) ≤ 32 ∧
    (convertElem 0 3 0 true 0x3F800000).1 < 2 ^ fmtBits 3) := ⟨witness_issue, by decide⟩

theorem witness_PackedAndDotProducts : InIssue wS wC wG := witness_issue
theorem witness_LaneExchanges : InIssue wS wC wG := witness_issue
theorem witness_FragmentMultiply : InIssue wS wC wG := witness_issue
theorem witness_UniformArithmetic : InIssue wS wC wG := witness_issue

theorem witness_FirstLane : InIssue wS wC wG ∧ ((wC.active.map laneOf).Pairwise (· < ·) ∧ (wT 0).tid ∈ wC.active ∧
    (∀ j ∈ wC.active, laneOf (wT 0).tid ≤ laneOf j) ∧ wG.thread (wT 0).tid = some (wT 0)) := ⟨witness_issue, by decide⟩

theorem witness_UniformCompare : InIssue wS wC wG := witness_issue

/-- The vector table's entry for 0x51 holds 36: the trap goes to packet 3. -/
def vecS : State := wS.write (0x1000 + 8 * 0x51) [36]

/-- A thread with `n` levels on its trap stack. -/
def deep (n : Nat) : Thread := { wT 0 with traps := List.replicate n ⟨0, 0, 0x30, 0, 0⟩ }
def deepS (n : Nat) : State := wS.onThread 0 0 fun _ => deep n
def deepG (n : Nat) : Group := wG.onThread 0 fun _ => deep n

theorem witness_TakingATrap : (deepS 3).group 0 = some (deepG 3) ∧ (deepG 3).thread 0 = some (deep 3) ∧
    ¬ ((deepG 3).underDebug = true ∧ (0x51 : Byte) = 0x50) ∧ (deep 3).traps.length < 4 ∧
    (∀ h : Nat, h = 0 → vecS.trapDest 0 0 wG 0x51 h = .entry 36) ∧ (deepS 3).trapDest 0 0 (deepG 3) 0x31 0 = .entry 24 ∧ 24 ≠ 0 ∧ 24 % 12 = 0 ∧
    (0x51 : Byte) ≠ 0x40 ∧ (⟨0, 0, 3⟩ : Point).word < 4 ∧ (⟨0, 2 ^ 54 - 1, 0⟩ : Point).pc < 2 ^ 54 :=
  ⟨by decide, by decide, by decide, by decide, by intro h e; subst e; decide, by decide, by decide, by decide, by decide, by decide, by decide⟩

theorem witness_TrapDestinationsAndFatalTraps : (vecS.xlate 0 0 (0x1000 + 8 * 0x51) 0 = .ok (0x1000 + 8 * 0x51) ∧
      vecS.num (0x1000 + 8 * 0x51) 8 < 2 ^ 57 ∧ (0x2F < 0x30 ∨ 0x32 < 0x2F) ∧ (0x33 < 0x30 ∨ 0x32 < 0x33)) ∧
    ((deepS 4).group 0 = some (deepG 4) ∧ (deepG 4).thread 0 = some (deep 4) ∧ (deep 4).traps.length = 4 ∧
      wT 1 ∈ (deepG 4).threads ∧ (wT 1).tid ≠ 0 ∧ (wT 1).live = true ∧ (deepS 4).roomFor 0 = true) ∧
    ((deep 3).traps.length < 4 ∧ (deepS 3).trapDest 0 0 (deepG 3) 0x20 0 = .entry 0) := by decide

theorem witness_LeavingAnIssue : Acting wS 0 wC wG (wT 0) ∧
    Acting { wS with cur := some { wC with chained := true } } 0 { wC with chained := true } wG (wT 0) :=
  ⟨witness_acting.1, by decide, by decide, by decide⟩

/-- The capacity flag set and clear; a group under debug. -/
theorem witness_NopYieldEventWaitAndSoftwareTraps : Acting wS 0 wC wG (wT 0) ∧ ((wT 0).capFlag = false ∧ { wT 0 with capFlag := true }.capFlag = true ∧
    { wG with underDebug := true }.underDebug = true ∧ wC.chained = false ∧ wS.roomFor wG.core = true ∧ wS.cur = some wC ∧
    (0x7FFFFF : BitVec 23) ≠ 0) := ⟨witness_acting.1, by decide⟩

theorem witness_ReturnFromTrap : Acting (deepS 3) 0 wC (deepG 3) (deep 3) ∧
    ((wT 0).traps = [] ∧ (deep 3).traps = ⟨0, 0, 0x30, 0, 0⟩ :: List.replicate 2 ⟨0, 0, 0x30, 0, 0⟩) :=
  ⟨⟨by decide, by decide, by decide⟩, by decide⟩

theorem witness_ThreadExit : Acting wS 0 wC wG (wT 0) ∧ wT 1 ∈ wG.threads ∧ (wT 1).tid ≠ (wT 0).tid ∧ (wT 1).live = true :=
  ⟨witness_acting.1, by decide, by decide, by decide⟩

/-- WORD 3 and WORD 2 of a pair for %epc; depth 0 and depth 3. -/
theorem witness_SystemRegisters : InIssue wS wC wG ∧ Acting (deepS 3) 0 wC (deepG 3) (deep 3) ∧ (wT 0).traps = [] ∧
    (let v := fun (hi : Word) (u : Thread) => { u with regs := u.regs.set 5 hi }
     (wC.pair (v 0x00C00000 (wT 0)) 4).toNat / 2 ^ 54 % 4 = 3 ∧ (wC.pair (v 0x00800000 (wT 0)) 4).toNat / 2 ^ 54 % 4 ≠ 3) :=
  ⟨witness_issue, ⟨by decide, by decide, by decide⟩, by decide, by decide⟩

/-- p7 with NEG clear and set; a target below 0; the last packet below 2^57 and the one after; pairs for BRX: 13, 2^57 − 8,
which 12 divides, and 2^57 + 4, which 12 divides. -/
theorem witness_Branches : Acting wS 0 wC wG (wT 0) ∧
    (wC.pred (wT 0) 7 ≠ false ∧ wC.pred (wT 0) 7 = true ∧ (0 : Int) + (0xFFFFFFFF : Word).toInt < 0 ∧
      (12009599006321322 : Int) * 12 < 2 ^ 57 ∧ (2 : Int) ^ 57 ≤ 12009599006321323 * 12 ∧
      (let v := fun (lo hi : Word) (u : Thread) => { u with regs := (u.regs.set 4 lo).set 5 hi }
       (wC.pair (v 13 0 (wT 0)) 4).toNat % 12 ≠ 0 ∧
       (wC.pair (v 0xFFFFFFF8 0x01FFFFFF (wT 0)) 4).toNat = 12009599006321322 * 12 ∧
       (wC.pair (v 0xFFFFFFF8 0x01FFFFFF (wT 0)) 4).toNat < 2 ^ 57 ∧
       (wC.pair (v 4 0x02000000 (wT 0)) 4).toNat % 12 = 0 ∧ 2 ^ 57 ≤ (wC.pair (v 4 0x02000000 (wT 0)) 4).toNat)) :=
  ⟨witness_acting.1, by decide⟩

/-- Link words with bits [55:54] set, with the last packet below 2^57, and with the one after. -/
theorem witness_ReturnFromCall : Acting wS 0 wC wG (wT 0) ∧
    (let l := fun (lo hi : Word) => hi.toNat * 2 ^ 32 + lo.toNat
     l 0 0x00400000 / 2 ^ 54 % 4 ≠ 0 ∧ l 0xAAAAAAAA 0x032AAAAA / 2 ^ 54 % 4 = 0 ∧ l 0xAAAAAAAA 0x032AAAAA % 2 ^ 54 * 12 < 2 ^ 57 ∧
      2 ^ 57 ≤ l 0xAAAAAAAB 0x032AAAAA % 2 ^ 54 * 12) := ⟨witness_acting.1, by decide⟩

theorem witness_LoadStoreAndAtomicValues : 6 < 7 ∧ [0x80, 0xFF].length = [1, 1, 2, 2, 4, 8, 16].getD 3 0 ∧ (12 : Code).toNat < 117 ∧
    (12 : Code).toNat + 3 < (wT 0).regs.length ∧ dec32 0x3F800000 ≠ .nan ∧ dec32 0x7FC00000 = .nan ∧
    (dec32 0x3F800000).add 0 (dec32 0x40000000) ≠ .nan := by decide

/-- The threads 0 and 1 reach eight bytes at addresses 0 and 8, translated by the page at 0; the two permissions of an atomic; a
page that may be written and not read; an owner at the core, at another, and at none. -/
theorem witness_DramAccesses : InIssue wS wC wG ∧
    (∀ access, access ∈ [0, 1] → LanesReach wS wC wG wT (fun u => 8 * u.tid) 8 access true (fun tid => 8 * tid)) ∧
    LanesReach wS wC wG wT (fun u => 0x1FFFF0 + 4 * u.tid) 4 0 false (fun tid => 0x1FFFF0 + 4 * tid) ∧
    (oneC.active = [0] ∧ wG.thread 0 = some (wT 0) ∧ 0x200002 % 4 ≠ 0 ∧ wS.xlate 0 0 0x200000 0 = .miss ∧
      State.xlate { wS with cores := [(0, Core.reset.addTlb { wPage with wr := false })] } 0 0 0x1FFFFC 1 = .no .fatal ∧
      (let s : State := { wS with cores := [(0, Core.reset.addTlb { wPage with rd := false })] }
       s.xlate 0 0 0x1FFFFC 1 = .ok 0x1FFFFC ∧ s.xlate 0 0 0x1FFFFC 0 = .no .fatal)) ∧
    (wC.active = 0 :: [1] ∧ (∀ tid ∈ wC.active, (wG.thread tid).map (·.tid) = some tid) ∧ (∀ tid ∈ wC.active, (wT tid).tid = tid) ∧
      wG.core = 0 ∧ ¬ 768 ≤ (767 : Word).toNat ∧ 768 ≤ (768 : Word).toNat) :=
  ⟨witness_issue, fun a h => ⟨by decide, (by decide : ∀ a ∈ [0, 1], ∀ tid ∈ wC.active, wG.thread tid = some (wT tid) ∧
    (fun u : Thread => 8 * u.tid) (wT tid) % 8 = 0 ∧ wS.xlate 0 0 ((fun u : Thread => 8 * u.tid) (wT tid)) a = .ok (8 * tid) ∧
    (true = true → wS.xlate 0 0 ((fun u : Thread => 8 * u.tid) (wT tid)) 0 = .ok (8 * tid))) a h⟩,
    ⟨by decide, by decide⟩, by decide, by decide⟩

/-- The windows' edges; the region's first and last byte, a run of the last eight bytes and one past the end; a Lost region; a
spill area. -/
theorem witness_ScratchpadBounds :
    (0x400000 ≤ 0x400000 ∧ 0x400000 < 0x10000000) ∧ (0x400000 ≤ 0xFFFFFFF ∧ 0xFFFFFFF < 0x10000000) ∧ 0x16000000 ≤ 0x16000000 ∧
    (0x3FFFFF < 0x400000 ∧ 23 < 24 ∧ 47 / 24 * 24 + 23 = 47) ∧ 0x3FFFFF ≥ 0x80000 + 8192 ∧
    (let r := Region.fresh 0x80000 8192 2 24 false
     some r ∈ wG.regions ∧ (∀ q ∈ wG.regions, ∀ p, q = some p → p = r) ∧ r.base ≤ 0x80000 ∧ r.base ≤ 0x81FFF ∧ 0x81FFF < r.base + r.size ∧
      r.base + r.size < 0x81FFC + 8 ∧ 0x81FF8 + 8 ≤ r.base + r.size ∧ wS.inSpill 0 0x81FF8 8 = false ∧
      r.lost = false ∧ { r with lost := true }.lost = true) := by
  refine ⟨by decide, by decide, by decide, by decide, by decide, by decide, ?_, by decide⟩
  intro q hq p hp
  subst hp
  have h : ∀ q ∈ wG.regions, q.isSome = true → q = some (Region.fresh 0x80000 8192 2 24 false) := by decide
  simpa using h _ hq rfl

/-- A synchronisation group of one member whose home is core 0, slot 0, tag 1, with its spill area at 0x80000. -/
def wSync : SyncGroup :=
  { cap := 1, spill := 0x80000, owner := 0, members := [⟨0, 0, 2, 0, .counted⟩], nextSeq := 1, gen := 0, opened := none,
    arrivals := [], held := [], nowSet := [0], prevSet := [] }

def syncS (y : SyncGroup) : State := wS.setCore 0 { wS.core 0 with sync := [(0, ⟨1, some y⟩)] }

theorem witness_spill : (syncS wSync).inSpill 0 0x80000 4 = true := by decide

theorem witness_ScratchpadAccesses : InIssue wS wC wG ∧ MemOk wS ∧
    (∀ tid ∈ wC.active, wG.thread tid = some (wT tid) ∧ (0x80000 + 8 * tid) % 8 = 0 ∧
      wS.padCheck wG (0x80000 + 8 * tid) 8 = .ok (padKey 0 (0x80000 + 8 * tid)) ∧
      wS.linePending (padKey 0 (0x80000 + 8 * tid) / 128 * 128) = false) ∧
    (wS.padCheck wG 0x82000 8 = .bounds 0x82000 ∧ 0x80004 % 8 ≠ 0 ∧ (2 : BitVec 2).toNat ≥ 2 ∧ (1 : BitVec 2).toNat < 2 ∧
      wS.num (padKey 0 0x80000) 8 < (1 : Dword).toNat ∧ (0 : Dword).toNat ≤ wS.num (padKey 0 0x80000) 8) :=
  ⟨witness_issue, ⟨by decide, by decide⟩, by decide, by decide⟩

/-- A line that a copy's chunk owes is Pending. -/
def owing : Copy :=
  { id := 7, core := 0, guid := 0, tid := 0, tenant := 0, gid := 5, dims := [CopyDim.one], saddr := 0, daddr := 0x80000, ctr := 0,
    ssp := false, dsp := true, csp := false, sfmt := 11, dfmt := 11, rnd := 0, sat := false,
    owed := [{ num := 0, off := 0, addr := padKey 0 0x80000, len := 1, dead := false, srcGone := false, void := false }],
    batch := none, outcome := 0, flags := 0, paused := none, kept := [] }

theorem witness_pending_line : State.linePending { wS with copies := [owing] } (padKey 0 0x80000) = true := by decide

/-- A store of thread 0 in flight. -/
def wStore : Access :=
  { id := 9, core := 0, guid := 0, tenant := 0, gid := 5, kind := .store, launch := 1, netBad := false,
    lanes := [{ tid := 0, va := 16, pa := 16, peer := false, arg := 0, arg2 := 0, bytes := [1, 2, 3, 4] }] }

theorem witness_FencesAndWaits : Acting { wS with accesses := [wStore] } 0 wC wG (wT 0) ∧
    ((3 : BitVec 2).toNat ≠ 1 ∧ 2 ≤ (2 : BitVec 2).toNat ∧ wStore.guid = wC.guid ∧ wStore.kind.stores = true) ∧
    InIssue oneS oneC wG ∧ (oneS.xlate 0 0 16 0 = .ok 16 ∧ (0 : Dword).toNat ≤ oneS.num 16 8 ∧ oneS.num 16 8 < (1 : Dword).toNat) ∧
    InIssue { oneS with badUnits := [0, 1] } oneC wG ∧ (State.xlate { oneS with badUnits := [0, 1] } 0 0 16 0 = .ok 16 ∧
      (∃ n ∈ [0, 1], n * 64 < 56 + 8 ∧ 56 < n * 64 + 64) ∧ ∀ n ∈ [1], 56 + 8 ≤ n * 64 ∨ n * 64 + 64 ≤ 56) :=
  ⟨⟨by decide, by decide, by decide⟩, by decide, witness_issue_one, by decide, ⟨by decide, by decide⟩, by decide⟩

/-- An access of each kind, alone, is performable, and so is the store. -/
def wAccess (k : AccKind) : Access := { wStore with kind := k, lanes := wStore.lanes.map fun l => { l with bytes := [] } }

theorem witness_AccessesPerformed : MemOk { wS with accesses := [wStore] } ∧
    (∀ k ∈ [AccKind.store, .load 4 3 0 false, .sload 9, .atomic 0 3 0 false false, .atomic 10 4 0 true true, .cas true 4 0 false, .cas false 3 0 false,
        .ctadd, .ctread 4 2, .promote 3 2 true],
      let a := if k = .store then wStore else wAccess k
      let s : State := { wS with accesses := [a] }
      s.accesses.find? (fun e => decide (e.id = a.id)) = some a ∧ (∀ l ∈ a.lanes, l.pa < Config.frames * Config.frameBytes ∧ l.peer = false) ∧
      s.badUnits = [] ∧ s.performable a = true ∧ s.group a.guid = some wG ∧ s.clines = [] ∧ s.earlier a = []) :=
  ⟨⟨by decide, by decide⟩, by decide⟩

/-- A full set of 64 batches, the oldest with an open copy; numbers on both sides of the wrap. -/
def batched : Thread := { wT 0 with batch := 64, batches := (List.range 64).map fun i => ⟨BitVec.ofNat 32 (64 - i), 0, 0⟩ }

theorem witness_CopyBatches : Acting (wS.onThread 0 0 fun _ => batched) 0 wC (wG.onThread 0 fun _ => batched) batched ∧
    (batched.batches[63]? = some ⟨1, 0, 0⟩ ∧
      State.oldBatchOpen { wS with copies := [{ owing with batch := some 1 }] } 0 batched = true ∧
      wS.oldBatchOpen 0 batched = false ∧ (wT 0).batches[63]? = none ∧
      (batched.batches.find? fun b => decide (b.num = 64)) = some ⟨64, 0, 0⟩ ∧ ((0 : Word) - 0xFFFFFFFF).toNat ≤ 0x7FFFFFFF ∧
      (∀ b ∈ batched.batches, b.num ≠ 65)) := ⟨⟨by decide, by decide, by decide⟩, by decide⟩

/-- The first usable page of bank 8 beside the region there, and none for a rank in dark banks. -/
theorem witness_RegionPlacement : wS.place 0 (wG.regions.filterMap id) 2 4096 = some 0x82000 ∧
    State.reset.place 0 [] 2 4096 = none ∧ 0x82000 / 4096 + (4096 / 4096 - 1) < 1024 := by decide

/-- RALLOC operands on both sides of each limit; an unlisted region; a region shared by a bank. -/
def sharing : State := wS.setGroup 1 { wG with regions := [some (Region.fresh 0x82000 4096 2 24 false)] ++ List.replicate 31 none }

theorem witness_RegionInstructions : Acting wS 0 wC wG (wT 0) ∧ InIssue wS wC wG ∧ MemOk wS ∧
    (8 ≤ (8 : Word).toNat ∧ (7 : Word).toNat < 8 ∧ 13 % 12 ≠ 0 ∧ 2 ^ 57 ≤ 12 * 12009599006321323 ∧
      (0 < 0x80000 ∧ 0x80000 % 4096 = 0 ∧ 0x80000 ≤ 0x80000) ∧ ¬ 0x81000 ≤ 0x80000 ∧ (0x380000 % 4096 = 0 ∧ 0x380000 ≤ 0x380000) ∧
      (2 : Word).toNat < ({ wS.core 0 with floor := 3 } : Core).floor ∧ none ∈ wG.regions ∧
      none ∉ List.replicate 32 (some (Region.fresh 0x80000 4096 2 24 false)) ∧
      wS.place 0 (wG.regions.filterMap id) 7 4096 = some 0 ∧ State.reset.place 0 [] 2 4096 = none ∧ wS.noisy = []) ∧
    (wG.ownRegion 0x7FFFF = none ∧ wG.ownRegion 0x82000 = none ∧ wG.ownRegion 0x81FFF = some (0, Region.fresh 0x80000 8192 2 24 false) ∧
      wG.regionAt 0x81FFF = some (0, Region.fresh 0x80000 8192 2 24 false)) ∧
    (∃ q ∈ sharing.coreRegions 0, q.base ≠ 0x80000 ∧ ∃ b ∈ (Region.fresh 0x80000 8192 2 24 false).banks,
      (Region.fresh 0x80000 8192 2 24 false).reserves b = true ∧ q.reserves b = true) ∧
    ¬ (∃ q ∈ wS.coreRegions 0, q.base ≠ 0x80000) ∧
    ({ Region.fresh 0x80000 8192 2 24 false with lost := true, claim := some 1 }.claim = some 1 ∧ (1 : Nat) ≠ (wT 0).tid) :=
  ⟨witness_acting.1, witness_issue, ⟨by decide, by decide⟩, by decide, by decide, by decide, by decide, by decide⟩

/-- CAP 0, 1, 4,096 and 4,097; a handle of no home, of core 767 and of core 768; a lost home noted in the ticket. -/
theorem witness_SynchronisationInstructions : Acting wS 0 wC wG (wT 0) ∧ InIssue wS wC wG ∧
    (let c : Ctx := { wC with chained := true, waits := [(0, .batches 1, 0)] }
     Acting { wS with cur := some c } 0 c wG (wT 0) ∧ c.chained = true ∧ ∃ w i, ((wT 0).tid, w, i) ∈ c.waits) ∧ wC.chained = false ∧
    (4096 < 4097 ∧ 0 < 1 ∧ 4096 ≤ 4096 ∧ wG.spillOk 0x80000 1 = true ∧ wG.spillOk 0x82000 1 = false ∧
      ((0x4001 : Word).toNat % 2 ^ 14 ≠ 0 ∧ (0x4001 : Word).toNat / 2 ^ 22 < 768) ∧ (0x4000 : Word).toNat % 2 ^ 14 = 0 ∧
      768 ≤ (0xC0000001 : Word).toNat / 2 ^ 22 ∧ (0xBFC00001 : Word).toNat / 2 ^ 22 = 767 ∧
      ({ wT 0 with tickets := List.replicate 8 ⟨1, none, some (0x11, 0, 24)⟩ }.tickets.getD 7 Ticket.fresh).lost = some (0x11, 0, 24) ∧
      ((wT 0).tickets.getD 0 Ticket.fresh).lost = none) :=
  ⟨witness_acting.1, witness_issue, ⟨⟨by decide, by decide, by decide⟩, by decide, .batches 1, 0, by decide⟩, by decide, by decide⟩

/-- A message of the thread 0, parked for its acknowledgement, at the home core 0. -/
def wMsg (op : HOp) (v : Word) (then_ : Option HDest) : HMsg :=
  { id := 9, home := 0, guid := 0, tid := 0, handle := v, op := op, then_ := then_ }

def parked (w : Wait) : Thread := { wT 0 with run := .parked w ⟨0, 0, 0⟩ ⟨0, 0, 1⟩ }

/-- Log 39, from the worked program of spec/15: a thread woken from its first wait sends the message of the issue's later word. -/
theorem test_waits_in_word_order :
    let s := wS.onThread 0 0 fun _ => { parked (.batches 1) with later := [(.hSend 0 1 (.arrive 2 0 0) none, 1)] }
    let t := s.goOn 0 0 ⟨0, 0, 1⟩
    t.hmsgs.map (fun m => (m.handle.toNat, m.tid)) = [(1, 0)] ∧
      (t.thread 0 0).map (fun u => (u.run, u.later)) = some (.parked (.hAck 2) ⟨0, 0, 0⟩ ⟨0, 0, 1⟩, []) := by decide

/-- R187: the entry of a thread that branches below address 0 has CAUSE 0x20 and ACCESS 2. -/
theorem test_branch_fault : (ran (.bru { p := 7, neg := false, tprio := 0, fprio := 0, off := -10#32 }) id).map
    (fun s => s.dieQ.map fun e => (e.2.cause, e.2.access)) = some [(0x20, 2)] := by decide

def homeS (m : HMsg) (y : Option SyncGroup) : State :=
  let s := (wS.setCore 0 { wS.core 0 with sync := [(0, ⟨1, y⟩)] }).onThread 0 0 fun _ => parked (.hAck 9)
  { s with hmsgs := [m] }

/-- The group with a second counted member, and one that may grow. -/
def wSync2 : SyncGroup := { wSync with cap := 2, members := [⟨0, 0, 2, 0, .counted⟩, ⟨0, 1, 2, 1, .counted⟩], nextSeq := 2 }
def wSyncOf1 (cap : Nat) : SyncGroup := { wSync with cap := cap, members := [⟨0, 1, 2, 0, .counted⟩] }

theorem witness_HomeAppliesMessages :
    (∀ p ∈ [(HOp.create 2 3 1 0x80000 1, (0 : Word), none), (.join 2, 1, none), (.join 2, 2, none), (.leave 2, 1, none), (.query 2 4, 1, none),
        (.dissolve 2, 1, none), (.wait 2, 1, some (HDest.pair 4)), (.arrive 2 0 0, 1, none)],
      let m := wMsg p.1 p.2.1 p.2.2
      let s := homeS m (some wSync2)
      (s.hmsgs.find? fun n => decide (n.id = m.id)) = some m ∧ s.oldestMsg m = true ∧ (s.group m.guid).isSome = true ∧
        (s.thread m.guid m.tid) = some (parked (.hAck m.id)) ∧ (parked (.hAck m.id)).later = []) ∧
    ((homeS (wMsg (.create 2 3 1 0x80000 1) 0 none) none).freeSlot 0 = some 0 ∧ wG.spillOk 0x80000 1 = true) ∧
    (let s := homeS (wMsg (.join 2) 1 none) (some (wSyncOf1 2))
     (1 : Word).toNat % 2 ^ 14 ≠ 0 ∧ (1 : Word).toNat / 2 ^ 22 < 768 ∧ (s.syncSlot 0 0).lastTag = 1 ∧
      (s.syncSlot 0 0).group = some (wSyncOf1 2) ∧ s.ownsCluster 0 0 = true ∧
      (wSyncOf1 1).cap ≤ (wSyncOf1 1).members.length ∧ (wSyncOf1 2).members.length < (wSyncOf1 2).cap ∧ (wSyncOf1 2).member 0 0 = none ∧
      ({ wSync with cap := 2 }.member 0 0).isSome = true ∧ (2 : Word).toNat % 2 ^ 14 ≠ (s.syncSlot 0 0).lastTag) ∧
    (wSync2.member 0 0 = some ⟨0, 0, 2, 0, .counted⟩ ∧
      (wSync2.members.find? fun z => decide (z.seq = 0)) = some ⟨0, 0, 2, 0, .counted⟩ ∧
      ∃ z ∈ wSync2.members, z.seq ≠ 0 ∧ z.state = .counted) := by decide

/-- Generations of each kind with one arrival. -/
theorem witness_GenerationCompletes : ∀ k, k < 13 → { wSync with opened := some k, arrivals := [⟨0, 0, 2, 0, k, 1⟩] }.opened = some k ∧
    ([⟨0, 0, 2, 0, k, 1⟩] : List Arrival).length ≤ 4096 := by decide

/-- Memory from 0x400 and, through the tables, from 0x200400: a launch record of one thread with 8 registers, LO 0 and HI 4. -/
def recordBytes : List Byte :=
  leBytes 64 (4 * 2 ^ 96 + 1 * 2 ^ 256 + 1 * 2 ^ 267 + 1 * 2 ^ 271)

/-- A tree of tenant 0 whose one page of tables serves its four upper levels and maps 2 MiB from 0x200000 to frame 0. -/
def treeBytes : List Byte := leBytes 8 0x100001 ++ leBytes 8 31

/-- Tenant 0 with the tree, a save pool, a command queue at host address 0x1000 and a fault ring at 0x8000 with FQCTL 0x9000. -/
def wTenant : Tenant :=
  { Tenant.ofCfg { TenantCfg.blank with clusters := [0], root := 0x100000, saveBase := 0, saveBytes := 0x100000, cmdBase := 0x1000,
                                        fqBase := 0x8000, fqCtl := 0x9000, hv := true } with
    stage2 := [(0, 7)] }

/-- The cells of bytes from a key up. -/
def cellsOf (k : Nat) (bs : List Byte) : List Host.Cell := (bs.zipIdx.filter fun p => decide (p.1 ≠ 0)).map fun p => (k + p.2, p.1)

def treeS (s : State) : State :=
  { s with tenants := [(0, wTenant)], mem := cellsOf 0x400 recordBytes ++ cellsOf 0x100000 treeBytes }

theorem witness_tree : (treeS wS).xlateTables 0 0x200400 1 = .ok 0x400 ∧ (treeS wS).readTables 0 0x200400 64 = some recordBytes := by decide

/-- What the record at 0x400 says. -/
def wRec : LaunchRec := { LaunchRec.ofNat 0 with threads := 1, regs8 := 1, gang := 1, hi := 4 }

theorem witness_RangesAndQueues : Acting wS 0 wC wG (wT 0) ∧
    (wS.localRange 0 1 = none ∧ wS.ranges = [] ∧
      State.localRange { wS with ranges := [⟨0, 1, 3, 4, some 0, none⟩] } 0 1 = some ⟨0, 1, 3, 4, some 0, none⟩ ∧
      wG.rec_.gang ≤ 1 ∧ 1 < { wRec with gang := 2 }.gang ∧ wG.launch = 1) ∧
    (0x404 % 8 ≠ 0 ∧ 0x400 % 8 = 0 ∧ 768 ≤ 768 ∧ 767 < 768 ∧ 23 / 24 ∈ (treeS wS).clustersOf 0 ∧ 24 / 24 ∉ (treeS wS).clustersOf 0 ∧
      (match (treeS wS).readRecord wG 0x400 with | .ok r => decide (r = wRec) | _ => false) = true ∧ (treeS wS).tenant 0 = some wTenant ∧ wTenant.launchQ.length < 1024 ∧
      1024 ≤ { wTenant with launchQ := List.replicate 1024 ⟨wRec, 0x400, 0, 0, 0, none, 0, 3⟩ }.launchQ.length ∧
      16 ≤ (List.replicate 16 (⟨0, 1, 0, wRec, 0x400, 5, 0, none, 0, 3⟩ : TaskRec)).length ∧
      ((treeS wS).tasks.filter fun q => decide (q.sender = wG.core)).length < 16) := ⟨witness_acting.1, by decide, by decide⟩

/-- A descriptor: four bytes of UINT8 from 0x800 to scratchpad 0x800FE, over a chunk boundary at 0x80100. -/
def wDesc : Nat := 0x800 + 11 * 2 ^ 60 + 2 ^ 58 + 0x800FE * 2 ^ 64 + 1 * 2 ^ 125 + 11 * 2 ^ 185 + 4 * 2 ^ 384 + 4 * 2 ^ 400 + 1 * 2 ^ 248
def descS : State := wS.write 0x600 (leBytes 64 wDesc)

theorem witness_block : BlockAt descS wG 0x600 wDesc := ⟨by decide, by decide, 0x600, by decide, by decide, by decide, by decide⟩

theorem witness_CopiesStart : Acting descS 0 wC wG (wT 0) ∧ BlockAt descS wG 0x600 wDesc ∧
    (0x620 % 64 ≠ 0 ∧ descOk wDesc = true ∧ descOk (wDesc + 2 ^ 511) = false ∧ bits wDesc 127 125 < 4) ∧
    (let x := Copy.make descS wC wG (wT 0) wDesc 0
     (geoOk (bits wDesc 127 125) 0 && x.dims.all CopyDim.ok) = true ∧ (∃ u : Unit, x.padChecks descS wG = .go u) ∧ x.dsp = true) ∧
    ((descS.copies.filter fun y => decide (y.core = wG.core)).length < 256 ∧ 256 ≤ (List.replicate 256 owing).length) ∧
    (chunksOf 0x800FE 4 id).map (fun ch => (ch.off, ch.len)) = [(0, 2), (2, 2)] :=
  ⟨⟨by decide, by decide, by decide⟩, witness_block, by decide, ⟨by decide, ⟨(), by rfl⟩, by decide⟩, by decide, by decide⟩

/-- The group with its row slots Open on row 0 and a sound block of each engine command at 0x600, 0x640, 0x680 and 0x6C0. -/
def openRow0 : RowSlot := { state := .opened, reason := 0, va := 0, pa := 0, since := 0 }
def blkG : Group := { wG with rows := List.replicate 8 openRow0 }

/-- K 8, BF16, A at 0x80000, B at 0x80400, tile 1. -/
def mxN : Nat := 0x80000 + 0x80400 * 2 ^ 32 + 8 * 2 ^ 128 + 1 * 2 ^ 151
/-- The same with B from staging and K 32, in E4M3 (8 × 32 × 8 = 2,048 would not fill it, so BF16: 8 × 32 × 16 = 4,096). -/
def mxStageN : Nat := 0x80000 + 32 * 2 ^ 128 + 1 * 2 ^ 149
/-- Q of E4M3 at 0x80000; K and V in slots 0 and 7; 64 keys; one row. -/
def attnN : Nat := 0x80000 + 64 * 2 ^ 216 + 1 * 2 ^ 224 + 2 * 2 ^ 236 + 2 * 2 ^ 238 + 2 * 2 ^ 240 + 1 * 2 ^ 242 + 1 * 2 ^ 246 + 7 * 2 ^ 247
/-- One row of 64 columns from 0x80000 and 0x80200 to 0x80400. -/
def mergeN : Nat := 0x80000 + 0x80200 * 2 ^ 32 + 0x80400 * 2 ^ 64 + 1 * 2 ^ 96
/-- Tile 1 as FP32 rows of 256 bytes to DRAM at 0x10000. -/
def drainN : Nat := 0x10000 + 256 * 2 ^ 64 + 1 * 2 ^ 170

def blkS : State :=
  ((((wS.setGroup 0 blkG).write 0x600 (leBytes 64 mxN)).write 0x640 (leBytes 64 attnN)).write 0x680 (leBytes 64 mergeN)).write 0x6C0
    (leBytes 64 drainN)

theorem readable_one (a n : Nat) (h : blkS.padCheck blkG a n = .ok (padKey 0 a)) :
    Readable blkS blkG [(a, n)] ∧ InBounds blkS blkG [(a, n)] := by
  constructor <;> intro r hr _ <;> obtain rfl : r = (a, n) := by simpa using hr
  · exact ⟨_, h⟩
  · intro b hb
    simp [h] at hb

theorem witness_blocks : BlockAt blkS blkG 0x600 mxN ∧ BlockAt blkS blkG 0x640 attnN ∧ BlockAt blkS blkG 0x680 mergeN ∧ BlockAt blkS blkG 0x6C0 drainN :=
  ⟨⟨by decide, by decide, 0x600, by decide, by decide, by decide, by decide⟩, ⟨by decide, by decide, 0x640, by decide, by decide, by decide, by decide⟩,
   ⟨by decide, by decide, 0x680, by decide, by decide, by decide, by decide⟩, ⟨by decide, by decide, 0x6C0, by decide, by decide, by decide, by decide⟩⟩

theorem witness_EngineCommandsStart : Acting blkS 0 wC blkG (wT 0) ∧
    (MxBlk.ok mxN blkG = true ∧ MxBlk.ok 0 blkG = false ∧ (MxBlk.ofNat mxN).bsrc = false ∧ (MxBlk.ofNat mxN).runs = [(0x80000, 1024), (0x80400, 1024)] ∧
      MxBlk.ok mxStageN blkG = true ∧ (MxBlk.ofNat mxStageN).bsrc = true ∧ blkG.staging.empty = true ∧ blkG.staging.fill = none ∧
      { blkG.staging with empty := false }.empty = false) ∧
    Readable blkS blkG [(0x80000, 1024)] ∧ Readable blkS blkG [(0x80400, 1024)] ∧ InBounds blkS blkG [] ∧ InBounds blkS blkG [(0x80FFC, 4)] ∧
    CounterAt blkS blkG 0 0 ∧ CounterAt blkS blkG 0x108 0x108 ∧
    (AttnBlk.ok attnN blkG = true ∧ AttnBlk.ok 0 blkG = false ∧ (AttnBlk.ofNat attnN).runs = [(0x80000, 4096)] ∧
      (∀ x ∈ (AttnBlk.ofNat attnN).takes, blkG.rows[x.1]? = some openRow0 ∧ openRow0.state = .opened) ∧
      (blkS.takes.filter fun x => decide (x.core = blkG.core)).length + (AttnBlk.ofNat attnN).takes.length ≤ 16) ∧
    Readable blkS blkG [(0x80000, 4096)] ∧
    (MergeBlk.ok mergeN 0 = true ∧ MergeBlk.ok 0 0 = false ∧ (MergeBlk.ofNat mergeN).len = 264) ∧ InBounds blkS blkG [(0x80400, 264)] ∧
    (DrainBlk.ok drainN blkG = true ∧ DrainBlk.ok (2 ^ 511) blkG = false ∧ (DrainBlk.ofNat drainN 0).osp = false) ∧
    (0x80040 % 128 ≠ 0 ∧ 0x80000 % 128 = 0 ∧ 0x80000 < 2 ^ 32 ∧ 2 ^ 32 ≤ 2 ^ 32 ∧ 0x620 % 64 ≠ 0 ∧
      ∀ i, i < 512 → blkS.xlate 0 0 (0x1FFE00 + i) 0 = .ok (0x1FFE00 + i)) :=
  ⟨⟨by decide, by decide, by decide⟩, by decide, (readable_one _ _ (by decide)).1, (readable_one _ _ (by decide)).1,
   (fun r hr => absurd hr (by simp)), (readable_one _ _ (by decide)).2, .inl ⟨rfl, rfl⟩, .inr ⟨by decide, by decide⟩, by decide,
   (readable_one _ _ (by decide)).1, by decide, (readable_one _ _ (by decide)).2, by decide, by decide⟩

/-- A KV descriptor at 0xA00: eight entries from 0x2000, every one Valid for sequence 5, block 1; blocks of four bytes from 0x4000; no
overflow list; eight digest slots from 0x3000. -/
def kvN : Nat := 0x2000 + 0x4000 * 2 ^ 64 + 4 * 2 ^ 128 + 3 * 2 ^ 160 + 0xFFFFFFFF * 2 ^ 192 + 0x3000 * 2 ^ 256 + 3 * 2 ^ 320
def kvEntries (state : Nat) : List Byte :=
  (List.range 8).flatMap fun _ => leBytes 32 (5 + 1 * 2 ^ 64 + state * 2 ^ 96 + 0xFFFFFFFF * 2 ^ 160)
def kvS (state : Nat) : State :=
  { treeS wS with mem := cellsOf 0xA00 (leBytes 64 kvN) ++ cellsOf 0x2000 (kvEntries state) ++ cellsOf 0x100000 treeBytes }

def kvCmd (k : KvForm) (args : List Word) : KvCmd := ⟨9, 0, 0, 0, 0, k, 0xA00, 0xA00, 4, args, none, 0⟩

/-- A KV command that its tables let through. -/
def kvGoes (s : State) (q : KvCmd) : Bool := match s.kvTry q with | .ok _ => true | .error _ => false

theorem witness_KvInstructions : Acting (kvS 1) 0 wC wG (wT 0) ∧
    (0xA20 % 64 ≠ 0 ∧ 0xA00 % 64 = 0 ∧ (kvS 1).xlate 0 0 0xA00 0 = .ok 0xA00 ∧ 0xA00 < Config.padBase) ∧
    (kvGoes (kvS 1) (kvCmd .find [5, 0, 1]) = true ∧ kvGoes (kvS 0) (kvCmd .ins [6, 0, 1]) = true ∧
      kvGoes (kvS 1) (kvCmd .seal [0]) = true ∧ kvGoes (kvS 1) (kvCmd .del [5, 0, 1]) = true ∧ kvGoes (kvS 1) (kvCmd .pfx [1, 2, 3, 4]) = true ∧
      kvGoes (kvS 1) (kvCmd .pfxIns [1, 2, 3, 4, 5]) = true ∧ kvGoes (kvS 1) (kvCmd .pfxDel [1, 2, 3, 4]) = true) ∧
    (match wS.kvTry (kvCmd .find [5, 0, 1]) with | .error (.trap 1 a) => decide (a = 0xA00) | _ => false) = true ∧
    (match State.kvTry { kvS 1 with cores := [(0, Core.reset.addTlb { wPage with rd := false })] } (kvCmd .find [5, 0, 1]) with
      | .error (.fault .fatal a _) => decide (0x2000 ≤ a) | _ => false) = true :=
  ⟨⟨by decide, by decide, by decide⟩, by decide, by decide +kernel, by decide, by decide⟩

/-- Slots of every state; seven slots and the number 7; a row of the core's column and one of the next column. -/
theorem witness_RowInstructions : Acting blkS 0 wC blkG (wT 0) ∧
    ({ wG with rows := List.replicate 7 RowSlot.free }.rows.length ≤ (7 : BitVec 3).toNat ∧ blkG.rows[7]? = some openRow0 ∧
      wG.rows[7]? = some RowSlot.free ∧ blkS.xlate 0 0 0x1000 3 = .ok 0x1000 ∧ 0x1000 / 2 ^ 21 / 384 = blkG.core ∧
      (384 * 2 ^ 21) / 2 ^ 21 / 384 ≠ blkG.core ∧ openRow0.state ≠ .free ∧ RowSlot.free.state = .free ∧ openRow0.reason < 8 ∧
      { wT 0 with grant := some 7 }.grant = some (7 : BitVec 3).toNat ∧ (wT 0).grant ≠ some 0 ∧
      0x80000 % 128 = 0 ∧ 0x3FF000 + 4096 ≤ 0x400000 ∧ (blkS.takes.filter fun x => decide (x.core = blkG.core)).length < 16) ∧
    InBounds blkS blkG [(0x80000, 4096)] := ⟨⟨by decide, by decide, by decide⟩, by decide, (readable_one _ _ (by decide)).2⟩

/-- One command of each kind, alone on the core. -/
def wEng (op : EngOp) (lost : Bool) : EngCmd :=
  { id := 9, core := 0, guid := 0, tid := 0, tenant := 0, gid := 5, op := op, fin := ⟨false, 0, 0, 0⟩, lost := lost }

def engOps : List EngOp :=
  [.mx (MxBlk.ofNat mxN) (some []) false, .mx (MxBlk.ofNat mxStageN) (some []) true, .attn (AttnBlk.ofNat attnN) [] [] false,
   .merge (MergeBlk.ofNat mergeN), .drain (DrainBlk.ofNat drainN 0) false [] [] 0 0 none,
   .drain { DrainBlk.ofNat drainN 0 with osp := true, oaddr := 0x80000 } true [(0, [1, 2])] [⟨0, 0, padKey 0 0x80000, 2, false, false, false⟩] 0 0 none,
   .cbload 0x600 ((List.range 512).map (0x600 + ·))]

theorem witness_EngineCommandsComplete :
    (∀ op ∈ engOps, ∀ lost ∈ [false, true], let e := wEng op lost; let s : State := { blkS with engs := [e] }
      (s.engs.find? fun x => decide (x.id = e.id)) = some e ∧ s.engTurn e = true ∧ (∀ c ∈ s.columns, c.2.remap = none) ∧ s.roomFor e.core = true ∧ s.behind e.guid e.tid e.id = false ∧ s.group e.guid = some blkG) ∧
    MemOk blkS ∧ (blkS.takes = [] ∧ blkS.padCheck blkG 0x80400 264 = .ok (padKey 0 0x80400) ∧
      (∀ k ∈ (List.range 512).map (0x600 + ·), blkS.badAt k 1 = false ∧ k < Config.peerBase) ∧
      State.badAt { blkS with badUnits := [0x600 / 64] } 0x63F 1 = true) :=
  ⟨by decide, ⟨by decide, by decide⟩, by decide⟩

/-- The copy of the descriptor at 0x600, its first chunk next to land. -/
def wCopy : Copy := Copy.make descS wC wG (wT 0) wDesc 0
def copyS (x : Copy) : State := { descS with copies := [x], nextId := 3 }

theorem witness_CopiesAndKvComplete :
    (let x := wCopy
     let s := copyS x
     ∀ ch ∈ x.owed.take 1, (s.copies.find? fun y => decide (y.id = x.id)) = some x ∧ (x.owed.find? fun y => decide (y.num = ch.num)) = some ch ∧
      x.paused = none ∧ ch.void = false ∧ s.copyAway x = false ∧ s.roomFor x.core = true ∧ s.behind x.guid x.tid x.id = false ∧ s.badUnits = [] ∧ ch.dead = false ∧ ch.srcGone = false ∧
      (match x.landing s ch with
        | .ok l => decide (l.counter = none ∧ l.places = (List.range l.bytes.length).map (ch.addr + ·) ∧ ch.addr + l.bytes.length ≤ Config.peerBase)
        | _ => false) = true) ∧
    wCopy.owed.length = 2 ∧ MemOk (copyS wCopy) ∧
    (∀ b : Bool, let x := { wCopy with owed := wCopy.owed.map fun ch => { ch with dead := true, srcGone := b } }
     let s := copyS x
     ∀ ch ∈ x.owed.take 1, (s.copies.find? fun y => decide (y.id = x.id)) = some x ∧ (x.owed.find? fun y => decide (y.num = ch.num)) = some ch ∧
      ch.dead = true ∧ ch.srcGone = b ∧ x.paused = none ∧ ch.void = false ∧ s.copyAway x = false ∧ s.roomFor x.core = true ∧
      s.behind x.guid x.tid x.id = false ∧ s.badUnits = [] ∧ (match x.readChunk s ch with | .ok _ => true | _ => false) = true) ∧
    (let q := kvCmd .find [5, 0, 1]
     let s : State := { (kvS 1).onThread 0 0 (fun _ => parked (.kv 9)) with kvs := [q] }
     (s.kvs.find? fun y => decide (y.id = q.id)) = some q ∧ q.paused = none ∧ (∀ c ∈ s.columns, c.2.remap = none) ∧ s.roomFor q.core = true ∧ s.behind q.guid q.tid q.id = false ∧ kvGoes s q = true ∧
      (s.group q.guid).isSome = true ∧ s.thread q.guid q.tid = some (parked (.kv q.id)) ∧ (parked (.kv q.id)).later = []) ∧
    (match (kvS 1).kvTry (kvCmd .del [5, 0, 1]) with | .ok (_, r) => decide (r.writes.length = 1) | _ => false) = true ∧
    (let tb : KvTable := ⟨0, 0, 0xA00, 0xA00, kvN⟩
     (match (kvS 1).kvSearch tb 5 1 32 with | .ok w => w.found.isSome | _ => false) = true ∧
     (match (kvS 1).kvSearch tb 6 1 32 with | .ok w => w.found.isNone | _ => false) = true) :=
  ⟨by decide, by decide, ⟨by decide, by decide⟩, by decide, by decide, by decide, by decide⟩

/-- A request queued for the slot 1, a slot that activates, a row that has been open for its limit; refreshes in each state. -/
def rowsS (r : RowSlot) (now : Nat) : State :=
  let s := wS.setGroup 0 { wG with rows := wG.rows.set 1 r }
  { s with stime := now, columns := [(0, { Column.reset with queue := [⟨0, 1⟩] })] }

theorem witness_RowsRefreshAndRambler :
    (rowsS { RowSlot.free with state := .queued } 300).activation 0 = some (⟨0, 1⟩, { RowSlot.free with state := .queued }) ∧
    (rowsS { RowSlot.free with state := .queued } 300).holder 0 ⟨0, 1⟩ 0 = none ∧
    (State.setGroup (rowsS { RowSlot.free with state := .queued } 300) 1 { blkG with gid := 6 }).holder 0 ⟨0, 1⟩ (rowOf 0) = some openRow0 ∧
    (risingFrom 0 wS.groups = true ∧ { openRow0 with state := .activating, since := 5 }.since + 36 ≤ 41 ∧ openRow0.since + 9360 ≤ 9360 ∧
      openRow0.since + 4680 ≤ 4680) ∧
    (let x : Take := ⟨9, 0, 0, 0, 1, 0, 0, .staging, 0, 0, [], [], false, [], none, 0⟩
     let s : State := { blkS with takes := [x] }
     (s.takes.find? fun y => decide (y.id = x.id)) = some x ∧ s.roomFor x.core = true ∧ s.badAt (x.pa + x.beat * 512) 512 = false ∧
      s.firstFill x = true ∧ x.beat ≠ 7 ∧ { x with dest := .pad 0x80000, beat := 7 }.beat = 7 ∧ x.dead = []) ∧
    ((Column.reset.sinceDue 23 (390 * 23)) = 0 ∧ Column.reset.live.getLsbD 23 = true ∧ mget Column.reset.refresh 23 = none ∧
      mget [(23, RefreshState.grace 200)] 23 = some (.grace 200) ∧ 200 ≤ 200 ∧ wS.bankTaking 0 23 = false ∧
      mget [(23, RefreshState.busy 280)] 23 = some (.busy 280)) ∧
    (let e : Enrolled := ⟨0, 0x200A00, 0xA00, 0, 7, none⟩
     let kn := kvN + 0x200000 + 0x200000 * 2 ^ 64
     let s : State := { ((kvS 1).write 0xA00 (leBytes 64 kn)).write 0x100000 treeBytes with enrolled := [e] }
     let tb : KvTable := { core := noCore, tenant := e.tenant, desc := e.desc, descPa := e.descPa, n := s.devNum e.descPa 64 }
     (s.enrolled.find? fun x => decide (x.die = 0)) = some e ∧ s.dieRoom 0 = true ∧
      (match s.kvEntry tb e.next 0 with | .ok x => decide (x.state = 1 ∧ x.pend = false ∧ x.crc = 0) | _ => false) = true ∧
      (match s.kvBlock tb e.next with | .ok bs => decide ((crc32c bs).toNat ≠ 0) | _ => false) = true) := by decide +kernel

/-! Firmware: between issues, a record with an OP next in the queue of tenant 0. -/

def idleS : State := treeS { wS with cur := none }

/-- The record at the head of the queue: OP, and the ITEM of a query. -/
def cmdS (op item : Nat) : State :=
  { (idleS.write (Config.hostBase + 0x1000) (leBytes 8 op ++ leBytes 8 item)) with tenants := [(0, { wTenant with cmdTail := 1 })] }
def cmdT : Tenant := { wTenant with cmdTail := 1 }

theorem begins_of : ∀ op ∈ [1, 2, 3, 4, 5, 6, 7, 8, 9, 10, 11, 12], Begins (cmdS op 0) 0 op true cmdT ∧ MemOk (cmdS op 0) := by
  intro op h
  have k : ∀ op ∈ [1, 2, 3, 4, 5, 6, 7, 8, 9, 10, 11, 12], (cmdS op 0).tenant 0 = some cmdT ∧ (cmdS op 0).num cmdT.cmdKey 1 = op ∧
    (cmdS op 0).ready = true ∧ (cmdS op 0).num cmdT.cmdKey 4 / 256 = 0 ∧ risingFrom 0 (cmdS op 0).noisy = true ∧
    Memory.wf (cmdS op 0).noisy (cmdS op 0).mem := by decide
  obtain ⟨a, b, c, d, e, f⟩ := k op h
  exact ⟨⟨⟨a, by decide, by decide, b⟩, c, fun _ => by decide, d⟩, e, f⟩

/-- The same for a command that is not marked HV. -/
theorem begins_any (op : Nat) (h : op ∈ [1, 2, 3, 4, 5, 6, 7, 8, 9, 10, 11, 12]) : Begins (cmdS op 0) 0 op false cmdT :=
  ⟨(begins_of op h).1.head, (begins_of op h).1.up, fun n => absurd n (by decide), (begins_of op h).1.clear⟩

/-- The thread 0 waits for the answer to the fault with TOKEN 7. -/
def faulted : State := (cmdS 0x0B 0).onThread 0 0 fun _ => parked (.fault 7 0x5000 1)

theorem witness_HostCommands : (∀ op ∈ [1, 2, 7, 10, 11, 12], Begins (cmdS op 0) 0 op false cmdT) ∧ MemOk (cmdS 2 0) ∧
    Begins (cmdS 2 0) 0 2 true cmdT ∧ AtHead (cmdS 2 0) 0 2 cmdT ∧
    (0x400 % 8 = 0 ∧ 0x404 % 8 ≠ 0 ∧ (cmdS 1 0).readTables 0 0x400 64 = none ∧ (cmdS 1 0).readTables 0 0x200400 64 = some recordBytes ∧
      LaunchRec.ofNat (leNat recordBytes) = wRec ∧ (cmdS 1 0).checkLaunch wRec 0 = some ⟨wRec, [], [], [], [], false, []⟩ ∧ wRec.lo < wRec.hi ∧
      (cmdS 1 0).checkLaunch { wRec with threads := 0 } 0 = none ∧ (cmdS 1 0).ranges = []) ∧
    (1799 < 1800 ∧ (cmdS 2 0).budget < 3000 ∧ 1800 ≤ (cmdS 2 0).budget ∧ 3000 < 3001 ∧ (cmdS 2 0).budget < 1801) ∧
    (∀ item ∈ [0, 1, 2, 3, 4], (cmdS 7 item).num (cmdT.cmdKey + 8) 1 = item ∧ (cmdS 7 item).num (cmdT.cmdKey + 9) 7 = 0 ∧
      (cmdS 7 item).num (cmdT.cmdKey + 24) 32 = 0 ∧ (cmdS 7 item).num (cmdT.cmdKey + 16) 8 % 64 = 0) ∧
    (faulted.faultedThreads 0 7 = [(0, 0, ⟨0, 0, 0⟩, 0x5000, 1)] ∧ faulted.faultedThreads 0 8 = [] ∧
      (faulted.faultedThreads 0 7).Pairwise (fun a b => (a.1, a.2.1) ≠ (b.1, b.2.1)) ∧ (parked (.fault 7 0x5000 1)).later = [] ∧
      (faulted.answerCommand 0 8 false).isNone = true ∧ faulted.thread 0 0 = some (parked (.fault 7 0x5000 1)) ∧
      (State.answerCommand { faulted with copies := [{ owing with paused := some 9 }] } 0 9 false).isSome = true) ∧
    ((cmdS 12 0).group 0 = some wG ∧ (cmdS 12 0).group 1 = none ∧ wG.rec_.tenant = 0 ∧
      cmdT.saveUsed + (cmdS 12 0).gangSize 0 ≤ cmdT.cfg.saveBytes ∧ 0x2000 < 0x1FFF + (cmdS 12 0).gangSize 0) ∧
    (cmdT.cmdWait = none ∧ { cmdT with cmdWait := some .budget }.cmdWait = some .budget ∧
      (cmdS 2 0).budget < 1801 ∧ 1800 ≤ (cmdS 2 0).budget ∧ risingFrom 0 (cmdS 2 0).tenants = true) :=
  ⟨fun op h => begins_any op ((by decide : ∀ op ∈ [1, 2, 7, 10, 11, 12], op ∈ [1, 2, 3, 4, 5, 6, 7, 8, 9, 10, 11, 12]) op h),
   (begins_of 2 (by decide)).2, (begins_of 2 (by decide)).1, (begins_of 2 (by decide)).1.head, by decide, by decide, by decide, by decide, by decide, by decide⟩

/-- Frame 383, the last of column 0, belongs to tenant 0. -/
def owned (op : Nat) : State := { cmdS op 0 with frameKey := [(383, 0)] }

theorem witness_HypervisorCommands : (∀ op ∈ [3, 4, 5, 6, 9], Begins (cmdS op 0) 0 op true cmdT ∧ MemOk (cmdS op 0)) ∧
    ((cmdS 3 0).tenant 15 = none ∧ cfgOk wTenant.cfg = true ∧ cfgOk { wTenant.cfg with cmdLog := 3 } = false ∧ 16 ≤ 16) ∧
    (risingFrom 0 cmdT.stage2 = true ∧ 2 ^ 47 - 1 < 2 ^ 47 ∧ (383 * 2 ^ 21 + 7) / 2 ^ 48 = 0 ∧ (383 * 2 ^ 21 + 7) / 2 ^ 4 % 2 ^ 17 = 0 ∧
      (383 * 2 ^ 21 + 7) / 8 % 2 ≠ 1 ∧ (383 * 2 ^ 21 + 7) / 2 ^ 21 % 2 ^ 27 = 383 ∧
      383 < 16 * ((List.range 24).filter fun b => ((owned 4).column 0).live.getLsbD b).length ∧ mget (owned 4).frameKey 383 = some 0 ∧
      294912 ≤ (294912 * 2 ^ 21 + 7) / 2 ^ 21 % 2 ^ 27) ∧
    ({ cmdT with cmdWait := some (.zero 0 0x200000 7) }.cmdWait = some (.zero 0 0x200000 7) ∧
      { cmdT with cmdWait := some (.drain 0 [9] []) }.cmdWait = some (.drain 0 [9] []) ∧ (∃ a ∈ [wStore], a.id ∈ [9])) ∧
    (31 < 32 ∧ 294912 ≤ 294912 ∧ 0 ≤ 0) ∧
    (767 < 768 ∧ { Column.reset with pending := [(23, false)] }.pending = [(23, false)] ∧ Column.reset.remap = none ∧
      { Column.reset with temporary := [23], temps := List.replicate 12 92 }.temps[23 / 2]? = some 92 ∧ 92 ≤ 92 ∧ 92 < 93 ∧
      { Column.reset with remap := some (.retire 23, 0) }.remap = some (.retire 23, 0)) :=
  ⟨fun op h => begins_of op ((by decide : ∀ op ∈ [3, 4, 5, 6, 9], op ∈ [1, 2, 3, 4, 5, 6, 7, 8, 9, 10, 11, 12]) op h), by decide, by decide, by decide,
   by decide, by decide⟩

/-- The group halted under debug, its packet at address 0 cached. -/
def dbgG : Group := { wG with underDebug := true, halted := true }
def dbgS : State := (cmdS 8 0).setGroup 0 dbgG

theorem witness_DebugCommands : Begins (cmdS 8 0) 0 8 false cmdT ∧ MemOk (cmdS 8 0) ∧
    (dbgS.group 1 = none ∧ dbgS.group 0 = some dbgG ∧ dbgG.rec_.tenant = 0 ∧ dbgS.idle 0 = true ∧ State.idle { dbgS with packets := [wC] } 0 = false ∧
      dbgG.readItem 0 (.v 15) = some 0 ∧ dbgG.readItem 0 (.v 16) = none ∧ 63 < dbgG.sregs.length ∧ dbgG.thread 1 = some (wT 1) ∧
      (wT 1).regs[15]? = some 0 ∧ (wT 1).preds[6]? = some false ∧ (wT 1).handles[7]? = some 0 ∧
      (0x00C0000000000000 : Dword).toNat / 2 ^ 54 % 4 = 3 ∧ (0x0080000000000000 : Dword).toNat / 2 ^ 54 % 4 ≠ 3 ∧ (wT 1).run = .runnable ∧ (wT 1).due = none ∧
      (parked .capacity).run ≠ .runnable) ∧
    (let s := dbgS.write 0 wC.bytes
     s.steppable dbgG (wT 0) = true ∧ s.steppable dbgG (parked .capacity) = false ∧ s.slotOpen 0 (dbgG.slotOf 0) = true ∧
      State.slotOpen { s with packets := [{ wC with guid := 1 }] } 0 (dbgG.slotOf 0) = false ∧
      (match s.fetch dbgG 0 with | .ok bs => decide (bs = wC.bytes ∧ gatherKind 16 bs 0 = none) | _ => false) = true ∧
      (let h := s.gatherGroup dbgG
       let s1 := s.setGroup 0 h
       ∀ i, i < 1 → s1.eligible 0 h i = h.entries ∧ chooseEntry i (s1.eligible 0 h i) = some (Entry.fresh ⟨0, 0, 0⟩) ∧ s1.slotOpen 0 i = true ∧
         (s1.chooseBundle 0 h i (Entry.fresh ⟨0, 0, 0⟩)).isSome = true)) ∧
    (let g : Group := { dbgG with threads := dbgG.threads.map fun t => { t with run := .exited }, bundles := [], entries := [] }
     let s := dbgS.setGroup 0 g
     let h := s.gatherGroup g
     ∀ i, i < 4 → (s.setGroup 0 h).eligible 0 h i = []) :=
  ⟨begins_any 8 (by decide), (begins_of 8 (by decide)).2, by decide, by decide, by decide⟩

theorem witness_OutsideAccesses : State.reset.ready = false ∧ wS.ready = true ∧ MemOk idleS ∧
    (idleS.dieRoom 0 = true ∧ State.dieRoom { idleS with dieQ := List.replicate 4096 (0, FaultEntry.blank) } 0 = false ∧
      idleS.tablePlaces 0 0x200000 2 1 = some [0, 1] ∧ idleS.tablePlaces 0 0 2 1 = none ∧ ([0, 1] : List Nat).Nodup ∧ idleS.badUnits = []) ∧
    (idleS.tenant 1 = none ∧ idleS.tenant 0 = some wTenant ∧
      (let c := { wTenant.cfg with launchOn := true, senders := [5], entries := [0], maxClass := 0 }
       c.launchOn = true ∧ 5 ∈ c.senders ∧ wRec.entry ∈ c.entries ∧ wRec.cls ≤ c.maxClass ∧ 6 ∉ c.senders) ∧
      LaunchRec.ofNat (BitVec.ofNat 512 (leNat recordBytes)).toNat = wRec ∧ wRec.tenant = 0 ∧
      idleS.checkLaunch wRec 0 = some ⟨wRec, [], [], [], [], false, []⟩ ∧ idleS.checkLaunch { wRec with threads := 0 } 0 = none ∧ idleS.ranges = []) ∧
    (idleS.stage2 0 0x10 = .ok 0x10 true true ∧ (0x1FFFFF : Nat) / 2 ^ 21 = (0x1FFFFF + 1 - 1) / 2 ^ 21 ∧ 2 ^ 39 - 1 < 2 ^ 39 ∧
      idleS.stage2 0 0x200000 = .no .replayable ∧
      State.stage2 { idleS with tenants := [(0, { wTenant with stage2 := [(0, 3)] })] } 0 0x10 = .ok 0x10 true false) ∧
    ((List.replicate 256 (7 : Byte)).length = 256 ∧ ([1, 2, 3, 4] : List Byte).length = 4 ∧ (List.replicate 32 (0xFF : Byte)).length = 32 ∧
      (blockOf 3 (List.replicate 32 0xFF ++ List.replicate 256 7)).isSome = true ∧
      (blockOf 1 [7]).isNone = true ∧ (0 : Byte).toNat < 4) := ⟨by decide, by decide, ⟨by decide, by decide⟩, by decide, by decide, by decide, by decide⟩

/-- A launch of gang `n` and class `c` with a range of four indices in cluster 0, its entry at packet 2. -/
def pending (n c : Nat) (owner : Option Nat) (s : State) : State :=
  { s with launches := [(1, ⟨{ wRec with gang := n, cls := c, entry := 24 }, [], [], [], [], false, []⟩)], ranges := [⟨0, 1, 0, 4, owner, none⟩] }

theorem witness_DispatcherActions :
    ((idleS.checkLaunch { wRec with threads := 1024 } 0).isSome = true ∧ 0 ∈ idleS.clustersOf 0 ∧ idleS.leastPool 0 = 0) ∧
    (let q : QueuedLaunch := ⟨wRec, 0x400, 0, 5, 0, none, 0, 3⟩
     { wTenant with launchQ := [q] }.launchQ = q :: [] ∧ q.ack = none ∧ idleS.roomFor q.core = true) ∧
    (let q : TaskRec := ⟨0, 1, 0, wRec, 0x400, 5, 0, none, 0, 3⟩
     let s : State := { idleS with tasks := [q] }
     (s.tasks.find? fun t => decide (t.sender = 0) && decide (t.receiver = 1)) = some q ∧ q.ack = none ∧ s.ranges = [] ∧
      (s.checkLaunch q.rec_ q.tenant).isSome = true ∧ q.rec_.lo < q.rec_.hi) ∧
    (let s := pending 1 0 (some 1) idleS
     (s.core 1).hot = false ∧ s.couldRun 1 ⟨0, 1, 0, 4, some 1, none⟩ = true ∧
      (s.launchOf ⟨0, 1, 0, 4, some 1, none⟩).isSome = true ∧ (s.room 1 ⟨{ wRec with entry := 24 }, [], [], [], [], false, []⟩).isSome = true ∧ s.noisy = []) ∧
    (let s := pending 1 0 none idleS
     (s.core 1).hot = false ∧ (s.core 1).asks ≤ s.stime ∧ (∀ r ∈ s.ranges, r.owner ≠ some 1) ∧ s.wanted (1 / 24) (s.couldRun 1) = some 1 ∧
      s.largestRange (1 / 24) 1 = some ⟨0, 1, 0, 4, none, none⟩) ∧
    (let s := pending 2 0 none idleS
     let l : Launch := ⟨{ wRec with gang := 2, entry := 24 }, [], [], [], [], false, []⟩
     firstBy gangBefore ((s.gangRanges 0).filter fun p => !s.awayOf p.1.launch && !((windowsOf 0 p.2.rec_.gang).filter (s.windowOk p.2)).isEmpty) =
      some (⟨0, 1, 0, 4, none, none⟩, l) ∧ (windowsOf 0 2).find? (s.windowOk l) = some 0) ∧
    (let s := pending 24 3 none { idleS with cores := [(0, { idleS.core 0 with hot := false }), (5, { Core.reset with hot := true })] }
     let l : Launch := ⟨{ wRec with gang := 24, cls := 3, entry := 24 }, [], [], [], [], false, []⟩
     firstBy gangBefore (s.gangRanges 0) = some (⟨0, 1, 0, 4, none, none⟩, l) ∧ ((windowsOf 0 24).filter (s.windowOk l)) = [] ∧
      (∀ p ∈ s.groups, p.2.core / 24 = 0 → p.2.moveTo = none)) ∧
    (let s := pending 1 3 none { idleS with cores := (List.range 24).map fun i => (i, { Core.reset with hot := false }) }
     mget s.launches 1 = some ⟨{ wRec with cls := 3, entry := 24 }, [], [], [], [], false, []⟩ ∧ (∃ r ∈ s.ranges, r.launch = 1) ∧
      (0, wG) ∈ s.victims ⟨{ wRec with cls := 3, entry := 24 }, [], [], [], [], false, []⟩ ∧ wG.since + 120000 ≤ 120000 ∧ 119999 < wG.since + 120000) := by
  decide

/-- A launch that no core has room for: a class-3 record of nine tiles' worth of rows beside a full core. -/
theorem witness_no_room :
    State.someRoom { idleS with tenants := [(0, { wTenant with cfg := { wTenant.cfg with clusters := [] } })] } ⟨{ wRec with cls := 3 }, [], [], [], [], false, []⟩ = false := by
  decide

theorem witness_IssueSlotsAndMergeTicks :
    (let s := idleS.write 0 wC.bytes
     let s1 := s.gatherCore 0
     s.slotOpen 0 0 = true ∧ 0 < 4 ∧ (s1.slotGroups 0 0).length = 1 ∧ s1.slotGroups 0 3 = [] ∧
      s1.chooseGroup 0 (s1.slotGroups 0 0) = some (0, wG, wG.entries) ∧ chooseEntry 0 wG.entries = some (Entry.fresh ⟨0, 0, 0⟩) ∧
      ((s1.countGroups 0 0 (s1.slotGroups 0 0)).chooseBundle 0 wG 0 (Entry.fresh ⟨0, 0, 0⟩)).isSome = true ∧
      wG.bundlePoint ⟨0, [0, 1], false⟩ = some ⟨0, 0, 0⟩ ∧ (∀ t ∈ [0, 1], (wG.thread t).map (·.due) = some none) ∧
      (match s.fetch wG 0 with | .ok bs => decide (bs = wC.bytes) | _ => false) = true ∧ 0 < ((s.core 0).slotAt).length) ∧
    (∃ d ∈ [{ wG with passes := [1024, 0, 0, 0] }], 1024 ≤ d.passes.getD 0 0) ∧ (wG.passes.getD 0 0 < 1024) ∧
    (∃ f ∈ [{ Entry.fresh ⟨0, 0, 0⟩ with passes := [64, 0, 0, 0] }], f.passes.getD 0 0 = 64) ∧ (Entry.fresh ⟨0, 0, 0⟩).passes.getD 0 0 ≠ 64 ∧
    (idleS.clock 0 % 8 = 0 ∧ State.clock { idleS with stime := 1 } 0 % 8 ≠ 0 ∧ wG.halted = false ∧
      ∀ b ∈ wG.bundles, b.collective = false → b.slot < 4 ∧ ∃ e ∈ wG.entries, wG.bundlePoint b = some e.point) := by decide

theorem witness_CapacityAndHeat :
    (idleS.stime % 2400 = 0 ∧ 767 < 768 ∧ (List.replicate 12 106).length = 12 ∧ Column.reset.doubled.length = 12 ∧ Column.reset.temps.length = 12 ∧
      (∀ h ∈ [82, 83, 85, 86, 92, 93, 95, 96, 105, 106], (List.replicate 12 h).foldl max 0 = h) ∧ idleS.columns = []) ∧
    (Column.reset.live.getLsbD 23 = true ∧ (∀ p ∈ Column.reset.pending, p.1 ≠ 23) ∧ Column.reset.live.getLsbD 24 = false) ∧
    (let lit := fun (c : Core) => ((List.range 64).filter fun b => c.lit.getLsbD b).length
     lit Core.reset < 8 + 0 + 1 ∧ 8 + (idleS.core 0).chosen.length + 4 ≤ lit (idleS.core 0) ∧ lit (idleS.core 0) < 8 + 5) ∧
    ((idleS.core 0).chosen = [] ∧ { Core.reset with chosen := [11], due := 0 }.chosen ≠ [] ∧ 96 ≤ 96 ∧ 63 < 64 ∧ 2400 ≤ 2400 ∧
      (Region.fresh 0xB0000 4096 2 24 false).reserves 11 = true ∧ bankRank [Region.fresh 0xB0000 4096 2 24 false] 11 = some 2) := by decide

/-- The group told to stop, and what is saved of it. -/
def stopG : Group := { wG with stopping := true }
def stopS : State := idleS.setGroup 0 stopG
def savedG : Saved :=
  { guid := 0, group := { wG with regions := [some (Region.fresh 0x80000 8192 2 24 false)] ++ List.replicate 31 none },
    carried := [(0x80000, [1, 2])], bytes := 8192, home := none, held := [], copies := [] }
def savedS : State := { idleS with groups := [], saved := [savedG] }
def wWalk : Walk := { id := 9, core := 0, guid := 0, tid := 0, tenant := 0, va := 0x200000, access := 0, at_ := ⟨0, 0, 0⟩, sharers := [0] }

theorem witness_PreemptionAndFaults :
    (stopS.group 0 = some stopG ∧ stopG.gangOf = none ∧ stopS.tenant 0 = some wTenant ∧ risingFrom 0 stopS.groups = true ∧
      stopS.savable 0 = true ∧ idleS.savable 0 = false ∧ wTenant.saveUsed + stopS.saveSize stopG ≤ wTenant.cfg.saveBytes ∧
      wTenant.cfg.saveBytes < wTenant.cfg.saveBytes + stopS.saveSize stopG ∧ stopS.copies = [] ∧ (stopS.core 0).sync = [] ∧
      (∀ r ∈ stopG.rows, r.state = .free ∨ r.state = .closed)) ∧
    (savedS.savedGang 0 = [savedG] ∧ savedS.backOk savedG 0 = true ∧ savedS.backOk savedG 24 = false ∧ savedS.roomFor 0 = true ∧ savedG.held = [] ∧
      (∀ u ∈ savedG.group.threads, u.run = .runnable)) ∧
    (let u := parked .capacity
     (u.lastIssue + 4800000000 ≤ 4800000000 ∧ ¬ (u.lastIssue + 4800000000 ≤ 4799999999)) ∧
      (idleS.onThread 0 0 fun _ => u).group 0 = some { wG with threads := [] ++ u :: [wT 1] } ∧ (wG.halted = false ∧ wG.hangReported = false)) ∧
    (let s : State := { idleS with walks := [wWalk, { wWalk with id := 10, va := 0 }] }
     (s.walks.find? fun y => decide (y.id = wWalk.id)) = some wWalk ∧ s.walking wWalk = true ∧ wG.thread wWalk.tid = some (wT 0) ∧ (wT 0).live = true ∧
      wWalk.parks (wT 0) = false ∧ s.walkNow 0 0x200000 = .page { wPage with va := 0x200000 } ∧ s.walkNow 0 0 = .no .fatal ∧
      s.walkNow 0 0x400000 = .no .replayable ∧ s.roomFor 0 = true) ∧
    (let s : State := { idleS with dieQ := [(0, FaultEntry.blank)] }
     (s.dieQ.find? fun p => decide (p.1 = 0) && s.ringRoom p.2.tenant) = some (0, FaultEntry.blank) ∧ s.tenant FaultEntry.blank.tenant = some wTenant) ∧
    MemOk stopS ∧ (2 ^ 8 - 1 < 2 ^ 8 ∧ 15 < 16 ∧ 1023 < 2 ^ 10 ∧ 3 < 4 ∧ 2 ^ 57 - 1 < 2 ^ 57 ∧ 127 < 2 ^ 7) :=
  ⟨by decide, by decide, by decide, by decide, by decide, ⟨by decide, by decide⟩, by decide⟩

/-- The NOP at word 0 of the packet, and the three ways on. -/
theorem witness_StepRunsDecodedInstruction :
    (wS.cur = some wC ∧ wS.group wC.guid = some wG ∧ (∀ tid ∈ wC.active, wG.thread tid = some (wT tid) ∧ (wT tid).run = .runnable) ∧ wC.active ≠ [] ∧
      wC.active.Nodup ∧ (decodeAt wG.nregs wC.bytes wC.first).toOption = some .nop ∧ chainBit (wordOfBytes wC.bytes wC.first) = false ∧
      wC.first ∈ (packetInstrs wG.nregs wC.bytes).map (·.1) ∧ wC.producer = false ∧ Instr.nop.uses.latches = [] ∧ Instr.nop.gathers = none) ∧
    (match exec .nop { wS with cur := some { wC with here := 0, after := 1, chained := false, snap := [], snapS := [] } } with
      | .next t => decide (t.missed = []) | _ => false) = true ∧
    (wC.moves = [] ∧ { wC with after := 2 }.after < 3 ∧ 3 ≤ { wC with after := 3 }.after ∧ wC.yielded = false) ∧
    (let s : State := { idleS with inputs := [.event .nop] }
     s.cur = none ∧ s.inputs = .event .nop :: [] ∧ (match exec .nop { s with inputs := [] } with | .next _ => true | _ => false) = true) := by decide

theorem witness_DecodeEncodeAgree : Instr.wf 16 (.ld { ty := 6, sc := 3, ord := 1, base := 3, a := 15, v := 12 }) = true ∧
    (decode 16 0x16814000 (some 7)).toOption = some (.movl { d := 5, lit := 7 }) := by decide

theorem witness_StepKeepsMemoryFormAndBudget : (match step wS with | .next _ => true | _ => false) = true ∧ BudgetOk wS ∧ MemOk wS :=
  ⟨by decide, ⟨by decide, by decide⟩, ⟨by decide, by decide⟩⟩

/-! ### Witnesses of the remaining clauses -/

/-- Magnitudes at and between the limits of FEXP2; ∞ times 0; a pair of bounds of CVT. -/
theorem witness_FloatRanges : (128 ≤ (Val.fin false 1 7).rat ∧ (Val.fin true 151 0).rat < -150 ∧ -150 ≤ (Val.fin true 150 0).rat ∧
      (Val.fin true 150 0).rat < 128) ∧
    ((Val.inf true).mul (.fin false 0 0) = .nan ∧ (Val.fin true 0 3).mul (.inf false) = .nan ∧
      (dec32 0x7F800000).mul (dec32 0x3F800000) = .inf false ∧ dec32 0xFF800000 = .inf (!false) ∧ 5 < 6 ∧ 3 < 4) := by
  refine ⟨⟨?_, ?_, ?_, ?_⟩, by decide⟩ <;> norm_num [Val.rat]

/-- A scale of 255; NaNs of E4M3 and E5M2; the products ∞ × 0 and an ∞. -/
theorem witness_FragmentElements : (0xFF00 : Word).toNat / 2 ^ (8 * 1) % 256 = 255 ∧ dec 3 0x7F = .nan ∧ (dec 4 0x7C).mul (dec 4 0) = .nan ∧
    (dec 4 0x7C).mul (dec 4 0x3C) = .inf false ∧ dec 5 7 ≠ .nan ∧ dec 4 0x7C ≠ .nan ∧ dec 4 0 ≠ .nan ∧ dec32 0xFF800000 = .inf (!false) := by decide

/-- 0x40 names the handle register 7; the vector table holds 24 for it. -/
def vec40S : State := wS.write (0x1000 + 8 * 0x40) [24]

theorem witness_TakingTrap0x40 : vec40S.trapDest 0 0 wG (0x40 : Byte).toNat 8 = .entry 24 ∧ (0x40 : Byte) = 0x40#8 ∧ 8 = 7 + 1 := by decide

/-- The entry for 0x51 lies in a bad unit; a pending store of the thread to it; a destination that is no packet. -/
def vecStore : Access :=
  { id := 9, core := 0, guid := 0, tenant := 0, gid := 5, kind := .store, launch := 1, netBad := false,
    lanes := [{ tid := 0, va := 0x1288, pa := 0x1288, peer := false, arg := 0, arg2 := 0, bytes := leBytes 8 48 }] }

theorem witness_VectorTableReads : 0x1000 + 8 * 0x51 = 0x1288 ∧ 0x1288 < Config.peerBase ∧ (∃ n ∈ [0x1288 / 64], n * 64 < 0x1288 + 8 ∧ 0x1288 < n * 64 + 64) ∧
    (∀ n ∈ [0x1240 / 64], 0x1288 + 8 ≤ n * 64 ∨ n * 64 + 64 ≤ 0x1288) ∧ (vecStore.guid = 0 ∧ vecStore.lanes.map (·.bytes.length) = [8] ∧ leNat (leBytes 8 48) < 2 ^ 57) ∧
    ((vecS.write 0x1288 [37]).trapDest 0 0 wG 0x51 0 = .entry 37 ∧ 37 % 12 ≠ 0) ∧ wS.loading 0 0 = false ∧ (deepS 4).loading 0 0 = false := by decide

/-- A load of the thread 0 in flight. -/
def loadingS : State := { wS with accesses := [{ vecStore with kind := .load 4 3 0 false }] }

theorem witness_ExitsWithLoads : Acting loadingS 0 wC wG (wT 0) ∧ loadingS.loading wC.guid (wT 0).tid = true ∧ wS.loading wC.guid (wT 0).tid = false ∧
    wC.chained = false ∧ { wC with chained := true }.chained = true := ⟨⟨by decide, by decide, by decide⟩, by decide, by decide, by decide, by decide⟩

/-- An absent place; a store whose unit's 512 bytes hold an error; a load of what an earlier store of its lane leaves; a peer's
place with its reply; an access that another of its thread holds back. -/
def wLoad : Access := { vecStore with id := 10, kind := .load 5 3 0 false }

theorem witness_AccessesPerformedBeside :
    (let a : Access := { wLoad with lanes := wLoad.lanes.map fun l => { l with pa := 294912 * 2 ^ 21 } }
     ∃ l ∈ a.lanes, 294912 * 2 ^ 21 ≤ l.pa ∧ l.pa < Config.padBase) ∧
    (let s : State := { wS with accesses := [vecStore], badUnits := [0x1200 / 64] }
     s.performable vecStore = true ∧ (∃ n ∈ s.badUnits, ∃ l ∈ vecStore.lanes, n / 8 = l.pa / 512) ∧ vecStore.netBad = false ∧
      (∀ l ∈ vecStore.lanes, l.pa % 512 + l.bytes.length ≤ 512)) ∧
    (let s : State := { wS with accesses := [vecStore, wLoad] }
     s.earlier wLoad = [vecStore] ∧ s.performable wLoad = true ∧ s.badUnits = [] ∧ s.accesses.find? (fun e => decide (e.id = wLoad.id)) = some wLoad ∧
      tyBytes 5 = 8 ∧ 0x1288 % 128 + 8 ≤ 128 ∧ s.clines = [] ∧ s.thread 0 0 = some (wT 0)) ∧
    (let a : Access := { wLoad with lanes := wLoad.lanes.map fun l => { l with pa := Config.peerBase, peer := true } }
     let s : State := { wS with accesses := [a] }
     s.performable a = true ∧ s.badUnits = [] ∧ (leBytes 8 1).length = tyBytes 5 ∧ s.earlier a = []) ∧
    (let a : Access := { wLoad with kind := .promote 3 2 false }
     State.performable { wS with accesses := [a] } a = false) := by decide

/-- No slot free; a member that has arrived already; the last arrival, with nothing held and with one arrival held. -/
def fullCore : State := wS.setCore 0 { wS.core 0 with sync := (List.range 256).map fun i => (i, ⟨1, some wSync⟩) }

theorem witness_HomeLastArrival : fullCore.freeSlot 0 = none ∧
    (let y : SyncGroup := { wSync2 with members := [⟨0, 0, 2, 0, .arrived⟩, ⟨0, 1, 2, 1, .counted⟩], opened := some 0, arrivals := [⟨0, 0, 2, 0, 0, 0⟩] }
     y.member 0 0 = some ⟨0, 0, 2, 0, .arrived⟩ ∧ y.full = false) ∧
    (let y : SyncGroup := { wSync2 with members := [⟨0, 0, 2, 0, .counted⟩, ⟨0, 1, 2, 1, .arrived⟩], opened := some 0, arrivals := [⟨0, 1, 2, 1, 0, 0⟩] }
     y.member 0 0 = some ⟨0, 0, 2, 0, .counted⟩ ∧ (∀ z ∈ y.members, ¬ (z.seq ≠ 0 ∧ z.state = .counted)) ∧ y.held = [] ∧
      ((y.arrivals ++ [(⟨0, 0, 2, 0, 0, 0⟩ : Arrival)]).map fun b => (b.guid, b.tid)).Nodup ∧ 2 < (wT 1).tickets.length ∧
      (∀ b ∈ [(⟨0, 1, 2, 1, 0, 0⟩ : Arrival)], (∃ z ∈ y.members, z.seq = b.seq) ∧ ∃ z ∈ y.members, z.seq ≠ b.seq)) ∧
    ((wSync.member 0 1).isNone = true ∧ (HOp.leave 2).reg = 2) := by decide

/-- Contributions of two kinds, those kept in join sequence; a list of two. -/
theorem witness_GenerationTree :
    (let as : List Arrival := [⟨0, 1, 2, 1, 9, 4⟩, ⟨0, 0, 2, 0, 9, 3⟩, ⟨0, 2, 2, 2, 4, 5⟩]
     let l : List Arrival := [⟨0, 0, 2, 0, 9, 3⟩, ⟨0, 1, 2, 1, 9, 4⟩]
     l.isPerm (as.filter fun a => decide (a.kind = 9)) = true ∧ l.Pairwise (fun a b => a.seq < b.seq) ∧ 2 ≤ (l.map (·.value)).length ∧
      (l.map (·.value)).length ≤ 8192) ∧ (dec32 0x7F800000).add 0 (dec32 0xFF800000) = .nan := by decide

/-- The thread 0 parked in GRANGE.take, with a local range, with a free range, with another core's range, and with none. -/
def askS (rs : List Range) (hot : Bool) : State :=
  { (treeS wS).onThread 0 0 (fun _ => parked (.grange 4 1)) with ranges := rs, cores := [(0, { wS.core 0 with hot := hot })] }

def askG : Group := wG.onThread 0 fun _ => parked (.grange 4 1)
def askRanges : List (List Range) := [[⟨0, 1, 3, 7, some 0, none⟩], [⟨0, 1, 3, 7, none, none⟩], [⟨0, 1, 3, 7, some 5, none⟩], []]

def asks (rs : List Range) (hot : Bool) : Bool :=
  decide ((askS rs hot).grangeWaiter 0 = some (0, askG, 0, 4, 1, ⟨0, 0, 1⟩)) && decide ((askS rs hot).group 0 = some askG) &&
    decide (((askS rs hot).core 0).hot = hot) && decide (∀ x ∈ (askS rs hot).ranges, x.a < x.b) &&
    decide (0 ∈ (askS rs hot).clustersOf askG.rec_.tenant)

theorem witness_RangesByRequest : askG.thread 0 = some (parked (.grange 4 1)) ∧ (parked (.grange 4 1)).later = [] ∧ askG.core = 0 ∧
    ∀ rs ∈ askRanges, ∀ hot ∈ [false, true], asks rs hot = true := by decide

theorem witness_RecordsThatFail :
    ((askS [⟨0, 1, 3, 7, some 0, none⟩] false).localRange 0 1).isSome = true ∧ (askS [⟨0, 1, 3, 7, none, none⟩] false).localRange 0 1 = none ∧
    (match State.readRecord (treeS wS) wG 0x200000 with | .miss x => decide (x = 0x200000) | _ => false) = true ∧
    (match State.readRecord { treeS wS with badUnits := [0x400 / 64] } wG 0x400 with | .fatal 0x21 x => decide (x = 0x400) | _ => false) = true ∧
    768 ≤ (768 : Word).toNat := by decide

/-- Copies whose scratchpad operands are out of bounds, Lost, and none. -/
theorem witness_CopyTraps :
    (match (Copy.make descS wC { wG with regions := [] } (wT 0) wDesc 0).padChecks descS { wG with regions := [] } with
      | .trap code a _ => decide (code = 0x10 ∧ a = 0x800FE) | _ => false) = true ∧
    (let g := { wG with regions := [some { Region.fresh 0x80000 8192 2 24 false with lost := true }] }
     (∃ a h, descS.padCheck g (0x800FE + 0) 1 = .lost a h)) ∧
    (Copy.make descS wC wG (wT 0) (wDesc - 2 ^ 58) 0).dsp = false := by
  refine ⟨by decide, ⟨0x800FE, 24, by decide⟩, by decide⟩

/-- Slots of each state that an MX finds recorded; sixteen takes on the core. -/
def takes16 : List Take := List.replicate 16 ⟨9, 0, 0, 0, 1, 0, 0, .staging, 0, 0, [], [], false, [], none, 0⟩

theorem witness_StagingRefill :
    (let g := fun (r : RowSlot) => { blkG with staging := { blkG.staging with fill := some (1, 0x3000) }, rows := List.replicate 8 r }
     ∀ st ∈ [RowState.free, .queued, .activating, .opened, .closed], let r := { openRow0 with state := st }
       (g r).staging.fill = some (1, 0x3000) ∧ (g r).staging.empty = true ∧ (g r).rows[1]? = some r ∧ r.state = st) ∧
    16 ≤ (takes16.filter fun x => decide (x.core = 0)).length ∧ 16 < (takes16.filter fun x => decide (x.core = 0)).length + (AttnBlk.ofNat attnN).takes.length ∧
    (let p := DrainBlk.ofNat (drainN - 0x10000 + 0x80000 + 2 ^ 168) 0
     p.osp = true → ∀ r ∈ p.rows, blkS.regionOf blkG r.1 = blkS.regionOf blkG p.oaddr) ∧ 0x100000080 % 128 = 0 ∧ 2 ^ 32 ≤ 0x100000080 := by decide

/-- RTAKE beside a slot that is not ready, and with a destination beyond the scratchpad or the group's regions. -/
theorem witness_TakesThatWait :
    (∀ st ∈ [RowState.queued, .activating], st ≠ .free ∧ st ≠ .closed ∧ st ≠ .opened) ∧
    ¬ (0x80040 % 128 = 0 ∧ 0x80040 + 4096 ≤ 0x400000) ∧ ¬ (0x3FF080 % 128 = 0 ∧ 0x3FF080 + 4096 ≤ 0x400000) ∧
    blkS.padCheck blkG 0x81080 4096 = .bounds 0x82000 ∧ (wT 0).grant ≠ some 1 := by decide

/-- A copy to DRAM at 0x400000, which no page maps; and the same without its source in the translation cache, where the tables
give no leaf for it. -/
def dramCopy : Copy := Copy.make descS wC wG (wT 0) (wDesc - 2 ^ 58 - 0x800FE * 2 ^ 64 + 0x400000 * 2 ^ 64) 0
def dramS (tlb : List TlbEntry) : State := treeS { copyS dramCopy with cores := [(0, { wS.core 0 with tlb := tlb })] }

theorem witness_CopyFaults :
    (∀ tlb ∈ [[wPage], []], let s := dramS tlb
      s.copyAway dramCopy = false ∧ s.roomFor 0 = true ∧ s.behind 0 0 dramCopy.id = false ∧ s.columns = [] ∧
      s.thread 0 0 = some (wT 0) ∧ (wT 0).run = .runnable) ∧
    (dramCopy.owed.map fun ch => match dramCopy.landing (dramS [wPage]) ch with
      | .fault .replayable a x => decide (a = 0x400000 ∧ x = 1) | _ => false) = [true] ∧
    (dramCopy.owed.map fun ch => match dramCopy.landing (dramS []) ch with
      | .fault .fatal a x => decide (a = 0x800 ∧ x = 0) | _ => false) = [true] := by decide

/-- A KV command alone on its descriptor. -/
theorem witness_KvFirst : let q := kvCmd .find [5, 0, 1]
    ∀ y ∈ [q, { q with id := 10 }], y.id < q.id → y.guid = q.guid → y.descPa ≠ q.descPa := by decide

/-- A beat that is not due; a take behind another to staging, and the first; a bad beat; the last beat, with an MX that waits for
it. -/
theorem witness_TakeBeats :
    (let x : Take := ⟨9, 0, 0, 0, 1, 0, 0, .staging, 7, 0, [], [], false, [], none, 0⟩
     let e := wEng (.mx (MxBlk.ofNat mxStageN) none false) false
     let s : State := { blkS.setGroup 0 { blkG with staging := { blkG.staging with take := some 9 } } with takes := [x, { x with id := 10 }], engs := [e] }
     (s.takes.find? fun y => decide (y.id = x.id)) = some x ∧ x.beat < 8 ∧ x.nextAt ≤ s.stime ∧ s.stime < { x with nextAt := 1 }.nextAt ∧
      (∃ y ∈ s.takes, y.id < 10 ∧ y.guid = x.guid ∧ y.dest = .staging) ∧ (∀ y ∈ s.takes, y.id < x.id → y.guid = x.guid → y.dest ≠ .staging) ∧
      (s.group x.guid).map (·.staging.take) = some (some x.id) ∧ (∃ y ∈ s.engs, y.guid = x.guid) ∧ s.firstFill x = true ∧ s.roomFor 0 = true) ∧
    (let x : Take := ⟨9, 0, 0, 0, 1, 0, 0, .pad 0x80000, 2, 0, [], [], false, [], none, 0⟩
     let s : State := { blkS with takes := [x], badUnits := [16] }
     s.badAt (x.pa + x.beat * 512) 512 = true ∧ x.beat < 7 ∧ (blkG.rows[1]? = some openRow0 ∧ openRow0.holds = true ∧ rowOf openRow0.pa = rowOf x.pa) ∧
      x.dest ≠ .staging) := by decide

/-- The rambler's second step on the entry 7, still as it was read, and on one that has changed; a block that cannot be read. -/
theorem witness_RamblerSecondStep :
    (let kn := kvN + 0x200000 + 0x200000 * 2 ^ 64
     let s : State := { ((kvS 1).write 0xA00 (leBytes 64 kn)).write 0x100000 treeBytes with enrolled := [⟨0, 0x200A00, 0xA00, 0, 7, some ⟨7, 5, 1, 0, true⟩⟩] }
     let tb : KvTable := { core := noCore, tenant := 0, desc := 0x200A00, descPa := 0xA00, n := s.devNum 0xA00 64 }
     (match s.kvEntry tb 7 0 with | .ok x => decide (x.seq = 5 ∧ x.lblk = 1 ∧ x.crc = 0 ∧ x.state = 1 ∧ x.pend = false) | _ => false) = true ∧
      (match State.kvBlock { s with badUnits := (List.range 1024).map (0x100 + ·) } tb 7 with | .error (.trap 0x21 _) => true | _ => false) = true ∧
      s.dieRoom 0 = true ∧ s.heldFaults = []) ∧
    (let kn := kvN + 0x200000 + 0x200000 * 2 ^ 64
     let s : State := { ((kvS 0).write 0xA00 (leBytes 64 kn)).write 0x100000 treeBytes with enrolled := [⟨0, 0x200A00, 0xA00, 0, 7, none⟩] }
     let tb : KvTable := { core := noCore, tenant := 0, desc := 0x200A00, descPa := 0xA00, n := s.devNum 0xA00 64 }
     (match s.kvEntry tb 7 0 with | .ok x => decide (x.state ≠ 1) | _ => false) = true) := by decide +kernel

/-- The thread 0 waits for the answer to the fault, with a later word's wait after it; a copy paused; draws on both sides. -/
theorem witness_AnswersAndDraws :
    (let u := { parked (.fault 7 0x5000 1) with later := [(.batches 1, 1)] }
     let s := (cmdS 0x0B 0).onThread 0 0 fun _ => u
     s.faultedThreads 0 7 = [(0, 0, ⟨0, 0, 0⟩, 0x5000, 1)] ∧ s.thread 0 0 = some u ∧ (s.group 0).isSome = true ∧
      (Wait.batches 1 ≠ .hSend 0 1 (.leave 1) none)) ∧
    (let s : State := { cmdS 0x0B 0 with copies := [{ owing with paused := some 9 }] }
     s.faultedThreads 0 9 = [] ∧ (s.copies.find? fun c => decide (c.tenant = 0) && decide (c.paused = some 9)) = some { owing with paused := some 9 } ∧
      (s.thread owing.guid owing.tid).isSome = true) ∧
    (let s : State := { cmdS 2 0 with tenants := [(0, { cmdT with cmdWait := some .budget })] }
     (∃ y ∈ s.tenants, y.2.cmdWait = some .budget) ∧ s.budget < 1801 ∧ (cmdS 2 0).budget < 1801 ∧ (∀ y ∈ (cmdS 2 0).tenants, y.2.cmdWait ≠ some .budget)) ∧
    (∀ k ∈ [0, 127], ((cmdS 2 0).island k).1 ≤ islandTop k) := by decide

/-- Another queue's command at work on a tenant; a frame whose pair stands and one whose changes; the mappings that a step meets. -/
theorem witness_CommandsThatWait :
    (∀ w ∈ [CmdWait.drain 0 [9] [], .zero 0 0x200000 7], let s : State := { cmdS 4 0 with tenants := [(0, cmdT), (1, { wTenant with cmdWait := some w })] }
      s.tenant 0 = some cmdT ∧ ∃ y ∈ s.tenants, y.1 ≠ 0 ∧ y.2.cmdWait = some w) ∧
    (∀ y ∈ (cmdS 4 0).tenants, y.1 = 0) ∧ (1 < 32 ∧ 383 ≤ 384 ∧ 384 ≤ 294912) ∧ mget (cmdS 6 0).noisy 383 = none ∧ mget (owned 6).frameKey 383 = some 0 ∧
    (let c : Column := { Column.reset with remap := some (.retire 23, 0), pending := [(23, true)], temporary := [22] }
     c.remap.isSome = true ∧ (∃ p ∈ c.pending, p.1 = 23) ∧ 22 ∈ c.temporary ∧ (23, true) ∈ c.pending) ∧
    (let c := Column.reset
     let lo := 0 * 384 + (16 * ((List.range 24).filter fun b => c.live.getLsbD b).length - 16)
     lo ≤ 383 ∧ 383 < lo + 16 ∧ ¬ lo ≤ 0) ∧ 2 ^ 48 ≤ 2 ^ 48 ∧ 294912 < 294913 := by decide

/-- A step command whose packet has been issued; a group told to stop, with a walk, with a shut slot; a packet that is not
cached, and one on a page that is not in the translation cache; a thread that is parked. -/
theorem witness_DebugSteps :
    (let s : State := { dbgS with tenants := [(0, { cmdT with cmdWait := some (.step 0 none true) })] }
     s.tenant 0 = some { cmdT with cmdWait := some (.step 0 none true) } ∧ s.idle 0 = true) ∧
    ({ dbgG with stopping := true }.stopping = true ∧ dbgG.stopping = false ∧ (∃ w ∈ [wWalk], w.guid = 0) ∧ dbgS.walks = []) ∧
    (let s := dbgS.setGroup 0 (dbgG.onThread 0 fun t => { t with point := ⟨0, 0x100000, 0⟩ })
     let g := dbgG.onThread 0 fun t => { t with point := ⟨0, 0x100000, 0⟩ }
     s.steppable g { wT 0 with point := ⟨0, 0x100000, 0⟩ } = true ∧ s.slotOpen 0 (g.slotOf 0) = true ∧
      (match s.fetch g 0x100000 with | .miss va => decide (va = 0x100000 * 12) | _ => false) = true) ∧
    ((match dbgS.fetch dbgG 0 with | .miss _ => false | _ => true) = true) ∧
    ((0x0080000000000000 : Dword).toNat / 2 ^ 54 % 4 ≠ 3 ∧ (parked .capacity).run ≠ .runnable ∧ 4 < (5 : Dword).toNat) := by decide

/-- A denied access; the queue of die 0 with an entry held back and full; a column in a remapping step; two bytes that go to two
places, and what a read of them finds. -/
theorem witness_HostAccessesBeside :
    (let s : State := { idleS with columns := [(5, { Column.reset with remap := some (.retire 23, 0) })] }
     ∃ c ∈ s.columns, c.2.remap.isSome = true) ∧ idleS.columns = [] ∧ (∀ h ∈ idleS.heldFaults, h.1 ≠ 0) ∧
    (idleS.tablePlaces 0 0 2 0 = none ∧ idleS.tablePlaces 0 0x200000 2 0 = some [0, 1] ∧ ∀ p ∈ ([0, 1] : List Nat), p < Config.peerBase) ∧
    (35 < 36 ∧ 3 < 4 ∧ (sendBlock (List.replicate 256 7)).2.length = 4 ∧ (List.replicate 256 (7 : Byte)).length = 256 ∧
      blockOf 2 [1, 2, 3, 4] = some ((List.replicate 64 [1, 2, 3, 4]).flatten) ∧ (payloadBlocks [1, 2, 3]).length = 1 ∧
      (blockOf 1 [7]).isNone = true) ∧
    (let c := { wTenant.cfg with launchOn := true, senders := [5], entries := [0], maxClass := 0 }
     ∃ x : Tenant, x = { wTenant with cfg := c } ∧ x.cfg.launchOn = true ∧ 5 ∈ x.cfg.senders ∧ wRec.entry ∈ x.cfg.entries ∧ wRec.cls ≤ x.cfg.maxClass) :=
  ⟨by decide, by decide, by decide, by decide, by decide, ⟨_, rfl, by decide, by decide, by decide, by decide⟩⟩

/-- A record behind an access of its thread; an acknowledgement that translates; a receiver that holds a task range of the sender;
a core with no thread in GRANGE.take. -/
theorem witness_DispatcherBeside :
    (let q : QueuedLaunch := ⟨wRec, 0x400, 0, 5, 0, some 0x800, 0, 12⟩
     let s : State := { idleS with tenants := [(0, { wTenant with launchQ := [q] })] }
     s.behind q.guid q.tid q.id = false ∧ State.behind { s with accesses := [vecStore] } q.guid q.tid q.id = true ∧ (∀ y ∈ s.ranges, y.a < y.b) ∧
      (s.xlateEng q.core 0 0x800 1 = .ok 0x800) ∧ 0x800 < Config.peerBase ∧ s.badUnits = [] ∧ wRec.lo < wRec.hi) ∧
    (∃ r ∈ [(⟨0, 1, 0, 4, some 1, some 0⟩ : Range)], r.owner = some 1 ∧ r.task = some 0) ∧ idleS.grangeWaiter 1 = none ∧
    (∃ c ∈ idleS.clustersOf 0, c < 32) := by decide

/-- Between issues no bundle of the group holds a thread at word 3. -/
theorem witness_TickWords : let h := idleS.gatherGroup wG
    ∀ b ∈ h.bundles, b.collective = false → b.slot < 4 ∧ (∃ e ∈ h.entries, h.bundlePoint b = some e.point) ∧
      ∀ i ∈ b.tids, (match h.thread i with | some u => decide (u.word < 3) | none => false) = true := by decide

/-- A column with the 24 times of its banks' modes; a quiet group with nothing to carry over; entries held for another die; a walk of
an SLD's two threads, and one of a group that is stopping. -/
theorem witness_HeatAndWalksBeside :
    Column.reset.modeAt.length = 24 ∧ (∀ p ∈ ([] : List (Nat × Column)), p.1 = 5) ∧ (∀ h ∈ [(1, FaultEntry.blank)], h.1 ≠ 0) ∧
    (let w := { wWalk with sharers := [0, 1] }
     let s : State := { idleS with walks := [w] }
     (s.walks.find? fun y => decide (y.id = w.id)) = some w ∧ s.walking w = true ∧ w.parks (wT 0) = false ∧ s.roomFor 0 = true ∧ s.columns = [] ∧
      (∀ j ∈ w.sharers, (wG.thread j).isSome = true)) ∧
    (let s : State := { stopS with walks := [wWalk] }
     s.walking wWalk = true ∧ stopG.stopping = true ∧ wWalk.sharers = [wWalk.tid] ∧ wWalk.parks (wT 0) = false) := by decide

theorem witness_InputsThatGoOn : Input.waits idleS (.event .nop) = false ∧ Input.waits idleS (.event (.hostAccess (some 0) 0 none 4)) = false := by decide

/-! ### Witnesses of places that wait, of errors, and of issues of several words -/

/-- A column in a remapping step. -/
def remapping : List (Nat × Column) := [(0, { Column.reset with remap := some (.retire 23, 0) })]

/-- An MX that staging holds nothing for, and no fill recorded; sixteen slots of a CBLOAD's translations. -/
theorem witness_StagingWithoutFill : MxBlk.ok mxStageN blkG = true ∧ (MxBlk.ofNat mxStageN).bsrc = true ∧ blkG.staging.empty = true ∧
    (blkG.staging.fill.bind fun x => blkG.rows[x.1]?) = none ∧
    (∀ i : Nat, 0x1FFE00 + i % 512 < Config.peerBase) ∧ ∀ i, i < 512 → blkS.xlate 0 0 (0x1FFE00 + i) 0 = .ok (0x1FFE00 + i % 512) :=
  ⟨by decide, by decide, by decide, by decide, fun i => by have : i % 512 < 512 := Nat.mod_lt _ (by decide); simp only [Config.peerBase]; omega, by decide⟩

def kvT (state : Nat) : KvTable := ⟨0, 0, 0xA00, 0xA00, (kvS state).num 0xA00 64⟩

/-- A KV command while its column is in a remapping step; a descriptor that is sound and one that is not; a table that stands in the
descriptor's column and one that a page puts beyond it; a descriptor with a bad unit. -/
theorem witness_KvTables :
    (match State.kvTry { kvS 1 with columns := remapping } (kvCmd .find [5, 0, 1]) with | .error .wait => true | _ => false) = true ∧
    (descSound kvN .find = true ∧ descSound (kvN + 2 ^ 511) .find = false ∧ 0xA00 < Config.padBase ∧ (kvS 1).served 0xA00 = true ∧
      (kvS 1).badAt 0xA00 64 = false ∧ State.badAt { kvS 1 with badUnits := [0xA00 / 64] } 0xA00 64 = true ∧
      descSound ((kvS 1).num 0xA00 64) .find = true ∧ descSound (wS.num 0xA00 64) .find = false ∧ wS.served 0xA00 = true) ∧
    (match (kvS 1).kvTable 0 0 0xA00 0xA00 .find with | .ok _ => true | _ => false) = true ∧
    (let far : TlbEntry := { wPage with va := 0x2000, size := 0x1000, pa := 384 * 2 ^ 21 }
     let s : State := { kvS 1 with cores := [(0, (wS.core 0).addTlb far)] }
     s.xlateEng 0 0 0x2000 0 = .ok (384 * 2 ^ 21) ∧ (384 * 2 ^ 21) / 2 ^ 21 / 384 ≠ 0xA00 / 2 ^ 21 / 384 ∧ 0x2000 % 4096 = 0) := by
  decide +kernel

theorem witness_KvTablePlaces : ∀ i, i < 256 → (kvS 1).xlateEng 0 0 (0x2000 + i) 0 = .ok (0x2000 + i) ∧
    (kvS 1).xlateEng 0 0 (0x3000 + i) 0 = .ok (0x3000 + i) ∧ (0x2000 + i) / 2 ^ 21 / 384 = 0xA00 / 2 ^ 21 / 384 := by decide +kernel

/-- The entries of the table: every one, with its place. -/
def kvE (state i : Nat) : KvEntry := ⟨0x2000 + 32 * i, (kvS state).num (0x2000 + 32 * i) 32⟩
def pfxE (state i : Nat) : KvEntry := ⟨0x3000 + 32 * i, (kvS state).num (0x3000 + 32 * i) 32⟩

/-- A table gives an entry and its place. -/
def kvGives (s : State) (tb : KvTable) (i : Nat) (e : KvEntry) : Bool :=
  match s.kvEntry tb i 0, s.kvPlace tb (tb.ebase + 32 * i) 1 with
  | .ok x, .ok p => decide (x.pa = e.pa ∧ x.n = e.n ∧ p = e.pa)
  | _, _ => false

theorem kvGives_reads {s : State} {tb : KvTable} {i : Nat} {e : KvEntry} (h : kvGives s tb i e = true) :
    s.kvEntry tb i 0 = .ok e ∧ s.kvPlace tb (tb.ebase + 32 * i) 1 = .ok e.pa := by
  unfold kvGives at h
  generalize s.kvEntry tb i 0 = a at h
  generalize s.kvPlace tb (tb.ebase + 32 * i) 1 = b at h
  cases a with
  | error _ => simp at h
  | ok x => cases b with
    | error _ => simp at h
    | ok p =>
      cases x; cases e
      simp_all

def kvReads (state i : Nat) : Bool := kvGives (kvS state) (kvT state) i (kvE state i)

theorem kvReads_empty : ∀ i ∈ [0, 1, 2, 3], kvReads 0 i = true := by decide +kernel
theorem kvReads_empty' : ∀ i ∈ [4, 5, 6, 7], kvReads 0 i = true := by decide +kernel
theorem kvReads_valid : ∀ i ∈ [0, 1, 2, 3], kvReads 1 i = true := by decide +kernel
theorem kvReads_valid' : ∀ i ∈ [4, 5, 6, 7], kvReads 1 i = true := by decide +kernel

theorem kvReads_ok (state : Nat) (h : state ∈ [0, 1]) (i : Nat) (hi : i < 8) : kvReads state i = true := by
  have m : i ∈ [0, 1, 2, 3] ∨ i ∈ [4, 5, 6, 7] := by simp only [List.mem_cons, List.not_mem_nil, or_false]; omega
  have t : state = 0 ∨ state = 1 := by simpa using h
  rcases t with rfl | rfl <;> rcases m with m | m
  · exact kvReads_empty i m
  · exact kvReads_empty' i m
  · exact kvReads_valid i m
  · exact kvReads_valid' i m

/-- A table of eight entries, whose entries are Empty, and one whose entries are Valid. -/
theorem witness_KvReads : ∀ state ∈ [0, 1], KvReads (kvS state) (kvT state) (kvE state) := by
  intro state h
  have n : ∀ state ∈ [0, 1], (kvT state).nblk = 8 ∧ (kvT state).head = 0xFFFFFFFF ∧
      (match (kvS state).kvPlace (kvT state) (kvT state).desc 1 with | .ok p => decide (p = (kvT state).descPa) | _ => false) = true ∧
      ∀ i, i < 8 → (kvE state i).next = 0xFFFFFFFF := by decide +kernel
  obtain ⟨n1, n2, n3, n4⟩ := n state h
  refine ⟨fun i hi => kvGives_reads (kvReads_ok state h i (by omega)), ?_, .inl n2, fun i hi => .inl (n4 i (by omega))⟩
  split at n3
  · rename_i p hp
    rw [hp, of_decide_eq_true n3]
  · exact absurd n3 (by decide)

/-- The same with eight prefixes of digest 7 and block 9. -/
def pfxS (held : Bool) : State :=
  { treeS wS with mem := cellsOf 0xA00 (leBytes 64 kvN) ++ (if held then
    cellsOf 0x3000 ((List.range 8).flatMap fun _ => leBytes 32 (7 + 9 * 2 ^ 128 + 2 ^ 160)) else []) ++ cellsOf 0x100000 treeBytes }
def pfxP (held : Bool) (k : Nat) : KvEntry := ⟨0x3000 + 32 * k, (pfxS held).num (0x3000 + 32 * k) 32⟩

def pfxGives (s : State) (tb : KvTable) (k : Nat) (e : KvEntry) : Bool :=
  match s.pfxEntry tb k, s.kvPlace tb (tb.pbase + 32 * k) 1 with
  | .ok x, .ok p => decide (x.pa = e.pa ∧ x.n = e.n ∧ p = e.pa)
  | _, _ => false

theorem pfxGives_reads {s : State} {tb : KvTable} {k : Nat} {e : KvEntry} (h : pfxGives s tb k e = true) :
    s.pfxEntry tb k = .ok e ∧ s.kvPlace tb (tb.pbase + 32 * k) 1 = .ok e.pa := by
  unfold pfxGives at h
  generalize s.pfxEntry tb k = a at h
  generalize s.kvPlace tb (tb.pbase + 32 * k) 1 = b at h
  cases a with
  | error _ => simp at h
  | ok x => cases b with
    | error _ => simp at h
    | ok p =>
      cases x; cases e
      simp_all

theorem pfxGives_held : ∀ k ∈ [0, 1, 2, 3, 4, 5, 6, 7], pfxGives (pfxS true) (kvT 0) k (pfxP true k) = true := by decide +kernel
theorem pfxGives_none : ∀ k ∈ [0, 1, 2, 3, 4, 5, 6, 7], pfxGives (pfxS false) (kvT 0) k (pfxP false k) = true := by decide +kernel

/-- A prefix table that holds a digest and has no empty entry, and one that is empty. -/
theorem witness_PfxReads : (∀ held : Bool, PfxReads (pfxS held) (kvT 0) (pfxP held)) ∧
    PfxFirst (kvT 0) (pfxP true) 7 (fun x => x.n.testBit 160 = true ∧ x.n % 2 ^ 128 = 7) 7 ∧
    PfxFirst (kvT 0) (pfxP false) 7 (fun x => x.n.testBit 160 = false) 7 ∧
    (∀ k, k < 8 → (pfxP true k).n.testBit 160 = true ∧ (pfxP true k).n % 2 ^ 128 ≠ 6) ∧ (kvT 0).plog = 3 := by
  have p : (kvT 0).plog = 3 := by decide +kernel
  have q : (pfxP true 7).n.testBit 160 = true ∧ (pfxP true 7).n % 2 ^ 128 = 7 ∧ (pfxP false 7).n.testBit 160 = false ∧
      ∀ k, k < 8 → (pfxP true k).n.testBit 160 = true ∧ (pfxP true k).n % 2 ^ 128 ≠ 6 := by decide +kernel
  refine ⟨fun held k hk => ?_, ⟨0, by decide, by rw [p]; decide, ⟨q.1, q.2.1⟩, fun j hj => absurd hj (by omega)⟩,
    ⟨0, by decide, by rw [p]; decide, q.2.2.1, fun j hj => absurd hj (by omega)⟩, q.2.2.2, p⟩
  have m : k ∈ [0, 1, 2, 3, 4, 5, 6, 7] := by
    rw [p] at hk
    simp only [List.mem_cons, List.not_mem_nil, or_false]
    omega
  cases held
  · exact pfxGives_reads (pfxGives_none k m)
  · exact pfxGives_reads (pfxGives_held k m)

/-- Probes of an empty and of a full table; a sealed entry and one that is not Valid; a block that is read. -/
theorem witness_KvClauses : (kvE 0 3).state = 0 ∧ (∀ i, i < 8 → (kvE 1 i).state = 1 ∧ (kvE 1 i).ovf = false ∧ (kvE 1 i).seq = 5 ∧ (kvE 1 i).lblk = 1) ∧
    (match (kvS 1).kvBlock (kvT 1) 0 with | .ok _ => true | _ => false) = true ∧ (kvT 1).nblk = 8 := by decide +kernel

/-- A counter that its bank serves, and a place of the bank whose other row is open; a drain's chunk at each; keys of a CBLOAD at each; a
delivered beat. -/
theorem witness_EnginePlaces :
    (blkS.served 0x108 = true ∧ blkS.served 0x18000 = false ∧ (0x108 : Nat) ≠ 0 ∧ NetMark.item 9 ∉ blkS.netBad ∧ blkS.netBad = []) ∧
    (∀ a ∈ [0x10000, 0x18000], let ch : Chunk := ⟨3, 0, a, 4, false, false, false⟩
     let e := wEng (.drain (DrainBlk.ofNat drainN 0) true [(0, [1, 2, 3, 4])] [ch] 0 0 none) false
     let s : State := { blkS with engs := [e] }
     (s.engs.find? fun x => decide (x.id = e.id)) = some e ∧ s.engTurn e = true ∧ (DrainBlk.ofNat drainN 0).osp = false ∧
      s.engServed e.core e.tenant a 4 1 = decide (a = 0x10000) ∧ s.badUnits = [] ∧
      (match s.xlateRun e.core e.tenant a 4 1 with | .ok ps => decide (ps = (List.range 4).map (a + ·)) | _ => false) = true ∧
      a + 4 ≤ Config.peerBase ∧ (([1, 2, 3, 4] : List Byte).drop 0).take 4 = [1, 2, 3, 4]) ∧
    (blkS.servedAll ((List.range 512).map (0x600 + ·)) = true ∧ blkS.servedAll ((List.range 512).map (0x18000 + ·)) = false ∧
      ((List.range 512).map (0x600 + ·)).length = 512) ∧
    (([(2, [7])] : List (Nat × List Byte)).find? fun b => decide (b.1 = 1024 / 512)) = some (2, [7]) := by decide

/-- A chunk whose places are served; elements of its source in DRAM, and in the scratchpad; elements inside and outside a dimension of
four in which every second element counts. -/
theorem witness_CopyElements :
    (let s := copyS wCopy
     ∀ ch ∈ wCopy.owed, s.landServed wCopy ch = true ∧ (∀ p ∈ s.sourcePlaces wCopy ch, p < Config.peerBase) ∧ NetMark.item wCopy.id ∉ s.netBad ∧
      (match wCopy.landing s ch with | .ok _ => true | _ => false) = true ∧ 8 * ch.off ≤ (ch.num * 2) * 8 ∧
      (ch.num * 2 + 1) * 8 ≤ 8 * (ch.off + ch.len) ∧ ch.num * 2 < (wCopy.dims.map (·.win)).prod) ∧
    (wCopy.kept = [] ∧ 0 < fmtBits wCopy.dfmt ∧ copySource wCopy.dims 3 = some 3 ∧ wCopy.ssp = false ∧
      (match wCopy.readElem (copyS wCopy) 3 with | .ok _ => true | _ => false) = true ∧
      (match (copyS wCopy).xlateRun 0 0 0x803 ((fmtBits wCopy.sfmt + 7) / 8) 0 with | .ok ps => decide (ps = [0x803]) | _ => false) = true ∧
      { wCopy with ssp := true, saddr := 0x80000 }.ssp = true ∧ (0 : Int) ≤ Int.ofNat wCopy.saddr + 3 * fmtBits wCopy.sfmt / 8) ∧
    (let ds : List CopyDim := [⟨4, 4, 2, 1⟩, ⟨2, 2, 1, 4⟩]
     (∀ z ∈ ds.zip [1, 1], z.2 < z.1.win) ∧ (∀ z ∈ ds.zip [1, 1], z.2 * z.1.int < z.1.size) ∧ (∀ z ∈ ds.zip [2, 1], z.2 < z.1.win) ∧
      (∃ z ∈ ds.zip [2, 1], z.1.size ≤ z.2 * z.1.int) ∧ copySource ds 6 = none ∧ copySource ds 5 = some 6) ∧
    (let q := kvCmd .find [5, 0, 1]
     NetMark.item q.id ∉ (kvS 1).netBad ∧ ∀ y ∈ [q, { q with id := 10 }], y.id < q.id → y.guid = q.guid → y.descPa = q.descPa → y.issue = q.issue →
      y.paused.isSome = true) ∧
    (3 ≤ (kvCmd .ins [6, 0, 1]).args.length ∧ 4 ≤ (kvCmd .pfx [1, 2, 3, 4]).args.length) := by decide

/-- Busy banks of each kind; a queue whose first request's bank is busy; windows that are full; a beat behind an access of its thread, and
one with an error of the die network. -/
theorem witness_Activations :
    (let s := rowsS { RowSlot.free with state := .queued } 300
     s.bankBusy 0 0 0 = false ∧
     (∀ r ∈ [RefreshState.busy 500, .grace 300], State.bankBusy { s with columns := [(0, { s.column 0 with refresh := [(0, r)] })] } 0 0 0 = true) ∧
     (State.setGroup s 1 { blkG with gid := 6 }).bankBusy 0 0 0x18000 = true ∧ (State.setGroup s 1 { blkG with gid := 6 }).bankBusy 0 0 0 = false ∧
     State.bankBusy { s with stime := 100 } 0 0 0 = true) ∧
    (let s := rowsS { RowSlot.free with state := .queued } 300
     let g := { wG with rows := (wG.rows.set 1 { RowSlot.free with state := .queued, pa := 0x18000 }).set 2 { RowSlot.free with state := .queued, pa := 0x1000 } }
     let t : State := { (State.setGroup s 0 g).setGroup 1 { blkG with gid := 6 } with columns := [(0, { Column.reset with queue := [⟨0, 1⟩, ⟨0, 2⟩] })] }
     (t.column 0).queue = [⟨0, 1⟩] ++ ⟨0, 2⟩ :: [] ∧ t.bankBusy 0 0 0x18000 = true ∧ t.bankBusy 0 1 0x1000 = false ∧ (t.column 0).remap = none ∧
      t.noisy = [] ∧ risingFrom 0 t.groups = true) ∧
    (4 ≤ (([300, 280, 260, 240] : List Nat).filter fun a => decide (300 < a + 100)).length ∧ Column.reset.acts.length = 0 ∧ 4 ≤ Column.reset.allow ∧
      { Column.reset with capb := 0 }.allow = 0) ∧
    (let x : Take := ⟨99, 0, 0, 0, 1, 0, 16, .staging, 0, 0, [], [], false, [], none, 0⟩
     let s : State := { blkS with takes := [x], accesses := [wStore], netBad := [.item 99] }
     (s.takes.find? fun y => decide (y.id = x.id)) = some x ∧ x.beat < 8 ∧ x.nextAt ≤ s.stime ∧ NetMark.item x.id ∈ s.netBad ∧ s.firstFill x = true ∧
      (∃ a ∈ s.accesses, a.guid = x.guid ∧ a.id < x.id ∧ ∃ l ∈ a.lanes, l.tid = x.tid ∧ (rowOf x.pa < l.pa + 16 ∧ l.pa < rowOf x.pa + 4096)) ∧
      blkS.accesses = []) ∧
    (let kn := kvN + 0x200000 + 0x200000 * 2 ^ 64
     let s : State := { ((kvS 1).write 0xA00 (leBytes 64 kn)).write 0x100000 treeBytes with columns := [(0, { Column.reset with remap := some (.retire 23, 0) })] }
     let tb : KvTable := { core := noCore, tenant := 0, desc := 0x200A00, descPa := 0xA00, n := s.devNum 0xA00 64 }
     (match s.kvEntry tb 7 0 with | .error .wait => true | _ => false) = true ∧ (match s.kvBlock tb 7 with | .error .wait => true | _ => false) = true) := by
  decide +kernel

/-- A record of an image that cannot be corrected; a launch command while its column is in a remapping step. -/
theorem witness_LaunchRecords :
    ((cmdS 1 0).hostServed 0 0x200400 = true ∧ State.hostServed { cmdS 1 0 with columns := remapping } 0 0x200400 = false ∧
      NetMark.outside ∉ (cmdS 1 0).netBad ∧ (cmdS 1 0).tablesBad 0 0x400 64 = false ∧ (cmdS 1 0).hostServed 0 0x400 = true ∧
      (cmdS 1 0).recordBad wRec 0 = none ∧ (cmdS 1 0).dieRoom 0 = true ∧ (cmdS 1 0).heldFaults = [] ∧
      State.recordBad { cmdS 1 0 with badUnits := [0x400 / 64] } { wRec with nuni := 1, uimg := 0x200400 } 0 = some 0x200400) ∧
    (idleS.recordServed { wRec with nuni := 1, uimg := 0x200400 } 0 = true ∧ idleS.recordServed wRec 0 = true ∧
      State.recordServed { idleS with columns := remapping } { wRec with nuni := 1, uimg := 0x200400 } 0 = false ∧
      idleS.ackServed 0 0 none = true ∧ idleS.ackServed 0 0 (some 0x800) = true ∧
      State.recordBad { idleS with badUnits := [0x400 / 64] } { wRec with nuni := 1, uimg := 0x200400 } 0 = some 0x200400 ∧
      (idleS.checkLaunch { wRec with threads := 0 } 0).isNone = true ∧ idleS.roomFor 5 = true ∧
      State.roomFor { idleS with dieQ := List.replicate 4096 (0, FaultEntry.blank) } 5 = false) := by decide

/-- A tenant command that moves the ring of another queue whose command is at work, and that does not; a row that an invalidation waits
for, and an access that it reaches from below. -/
theorem witness_RingsThatMove :
    (let z := { wTenant with cmdWait := some (.preempt 0) }
     let s : State := { cmdS 3 0 with tenants := [(0, cmdT), (1, z)] }
     s.tenant 1 = some z ∧ (1 : Nat) ≠ 0 ∧ z.cmdWait.isSome = true ∧ ¬ (z.cfg.cmdBase = 0x7000 ∧ z.cfg.cmdLog = z.cfg.cmdLog) ∧
      cfgOk { wTenant.cfg with cmdBase := 0x7000 } = true ∧ (∀ y ∈ (cmdS 3 0).tenants, y.1 = 0)) ∧
    (let s : State := (cmdS 10 0).setGroup 0 { wG with rows := List.replicate 8 { RowSlot.free with state := .queued, va := 0x3000 } }
     (s.group 0).isSome = true ∧ (0x3000 < 0x3800 ∧ 0x3400 < 0x3000 + 4096) ∧
      ∃ l ∈ wStore.lanes, l.va < 18 ∧ 17 < l.va + wStore.kind.width l) := by decide

/-- A thread step whose packet waits for a load into a register that it reads, and one that waits for nothing; an entry of the region
table and one that is empty; a thread in each state. -/
theorem witness_StepsThatWait :
    (let b : Bundle := { slot := dbgG.slotOf 0, tids := [0], collective := false }
     let add : List Byte := bytesOfWord (encode false (.iadd opA)).1 ++ (bytesOfWord 0x00800000) ++ (bytesOfWord 0x00800000)
     let load := wAccess (.load 3 4 0 false)
     (dbgS.write 0 wC.bytes).bundleReady 0 dbgG b = true ∧ dbgG.stopping = false ∧ dbgS.walks = [] ∧
      State.bundleReady { dbgS.write 0 add with accesses := [load] } 0 dbgG b = false ∧
      (match (dbgS.write 0 wC.bytes).fetchFor dbgG (wT 0).here with | .ok bs => decide (bs = wC.bytes) | _ => false) = true) ∧
    (let s := dbgS.setGroup 0 (dbgG.onThread 0 fun t => { t with point := ⟨0, 0x100000, 0⟩ })
     let g := dbgG.onThread 0 fun t => { t with point := ⟨0, 0x100000, 0⟩ }
     s.bundleReady 0 g { slot := g.slotOf 0, tids := [0], collective := false } = true ∧
      (match s.fetchFor g ⟨0, 0x100000, 0⟩ with | .miss va => decide (va = 0x100000 * 12) | _ => false) = true) ∧
    (dbgG.regions[0]? = some (some (Region.fresh 0x80000 8192 2 24 false)) ∧ dbgG.regions[1]? = some none ∧ 31 < dbgG.regions.length ∧
      (0x0000100000081000 : Dword).toNat / 2 ^ 32 ≠ 0 ∧ (0x81000 : Dword).toNat / 2 ^ 32 = 0) ∧
    ((wT 0).run = .runnable ∧ (∃ w a b, (parked .capacity).run = .parked w a b) ∧ { wT 0 with run := .exited }.live = false ∧
      { wT 0 with run := .retired }.live = false ∧ { wT 0 with run := .gathering }.live = true ∧ 4 < (5 : Dword).toNat ∧
      (dbgS.gatherGroup dbgG).bundleHere { slot := 0, tids := [0, 1], collective := false } = some ⟨0, 0, 0⟩) := by
  refine ⟨by decide, by decide, by decide, ⟨by decide, ⟨_, _, _, rfl⟩, by decide⟩⟩

/-- Host accesses that wait, whose tables hold an entry that cannot be corrected, whose data cannot be, and that a die network spoils; an
outside place whose bank serves another row. -/
theorem witness_OutsideThatFails :
    (idleS.hostReady none 0x200000 (some [1, 2]) 2 = true ∧ idleS.hostReady none 0x200000 none 2 = true ∧
      State.hostReady { idleS with columns := remapping } none 0x200000 none 2 = false ∧ idleS.netBad = [] ∧
      NetMark.outside ∈ { idleS with netBad := [NetMark.outside] }.netBad) ∧
    (let s : State := { idleS with badUnits := [0x100000 / 64] }
     s.tablePlaces 0 0x200000 2 1 = none ∧ s.tableError 0 0x200000 2 1 = some 0x100000 ∧ s.hostReady none 0x200000 none 2 = true) ∧
    (let s : State := { idleS with badUnits := [0] }
     s.tablePlaces 0 0x200000 2 0 = some [0, 1] ∧ ∃ p ∈ [0, 1], s.badAt p 1 = true) ∧
    idleS.tableError 0 0 2 1 = none ∧ idleS.served 0x10 = true ∧ (idleS.setGroup 0 blkG).served 0x18000 = false ∧
    ∀ c ∈ idleS.columns, c.2.remap = none := by decide

/-- A range that a core could run, one of a pool that the tenant does not own, and one of a launch too large for it. -/
theorem witness_CouldRun : (pending 1 0 (some 1) idleS).couldRun 1 ⟨0, 1, 0, 4, some 1, none⟩ = true ∧
    (pending 1 0 none idleS).couldRun 1 ⟨1, 1, 0, 4, none, none⟩ = false ∧ (pending 2 0 none idleS).couldRun 1 ⟨0, 1, 0, 4, none, none⟩ = false ∧
    (1 : Nat) ∉ idleS.clustersOf 0 ∧ ((pending 1 0 none idleS).core 1).asks ≤ (pending 1 0 none idleS).stime := by decide

/-- A column whose hottest layer has never been doubled beside one that is; a bank whose mode changes, before and after the time at
which the new one holds. -/
theorem witness_HotterLayers :
    (let c : Column := { Column.reset with doubled := some 0 :: List.replicate 11 none }
     let ts : List Nat := 83 :: 84 :: List.replicate 10 40
     ts.length = 12 ∧ ts.foldl max 0 = 84 ∧ c.doubled.length = 12 ∧ (∀ j : Nat, ts[j]? = some 84 → c.doubled[j]? = some none) ∧ c.modeAt.length = 24 ∧
      (86 :: ts.tail).foldl max 0 = 86 ∧ c.doubledBank 0 = true ∧ c.doubledBank 2 = false ∧ c.doubledAt 2 0 = false) := by
  refine ⟨by decide, by decide, by decide, ?_, by decide⟩
  intro j h
  have : ∀ i : Nat, i < 12 → (83 :: 84 :: List.replicate 10 40 : List Nat)[i]? = some 84 → (some 0 :: List.replicate 11 none : List (Option Nat))[i]? = some none := by decide
  by_cases k : j < 12
  · exact this j k h
  · have : (83 :: 84 :: List.replicate 10 40 : List Nat).length ≤ j := by simp; omega
    rw [List.getElem?_eq_none this] at h
    cases h

/-- A thread that waits on a line of a region of the bank 11, and one that waits on a counter there, while that bank is chosen. -/
def darkG (w : Wait) : Group := { wG with
  regions := [some (Region.fresh 0xB0000 4096 2 24 false)] ++ List.replicate 31 none, threads := [parked w, wT 1] }
def darkS (w : Wait) : State := (idleS.setCore 0 { idleS.core 0 with chosen := [11], due := 0 }).setGroup 0 (darkG w)

theorem witness_WaitersThatTrap : ∀ w ∈ [Wait.line (padKey 0 0xB0080), .counter (padKey 0 0xB0080) 0xB0080 1 0], let s := darkS w
    (s.groups.map (·.1)).Nodup ∧ s.group 0 = some (darkG w) ∧ ((darkG w).threads.map (·.tid)).Nodup ∧ (darkG w).thread 0 = some (parked w) ∧
    (parked w).run = .parked w ⟨0, 0, 0⟩ ⟨0, 0, 1⟩ ∧ w.onKey = some (padKey 0 0xB0080) ∧ (parked w).later = [] ∧
    Region.fresh 0xB0000 4096 2 24 false ∈ s.coreRegions 0 ∧ (Region.fresh 0xB0000 4096 2 24 false).lost = false ∧
    (Region.fresh 0xB0000 4096 2 24 false).dropped = false ∧ (Region.fresh 0xB0000 4096 2 24 false).darkened = [] ∧
    (∃ b ∈ (s.core 0).chosen, (Region.fresh 0xB0000 4096 2 24 false).reserves b = true) ∧ padKey 0 0xB0000 ≤ padKey 0 0xB0080 ∧
    padKey 0 0xB0080 < padKey 0 0xB0000 + 4096 ∧ (∀ x ∈ s.coreRegions 0, x = Region.fresh 0xB0000 4096 2 24 false) ∧
    (s.core 0).chosen ≠ [] ∧ (s.core 0).due ≤ s.stime := by decide

/-- An island's clock that changes. -/
theorem witness_IslandClocks : 2400 ≤ islandTop 0 ∧ (let t := match exec (.parasolCapAndClockTrade [] [(0, 1200)]) idleS with | .next t => t | _ => idleS
    State.clock { t with stime := 4 } 0 ≠ idleS.clock 0 ∧ State.clock { t with stime := 4 } 0 ≠ t.clock 0) := by decide

/-- Walks whose entries a bank serves and does not serve, one that meets an entry beyond correction, and one that a die network spoils. -/
theorem witness_WalksThatFail :
    (let s : State := { idleS with walks := [wWalk] }
     s.servedAll (s.walkPlaces 0 0x200000) = true ∧ (∀ p ∈ s.walkPlaces 0 0x200000, p < Config.peerBase) ∧ s.walkPlaces 0 0x200000 ≠ [] ∧
      NetMark.item wWalk.id ∉ s.netBad ∧ (NetMark.item wWalk.id ∈ { s with netBad := [.item 9] }.netBad) ∧ wWalk.sharers = [wWalk.tid] ∧
      (∀ c ∈ s.columns, c.2.remap = none) ∧ wG.stopping = false ∧
      State.walkNow { s with badUnits := [0x100000 / 64] } 0 0x200000 = .no (.error 0x100000)) ∧
    (let s : State := { (idleS.setGroup 0 { wG with rows := List.replicate 8 { openRow0 with pa := 0x118000 } }) with walks := [wWalk] }
     s.servedAll (s.walkPlaces 0 0x200000) = false) ∧
    (let v := { savedG with copies := [{ owing with dsp := false, paused := some 9 }] }
     let s : State := { savedS with saved := [v] }
     s.savedGang 0 = [v] ∧ s.backOk v 0 = true ∧ v.copies ≠ [] ∧ (∀ u ∈ v.group.threads, u.run = .runnable ∧ u.later = [])) ∧
    (let r := { Region.fresh 0x80000 8192 2 24 false with lost := true, claim := some 1 }
     r.lost = true ∧ r.claim = some 1) := by decide

/-- IADD chained to SADD, then a NOP; the two threads at word 0. -/
def chainBytes : List Byte := bytesOfWord (encode true (.iadd opA)).1 ++ bytesOfWord (encode false (.sadd opU)).1 ++ bytesOfWord 0x00800000
def chainC : Ctx := { wC with bytes := chainBytes }
def chainS : State := { wS with cur := some chainC }
def chainC1 : Ctx := { chainC with here := 0, after := 2, chained := true, snap := wG.threads, snapS := wG.sregs }
def nextOf (o : Host.Outcome State Fault Refusal) : State := match o with | .next t => t | _ => wS
def chainM : State := nextOf (exec (.iadd opA) { chainS with cur := some { chainC1 with here := 0 } })
def chainD : Ctx := chainM.cur.getD wC
def chainT : State := nextOf (exec (.sadd opU) { chainM with cur := some { chainD with here := 1 } })

theorem ok_of {α ε : Type} {x : Except ε α} {a : α} (h : x.toOption = some a) : x = .ok a := by
  cases x with
  | error _ => exact absurd h (by simp [Except.toOption])
  | ok b => simpa [Except.toOption] using h

theorem chain_words : IssueWords wG.nregs chainBytes 0 [(0, .iadd opA), (1, .sadd opU)] 2 :=
  .more 0 (.iadd opA) _ 2 (ok_of (by decide)) (by decide) (by decide) (by decide) (.one 1 (.sadd opU) (ok_of (by decide)) (by decide) (by decide))

theorem chain_runs : WordsRun [(0, .iadd opA), (1, .sadd opU)] { chainS with cur := some chainC1 } chainT :=
  .word 0 _ _ _ chainM _ chainC1 chainD (by rfl) (by rfl) (by decide) (by decide) (by decide)
    (.word 1 _ _ _ chainT _ chainD (chainT.cur.getD wC) (by decide) (by rfl) (by decide) (by decide) (by decide) (.done _))

theorem witness_IssuesOfSeveralWords : chainS.cur = some chainC ∧ chainS.group chainC.guid = some wG ∧
    (∀ tid ∈ chainC.active, wG.thread tid = some (wT tid) ∧ (wT tid).run = .runnable) ∧ chainC.active ≠ [] ∧
    0 ∈ (packetInstrs wG.nregs chainBytes).map (·.1) ∧
    ((Instr.iadd opA).pipe ≠ (Instr.sadd opU).pipe ∧ (Instr.iadd opA).uses.clash (Instr.sadd opU).uses wG.nregs = false) ∧
    issueKind [(0, .iadd opA), (1, .sadd opU)] = none ∧ sldAhead [(0, .iadd opA), (1, .sadd opU)] = none ∧
    (chainC.traps = [] ∧ chainC.retries = [] ∧ chainC.misses = []) ∧ chainT.missed = [] ∧ (∀ d, chainT.cur = some d → d.waits = []) ∧
    (Instr.iadd opA).uses.latches = [] ∧ (Instr.sadd opU).uses.latches = [] := by
  refine ⟨by decide, by decide, by decide, by decide, by decide, by decide, by decide, by decide, by decide, by decide, ?_, by decide⟩
  intro d h
  have : (chainT.cur.map (·.waits)) = some [] := by decide
  simpa [h] using this

/-- IADD chained to an LDS, whose address is aligned in the thread 0 and not in the thread 1. -/
def failIs : List (Nat × Instr) := [(0, .iadd opA), (1, .lds { ty := 3, sc := 0, ord := 0, a := 4, v := 11 })]
def failBytes : List Byte :=
  bytesOfWord (encode true (.iadd opA)).1 ++ bytesOfWord (encode false (.lds { ty := 3, sc := 0, ord := 0, a := 4, v := 11 })).1 ++ bytesOfWord 0x00800000
def failG : Group := { wG with threads := [{ wT 0 with regs := (wT 0).regs.set 4 0x80000 }, { wT 1 with regs := (wT 1).regs.set 4 0x80001 }] }
def failC : Ctx := { wC with bytes := failBytes }
def failS : State := { wS.setGroup 0 failG with cur := some failC }
def failC1 : Ctx := { failC with here := 0, after := 2, chained := true, snap := failG.threads, snapS := failG.sregs }
def failT0 : State := nextOf (runWords exec failIs { failS with cur := some failC1 })
def onlyC : Ctx := { failC1 with active := [0] }
def failM : State := nextOf (exec (.iadd opA) { failS with cur := some onlyC })
def failD : Ctx := failM.cur.getD wC
def failT : State := nextOf (exec (.lds { ty := 3, sc := 0, ord := 0, a := 4, v := 11 }) { failM with cur := some { failD with here := 1 } })

theorem witness_ThreadsThatFail : failS.cur = some failC ∧ failS.group failC.guid = some failG ∧
    IssueWords failG.nregs failBytes 0 failIs 2 ∧ runWords exec failIs { failS with cur := some failC1 } = .next failT0 ∧
    (failT0.missed = [] ∧ failT0.failed.tids = [1] ∧ (failC.active.filter fun tid => !failT0.failed.tids.contains tid) = [0]) ∧
    WordsRun failIs { failS with cur := some onlyC } failT ∧ failT.missed = [] :=
  ⟨by decide, by decide, .more 0 (.iadd opA) _ 2 (ok_of (by decide)) (by decide) (by decide) (by decide)
    (.one 1 _ (ok_of (by decide)) (by decide) (by decide)), by rfl, by decide,
    .word 0 _ _ _ failM _ onlyC failD (by rfl) (by rfl) (by rfl) (by decide) (by decide)
      (.word 1 _ _ _ failT _ failD (failT.cur.getD wC) (by rfl) (by rfl) (by rfl) (by decide) (by decide) (.done _)), by decide⟩

/-- A latch reader after its producer; a collective whose quad is whole, and one whose quad is not; a producer at its last word. -/
theorem witness_LatchesAndCollectives :
    (let c : Ctx := { wC with paired := true, prev := [(2, 0, 7), (2, 1, 8)] }
     (Instr.iadd { opA with a := 122 }).uses.latches = [2] ∧ c.paired = true ∧ ∀ tid ∈ c.active, ∃ e ∈ c.prev, e.1 = 2 ∧ e.2.1 = tid) ∧
    (let i := Instr.qxch { d := 10, a := 4, sel := 0 }
     i.gathers = some true ∧ (∀ tid ∈ wC.active, ∀ u ∈ wG.threads, u.live = true → u.tid / 4 = tid / 4 → u.tid ∈ wC.active) ∧
      ∀ tid ∈ oneC.active, ¬ ∀ u ∈ wG.threads, u.live = true → u.tid / 4 = tid / 4 → u.tid ∈ oneC.active) ∧
    (let c : Ctx := { wC with producer := true, after := 3 }
     let s : State := { (wS.write 0 (wC.bytes ++ wC.bytes)) with cur := some c }
     c.producer = true ∧ 3 ≤ c.after ∧ c.moves = [] ∧ (match s.fetch wG (c.pc + 1) with | .ok _ => true | _ => false) = true ∧
      producerOk 16 wC.bytes = true) := by decide

/-- A vector-table entry whose bank holds another row open, and one that a die network spoils. -/
theorem witness_VectorsThatWait :
    (let s := wS.setGroup 1 { blkG with gid := 6, rows := List.replicate 8 { openRow0 with pa := 0x19000 } }
     s.xlate 0 0 (0x1000 + 8 * 0x51) 0 = .ok 0x1288 ∧ s.served 0x1288 = false ∧ wS.served 0x1288 = true ∧ wG.rec_.tvt = 0x1000) ∧
    NetMark.core wG.core ∈ { wS with netBad := [NetMark.core 0] }.netBad ∧ NetMark.core wG.core ∉ wS.netBad := by decide

/-- A group's last living thread, its launch without and with a DONE counter, and with an index left. -/
def lastG : Group := { wG with threads := [wT 0, { wT 1 with run := .exited }], regions := List.replicate 32 none }
def lastS (done : Nat) : State :=
  { (treeS wS).setGroup 0 lastG with cur := some oneC, launches := [(1, { wLaunch with rec_ := { wLaunch.rec_ with done := done } })] }

theorem witness_LastThread : ∀ done ∈ [0, 0x200408], let s := lastS done
    (s.cur = some oneC ∧ s.group 0 = some lastG ∧ lastG.thread 0 = some (wT 0) ∧ 0 ∈ oneC.active) ∧ oneC.chained = false ∧ s.loading 0 0 = false ∧
    risingFrom 0 s.groups = true ∧ (∀ w ∈ lastG.threads, w.tid ≠ 0 → w.live = false) ∧ (∀ r ∈ lastG.regions, r = none) ∧ s.accesses = [] ∧
    (mget s.launches lastG.launch).isSome = true ∧ wLaunch.done = false ∧ s.ranges = [] ∧ (∀ p ∈ s.groups, p.1 = 0) ∧ s.saved = [] ∧
    (done ≠ 0 → s.xlateTables 0 done 1 = .ok 0x408) ∧ 0x408 < Config.peerBase ∧ s.badUnits = [] ∧ risingFrom 0 s.noisy = true ∧
    Memory.wf s.noisy s.mem = true ∧ (∀ k ∈ s.columns, k.2.remap = none) ∧ (∀ p ∈ s.groups, ∀ r ∈ p.2.rows, r.holds = false) := by decide

/-- A register block; twelve layers; a clock before and after its island's first count. -/
theorem witness_ComputedRegisters : wG.blocks[(wT 0).tid / 256]? = some (0, 0, 1) ∧ (wS.column wG.core).temps.length = 12 ∧
    (let i := wS.island 0
     i.count + (0 - i.at_) * i.mhz / 2400 = i.count ∧ i.count + (4 - i.at_) * i.mhz / 2400 ≠ i.count) := by decide

/-- A counter that a die network spoils for a CTWAIT; ranges in the core's own pool and in another of the tenant. -/
theorem witness_PoolsOfTenant :
    (let s : State := { askS [⟨1, 1, 3, 7, none, none⟩] false with tenants := [(0, { wTenant with cfg := { wTenant.cfg with clusters := [0, 1] } })] }
     let pool := fun (k : Nat) => s.ranges.filter fun x => decide (x.cluster = k) && (decide (x.launch = wG.launch) && (s.clustersOf 0).contains k)
     pool 0 = [] ∧ pool 1 = [⟨1, 1, 3, 7, none, none⟩] ∧ (∀ x ∈ s.ranges, x.a < x.b) ∧ (s.core 0).hot = false) ∧
    (∀ rs ∈ [[(⟨0, 1, 3, 7, none, none⟩ : Range)]], ∀ y ∈ rs, y.cluster = 0) ∧ oneS.xlate 0 0 16 0 = .ok 16 ∧
    NetMark.core wG.core ∈ { oneS with netBad := [NetMark.core 0] }.netBad := by decide

end Sys2Proof.Tests
end

section
/-! SUPPORT. Heat and capacity: what a thermal sample, a repair, a reduction, a loss point, an emergency, a raise and the setting
of a cap or a clock leave (R6, R37, R72 to R78, R87, R88, R98 to R100, R181, R211, R319). -/

namespace Sys2Proof.Machine

/-! ### Cores and columns read back -/

@[simp] theorem core_setCore_self (s : State) (k : Nat) (x : Core) : (s.setCore k x).core k = x := by
  simp [State.core, State.setCore, mget_mset]

@[simp] theorem column_setColumn_self (s : State) (k : Nat) (x : Column) : (s.setColumn k x).column k = x := by
  simp [State.column, State.setColumn, mget_mset]

theorem column_setColumn_other (s : State) {j k : Nat} (x : Column) (h : j ≠ k) :
    (s.setColumn k x).column j = s.column j := by
  simp [State.column, State.setColumn, mget_mset, h]

/-! ### Steps that leave all but the groups as they were -/

/-- Nothing of the machine but its groups differs. -/
structure OnlyGroups (s t : State) : Prop where
  rest : t = { s with groups := t.groups }

theorem OnlyGroups.refl (s : State) : OnlyGroups s s := ⟨rfl⟩

theorem OnlyGroups.trans {s t u : State} (h : OnlyGroups s t) (k : OnlyGroups t u) : OnlyGroups s u :=
  ⟨k.rest.trans (congrArg (fun x : State => { x with groups := u.groups }) h.rest)⟩

theorem OnlyGroups.column {s t : State} (h : OnlyGroups s t) (k : Nat) : t.column k = s.column k := by
  rw [h.rest]; rfl

theorem OnlyGroups.core {s t : State} (h : OnlyGroups s t) (k : Nat) : t.core k = s.core k := by
  rw [h.rest]; rfl

theorem onlyGroups_onGroup (s : State) (k : Nat) (f : Group → Group) : OnlyGroups s (s.onGroup k f) := ⟨onGroup_rest s k f⟩

theorem onlyGroups_wakeTrap (s : State) (k tid : Nat) (p : Point) (code : Byte) (tval : Dword) (handler : Nat)
    (word : Option Nat) : OnlyGroups s (s.wakeTrap k tid p code tval handler word) :=
  (onlyGroups_onGroup s k _).trans (onlyGroups_onGroup _ k _)

theorem onlyGroups_trapRowWaiters (s : State) (k i va : Nat) (reason : Option Nat) :
    OnlyGroups s (s.trapRowWaiters k i va reason) := by
  refine List.foldlRecOn (motive := OnlyGroups s) _ _ (.refl s) fun t ht e _ => ?_
  dsimp only
  split
  · exact ht.trans (onlyGroups_wakeTrap ..)
  · exact ht

/-! ### Rows closed by force -/

/-- Nothing of the machine but its groups and one column's request queue and count of forced closes differs. -/
structure ClosesRows (col : Nat) (s t : State) : Prop where
  rest : t = { s with groups := t.groups, columns := t.columns }
  others : ∀ k, k ≠ col → t.column k = s.column k
  column : t.column col = { s.column col with queue := (t.column col).queue, closes := (t.column col).closes }

theorem ClosesRows.refl (col : Nat) (s : State) : ClosesRows col s s := ⟨rfl, fun _ _ => rfl, rfl⟩

theorem ClosesRows.trans {col : Nat} {s t u : State} (h : ClosesRows col s t) (k : ClosesRows col t u) : ClosesRows col s u where
  rest := k.rest.trans (congrArg (fun x : State => { x with groups := u.groups, columns := u.columns }) h.rest)
  others j hj := (k.others j hj).trans (h.others j hj)
  column := k.column.trans
    (congrArg (fun x : Column => { x with queue := (u.column col).queue, closes := (u.column col).closes }) h.column)

theorem OnlyGroups.closesRows {s t : State} (col : Nat) (h : OnlyGroups s t) : ClosesRows col s t where
  rest := by rw [h.rest]
  others k _ := h.column k
  column := by rw [h.column]

theorem closesRows_setColumn (s : State) (col : Nat) (q : List ActReq) (n : Nat) :
    ClosesRows col s (s.setColumn col { s.column col with queue := q, closes := n }) where
  rest := rfl
  others _ hk := column_setColumn_other s _ hk
  column := by simp

theorem closesRows_closeSlot (s : State) (col guid i reason : Nat) (r : RowSlot) :
    ClosesRows col s (s.closeSlot col guid i reason r) :=
  (((onlyGroups_onGroup s guid _).closesRows col).trans (closesRows_setColumn _ col _ _)).trans
    ((onlyGroups_trapRowWaiters ..).closesRows col)

theorem closesRows_closeRows (s : State) (col reason : Nat) (test : Nat → Nat → RowSlot → Bool) :
    ClosesRows col s (s.closeRows col reason test) :=
  ClosesRows.trans
    (List.foldlRecOn (motive := ClosesRows col s) _ _ (.refl col s) fun _ ht _ _ => ht.trans (closesRows_closeSlot ..))
    (closesRows_setColumn _ col _ _)

theorem closesRows_thermalClose (s : State) (col : Nat) (old : Column) : ClosesRows col s (s.thermalClose col old) :=
  closesRows_closeRows s col 4 _

/-! ### The mode of a bank (R98) -/

/-- From when a bank refreshes by the mode of its layer, once a sample has set the modes of `c`'s layers where `old`'s held. -/
def Column.modeNext (old c : Column) (b now : Nat) : Nat :=
  if c.doubledBank b = old.doubledBank b then c.modeAt.getD b 0
  else if old.doubledAt b now = c.doubledBank b then 0 else nextDue (c.doubledBank b) b now

/-- A column with the times of a bank's mode set. -/
def Column.setMode (c : Column) (b n : Nat) : Column := { c with modeAt := setAt c.modeAt b n }

theorem setAt_getD {α : Type} (l : List α) (i : Nat) (x : α) : setAt l i (l.getD i x) = l := by
  refine List.ext_getElem? fun j => ?_
  rw [setAt, List.getElem?_set]
  split
  · subst j
    split <;> simp_all
  · rfl

theorem getD_setAt {α : Type} (l : List α) (i j : Nat) (v x : α) (h : i < l.length) :
    (setAt l i v).getD j x = if j = i then v else l.getD j x := by
  rw [setAt, List.getD_eq_getElem?_getD, List.getElem?_set]
  by_cases e : j = i
  · simp [e, h]
  · simp [e, Ne.symm e]

theorem column_changeMode (s : State) (col b : Nat) (old : Column) :
    (s.changeMode col b old).column col = (s.column col).setMode b (old.modeNext (s.column col) b s.stime) := by
  simp only [State.changeMode, Column.modeNext, Column.setMode]
  split
  · rw [setAt_getD]
  · simp

theorem changeMode_rest (s : State) (col b : Nat) (old : Column) :
    s.changeMode col b old = { s with columns := (s.changeMode col b old).columns } := by
  simp only [State.changeMode]; split <;> rfl

theorem column_changeMode_other (s : State) {col k : Nat} (b : Nat) (old : Column) (h : k ≠ col) :
    (s.changeMode col b old).column k = s.column k := by
  simp only [State.changeMode]
  split
  · rfl
  · exact column_setColumn_other s _ h

/-- What the changes of mode of some banks leave: the columns but for one stand, and of that one all but the times of the
banks' modes. -/
structure ChangesModes (col : Nat) (s t : State) : Prop where
  rest : t = { s with columns := t.columns }
  others : ∀ k, k ≠ col → t.column k = s.column k
  column : t.column col = { s.column col with modeAt := (t.column col).modeAt }

theorem changesModes_fold (s : State) (col : Nat) (old : Column) (bs : List Nat) :
    ChangesModes col s (bs.foldl (fun (s : State) b => s.changeMode col b old) s) := by
  refine List.foldlRecOn (motive := ChangesModes col s) _ _ ⟨rfl, fun _ _ => rfl, rfl⟩ fun t ht b _ => ⟨?_, fun k hk => ?_, ?_⟩
  · rw [changeMode_rest, ht.rest]
  · rw [column_changeMode_other t b old hk, ht.others k hk]
  · rw [column_changeMode, ht.column]; rfl

@[simp] theorem doubledBank_setMode (c : Column) (a b n : Nat) : (c.setMode a n).doubledBank b = c.doubledBank b := rfl

theorem modeAt_setMode (c : Column) {a : Nat} (b n : Nat) (ha : a < c.modeAt.length) :
    (c.setMode a n).modeAt.getD b 0 = if b = a then n else c.modeAt.getD b 0 := getD_setAt _ _ _ _ _ ha

theorem modeNext_setMode (old c : Column) {a : Nat} (b now : Nat) (ha : a < c.modeAt.length) :
    old.modeNext (c.setMode a (old.modeNext c a now)) b now = old.modeNext c b now := by
  rw [Column.modeNext, doubledBank_setMode, modeAt_setMode c b _ ha]
  by_cases h : b = a
  · subst h
    rw [if_pos rfl, Column.modeNext]
    split <;> rfl
  · rw [if_neg h, Column.modeNext]

/-- The times of the banks' modes after the changes of mode of some banks. -/
theorem modeAt_changeModes (col : Nat) (old : Column) (bs : List Nat) (s : State)
    (hl : ∀ b ∈ bs, b < (s.column col).modeAt.length) (b : Nat) :
    ((bs.foldl (fun (s : State) b => s.changeMode col b old) s).column col).modeAt.getD b 0 =
      if b ∈ bs then old.modeNext (s.column col) b s.stime else (s.column col).modeAt.getD b 0 := by
  induction bs generalizing s with
  | nil => simp
  | cons a bs ih =>
    have ha := hl a (by simp)
    have hs : (s.changeMode col a old).stime = s.stime := by rw [changeMode_rest]
    rw [List.foldl_cons, ih _ (by
      intro j hj
      simpa [column_changeMode, Column.setMode, setAt] using hl j (by simp [hj])), column_changeMode, hs,
      modeNext_setMode _ _ _ _ ha]
    by_cases hb : b ∈ bs
    · simp [hb]
    · simp only [hb, if_false, modeAt_setMode _ _ _ ha, List.mem_cons, or_false]
      split
      · subst a; rfl
      · rfl

/-- The next refresh to fall due from a time on (R94): at that time or later, and none falls due between. -/
theorem nextDue_spec (twice : Bool) {b : Nat} (hb : b < 24) (now : Nat) :
    let due := fun (n : Nat) => n % (if twice then 4680 else 9360) = (if twice then 195 else 390) * b
    let m := nextDue twice b now
    now ≤ m ∧ due m ∧ ∀ n, now ≤ n → n < m → ¬ due n := by
  cases twice
  · simp only [nextDue, Bool.false_eq_true, if_false]
    exact ⟨by omega, by omega, fun n h1 h2 => by omega⟩
  · simp only [nextDue, if_true]
    exact ⟨by omega, by omega, fun n h1 h2 => by omega⟩

/-! ### NEIGH, the hot state, and pending retirements -/

theorem heatCore_rest (s : State) (k : Nat) :
    s.heatCore k = { s with cores := (s.heatCore k).cores, ranges := (s.heatCore k).ranges } := by
  simp only [State.heatCore]; split <;> split <;> rfl

theorem column_heatCore (s : State) (k j : Nat) : (s.heatCore k).column j = s.column j := by
  rw [heatCore_rest]; rfl

theorem hot_heatCore (s : State) (k : Nat) : let h := hottest (s.column k).temps
    ((s.heatCore k).core k).hot = if 95 < h then true else if h ≤ 92 then false else (s.core k).hot := by
  have free : ∀ x : Core, ((s.setCore k x).freeRanges k).core k = x := core_setCore_self s k
  simp only [State.heatCore]
  split
  · split
    · assumption
    · rw [free]
  · split
    · rw [core_setCore_self, if_pos (by tauto)]
    · split
      · simp_all
      · rfl

/-- A core that becomes hot keeps no range (R37). -/
theorem ranges_heatCore (s : State) (k : Nat) (hc : (s.core k).hot = false) (h : 95 < hottest (s.column k).temps) :
    ∀ r ∈ (s.heatCore k).ranges, r.owner ≠ some k := by
  simp only [State.heatCore, if_pos h, hc, Bool.false_eq_true, if_false, State.freeRanges, List.mem_map]
  rintro r ⟨q, -, rfl⟩
  split
  · simp
  · assumption

/-- What a retirement that becomes pending leaves: all but the events and the pending retirements of one column stand. -/
structure PendsOnly (col : Nat) (s t : State) : Prop where
  rest : t = { s with columns := t.columns, events := t.events }
  others : ∀ k, k ≠ col → t.column k = s.column k
  column : t.column col = { s.column col with pending := (t.column col).pending }

theorem pendRetirement_new (s : State) {col bank : Nat} (temporary : Bool) (hl : (s.column col).live.getLsbD bank = true)
    (hp : ∀ p ∈ (s.column col).pending, p.1 ≠ bank) : s.pendRetirement col bank temporary = { s with
      columns := mset s.columns col { s.column col with pending := (s.column col).pending ++ [(bank, temporary)] }
      events := s.events ++ [(col, bank, (s.column col).namedFrom)] } := by
  have : ((s.column col).pending.any fun p => decide (p.1 = bank)) = false := by simpa using hp
  simp [State.pendRetirement, hl, this, State.setColumn]

theorem pendRetirement_old (s : State) {col bank : Nat} (temporary : Bool)
    (h : (s.column col).live.getLsbD bank = false ∨ ∃ p ∈ (s.column col).pending, p.1 = bank) :
    s.pendRetirement col bank temporary = s := by
  have : (!(s.column col).live.getLsbD bank || ((s.column col).pending.any fun p => decide (p.1 = bank))) = true := by
    simpa using h
  simp [State.pendRetirement, this]

theorem pendsOnly_pendRetirement (s : State) (col bank : Nat) (temporary : Bool) :
    PendsOnly col s (s.pendRetirement col bank temporary) := by
  by_cases h : (s.column col).live.getLsbD bank = false ∨ ∃ p ∈ (s.column col).pending, p.1 = bank
  · rw [pendRetirement_old s temporary h]
    exact ⟨rfl, fun _ _ => rfl, rfl⟩
  · push Not at h
    rw [pendRetirement_new s temporary (by simpa using h.1) h.2]
    exact ⟨rfl, fun k hk => column_setColumn_other s _ hk, by simp [State.column, mget_mset]⟩

theorem PendsOnly.trans {col : Nat} {s t u : State} (h : PendsOnly col s t) (k : PendsOnly col t u) : PendsOnly col s u where
  rest := k.rest.trans (congrArg (fun x : State => { x with columns := u.columns, events := u.events }) h.rest)
  others j hj := (k.others j hj).trans (h.others j hj)
  column := k.column.trans (congrArg (fun x : Column => { x with pending := (u.column col).pending }) h.column)

/-- The retirements of some banks become pending, temporarily. -/
def State.pendBanks (s : State) (col : Nat) (bs : List Nat) : State :=
  bs.foldl (fun (s : State) b => s.pendRetirement col b true) s

theorem pendsOnly_pendBanks (s : State) (col : Nat) (bs : List Nat) : PendsOnly col s (s.pendBanks col bs) :=
  List.foldlRecOn (motive := PendsOnly col s) _ _ ⟨rfl, fun _ _ => rfl, rfl⟩ fun _ ht _ _ =>
    ht.trans (pendsOnly_pendRetirement ..)

theorem pending_pendRetirement (s : State) {col a : Nat} (temporary : Bool) {p : Nat × Bool}
    (h : p ∈ ((s.pendRetirement col a temporary).column col).pending) :
    p ∈ (s.column col).pending ∨ p = (a, temporary) := by
  by_cases hc : (s.column col).live.getLsbD a = false ∨ ∃ p ∈ (s.column col).pending, p.1 = a
  · rw [pendRetirement_old s temporary hc] at h
    exact .inl h
  · push Not at hc
    rw [pendRetirement_new s temporary (by simpa using hc.1) hc.2] at h
    simpa [State.column, mget_mset] using h

theorem pending_pendRetirement_mono (s : State) (col a : Nat) (temporary : Bool) {p : Nat × Bool}
    (h : p ∈ (s.column col).pending) : p ∈ ((s.pendRetirement col a temporary).column col).pending := by
  by_cases hc : (s.column col).live.getLsbD a = false ∨ ∃ p ∈ (s.column col).pending, p.1 = a
  · rwa [pendRetirement_old s temporary hc]
  · push Not at hc
    rw [pendRetirement_new s temporary (by simpa using hc.1) hc.2]
    simpa [State.column, mget_mset] using .inl h

/-- A live bank of the list whose retirement is not pending has it pending after. -/
theorem mem_pending_pendBanks (col bank : Nat) (bs : List Nat) (hb : bank ∈ bs) (s : State)
    (hl : (s.column col).live.getLsbD bank = true) (hp : ∀ p ∈ (s.column col).pending, p.1 ≠ bank) :
    (bank, true) ∈ ((s.pendBanks col bs).column col).pending := by
  induction bs generalizing s with
  | nil => simp at hb
  | cons a bs ih =>
    by_cases ha : a = bank
    · subst a
      refine List.foldlRecOn (motive := fun t : State => (bank, true) ∈ (t.column col).pending) bs _ ?_ fun t ht b _ =>
        pending_pendRetirement_mono t col b true ht
      dsimp only
      rw [pendRetirement_new s true hl hp]
      simp [State.column, mget_mset]
    · refine ih (by simpa [Ne.symm ha] using hb) (s.pendRetirement col a true) ?_ fun p h => ?_
      · rw [(pendsOnly_pendRetirement s col a true).column]; exact hl
      · rcases pending_pendRetirement s true h with h | rfl
        · exact hp p h
        · exact ha

/-! ### A thermal sample -/

theorem sample_temps (c : Column) (now : Nat) {ts : List Nat} (h : ts.length = 12) (hc : c.temps.length = 12) :
    (c.sample now ts).temps = ts := by
  have e : ts.take 12 = ts := List.take_of_length_le (by omega)
  simp [Column.sample, e, h, List.drop_of_length_le (show c.temps.length ≤ 12 by omega)]

theorem sample_doubled (c : Column) (now : Nat) {ts : List Nat} (h : ts.length = 12) (hc : c.temps.length = 12)
    {j x : Nat} {old : Option Nat} (hx : ts[j]? = some x) (ho : c.doubled[j]? = some old) :
    (c.sample now ts).doubled[j]? = some (doubledNext now x old) := by
  have e : (c.sample now ts).doubled = ((c.sample now ts).temps.zip c.doubled).map fun p => doubledNext now p.1 p.2 := rfl
  rw [e, sample_temps c now h hc, List.getElem?_map, List.getElem?_zip_eq_some (z := (x, old)) |>.2 ⟨hx, ho⟩]
  rfl

theorem foreignFrame_eq {s t : State} {col : Nat} (hf : t.frameKey = s.frameKey) (ht : t.tenants = s.tenants)
    (hl : (t.column col).live = (s.column col).live) : t.foreignFrame col = s.foreignFrame col := by
  unfold State.foreignFrame State.tenant State.tenantOf Column.liveBanks
  rw [hf, ht, hl]

/-- CAPT (R98) in terms of a layer at the column's highest temperature in doubled mode. -/
theorem capt_spec (d : Column) : let h := hottest d.temps
    let hottest : Prop := ∃ j k : Nat, d.temps[j]? = some h ∧ d.doubled[j]? = some (some k)
    (105 < h → d.capt = 12) ∧ (95 < h → h ≤ 105 → d.capt = 24) ∧ (h ≤ 95 → hottest → d.capt = 48) ∧
      (h ≤ 95 → ¬ hottest → d.capt = 96) := by
  have e : d.hotDoubled = true ↔ ∃ j k : Nat, d.temps[j]? = some (hottest d.temps) ∧ d.doubled[j]? = some (some k) := by
    simp only [Column.hotDoubled, List.any_eq_true, Bool.and_eq_true, decide_eq_true_eq]
    constructor
    · rintro ⟨⟨x, m⟩, hm, rfl, hd⟩
      obtain ⟨j, hj⟩ := List.getElem?_of_mem hm
      obtain ⟨k, rfl⟩ := Option.isSome_iff_exists.1 hd
      exact ⟨j, k, List.getElem?_zip_eq_some.1 hj⟩
    · rintro ⟨j, k, hj, hk⟩
      exact ⟨_, List.mem_of_getElem? (List.getElem?_zip_eq_some (z := (_, some k)) |>.2 ⟨hj, hk⟩), rfl, rfl⟩
  simp only [← e, Column.capt]
  refine ⟨fun h => if_pos h, fun h k => ?_, fun h k => ?_, fun h k => ?_⟩
  · rw [if_neg (by omega), if_pos h]
  · rw [if_neg (by omega), if_neg (by omega), if_pos k]
  · rw [if_neg (by omega), if_neg (by omega), if_neg k]

/-- The column with NEIGH as a sample leaves it. -/
def State.setNeigh (s : State) (col : Nat) : State := s.setColumn col { s.column col with neigh := s.neighNext col }

/-- The banks of a column's layers above 105 °C. -/
def Column.hotBanks (c : Column) : List Nat := (List.range 24).filter fun b => decide (105 < c.bankTemp b)

/-- The stages of a sample: `s0` once temperatures and modes are set, `s1` once rows have been closed, and then NEIGH, the core's
hot state and the pending retirements. -/
structure SampleStages (col : Nat) (ts : List Nat) (s s0 s1 t : State) : Prop where
  modes : ChangesModes col (s.setColumn col ((s.column col).sample s.stime ts)) s0
  times : (s.column col).modeAt.length = 24 → ∀ b, b < 24 → (s0.column col).modeAt.getD b 0 =
    (s.column col).modeNext ((s.column col).sample s.stime ts) b s.stime
  closes : ClosesRows col s0 s1
  last : t = ((s1.setNeigh col).heatCore col).pendHot col

theorem pendHot_eq (s : State) (col : Nat) : s.pendHot col = s.pendBanks col (s.column col).hotBanks := by
  unfold State.pendHot State.pendBanks Column.hotBanks
  rfl

theorem pendsOnly_pendHot (s : State) (col : Nat) : PendsOnly col s (s.pendHot col) := by
  rw [pendHot_eq]
  exact pendsOnly_pendBanks ..

theorem sampleColumn_stages (s : State) (col : Nat) (ts : List Nat) :
    ∃ s0 s1, SampleStages col ts s s0 s1 (s.sampleColumn col ts) := by
  refine ⟨_, _, changesModes_fold _ col (s.column col) (List.range 24), fun hl b hb => ?_,
    closesRows_thermalClose _ col (s.column col), ?_⟩
  · rw [modeAt_changeModes _ _ _ _ (by simp [Column.sample, hl]), if_pos (by simpa using hb), column_setColumn_self]
    rfl
  · rfl

theorem exec_thermalSample (s : State) {col : Nat} (ts : List Nat) (ht : s.stime % 2400 = 0) (hc : col < 768)
    (ho : ∀ p ∈ s.columns, p.1 = col) : exec (.thermalSample [(col, ts)]) s = .next (s.sampleColumn col ts) := by
  have rest : (s.columns.map (·.1)).filter (fun c => !decide (c = col)) = [] := by
    simpa [List.filter_eq_nil_iff] using fun c x h => ho (c, x) h
  show execThermalSample [(col, ts)] s = _
  simp only [execThermalSample, ht, ne_eq, not_true_eq_false, if_false]
  rw [show ([(col, ts)] : List (Nat × List Nat)).filter (fun (c, _) => decide (c < Config.cores)) = [(col, ts)] by
    simp [Config.cores, hc]]
  simp only [List.any_cons, List.any_nil, Bool.or_false, List.foldl_cons, List.foldl_nil, eq_comm (a := col), rest]

namespace SampleStages

variable {s s0 s1 t : State} {col : Nat} {ts : List Nat} (h : SampleStages col ts s s0 s1 t)

include h

theorem rest_closes : s1 = { s with groups := s1.groups, columns := s1.columns } :=
  h.closes.rest.trans (congrArg (fun x : State => { x with groups := s1.groups, columns := s1.columns }) h.modes.rest)

theorem column_closes : s1.column col = { (s.column col).sample s.stime ts with
    modeAt := (s0.column col).modeAt, queue := (s1.column col).queue, closes := (s1.column col).closes } := by
  have hm := h.modes.column
  rw [column_setColumn_self] at hm
  exact h.closes.column.trans (congrArg (fun x : Column =>
    { x with queue := (s1.column col).queue, closes := (s1.column col).closes }) hm)

/-- What a sample leaves of its column: the layers' temperatures and modes, the banks' times, NEIGH, the pending retirements,
and what the closing of rows changes. -/
theorem column : t.column col = { (s.column col).sample s.stime ts with
    modeAt := (s0.column col).modeAt, queue := (s1.column col).queue, closes := (s1.column col).closes
    neigh := s1.neighNext col, pending := (t.column col).pending } := by
  have hp := (pendsOnly_pendHot ((s1.setNeigh col).heatCore col) col).column
  rw [← h.last, column_heatCore, State.setNeigh, column_setColumn_self, h.column_closes] at hp
  exact hp

theorem column_other {k : Nat} (hk : k ≠ col) : t.column k = s.column k := by
  rw [h.last, (pendsOnly_pendHot _ col).others k hk, column_heatCore, State.setNeigh, column_setColumn_other _ _ hk,
    h.closes.others k hk, h.modes.others k hk, column_setColumn_other _ _ hk]

theorem neigh : let x := hottest ((s.column col).sample s.stime ts).temps; let c := s.column col
    (t.column col).neigh = if 85 < x then c.neigh || s.foreignFrame col else if x ≤ 82 then false else c.neigh := by
  have hf : s1.foreignFrame col = s.foreignFrame col :=
    foreignFrame_eq (by rw [h.rest_closes]) (by rw [h.rest_closes]) (by rw [h.column_closes]; rfl)
  rw [h.column]
  simp only [State.neighNext, hf]
  rw [h.column_closes]
  rfl

theorem core_setNeigh (k : Nat) : (s1.setNeigh col).core k = s.core k := by
  show s1.core k = _
  rw [h.rest_closes]; rfl

theorem temps_setNeigh : ((s1.setNeigh col).column col).temps = ((s.column col).sample s.stime ts).temps := by
  rw [State.setNeigh, column_setColumn_self, h.column_closes]

theorem hot : let x := hottest ((s.column col).sample s.stime ts).temps
    (t.core col).hot = if 95 < x then true else if x ≤ 92 then false else (s.core col).hot := by
  have e := hot_heatCore (s1.setNeigh col) col
  rw [h.temps_setNeigh, h.core_setNeigh] at e
  rw [h.last, (pendsOnly_pendHot _ col).rest]
  exact e

theorem ranges (hc : (s.core col).hot = false)
    (hx : 95 < hottest ((s.column col).sample s.stime ts).temps) : ∀ r ∈ t.ranges, r.owner ≠ some col := by
  rw [h.last, (pendsOnly_pendHot _ col).rest]
  exact ranges_heatCore _ col (by rwa [h.core_setNeigh]) (by rwa [h.temps_setNeigh])

/-- A live bank of a layer above 105 °C whose retirement is not pending has it pending after the sample (R88). -/
theorem pending {bank : Nat} (hb : bank < 24) (hx : 105 < ((s.column col).sample s.stime ts).bankTemp bank)
    (hl : (s.column col).live.getLsbD bank = true) (hp : ∀ p ∈ (s.column col).pending, p.1 ≠ bank) :
    (bank, true) ∈ (t.column col).pending := by
  rw [h.last, pendHot_eq]
  refine mem_pending_pendBanks col bank _ ?_ _ ?_ ?_
  · simp only [column_heatCore, Column.hotBanks, List.mem_filter, List.mem_range, decide_eq_true_eq, Column.bankTemp, h.temps_setNeigh]
    exact ⟨hb, hx⟩
  · rw [column_heatCore, State.setNeigh, column_setColumn_self, h.column_closes]; exact hl
  · rw [column_heatCore, State.setNeigh, column_setColumn_self, h.column_closes]; exact hp

/-- What a sample leaves of the mode of a bank (R98): the time of a bank whose layer keeps its mode stands; after a change of it
the new mode holds at once where it held still, else from the next refresh to fall due by it. -/
theorem mode {bank : Nat} (hl : (s.column col).modeAt.length = 24) (hb : bank < 24) :
    let c := s.column col; let d := t.column col
    let twice := d.doubledBank bank; let m := d.modeAt.getD bank 0
    let due := fun (n : Nat) => n % (if twice then 4680 else 9360) = (if twice then 195 else 390) * bank
    (twice = c.doubledBank bank → m = c.modeAt.getD bank 0) ∧
    (twice ≠ c.doubledBank bank →
      (c.doubledAt bank s.stime = twice → ∀ n, s.stime ≤ n → d.doubledAt bank n = twice) ∧
      (c.doubledAt bank s.stime ≠ twice → s.stime ≤ m ∧ due m ∧ (∀ n, s.stime ≤ n → n < m → ¬ due n) ∧
        ∀ n, d.doubledAt bank n = if n < m then !twice else twice)) := by
  intro c d twice m due
  have hd : d.doubledBank bank = ((s.column col).sample s.stime ts).doubledBank bank := by
    show (t.column col).doubledBank bank = _
    rw [h.column]; rfl
  have hm : m = c.modeNext ((s.column col).sample s.stime ts) bank s.stime := by
    show (t.column col).modeAt.getD bank 0 = _
    rw [h.column]; exact h.times hl bank hb
  rw [Column.modeNext, ← hd] at hm
  refine ⟨fun e => ?_, fun e => ⟨fun k n hn => ?_, fun k => ?_⟩⟩
  · rw [hm, if_pos e]; rfl
  · rw [if_neg e, if_pos k] at hm
    show (if n < m then _ else _) = _
    rw [if_neg (by omega)]
  · rw [if_neg e, if_neg k] at hm
    obtain ⟨h1, h2, h3⟩ := nextDue_spec twice hb s.stime
    rw [← show m = nextDue twice bank s.stime from hm] at h1 h2 h3
    exact ⟨h1, h2, h3, fun _ => rfl⟩

end SampleStages

/-! ### Maps changed value by value -/

theorem mget_map {α β : Type} (f : α → β) (m : SMap α) (k : Nat) :
    mget (m.map fun p => (p.1, f p.2)) k = (mget m k).map f := by
  induction m with
  | nil => rfl
  | cons p m ih =>
    simp only [List.map_cons, mget]
    split
    · rfl
    · split
      · rfl
      · exact ih

/-- A value put in the place of one that maps to the same leaves the mapped map as it was. -/
theorem map_mset {α β : Type} (f : α → β) {m : SMap α} {k : Nat} {x y : α} (h : mget m k = some x) (e : f y = f x) :
    (mset m k y).map (fun p => (p.1, f p.2)) = m.map fun p => (p.1, f p.2) := by
  induction m with
  | nil => simp [mget] at h
  | cons p m ih =>
    obtain ⟨j, w⟩ := p
    simp only [mget] at h
    split at h
    · cases h
      simp [mset, *]
    · split at h
      · simp at h
      · simp [mset, *]

/-! ### Sorting -/

section SortBy

variable {α : Type} (le : α → α → Bool)

theorem perm_insertBy (x : α) (l : List α) : (insertBy le x l).Perm (x :: l) := by
  induction l with
  | nil => rfl
  | cons y l ih =>
    rw [insertBy]
    split
    · rfl
    · exact (ih.cons y).trans (.swap x y l)

theorem perm_sortBy (l : List α) : (sortBy le l).Perm l := by
  induction l with
  | nil => rfl
  | cons x l ih => exact (perm_insertBy le x _).trans (ih.cons x)

variable {le} (tr : ∀ a b c, le a b = true → le b c = true → le a c = true)
  (tot : ∀ a b, a ≠ b → le a b = false → le b a = true)

include tr tot

theorem pairwise_insertBy {x : α} {l : List α} (hx : x ∉ l) (h : l.Pairwise fun a b => le a b = true) :
    (insertBy le x l).Pairwise fun a b => le a b = true := by
  induction l with
  | nil => simp [insertBy]
  | cons y l ih =>
    obtain ⟨hy, hl⟩ := List.pairwise_cons.1 h
    obtain ⟨hne, hn⟩ : x ≠ y ∧ x ∉ l := by simpa using hx
    rw [insertBy]
    split
    · next hxy => exact List.pairwise_cons.2 ⟨List.forall_mem_cons.2 ⟨hxy, fun z hz => tr _ _ _ hxy (hy z hz)⟩, h⟩
    · next hxy =>
      refine List.pairwise_cons.2 ⟨fun z hz => ?_, ih hn hl⟩
      rcases List.mem_cons.1 ((perm_insertBy le x l).mem_iff.1 hz) with rfl | hz
      · exact tot _ _ hne (by simpa using hxy)
      · exact hy z hz

/-- A list without duplicates sorted by a strict order is in that order. -/
theorem pairwise_sortBy {l : List α} (h : l.Nodup) : (sortBy le l).Pairwise fun a b => le a b = true := by
  induction l with
  | nil => simp [sortBy]
  | cons x l ih =>
    obtain ⟨hx, hl⟩ := List.nodup_cons.1 h
    exact pairwise_insertBy tr tot (fun hm => hx ((perm_sortBy le l).mem_iff.1 hm)) (ih hl)

end SortBy

/-! ### The order of banks, and the banks chosen (R74) -/

/-- Bank `a` goes before bank `b` (R74): empty banks, then the lowest rank, then the fewest pages, then the highest number. -/
def BankBefore (rs : List Region) (a b : Nat) : Prop :=
  (bankRank rs a = none ∧ (bankRank rs b = none → b < a)) ∨
    ∃ p q, bankRank rs a = some p ∧ bankRank rs b = some q ∧
      (p < q ∨ p = q ∧ (bankPages rs a < bankPages rs b ∨ bankPages rs a = bankPages rs b ∧ b < a))

theorem bankBefore_iff (rs : List Region) (a b : Nat) : bankBefore rs a b = true ↔ BankBefore rs a b := by
  unfold bankBefore BankBefore
  split
  · simp [*]
  · simp [*]
  · simp [*]
  · next p q ha hb =>
    simp only [ha, hb, Option.some.injEq, reduceCtorEq, false_and, false_or, ne_eq]
    split
    · simp [*]
    · split <;> simp <;> omega

theorem bankBefore_trans (rs : List Region) (a b c : Nat) (h : bankBefore rs a b = true) (k : bankBefore rs b c = true) :
    bankBefore rs a c = true := by
  rw [bankBefore_iff, BankBefore] at *
  rcases h with ⟨ha, hb⟩ | ⟨p, q, ha, hb, h⟩
  · refine .inl ⟨ha, fun hc => ?_⟩
    rcases k with ⟨kb, kc⟩ | ⟨-, r, -, kc, -⟩
    · exact Nat.lt_trans (kc hc) (hb kb)
    · rw [hc] at kc; simp at kc
  · rcases k with ⟨kb, -⟩ | ⟨q', r, kb, kc, k⟩
    · rw [hb] at kb; simp at kb
    · obtain rfl : q = q' := by rw [hb] at kb; exact Option.some.inj kb
      exact .inr ⟨p, r, ha, kc, by omega⟩

theorem bankBefore_total (rs : List Region) (a b : Nat) (hne : a ≠ b) (h : bankBefore rs a b = false) :
    bankBefore rs b a = true := by
  rw [← Bool.not_eq_true, bankBefore_iff, BankBefore, not_or] at h
  rw [bankBefore_iff]
  obtain ⟨hempty, hranks⟩ := h
  cases hb : bankRank rs b with
  | none => exact .inl ⟨hb, fun ha => by by_contra hlt; exact hempty ⟨ha, fun _ => by omega⟩⟩
  | some q =>
    cases ha : bankRank rs a with
    | none => exact absurd ⟨ha, fun e => by simp [hb] at e⟩ hempty
    | some p =>
      have hpq : ¬ (p < q ∨ p = q ∧ (bankPages rs a < bankPages rs b ∨ bankPages rs a = bankPages rs b ∧ b < a)) :=
        fun hlt => hranks ⟨p, q, ha, hb, hlt⟩
      exact .inr ⟨q, p, hb, ha, by omega⟩

/-- A bank that a lowering of a core's lit count may choose (R74). -/
def Candidate (c : Core) (b : Nat) : Prop := 8 ≤ b ∧ b < 64 ∧ c.lit.getLsbD b = true ∧ b ∉ c.chosen

/-- The banks that a lowering of a core's lit count may choose, in ascending number. -/
def Core.candidates (c : Core) : List Nat := (upFrom 8 56).filter fun b => c.bankLit b && !c.chosen.contains b

theorem nodup_upFrom (a n : Nat) : (upFrom a n).Nodup := List.nodup_range.map fun _ _ h => Nat.add_left_cancel h

theorem nodup_candidates (c : Core) : c.candidates.Nodup := (nodup_upFrom 8 56).filter _

theorem mem_candidates (c : Core) (b : Nat) : b ∈ c.candidates ↔ Candidate c b := by
  have : b ∈ upFrom 8 56 ↔ 8 ≤ b ∧ b < 64 := by
    simp only [upFrom, List.mem_map, List.mem_range]
    exact ⟨by rintro ⟨i, hi, rfl⟩; omega, fun h => ⟨b - 8, by omega, by omega⟩⟩
  simp [Core.candidates, this, Candidate, Core.bankLit, and_assoc]

/-- All but 8 lit banks and the chosen ones may be chosen. -/
theorem litCount_le (c : Core) : c.litCount ≤ 8 + c.chosen.length + c.candidates.length := by
  have hsplit : List.range 64 = List.range 8 ++ upFrom 8 56 := rfl
  have hlow : ((List.range 8).filter c.bankLit).length ≤ 8 := List.length_filter_le _ _
  have hin : (((upFrom 8 56).filter c.bankLit).filter fun b => c.chosen.contains b).length ≤ c.chosen.length :=
    (((nodup_upFrom 8 56).filter _).filter _).length_le_of_subset fun b hb => by simpa using (List.mem_filter.1 hb).2
  have hout : ((upFrom 8 56).filter c.bankLit).filter (fun b => !c.chosen.contains b) = c.candidates := by
    rw [List.filter_filter, Core.candidates]; simp only [Bool.and_comm]
  have hsum := List.length_eq_length_filter_add (l := (upFrom 8 56).filter c.bankLit) fun b => c.chosen.contains b
  rw [hout] at hsum
  rw [Core.litCount, hsplit, List.filter_append, List.length_append]
  omega

/-- The `k` banks that go first of those that a core's lowering may choose. -/
def Picks (c : Core) (rs : List Region) (bs : List Nat) (k : Nat) : Prop :=
  bs.length = k ∧ bs.Nodup ∧ (∀ b ∈ bs, Candidate c b) ∧ bs.Pairwise (BankBefore rs) ∧
    ∀ a b, b ∈ bs → Candidate c a → a ∉ bs → BankBefore rs b a

theorem picks_chooseBanks (s : State) (core n : Nat) (hn : n ≤ (s.core core).candidates.length) :
    Picks (s.core core) (s.coreRegions core) (s.chooseBanks core n) n := by
  have hp := perm_sortBy (bankBefore (s.coreRegions core)) (s.core core).candidates
  have hs := pairwise_sortBy (bankBefore_trans (s.coreRegions core)) (bankBefore_total _) (nodup_candidates (s.core core))
  simp only [bankBefore_iff] at hs
  have mem : ∀ b, b ∈ sortBy (bankBefore (s.coreRegions core)) (s.core core).candidates ↔ Candidate (s.core core) b :=
    fun b => hp.mem_iff.trans (mem_candidates _ b)
  change Picks _ _ ((sortBy (bankBefore (s.coreRegions core)) (s.core core).candidates).take n) n
  refine ⟨by simpa [hp.length_eq] using hn, (hp.nodup_iff.2 (nodup_candidates _)).sublist (List.take_sublist _ _),
    fun b hb => (mem b).1 (List.mem_of_mem_take hb), hs.sublist (List.take_sublist _ _), fun a b hb ha hna => ?_⟩
  rw [← List.take_append_drop n (sortBy _ _), List.pairwise_append] at hs
  refine hs.2.2 b hb a ?_
  have := (mem a).2 ha
  rw [← List.take_append_drop n (sortBy _ _), List.mem_append] at this
  exact this.resolve_left hna

/-! ### Banks made dark or lit, and FLOOR (R78) -/

theorem getLsbD_oneShift (a : Nat) {b : Nat} (hb : b < 64) : (1#64 <<< a).getLsbD b = decide (b = a) := by
  simp only [BitVec.getLsbD_shiftLeft, BitVec.getLsbD_one, hb]
  by_cases h : b = a
  · simp [h]
  · by_cases k : b < a
    · simp [h, k]
    · simp [h, k]; omega

theorem getLsbD_darkened (m : BitVec 64) (bs : List Nat) {b : Nat} (hb : b < 64) :
    (bs.foldl (fun (m : BitVec 64) b => m &&& ~~~(1#64 <<< b)) m).getLsbD b = (m.getLsbD b && decide (b ∉ bs)) := by
  induction bs generalizing m with
  | nil => simp
  | cons a bs ih =>
    rw [List.foldl_cons, ih, BitVec.getLsbD_and, BitVec.getLsbD_not, getLsbD_oneShift a hb]
    by_cases h : b = a <;> simp [h, hb]

theorem getLsbD_relit (m : BitVec 64) (bs : List Nat) {b : Nat} (hb : b < 64) :
    (bs.foldl (fun (m : BitVec 64) b => m ||| (1#64 <<< b)) m).getLsbD b = (m.getLsbD b || decide (b ∈ bs)) := by
  induction bs generalizing m with
  | nil => simp
  | cons a bs ih =>
    rw [List.foldl_cons, ih, BitVec.getLsbD_or, getLsbD_oneShift a hb]
    by_cases h : b = a <;> simp [h]

/-- FLOOR after some banks darken: the least number that is no less than it was, and than min(7, rank + 1) of each bank. -/
theorem floor_spec (rs : List Region) (floor : Nat) (bs : List Nat) : let f := bs.foldl (floorAfter rs) floor
    floor ≤ f ∧ (∀ b k, b ∈ bs → bankRank rs b = some k → min 7 (k + 1) ≤ f) ∧
      (f = floor ∨ ∃ b k, b ∈ bs ∧ bankRank rs b = some k ∧ f = min 7 (k + 1)) := by
  induction bs generalizing floor with
  | nil => simp
  | cons a bs ih =>
    obtain ⟨h1, h2, h3⟩ := ih (floorAfter rs floor a)
    have up : floor ≤ floorAfter rs floor a := by unfold floorAfter; split <;> omega
    refine ⟨Nat.le_trans up h1, fun b k hb hk => ?_, ?_⟩
    · rcases List.mem_cons.1 hb with rfl | hb
      · refine Nat.le_trans ?_ h1
        simp only [floorAfter, hk]; omega
      · exact h2 b k hb hk
    · rcases h3 with h3 | ⟨b, k, hb, hk, e⟩
      · rw [List.foldl_cons, h3]
        unfold floorAfter
        split
        · next k hk =>
          rcases Nat.le_total (min 7 (k + 1)) floor with h | h
          · exact .inl (by omega)
          · exact .inr ⟨a, k, by simp, hk, by omega⟩
        · exact .inl rfl
      · exact .inr ⟨b, k, by simp [hb], hk, e⟩

/-! ### What a loss point leaves of groups and cores -/

/-- What no trap, wake or message changes of a group: its core, its regions, and the numbers of its threads. -/
def Group.layout (g : Group) : Nat × List (Option Region) × List Nat := (g.core, g.regions, g.threads.map (·.tid))

/-- The groups with their layouts. -/
def State.layout (s : State) : SMap (Nat × List (Option Region) × List Nat) := s.groups.map fun p => (p.1, p.2.layout)

/-- What a loss point itself sets of a core: its lit and chosen banks and FLOOR. -/
def Core.light (c : Core) : BitVec 64 × List Nat × Nat := (c.lit, c.chosen, c.floor)

theorem mget_layout (s : State) (k : Nat) : mget s.layout k = (s.group k).map Group.layout := mget_map _ _ _

theorem keys_layout (s : State) : s.layout.map (·.1) = s.groups.map (·.1) := by
  simp [State.layout, Function.comp_def]

theorem layout_onGroup (s : State) (k : Nat) (f : Group → Group) (hf : ∀ x, (f x).layout = x.layout) :
    (s.onGroup k f).layout = s.layout := by
  unfold State.onGroup
  split
  · next x hx => exact map_mset Group.layout hx (hf x)
  · rfl

theorem Group.layout_onThread (g : Group) (tid : Nat) (f : Thread → Thread) (hf : ∀ u, (f u).tid = u.tid) :
    (g.onThread tid f).layout = g.layout := by
  have : (fun u => (if u.tid = tid then f u else u).tid) = fun u : Thread => u.tid := by
    funext u; split <;> simp [hf]
  simp [Group.layout, Group.onThread, Function.comp_def, this]

theorem layout_onThread (s : State) (k tid : Nat) (f : Thread → Thread) (hf : ∀ u, (f u).tid = u.tid) :
    (s.onThread k tid f).layout = s.layout := layout_onGroup s k _ fun x => x.layout_onThread tid f hf

theorem Group.layout_wake (g : Group) (now tid : Nat) (p : Point) : (g.wake now tid p).layout = g.layout := by
  show ((g.unbundle tid).onThread tid _).layout = _
  rw [Group.layout_onThread _ _ _ (by intro u; rfl)]
  rfl

theorem layout_wakeTrap (s : State) (k tid : Nat) (p : Point) (code : Byte) (tval : Dword) (handler : Nat)
    (word : Option Nat) : (s.wakeTrap k tid p code tval handler word).layout = s.layout := by
  rw [State.wakeTrap, layout_onThread _ _ _ _ (by intro u; rfl)]
  exact layout_onGroup s k _ fun x => x.layout_wake s.stime tid p

/-- The groups keep their layouts, and one core its banks and FLOOR. -/
structure Loses (core : Nat) (s t : State) : Prop where
  layout : t.layout = s.layout
  light : (t.core core).light = (s.core core).light

theorem Loses.refl (core : Nat) (s : State) : Loses core s s := ⟨rfl, rfl⟩

theorem Loses.trans {core : Nat} {s t u : State} (h : Loses core s t) (k : Loses core t u) : Loses core s u :=
  ⟨k.layout.trans h.layout, k.light.trans h.light⟩

theorem Loses.foldl {α : Type} {core : Nat} {f : State → α → State} (h : ∀ s a, Loses core s (f s a)) (l : List α) (s : State) :
    Loses core s (l.foldl f s) :=
  List.foldlRecOn (motive := Loses core s) l f (.refl core s) fun t ht a _ => ht.trans (h t a)

theorem loses_wakeTrap (core : Nat) (s : State) (k tid : Nat) (p : Point) (code : Byte) (tval : Dword) (handler : Nat)
    (word : Option Nat) : Loses core s (s.wakeTrap k tid p code tval handler word) :=
  ⟨layout_wakeTrap .., by rw [(onlyGroups_wakeTrap ..).core]⟩

theorem loses_onThread (core : Nat) (s : State) (k tid : Nat) (f : Thread → Thread) (hf : ∀ u, (f u).tid = u.tid) :
    Loses core s (s.onThread k tid f) :=
  ⟨layout_onThread s k tid f hf, by rw [show (s.onThread k tid f).core core = s.core core from (onlyGroups_onGroup ..).core _]⟩

theorem loses_onMember (core : Nat) (s : State) (k tid : Nat) (f : Thread → Thread) (hf : ∀ u, (f u).tid = u.tid) :
    Loses core s (s.onMember k tid f) :=
  (loses_onThread core s k tid f hf).trans ⟨rfl, rfl⟩

theorem loses_killRun (core : Nat) (s : State) (k n : Nat) : Loses core s (s.killRun k n) := ⟨rfl, rfl⟩

/-! ### Threads through wakes and traps -/

theorem thread_changed (s : State) (k tid i j : Nat) (f : Thread → Thread) (hf : ∀ u, (f u).tid = u.tid) :
    (s.onThread k tid f).thread i j = (s.thread i j).map fun u => if i = k ∧ j = tid then f u else u := by
  by_cases h : i = k
  · subst h
    rw [thread_onThread _ _ _ _ _ hf]
    split <;> simp [*]
  · simp [thread_eq, State.onThread, group_onGroup, h]

/-- A thread as it wakes to take a trap at an issue. -/
def Thread.woken (u : Thread) (now : Nat) (p : Point) (code : Byte) (tval : Dword) (handler : Nat) (word : Option Nat) :
    Thread :=
  { u with run := .runnable, point := u.standing p, word := p.word, arrival := now, later := []
           due := some ⟨code, tval, 0, handler, some (word.getD u.parkWord)⟩ }

theorem thread_wake (s : State) (k tid i j : Nat) (p : Point) : (s.wake k tid p).thread i j =
    (s.thread i j).map fun u => if i = k ∧ j = tid then
      { u with run := .runnable, point := u.standing p, word := p.word, arrival := s.stime } else u := by
  by_cases h : i = k
  · subst h
    simp only [thread_eq, State.wake, group_onGroup, if_true]
    cases s.group i with
    | none => rfl
    | some g =>
      show ((g.unbundle tid).onThread tid _).thread j = _
      rw [Group.thread_onThread _ _ _ _ (by intro u; rfl)]
      by_cases hj : j = tid <;> simp [hj, Group.unbundle, Group.thread]
  · simp [thread_eq, State.wake, group_onGroup, h]

theorem thread_wakeTrap (s : State) (k tid i j : Nat) (p : Point) (code : Byte) (tval : Dword) (handler : Nat)
    (word : Option Nat) : (s.wakeTrap k tid p code tval handler word).thread i j =
      (s.thread i j).map fun u => if i = k ∧ j = tid then u.woken s.stime p code tval handler word else u := by
  rw [State.wakeTrap, thread_changed _ _ _ _ _ _ (by intro u; rfl), thread_wake, Option.map_map]
  congr 1
  funext u
  by_cases h : i = k ∧ j = tid <;> simp [h, Thread.woken]

/-! ### Members of a synchronisation group whose home is lost (R139) -/

/-- A thread waits, but not on a line. -/
def Thread.offLine (u : Thread) : Prop := ∃ w p q, u.run = .parked w p q ∧ w.onKey = none

theorem offLine_waitsGen {u : Thread} {h : Nat} {p : Point} (e : u.waitsGen h = some p) : u.offLine := by
  unfold Thread.waitsGen at e
  split at e
  · next hr => exact ⟨_, _, _, hr, rfl⟩
  · simp at e

theorem offLine_waitMsg {s : State} {k tid : Nat} {hv : Word} {x : HMsg × Point} (e : s.waitMsg k tid hv = some x) :
    ∃ u, s.thread k tid = some u ∧ u.offLine := by
  unfold State.waitMsg at e
  split at e
  · simp at e
  · next u hu =>
    split at e
    · next hr => exact ⟨u, hu, _, _, _, hr, rfl⟩
    · simp at e

/-- A member whose home is lost stays as it is, or wakes from its wait in the group to trap, or has its ticket report the loss. -/
theorem loseMember_cases (s : State) (m : Member) (hv : Word) (code : Byte) (tval : Dword) (handler : Nat) :
    let r := s.loseMember m hv code tval handler
    r = s ∨
    (∃ (ms : List HMsg) (p : Point) (u : Thread), s.thread m.guid m.tid = some u ∧ u.offLine ∧
      r = ({ s with hmsgs := ms }.wakeTrap m.guid m.tid p code tval handler).reported m.guid m.tid (some m.h)) ∨
    ∃ tk : Thread → List Ticket, r = s.onMember m.guid m.tid fun u => { u with tickets := tk u } := by
  simp only [State.loseMember]
  split
  · next q p hm =>
    obtain ⟨u, hu, ho⟩ := offLine_waitMsg hm
    exact .inr (.inl ⟨_, p, u, hu, ho, rfl⟩)
  · split
    · exact .inl rfl
    · next t ht =>
      split
      · exact .inl rfl
      · split
        · next p u hp hu =>
          have : t = u := by simpa [State.member, hu] using ht.symm
          subst this
          exact .inr (.inl ⟨s.hmsgs, p, t, hu, offLine_waitsGen hp, rfl⟩)
        · exact .inr (.inr ⟨_, rfl⟩)

theorem loses_loseMember (core : Nat) (s : State) (m : Member) (hv : Word) (code : Byte) (tval : Dword) (handler : Nat) :
    Loses core s (s.loseMember m hv code tval handler) := by
  rcases loseMember_cases s m hv code tval handler with h | ⟨ms, p, u, -, -, h⟩ | ⟨tk, h⟩ <;> rw [h]
  · exact .refl core s
  · exact (show Loses core s { s with hmsgs := ms } from ⟨rfl, rfl⟩).trans
      ((loses_wakeTrap ..).trans (loses_onThread core _ _ _ _ fun _ => rfl))
  · exact loses_onMember core s _ _ _ fun _ => rfl

/-- A thread that waits on no synchronisation group keeps all but its tickets. -/
theorem thread_loseMember {s : State} {k j : Nat} {u : Thread} (hu : s.thread k j = some u) (ho : ¬ u.offLine) (m : Member)
    (hv : Word) (code : Byte) (tval : Dword) (handler : Nat) :
    ∃ tk, (s.loseMember m hv code tval handler).thread k j = some { u with tickets := tk } := by
  rcases loseMember_cases s m hv code tval handler with h | ⟨ms, p, v, hv, hl, h⟩ | ⟨tk, h⟩ <;> rw [h]
  · exact ⟨_, hu⟩
  · have hne : ¬ (k = m.guid ∧ j = m.tid) := by
      rintro ⟨rfl, rfl⟩
      rw [hu] at hv
      exact ho (Option.some.inj hv ▸ hl)
    refine ⟨u.tickets, ?_⟩
    rw [State.reported, thread_changed _ _ _ _ _ _ (by intro u; rfl), thread_wakeTrap]
    simp only [hne, if_false, Option.map_id_fun']
    exact hu
  · show ∃ tk', (s.onThread m.guid m.tid _).thread k j = _
    rw [thread_changed _ _ _ _ _ _ (by intro u; rfl), hu, Option.map_some]
    split
    · exact ⟨_, rfl⟩
    · exact ⟨_, rfl⟩

/-- A slot of a synchronisation unit whose group's spill area lies in a lost run is emptied, and its members lose their home. -/
def State.loseSlot (s : State) (core a n : Nat) (code : Byte) (handler : Nat) (e : Nat × SyncSlot) : State :=
  match e.2.group with
  | none => s
  | some y =>
    if overlaps a n y.spill (64 + 16 * y.cap) then
      let freed := s.setCore core { s.core core with sync := mset (s.core core).sync e.1 { e.2 with group := none } }
      y.members.foldl (fun s m => s.loseMember m (handleOf core e.1 e.2.lastTag) code (BitVec.ofNat 64 y.spill) handler) freed
    else s

theorem loseSpills_eq (s : State) (core a n : Nat) (code : Byte) (handler : Nat) : s.loseSpills core a n code handler =
    (s.core core).sync.foldl (fun s e => s.loseSlot core a n code handler e) s := rfl

theorem loses_loseSlot (s : State) (core a n : Nat) (code : Byte) (handler : Nat) (e : Nat × SyncSlot) :
    Loses core s (s.loseSlot core a n code handler e) := by
  unfold State.loseSlot
  split
  · exact .refl core s
  · split
    · refine Loses.trans ?_ (.foldl (fun s m => loses_loseMember core s m _ _ _ _) _ _)
      exact ⟨rfl, by simp [Core.light]⟩
    · exact .refl core s

theorem loses_loseSpills (s : State) (core a n : Nat) (code : Byte) (handler : Nat) :
    Loses core s (s.loseSpills core a n code handler) := by
  rw [loseSpills_eq]
  exact .foldl (fun s e => loses_loseSlot s core a n code handler e) _ s

/-- The thread stands as it was but for its tickets. -/
def KeepsThread (k j : Nat) (u : Thread) (t : State) : Prop := ∃ tk, t.thread k j = some { u with tickets := tk }

theorem keepsThread_loseMember {k j : Nat} {u : Thread} (ho : ¬ u.offLine) {t : State} (h : KeepsThread k j u t) (m : Member)
    (hv : Word) (code : Byte) (tval : Dword) (handler : Nat) : KeepsThread k j u (t.loseMember m hv code tval handler) := by
  obtain ⟨tk, h⟩ := h
  exact thread_loseMember h ho m hv code tval handler

theorem keepsThread_loseSpills {k j : Nat} {u : Thread} (ho : ¬ u.offLine) {t : State} (h : KeepsThread k j u t)
    (core a n : Nat) (code : Byte) (handler : Nat) : KeepsThread k j u (t.loseSpills core a n code handler) := by
  rw [loseSpills_eq]
  refine List.foldlRecOn (motive := KeepsThread k j u) _ _ h fun t ht e _ => ?_
  unfold State.loseSlot
  split
  · exact ht
  · split
    · exact List.foldlRecOn (motive := KeepsThread k j u) _ _ ht fun t ht m _ => keepsThread_loseMember ho ht m _ _ _ _
    · exact ht

/-! ### Waiters of lost lines (R72, R76) -/

/-- One entry of the waiters on lines, where its key lies in a run that is freed or lost: its thread wakes to trap. -/
def State.trapEntry (s : State) (a n : Nat) (code : Byte) (handler : Nat) (e : Nat × Nat × Nat × Point × Nat) : State :=
  match e with
  | (g, tid, key, p, i) =>
    if a ≤ key ∧ key < a + n then
      s.wakeTrap g tid p code (BitVec.ofNat 64 (addrFrom (((s.group g).map (·.core)).getD 0) key)) handler (some i)
    else s

theorem trapWaiters_eq (s : State) (a n : Nat) (code : Byte) (handler : Nat) :
    s.trapWaiters a n code handler = s.keyWaiters.foldl (fun s e => s.trapEntry a n code handler e) s := rfl

theorem loses_trapEntry (core : Nat) (s : State) (a n : Nat) (code : Byte) (handler : Nat) (e : Nat × Nat × Nat × Point × Nat) :
    Loses core s (s.trapEntry a n code handler e) := by
  obtain ⟨g, tid, key, p, i⟩ := e
  simp only [State.trapEntry]
  split
  · exact loses_wakeTrap ..
  · exact .refl core s

theorem loses_trapWaiters (core : Nat) (s : State) (a n : Nat) (code : Byte) (handler : Nat) :
    Loses core s (s.trapWaiters a n code handler) := by
  rw [trapWaiters_eq]
  exact .foldl (fun s e => loses_trapEntry core s a n code handler e) _ s

/-- A group of a core, the only one of its number, with each thread number once. -/
def Tracked (s : State) (k core : Nat) : Prop :=
  (s.groups.map (·.1)).Nodup ∧ ∃ g, s.group k = some g ∧ g.core = core ∧ (g.threads.map (·.tid)).Nodup

theorem Tracked.of_layout {s t : State} {k core : Nat} (h : Tracked s k core) (e : t.layout = s.layout) : Tracked t k core := by
  obtain ⟨hn, g, hg, hc, ht⟩ := h
  have hk : (t.group k).map Group.layout = some g.layout := by rw [← mget_layout, e, mget_layout, hg]; rfl
  obtain ⟨y, hy, hl⟩ := Option.map_eq_some_iff.1 hk
  simp only [Group.layout, Prod.mk.injEq] at hl
  exact ⟨by rwa [← keys_layout, e, keys_layout], y, hy, hl.1.trans hc, by rwa [hl.2.2]⟩

theorem Tracked.loses {s t : State} {k core c : Nat} (h : Tracked s k core) (l : Loses c s t) : Tracked t k core :=
  h.of_layout l.layout

/-- The entries of a thread among the waiters on lines: its wait and its later ones, where they are on lines. -/
theorem mem_keyWaiters {s : State} {k j core : Nat} {u : Thread} (ht : Tracked s k core) (hu : s.thread k j = some u)
    (key : Nat) (p : Point) (i : Nat) : (k, j, key, p, i) ∈ s.keyWaiters ↔
      ∃ w q, u.run = .parked w p q ∧ ∃ v, (v, i) ∈ (w, u.parkWord) :: u.later ∧ v.onKey = some key := by
  obtain ⟨hn, g, hg, -, htid⟩ := ht
  rw [thread_eq, hg, Option.bind_some] at hu
  have hmem : (k, g) ∈ s.groups := mem_of_mget hg
  have hum : u ∈ g.threads := List.mem_of_find?_eq_some hu
  simp only [State.keyWaiters, List.mem_flatMap]
  constructor
  · rintro ⟨⟨k', x⟩, hx, t, hth, he⟩
    split at he
    · next w p' q hr =>
      simp only [List.mem_filterMap, Option.map_eq_some_iff, Prod.mk.injEq] at he
      obtain ⟨⟨v, i'⟩, hv, key', hkey, rfl, hj, rfl, rfl, rfl⟩ := he
      obtain rfl : x = g := congrArg Prod.snd (List.inj_on_of_nodup_map hn hx hmem rfl)
      obtain rfl : t = u := List.inj_on_of_nodup_map htid hth hum (hj.trans (find_tid hu).symm)
      exact ⟨w, q, hr, v, hv, hkey⟩
    · simp at he
  · rintro ⟨w, q, hr, v, hv, hkey⟩
    refine ⟨(k, g), hmem, u, hum, ?_⟩
    simp only [hr, List.mem_filterMap, Option.map_eq_some_iff, Prod.mk.injEq]
    exact ⟨(v, i), hv, key, hkey, by simp [find_tid hu]⟩

/-- A thread waits on no line whose key has a property. -/
def Thread.avoids (u : Thread) (P : Nat → Prop) : Prop :=
  ∀ w p q, u.run = .parked w p q → ∀ v i, (v, i) ∈ (w, u.parkWord) :: u.later → ∀ key, v.onKey = some key → ¬ P key

theorem thread_trapEntry_other {s : State} {k j : Nat} (a n : Nat) (code : Byte) (handler : Nat)
    (e : Nat × Nat × Nat × Point × Nat) (h : ¬ (e.1 = k ∧ e.2.1 = j ∧ a ≤ e.2.2.1 ∧ e.2.2.1 < a + n)) :
    (s.trapEntry a n code handler e).thread k j = s.thread k j := by
  obtain ⟨g, tid, key, p, i⟩ := e
  simp only [State.trapEntry]
  split
  · have : ¬ (k = g ∧ j = tid) := by rintro ⟨rfl, rfl⟩; exact h ⟨rfl, rfl, ‹_›⟩
    rw [thread_wakeTrap]
    simp [this]
  · rfl

/-- A thread that waits on no line of the run stands as it was. -/
theorem thread_trapWaiters_of_avoids {s : State} {k j core : Nat} {u : Thread} (ht : Tracked s k core)
    (hu : s.thread k j = some u) (a n : Nat) (ha : u.avoids fun key => a ≤ key ∧ key < a + n) (code : Byte) (handler : Nat) :
    (s.trapWaiters a n code handler).thread k j = some u := by
  rw [trapWaiters_eq]
  refine List.foldlRecOn (motive := fun t : State => t.thread k j = some u) _ _ hu fun t h e he => ?_
  rw [thread_trapEntry_other, h]
  obtain ⟨g, tid, key, p, i⟩ := e
  rintro ⟨rfl, rfl, hkey⟩
  obtain ⟨w, q, hr, v, hv, hk⟩ := (mem_keyWaiters ht hu key p i).1 he
  exact ha w p q hr v i hv key hk hkey

/-- A thread that has woken to take the trap of a lost line. -/
def Woken (core key handler pc : Nat) (y : Thread) : Prop :=
  y.run = .runnable ∧ y.point.pc = pc ∧ ∃ d, y.due = some d ∧ d.code = 0x11 ∧ d.handler = handler ∧
    d.tval = BitVec.ofNat 64 (addrFrom core key)

theorem avoids_of_runnable {u : Thread} (h : u.run = .runnable) (P : Nat → Prop) : u.avoids P := by
  intro w p q hr
  rw [h] at hr
  cases hr

theorem not_offLine_of_runnable {u : Thread} (h : u.run = .runnable) : ¬ u.offLine := by
  rintro ⟨w, p, q, hr, -⟩
  rw [h] at hr
  cases hr

/-- A thread waits on one line, for nothing later, by an issue of a packet. -/
def Stuck (key pc : Nat) (u : Thread) : Prop := ∃ w p q, u.run = .parked w p q ∧ w.onKey = some key ∧ u.later = [] ∧ p.pc = pc

theorem Stuck.not_offLine {key pc : Nat} {u : Thread} (h : Stuck key pc u) : ¬ u.offLine := by
  obtain ⟨w, p, q, hr, hk, -, -⟩ := h
  rintro ⟨w', p', q', hr', hn⟩
  rw [hr] at hr'
  cases hr'
  simp [hn] at hk

theorem Stuck.avoids {key pc : Nat} {u : Thread} (h : Stuck key pc u) {P : Nat → Prop} (hP : ¬ P key) : u.avoids P := by
  obtain ⟨w, p, q, hr, hk, hl, -⟩ := h
  intro w' p' q' hr' v i hv key' hk'
  rw [hr] at hr'
  cases hr'
  simp only [hl, List.mem_singleton, Prod.mk.injEq] at hv
  obtain ⟨rfl, rfl⟩ := hv
  rw [hk] at hk'
  exact Option.some.inj hk' ▸ hP

theorem thread_trapEntry_self {s : State} {k j core key : Nat} {u : Thread} (ht : Tracked s k core)
    (hu : s.thread k j = some u) {a n : Nat} (hkey : a ≤ key ∧ key < a + n) (code : Byte) (handler : Nat) (p : Point) (i : Nat) :
    (s.trapEntry a n code handler (k, j, key, p, i)).thread k j =
      some (u.woken s.stime p code (BitVec.ofNat 64 (addrFrom core key)) handler (some i)) := by
  obtain ⟨-, g, hg, rfl, -⟩ := ht
  simp [State.trapEntry, hkey, thread_wakeTrap, hu, hg]

/-- A thread with one entry among some waiters wakes as that entry is met, and no entry wakes it otherwise. -/
theorem woken_foldl_trapEntry {k j core key handler a n : Nat} {p : Point} {i : Nat} (hkey : a ≤ key ∧ key < a + n)
    (l : List (Nat × Nat × Nat × Point × Nat)) (ho : ∀ e ∈ l, e.1 = k → e.2.1 = j → e = (k, j, key, p, i)) (s : State)
    (ht : Tracked s k core)
    (h : ∃ y, s.thread k j = some y ∧ ((k, j, key, p, i) ∈ l ∨ Woken core key handler p.pc y)) :
    ∃ y, (l.foldl (fun s e => s.trapEntry a n 0x11 handler e) s).thread k j = some y ∧ Woken core key handler p.pc y := by
  induction l generalizing s with
  | nil => simpa using h
  | cons e l ih =>
    obtain ⟨y, hy, h⟩ := h
    refine ih (fun e' he' => ho e' (by simp [he'])) _ (ht.loses (loses_trapEntry core ..)) ?_
    by_cases he : e.1 = k ∧ e.2.1 = j
    · obtain rfl := ho e (by simp) he.1 he.2
      exact ⟨_, thread_trapEntry_self ht hy hkey .., .inr ⟨rfl, rfl, _, rfl, rfl, rfl, rfl⟩⟩
    · refine ⟨y, (thread_trapEntry_other a n 0x11 handler e (by tauto)).trans hy, h.imp_left fun hm => ?_⟩
      refine (List.mem_cons.1 hm).resolve_left ?_
      rintro rfl
      exact he ⟨rfl, rfl⟩

/-- A thread that waits on a line of the run wakes to take its trap. -/
theorem thread_trapWaiters_of_stuck {s : State} {k j core key pc : Nat} {u : Thread} (ht : Tracked s k core)
    (hu : s.thread k j = some u) (hs : Stuck key pc u) {a n : Nat} (hkey : a ≤ key ∧ key < a + n) (handler : Nat) :
    ∃ y, (s.trapWaiters a n 0x11 handler).thread k j = some y ∧ Woken core key handler pc y := by
  obtain ⟨w, p, q, hr, hk, hl, rfl⟩ := hs
  rw [trapWaiters_eq]
  refine woken_foldl_trapEntry hkey _ ?_ s ht
    ⟨u, hu, .inl ((mem_keyWaiters ht hu key p u.parkWord).2 ⟨w, q, hr, w, by simp, hk⟩)⟩
  rintro ⟨k', j', key', p', i⟩ he rfl rfl
  obtain ⟨w', q', hr', v, hv, hk'⟩ := (mem_keyWaiters ht hu ..).1 he
  obtain ⟨rfl, rfl, -⟩ : w = w' ∧ p = p' ∧ q = q' := by simpa [hr] using hr'
  obtain ⟨rfl, rfl⟩ : v = w ∧ i = u.parkWord := by simpa [hl] using hv
  rw [Option.some.inj (hk.symm.trans hk')]

/-! ### Regions at a loss point (R72) -/

/-- A run lies in a region's range. -/
def Region.spans (r : Region) (x : Nat × Nat) : Prop := r.base ≤ x.1 ∧ (x.2 = 0 ∨ x.1 + x.2 ≤ r.base + r.size)

theorem spans_part (r : Region) (b : Nat) : r.spans (r.part b) := by
  simp only [Region.spans, Region.part]; omega

theorem spans_runs (r : Region) : ∀ x ∈ r.runs, r.spans x := by
  intro x hx
  unfold Region.runs at hx
  split at hx
  · simp at hx
  · split at hx
    · obtain rfl := List.mem_singleton.1 hx
      exact ⟨Nat.le_refl _, .inr (Nat.le_refl _)⟩
    · obtain ⟨b, -, rfl⟩ := List.mem_map.1 hx
      exact spans_part r b

theorem spans_lostRuns (r : Region) (bs : List Nat) : ∀ x ∈ r.lostRuns bs, r.spans x := by
  intro x hx
  unfold Region.lostRuns at hx
  split at hx
  · obtain ⟨b, -, rfl⟩ := List.mem_map.1 hx
    exact spans_part r b
  · exact spans_runs r x hx

theorem lostRuns_live {r : Region} (bs : List Nat) (hl : r.lost = false) (hd : r.dropped = false) (hb : r.darkened = []) :
    r.lostRuns bs = [(r.base, r.size)] := by
  simp [Region.lostRuns, Region.runs, hl, hd, hb]

theorem touches_iff (r : Region) (bs : List Nat) : r.touches bs = true ↔ ∃ b ∈ bs, r.reserves b = true := by
  simp [Region.touches]

/-- A key lies in a region of a core. -/
def Region.holdsKey (r : Region) (core key : Nat) : Prop := padKey core r.base ≤ key ∧ key < padKey core r.base + r.size

theorem holdsKey_of_spans {r : Region} {x : Nat × Nat} (h : r.spans x) {core key : Nat}
    (hk : padKey core x.1 ≤ key ∧ key < padKey core x.1 + x.2) : r.holdsKey core key := by
  simp only [Region.holdsKey, Region.spans, padKey] at *
  omega

/-- A lost region up to the traps of its waiters: its landings and operands, and the synchronisation groups homed in it. -/
def State.loseHomes (s : State) (core : Nat) (bs : List Nat) (r : Region) : State :=
  ((bs.filter r.reserves).map r.part).foldl (fun (s : State) x => s.loseSpills core x.1 x.2 0x11 r.handler)
    ((r.lostRuns bs).foldl (fun (s : State) x => s.killRun (padKey core x.1) x.2) s)

theorem loseRegion_eq (s : State) (core : Nat) {bs : List Nat} {r : Region} (h : r.touches bs = true) :
    s.loseRegion core bs r = (r.lostRuns bs).foldl
      (fun (s : State) x => s.trapWaiters (padKey core x.1) x.2 0x11 r.handler) (s.loseHomes core bs r) := by
  simp [State.loseRegion, State.loseHomes, h]

theorem loseRegion_untouched (s : State) (core : Nat) {bs : List Nat} {r : Region} (h : ¬ r.touches bs = true) :
    s.loseRegion core bs r = s := by
  simp [State.loseRegion, h]

theorem loses_loseHomes (s : State) (core : Nat) (bs : List Nat) (r : Region) : Loses core s (s.loseHomes core bs r) :=
  (Loses.foldl (fun s (x : Nat × Nat) => loses_killRun core s (padKey core x.1) x.2) _ s).trans
    (.foldl (fun s (x : Nat × Nat) => loses_loseSpills s core x.1 x.2 0x11 r.handler) _ _)

theorem loses_loseRegion (s : State) (core : Nat) (bs : List Nat) (r : Region) : Loses core s (s.loseRegion core bs r) := by
  by_cases h : r.touches bs = true
  · rw [loseRegion_eq s core h]
    exact (loses_loseHomes s core bs r).trans (.foldl (fun s (x : Nat × Nat) => loses_trapWaiters core s (padKey core x.1) x.2 0x11 _) _ _)
  · rw [loseRegion_untouched s core h]
    exact .refl core s

theorem keepsThread_loseHomes {k j : Nat} {u : Thread} (ho : ¬ u.offLine) {s : State} (h : KeepsThread k j u s)
    (core : Nat) (bs : List Nat) (r : Region) : KeepsThread k j u (s.loseHomes core bs r) :=
  List.foldlRecOn (motive := KeepsThread k j u) _ _
    (List.foldlRecOn (motive := KeepsThread k j u) _ _ h fun _ ht _ _ => ht)
    fun _ ht _ _ => keepsThread_loseSpills ho ht ..

/-- A thread that waits on no line of a lost region, and in no synchronisation group, keeps all but its tickets. -/
theorem keepsThread_loseRegion {k j c core : Nat} {u : Thread} (ho : ¬ u.offLine) {r : Region}
    (ha : u.avoids (r.holdsKey core)) {s : State} (ht : Tracked s k c) (h : KeepsThread k j u s) (bs : List Nat) :
    KeepsThread k j u (s.loseRegion core bs r) := by
  by_cases hb : r.touches bs = true
  · rw [loseRegion_eq s core hb]
    refine (List.foldlRecOn (motive := fun t => Tracked t k c ∧ KeepsThread k j u t) _ _
      ⟨ht.loses (loses_loseHomes s core bs r), keepsThread_loseHomes ho h core bs r⟩ fun t ⟨ht, tk, hu⟩ x hx => ?_).2
    refine ⟨ht.loses (loses_trapWaiters core ..), tk, thread_trapWaiters_of_avoids ht hu _ _ ?_ _ _⟩
    exact fun w p q hr v i hv key hk hkey =>
      ha w p q hr v i hv key hk (holdsKey_of_spans (spans_lostRuns r bs x hx) hkey)
  · rwa [loseRegion_untouched s core hb]

/-- A thread that waits on a line of a Live region wakes to trap as the region is lost. -/
theorem woken_loseRegion {k j c core key pc : Nat} {u : Thread} (hs : Stuck key pc u) {r : Region} {bs : List Nat}
    (hb : r.touches bs = true) (hl : r.lost = false) (hd : r.dropped = false) (he : r.darkened = [])
    (hkey : r.holdsKey core key) {s : State} (ht : Tracked s k c) (hu : s.thread k j = some u) :
    ∃ y, (s.loseRegion core bs r).thread k j = some y ∧ Woken c key r.handler pc y := by
  obtain ⟨tk, hu'⟩ := keepsThread_loseHomes hs.not_offLine ⟨u.tickets, hu⟩ core bs r
  rw [loseRegion_eq s core hb, lostRuns_live bs hl hd he]
  exact thread_trapWaiters_of_stuck (ht.loses (loses_loseHomes s core bs r)) hu' hs hkey r.handler

/-- Of some regions that are lost, the one that holds the line a thread waits on wakes it, and no other one does. -/
theorem woken_foldl_loseRegion {k j c core key pc : Nat} {r : Region} {bs : List Nat}
    (hb : r.touches bs = true) (hl : r.lost = false) (hd : r.dropped = false) (he : r.darkened = [])
    (hkey : r.holdsKey core key) (rs : List Region) (ho : ∀ x ∈ rs, x ≠ r → ¬ x.holdsKey core key) (s : State)
    (ht : Tracked s k c)
    (h : ∃ u, s.thread k j = some u ∧ (Stuck key pc u ∧ r ∈ rs ∨ Woken c key r.handler pc u)) :
    ∃ y, (rs.foldl (fun s x => s.loseRegion core bs x) s).thread k j = some y ∧ Woken c key r.handler pc y := by
  induction rs generalizing s with
  | nil => simpa using h
  | cons x rs ih =>
    obtain ⟨u, hu, h⟩ := h
    refine ih (fun y hy => ho y (by simp [hy])) _ (ht.loses (loses_loseRegion s core bs x)) ?_
    rcases h with ⟨hs, hr⟩ | hw
    · by_cases e : x = r
      · subst e
        obtain ⟨y, hy, hw⟩ := woken_loseRegion hs hb hl hd he hkey ht hu
        exact ⟨y, hy, .inr hw⟩
      · obtain ⟨tk, hu'⟩ := keepsThread_loseRegion hs.not_offLine (hs.avoids (ho x (by simp) e)) ht ⟨u.tickets, hu⟩ bs
        exact ⟨_, hu', .inl ⟨hs, (List.mem_cons.1 hr).resolve_left (Ne.symm e)⟩⟩
    · obtain ⟨tk, hu'⟩ := keepsThread_loseRegion (not_offLine_of_runnable hw.1) (avoids_of_runnable hw.1 (x.holdsKey core)) ht
        ⟨u.tickets, hu⟩ bs
      exact ⟨_, hu', .inr hw⟩

/-! ### A loss point (R72, R75, R76, R78) -/

/-- A group with its regions as the darkening of banks of a core leaves them. -/
def Group.darken (core : Nat) (bs : List Nat) (g : Group) : Group :=
  if g.core = core then { g with regions := g.regions.map (Option.map fun r => r.darken bs) } else g

theorem group_darkenRegions (s : State) (core : Nat) (bs : List Nat) (k : Nat) :
    (s.darkenRegions core bs).group k = (s.group k).map (Group.darken core bs) :=
  mget_map (Group.darken core bs) s.groups k

theorem thread_darkenRegions (s : State) (core : Nat) (bs : List Nat) (k j : Nat) :
    (s.darkenRegions core bs).thread k j = s.thread k j := by
  rw [thread_eq, thread_eq, group_darkenRegions]
  cases s.group k with
  | none => rfl
  | some g =>
    simp only [Option.map_some, Option.bind_some, Group.darken]
    split <;> rfl

theorem tracked_darkenRegions {s : State} {k c : Nat} (h : Tracked s k c) (core : Nat) (bs : List Nat) :
    Tracked (s.darkenRegions core bs) k c := by
  obtain ⟨hn, g, hg, hc, ht⟩ := h
  refine ⟨by simpa [State.darkenRegions, Function.comp_def] using hn, _, by rw [group_darkenRegions, hg]; rfl, ?_, ?_⟩ <;>
  · rw [Group.darken]
    split <;> assumption

/-- What the darkening of banks of a core leaves (R72, R75, R76, R78): the lit and chosen banks, FLOOR, the regions lost, and the
threads that wait on their lines. -/
def Darkens (s : State) (core : Nat) (bs : List Nat) (t : State) : Prop :=
  let c := s.core core
  let rs := s.coreRegions core
  (∀ b, b < 64 → (t.core core).lit.getLsbD b = (c.lit.getLsbD b && decide (b ∉ bs))) ∧
  (t.core core).chosen = c.chosen.filter (fun b => decide (b ∉ bs)) ∧
  c.floor ≤ (t.core core).floor ∧
  (∀ b k, b ∈ bs → bankRank rs b = some k → min 7 (k + 1) ≤ (t.core core).floor) ∧
  ((t.core core).floor = c.floor ∨ ∃ b k, b ∈ bs ∧ bankRank rs b = some k ∧ (t.core core).floor = min 7 (k + 1)) ∧
  (∀ (k j : Nat) (g : Group) (r : Region), s.group k = some g → g.core = core → g.regions[j]? = some (some r) →
    (t.group k).bind (fun y => y.regions[j]?) = some (some (if ∃ b ∈ bs, r.reserves b = true then
      { r with lost := true, darkened := r.darkened ++ bs.filter r.reserves } else r))) ∧
  ∀ (k j key : Nat) (g : Group) (u : Thread) (r : Region) (w : Wait) (p q : Point), (s.groups.map (·.1)).Nodup →
    s.group k = some g → (g.threads.map (·.tid)).Nodup → g.thread j = some u → u.run = .parked w p q → w.onKey = some key →
    u.later = [] → r ∈ rs → r.lost = false → r.dropped = false → r.darkened = [] → (∃ b ∈ bs, r.reserves b = true) →
    padKey core r.base ≤ key → key < padKey core r.base + r.size →
    (∀ x ∈ rs, x ≠ r → key < padKey core x.base ∨ padKey core x.base + x.size ≤ key) →
    ∃ y d, t.thread k j = some y ∧ y.run = .runnable ∧ y.point.pc = p.pc ∧ y.due = some d ∧ d.code = 0x11 ∧
      d.handler = r.handler ∧ d.tval = BitVec.ofNat 64 (addrFrom g.core key)

/-- The core as the darkening of banks leaves it. -/
def Core.darken (c : Core) (rs : List Region) (bs : List Nat) : Core :=
  { c with lit := bs.foldl (fun (m : BitVec 64) b => m &&& ~~~(1#64 <<< b)) c.lit, floor := bs.foldl (floorAfter rs) c.floor,
           chosen := c.chosen.filter fun b => !bs.contains b }

/-- The state as banks of a core darken, before its lost regions are seen to. -/
def State.darkenBanks (s : State) (core : Nat) (bs : List Nat) : State :=
  (s.setCore core ((s.core core).darken (s.coreRegions core) bs)).darkenRegions core bs

theorem darken_eq (s : State) (core : Nat) (bs : List Nat) : s.darken core bs =
    (s.coreRegions core).foldl (fun s r => s.loseRegion core bs r) (s.darkenBanks core bs) := rfl

theorem loses_darken (s : State) (core : Nat) (bs : List Nat) : Loses core (s.darkenBanks core bs) (s.darken core bs) := by
  rw [darken_eq]
  exact .foldl (fun s r => loses_loseRegion s core bs r) _ _

theorem light_darken (s : State) (core : Nat) (bs : List Nat) :
    ((s.darken core bs).core core).light = ((s.core core).darken (s.coreRegions core) bs).light := by
  rw [(loses_darken s core bs).light]
  show ((s.setCore core _).core core).light = _
  rw [core_setCore_self]

theorem region_darken (s : State) (core : Nat) (bs : List Nat) {k j : Nat} {g : Group} {r : Region} (hg : s.group k = some g)
    (hc : g.core = core) (hr : g.regions[j]? = some (some r)) :
    ((s.darken core bs).group k).bind (fun y => y.regions[j]?) = some (some (r.darken bs)) := by
  have h : ((s.darken core bs).group k).map Group.layout = ((s.darkenBanks core bs).group k).map Group.layout := by
    rw [← mget_layout, (loses_darken s core bs).layout, mget_layout]
  rw [State.darkenBanks, group_darkenRegions, show (s.setCore core _).group k = some g from hg, Option.map_some,
    Group.darken, if_pos hc] at h
  obtain ⟨y, hy, hl⟩ := Option.map_eq_some_iff.1 h
  have hreg : y.regions = g.regions.map (Option.map fun r => r.darken bs) := congrArg (·.2.1) hl
  simp [hy, hreg, hr]

theorem woken_darken (s : State) (core : Nat) (bs : List Nat) {k j c key pc : Nat} {u : Thread} (ht : Tracked s k c)
    (hu : s.thread k j = some u) (hs : Stuck key pc u) {r : Region} (hr : r ∈ s.coreRegions core) (hb : r.touches bs = true)
    (hl : r.lost = false) (hd : r.dropped = false) (he : r.darkened = []) (hkey : r.holdsKey core key)
    (ho : ∀ x ∈ s.coreRegions core, x ≠ r → ¬ x.holdsKey core key) :
    ∃ y, (s.darken core bs).thread k j = some y ∧ Woken c key r.handler pc y := by
  rw [darken_eq]
  refine woken_foldl_loseRegion hb hl hd he hkey _ ho _ (tracked_darkenRegions ht core bs) ⟨u, ?_, .inl ⟨hs, hr⟩⟩
  rw [State.darkenBanks, thread_darkenRegions]
  exact hu

theorem darkens_darken (s : State) (core : Nat) (bs : List Nat) : Darkens s core bs (s.darken core bs) := by
  have hlight := light_darken s core bs
  simp only [Core.light, Core.darken, Prod.mk.injEq] at hlight
  obtain ⟨hlit, hchosen, hfloor⟩ := hlight
  obtain ⟨h1, h2, h3⟩ := floor_spec (s.coreRegions core) (s.core core).floor bs
  rw [← hfloor] at h1 h2 h3
  refine ⟨fun b hb => ?_, ?_, h1, h2, h3, fun k j g r hg hc hr => ?_, ?_⟩
  · rw [hlit, getLsbD_darkened _ _ hb]
  · rw [hchosen]
    congr 1
    funext b
    simp
  · rw [region_darken s core bs hg hc hr]
    simp only [Region.darken, touches_iff]
  · intro k j key g u r w p q hn hg ht hu hrun hkey hlater hr hl hd he hb hlo hhi ho
    have hth : s.thread k j = some u := by rw [thread_eq, hg]; exact hu
    obtain ⟨y, hy, hrun', hpc, d, hdue, hcode, hhand, htval⟩ := woken_darken s core bs (c := g.core) ⟨hn, g, hg, rfl, ht⟩ hth
      ⟨w, p, q, hrun, hkey, hlater, rfl⟩ hr ((touches_iff r bs).2 hb) hl hd he ⟨hlo, hhi⟩
      fun x hx hne hin => by have := ho x hx hne; have := hin.1; have := hin.2; omega
    exact ⟨y, d, hy, hrun', hpc, hdue, hcode, hhand, htval⟩

/-! ### The capacity event (R74, R261) -/

theorem core_capacityEvent (s : State) (core k : Nat) : (s.capacityEvent core).core k = s.core k := rfl

/-- The threads of a core have the capacity flag set. -/
def Warned (s : State) (core : Nat) (t : State) : Prop := ∀ (k : Nat) (g : Group), s.group k = some g → g.core = core →
  (t.group k).map (·.threads) = some (g.threads.map fun u => { u with capFlag := true })

/-- A group as the capacity event of a core leaves it. -/
def Group.warn (core : Nat) (g : Group) : Group :=
  if g.core = core then { g with threads := g.threads.map fun u => { u with capFlag := true } } else g

theorem group_capacityEvent (s : State) (core k : Nat) : (s.capacityEvent core).group k = (s.group k).map (Group.warn core) :=
  mget_map (Group.warn core) s.groups k

theorem warned_setCore (s : State) (core : Nat) (x : Core) : Warned s core ((s.setCore core x).capacityEvent core) := by
  intro k g hg hc
  rw [group_capacityEvent, show (s.setCore core x).group k = some g from hg]
  simp [Group.warn, hc]

/-! ### Clocks (R6, R181, R211) -/

/-- An island's clock as it is moved at a stack time: %clock goes on from the count it has. -/
def Island.move (i : Island) (n now mhz : Nat) : Island :=
  let count := i.count + (now - i.at_) * i.mhz / 2400
  { mhz := mhz, cut := decide (mhz < islandTop n), count := count, at_ := now,
    wasMhz := if count = i.count then i.wasMhz else i.mhz, wasCut := if count = i.count then i.wasCut else i.cut }

theorem setClock_eq (s : State) {n mhz : Nat} (hn : n < 128) (hm : mhz ≤ islandTop n) :
    s.setClock (n, mhz) = { s with islands := mset s.islands n ((s.island n).move n s.stime mhz) } :=
  if_pos ⟨hn, hm⟩

theorem island_setClock (s : State) {n mhz : Nat} (hn : n < 128) (hm : mhz ≤ islandTop n) (k : Nat) :
    (s.setClock (n, mhz)).island k = if k = n then (s.island n).move n s.stime mhz else s.island k := by
  rw [setClock_eq s hn hm]
  simp only [State.island, mget_mset]
  split <;> rfl

/-- No core sees its clock move as it is set (R211). -/
theorem clock_setClock (s : State) {n mhz : Nat} (hn : n < 128) (hm : mhz ≤ islandTop n) (core : Nat) :
    (s.setClock (n, mhz)).clock core = s.clock core := by
  have ht : (s.setClock (n, mhz)).stime = s.stime := by rw [setClock_eq s hn hm]
  simp only [State.clock, island_setClock s hn hm, ht]
  split
  · next h => simp [h, Island.move]
  · rfl

/-- SYSR reads the clock and CUT before in the core clock in which an island's clock moves (R211). -/
theorem iclock_setClock (s : State) {n mhz : Nat} (hn : n < 128) (hm : mhz ≤ islandTop n) (core : Nat) :
    (s.setClock (n, mhz)).iclock core = s.iclock core := by
  simp only [State.iclock, clock_setClock s hn hm, island_setClock s hn hm]
  split
  · next h =>
    have hc : s.clock core = ((s.island n).move n s.stime mhz).count := by simp [State.clock, h, Island.move]
    rw [if_pos hc, hc, h]
    simp only [Island.move]
    split
    · next e => exact (if_pos e).symm
    · next e => exact (if_neg e).symm
  · rfl

/-- From the core clock after on, SYSR reads the new clock and CUT (R211). -/
theorem iclock_later (s : State) {n mhz : Nat} (hn : n < 128) (hm : mhz ≤ islandTop n) {core : Nat} (hc : core / 12 = n)
    (now : Nat) (h : State.clock { s.setClock (n, mhz) with stime := now } core ≠ s.clock core) :
    State.iclock { s.setClock (n, mhz) with stime := now } core = mhz + (decide (mhz < islandTop n)).toNat * 2 ^ 16 := by
  have hi : State.island { s.setClock (n, mhz) with stime := now } (islandOf core) = (s.island n).move n s.stime mhz := by
    show (s.setClock (n, mhz)).island (core / 12) = _
    rw [island_setClock s hn hm, if_pos hc]
  have hcount : ((s.island n).move n s.stime mhz).count = s.clock core := by
    rw [State.clock, islandOf, hc]; rfl
  rw [State.iclock, hi, hcount]
  exact if_neg h

/-- What a clock that is set leaves (R6, R181, R211). -/
theorem setClock_spec (s : State) {n mhz : Nat} (hn : n < 128) (hm : mhz ≤ islandTop n) : let t := s.setClock (n, mhz)
    t = { s with islands := t.islands } ∧ (t.island n).mhz = mhz ∧ (t.island n).cut = decide (mhz < islandTop n) ∧
      (∀ k, k ≠ n → t.island k = s.island k) ∧
      ∀ core, core < 768 → t.clock core = s.clock core ∧ t.iclock core = s.iclock core ∧ ∀ now, s.stime ≤ now →
        let later : State := { t with stime := now }
        core / 12 = n → later.clock core ≠ s.clock core → later.iclock core = mhz + if mhz < 2400 then 2 ^ 16 else 0 := by
  intro t
  have hi := island_setClock s hn hm
  refine ⟨by rw [show t = _ from setClock_eq s hn hm], ?_, ?_, fun k hk => (hi k).trans (if_neg hk),
    fun core hcore => ⟨clock_setClock s hn hm core, iclock_setClock s hn hm core, fun now _ hc h => ?_⟩⟩
  · rw [hi n, if_pos rfl]; rfl
  · rw [hi n, if_pos rfl]; rfl
  · have e := iclock_later s hn hm hc now h
    rw [show islandTop n = 2400 from if_pos (by omega)] at e
    rw [e]
    split <;> simp [*]

/-! ### Reductions, emergencies and raises (R74, R319) -/

/-- A core as an announced reduction leaves it: more banks chosen, and the later time where a reduction stands already. -/
def Core.announce (c : Core) (bs : List Nat) (due : Nat) : Core :=
  { c with chosen := c.chosen ++ bs, due := if c.chosen = [] then due else max c.due due }

theorem exec_plannedReduction (s : State) {core n : Nat} (notice : Nat) (hc : core < 768) (hn : 0 < n)
    (h : 8 + (s.core core).chosen.length + n ≤ (s.core core).litCount) :
    exec (.plannedReduction core n notice) s = .next
      ((s.setCore core ((s.core core).announce (s.chooseBanks core n) (s.stime + notice))).capacityEvent core) := by
  show execPlannedReduction core n notice s = _
  rw [execPlannedReduction, if_neg (by simp only [Config.cores]; omega)]
  simp only [Core.announce, List.isEmpty_iff]

theorem exec_plannedReduction_refused (s : State) {core n : Nat} (notice : Nat)
    (h : 768 ≤ core ∨ n = 0 ∨ (s.core core).litCount < 8 + (s.core core).chosen.length + n) :
    exec (.plannedReduction core n notice) s = .next s :=
  congrArg Host.Outcome.next (if_pos h)

theorem exec_thermalEmergency (s : State) {core n : Nat} (hc : core < 768) (hn : 0 < n) (h : 8 + n ≤ (s.core core).litCount) :
    exec (.thermalEmergency core n) s = .next (s.darken core ((s.core core).chosen.take n ++
      s.chooseBanks core (n - ((s.core core).chosen.take n).length))) := by
  show execThermalEmergency core n s = _
  rw [execThermalEmergency, if_neg (by simp only [Config.cores]; omega)]

theorem exec_thermalEmergency_refused (s : State) {core n : Nat}
    (h : 768 ≤ core ∨ n = 0 ∨ (s.core core).litCount < 8 + n) : exec (.thermalEmergency core n) s = .next s :=
  congrArg Host.Outcome.next (if_pos h)

/-- The dark banks that a raise by `n` relights. -/
def Core.relights (c : Core) (n : Nat) : List Nat :=
  ((List.range 64).filter fun b => !c.lit.getLsbD b).take (n - c.chosen.length)

/-- A core as a raise by `n` leaves it. -/
def Core.relight (c : Core) (n : Nat) : Core :=
  { c with chosen := c.chosen.take (c.chosen.length - n),
           lit := (c.relights n).foldl (fun (m : BitVec 64) b => m ||| (1#64 <<< b)) c.lit,
           floor := if (c.relights n).isEmpty then c.floor else 0 }

theorem exec_relight (s : State) {core n : Nat} (hc : core < 768) (hn : 0 < n) :
    exec (.relight core n) s = .next ((s.setCore core ((s.core core).relight n)).capacityEvent core) := by
  show execRelight core n s = _
  rw [execRelight, if_neg (by simp only [Config.cores]; omega)]
  rfl

theorem exec_relight_refused (s : State) {core n : Nat} (h : 768 ≤ core ∨ n = 0) : exec (.relight core n) s = .next s :=
  congrArg Host.Outcome.next (if_pos h)

/-- What a raise by `n` leaves of a core. -/
theorem relight_spec (c : Core) (n : Nat) : (c.relight n).chosen = c.chosen.take (c.chosen.length - n) ∧
    (∀ b, b < 64 → (c.relight n).lit.getLsbD b = (c.lit.getLsbD b || decide (b ∈ c.relights n))) ∧
    (c.relight n).floor = if c.relights n = [] then c.floor else 0 :=
  ⟨rfl, fun _ hb => getLsbD_relit _ _ hb, by simp only [Core.relight, List.isEmpty_iff]⟩

theorem exec_lossPoint (s : State) {core : Nat} (hc : (s.core core).chosen ≠ []) (hd : (s.core core).due ≤ s.stime) :
    exec (.lossPoint core) s = .next (s.darken core (s.core core).chosen) := by
  show execLossPoint core s = _
  rw [execLossPoint, if_neg (by simp [hc, hd])]

theorem exec_lossPoint_early (s : State) {core : Nat} (h : (s.core core).chosen = [] ∨ s.stime < (s.core core).due) :
    exec (.lossPoint core) s = .next s := by
  show execLossPoint core s = _
  rw [execLossPoint, if_pos (by simpa using h)]

/-- At its loss point a core has no chosen banks left (R75). -/
theorem chosen_lossPoint (s : State) (core : Nat) : ((s.darken core (s.core core).chosen).core core).chosen = [] := by
  obtain ⟨-, hchosen, -⟩ := darkens_darken s core (s.core core).chosen
  rw [hchosen, List.filter_eq_nil_iff]
  simp

/-! ### A thermal sample, a repair, and a column's cap -/

theorem exec_thermalSample_between (s : State) (col : Nat) (ts : List Nat) (h : s.stime % 2400 ≠ 0) :
    exec (.thermalSample [(col, ts)]) s = .next s := by
  show execThermalSample [(col, ts)] s = _
  rw [execThermalSample, if_pos h]

theorem exec_repairRetirementPending_dropped (s : State) {col bank : Nat} (h : 768 ≤ col ∨
    (s.column col).live.getLsbD bank = false ∨ ∃ p ∈ (s.column col).pending, p.1 = bank) :
    exec (.repairRetirementPending col bank) s = .next s := by
  show execRepairRetirementPending col bank s = _
  rw [execRepairRetirementPending]
  rcases h with h | h
  · rw [if_neg (by simp only [Config.cores]; omega)]
  · rw [pendRetirement_old s false h, ite_self]

theorem exec_repairRetirementPending (s : State) {col bank : Nat} (hc : col < 768)
    (hl : (s.column col).live.getLsbD bank = true) (hp : ∀ p ∈ (s.column col).pending, p.1 ≠ bank) :
    exec (.repairRetirementPending col bank) s = .next { s with
      columns := mset s.columns col { s.column col with pending := (s.column col).pending ++ [(bank, false)] }
      events := s.events ++ [(col, bank, (s.column col).namedFrom)] } := by
  show execRepairRetirementPending col bank s = _
  rw [execRepairRetirementPending, if_pos (show col < Config.cores from hc), pendRetirement_new s false hl hp]

theorem exec_parasolCap (s : State) {col cap : Nat} (hc : col < 768) (hcap : cap ≤ 96) :
    exec (.parasolCapAndClockTrade [(col, cap)] []) s = .next (s.setColumn col { s.column col with capb := cap }) :=
  congrArg Host.Outcome.next (if_pos ⟨hc, hcap⟩)

/-- What a thermal sample of a column leaves of it and of its core (R37, R88, R98, R100). -/
theorem sampleColumn_spec (s : State) (col : Nat) {ts : List Nat} (hl : ts.length = 12)
    (hlen : (s.column col).temps.length = 12) : let t := s.sampleColumn col ts
    let c := s.column col; let d := t.column col; let h := ts.foldl max 0
    d.temps = ts ∧ (∀ k, k ≠ col → t.column k = s.column k) ∧
    (∀ (j x : Nat) (old : Option Nat), ts[j]? = some x → c.doubled[j]? = some old →
      d.doubled[j]? = some (if 85 < x then some (old.getD s.stime) else if x ≤ 82 then none else old)) ∧
    d.neigh = (if 85 < h then c.neigh || s.foreignFrame col else if h ≤ 82 then false else c.neigh) ∧
    (t.core col).hot = (if 95 < h then true else if h ≤ 92 then false else (s.core col).hot) ∧
    d.refresh = c.refresh ∧
    (∀ bank, bank < 24 → 105 < ts.getD (bank / 2) 0 → c.live.getLsbD bank = true → (∀ p ∈ c.pending, p.1 ≠ bank) →
      (bank, true) ∈ d.pending) ∧
    ((s.core col).hot = false → 95 < h → ∀ r ∈ t.ranges, r.owner ≠ some col) := by
  intro t c d h
  obtain ⟨s0, s1, st⟩ := sampleColumn_stages s col ts
  have e := sample_temps c s.stime hl hlen
  have eh : hottest (c.sample s.stime ts).temps = h := congrArg hottest e
  have ed : d.temps = (c.sample s.stime ts).temps ∧ d.doubled = (c.sample s.stime ts).doubled ∧ d.refresh = c.refresh := by
    rw [show d = _ from st.column]; exact ⟨rfl, rfl, rfl⟩
  obtain ⟨htemps, hdoubled, hrefresh⟩ := ed
  refine ⟨htemps.trans e, fun k hk => st.column_other hk, fun j x old hx ho => ?_, eh ▸ st.neigh, eh ▸ st.hot, hrefresh,
    fun bank hb hx hlive hp => st.pending hb ?_ hlive hp, fun hc hh => st.ranges hc (eh ▸ hh)⟩
  · rw [hdoubled, sample_doubled c s.stime hl hlen hx ho]; rfl
  · rw [Column.bankTemp, e]
    have : bank / 2 < ts.length := by omega
    simpa [this] using hx

end Sys2Proof.Machine

namespace Sys2Proof.Proofs

open Machine

/-- Settles O54: a sample by its stages; the banks chosen by the order of a sorted list; a loss point by what each lost region
leaves of groups, cores and waiters. -/
theorem capacityAndHeat : Obligations.CapacityAndHeat := by
  unfold Obligations.CapacityAndHeat
  refine ⟨fun s col ts => ⟨exec_thermalSample_between s col ts, fun ht hc hl ho _ hlen =>
      ⟨_, exec_thermalSample s ts ht hc ho, ?_⟩⟩, fun s col bank => ⟨?_, ?_⟩, fun s core n notice => ?_,
    fun s col cap island mhz => ⟨fun hc hcap => ?_, fun hi hm => ⟨_, rfl, setClock_spec s hi hm⟩⟩⟩
  · obtain ⟨htemps, hother, hdoubled, hneigh, hhot, hrefresh, hpending, hranges⟩ := sampleColumn_spec s col hl hlen
    obtain ⟨s0, s1, st⟩ := sampleColumn_stages s col ts
    generalize s.sampleColumn col ts = t at *
    have hcapt := capt_spec (t.column col)
    rw [htemps] at hcapt
    exact ⟨htemps, hother, hdoubled, hneigh, hhot, hcapt, rfl, fun hl24 bank hb => st.mode hl24 hb,
      fun bank r _ hr => by rwa [hrefresh], hpending, hranges⟩
  · exact exec_repairRetirementPending_dropped s
  · exact exec_repairRetirementPending s
  · intro c lit rs warned candidate before picks darkens
    have hlit : lit ≤ 8 + c.chosen.length + c.candidates.length := litCount_le c
    refine ⟨exec_plannedReduction_refused s notice, fun hc hn h => ⟨_, exec_plannedReduction s notice hc hn h, _,
        core_setCore_self .., picks_chooseBanks s core n (show n ≤ c.candidates.length by omega), warned_setCore s core _⟩,
      exec_thermalEmergency_refused s, fun hc hn h => ⟨_, exec_thermalEmergency s hc hn h, _,
        picks_chooseBanks s core _ ?_, darkens_darken ..⟩,
      exec_relight_refused s, fun hc hn => ⟨_, exec_relight s hc hn, ?_⟩,
      exec_lossPoint_early s, fun hc hd => ⟨_, exec_lossPoint s hc hd, chosen_lossPoint s core, darkens_darken ..⟩⟩
    · show n - (c.chosen.take n).length ≤ c.candidates.length
      rw [List.length_take]; omega
    · obtain ⟨h1, h2, h3⟩ := relight_spec c n
      rw [core_capacityEvent, core_setCore_self]
      exact ⟨h1, h2, h3, warned_setCore s core _⟩
  · exact exec_parasolCap s hc hcap

end Sys2Proof.Proofs
end

section
/-! SUPPORT. Uniform operands, lane exchanges, the first lane, and the reset state (R9, R20 to R23, R289, R311, R312). -/

namespace Sys2Proof.Machine

/-! ### Exchanges between the threads of a quad or a home warp -/

/-- The bit of a word gathered lane by lane. -/
theorem getLsbD_gather (p : Nat → Bool) (n i : Nat) (hi : i < 32) :
    ((List.range n).foldl (fun (w : Word) h => if p h then w ||| (1#32 <<< h) else w) 0).getLsbD i =
      (decide (i < n) && p i) := by
  induction n with
  | zero => simp
  | succ n ih =>
    rw [List.range_succ, List.foldl_append, List.foldl_cons, List.foldl_nil]
    by_cases e : i = n
    · subst e
      split <;> simp_all
    · have hs : decide (i < n + 1) = decide (i < n) := by simp; omega
      split
      · have h1 : ((1#32 <<< n).getLsbD i) = false := by
          simp [BitVec.getLsbD_shiftLeft]
          omega
        rw [BitVec.getLsbD_or, ih, h1, hs, Bool.or_false]
      · rw [ih, hs]

theorem getLsbD_ballot (c : Ctx) (g : Group) (tid : Nat) (pa : Pred) {h : Nat} (hh : h < 32) :
    (c.ballot g tid pa).getLsbD h = match g.thread (tid / 32 * 32 + h) with
      | some m => m.live && c.pred m pa
      | none => false := by
  have e : c.ballot g tid pa = (List.range 32).foldl (fun (w : Word) h =>
      if ((g.atLane tid h).any fun m => m.live && c.pred m pa) then w ||| (1#32 <<< h) else w) 0 := by
    unfold Ctx.ballot
    congr 1
    funext w h
    cases g.atLane tid h <;> simp
  rw [e, getLsbD_gather _ _ _ hh, Group.atLane]
  cases g.thread (tid / 32 * 32 + h) <;> simp [hh]

theorem getLsbD_warpMask (g : Group) (tid : Nat) {h : Nat} (hh : h < 32) :
    (g.warpMask tid).getLsbD h = (g.thread (tid / 32 * 32 + h)).isSome := by
  rw [Group.warpMask, getLsbD_gather (fun h => (g.atLane tid h).isSome) _ _ hh, Group.atLane]
  simp [hh]

/-- The ballot is the mask of the warp's threads where every home lane with a thread votes for. -/
theorem ballot_eq_warpMask (c : Ctx) (g : Group) (tid : Nat) (pa : Pred) :
    (c.ballot g tid pa == g.warpMask tid) =
      (List.range 32).all fun h => (g.thread (tid / 32 * 32 + h)).isNone || (c.ballot g tid pa).getLsbD h := by
  rw [Bool.eq_iff_iff, beq_iff_eq, List.all_eq_true]
  constructor
  · intro e h hh
    rw [e, getLsbD_warpMask g tid (by simpa using hh)]
    cases g.thread (tid / 32 * 32 + h) <;> rfl
  · intro all
    refine BitVec.eq_of_getLsbD_eq fun h hh => ?_
    have := all h (by simpa using hh)
    rw [getLsbD_ballot c g tid pa hh] at this ⊢
    rw [getLsbD_warpMask g tid hh]
    cases hm : g.thread (tid / 32 * 32 + h) <;> simp_all

theorem qxch_effect {s : State} {c : Ctx} {g : Group} (h : InIssue s c g) (f : LI) :
    Gives (.qxch f) s fun t => LaneEffect s t c g [] fun u => u.setReg f.d
      (match g.thread (u.tid / 4 * 4 + f.sel.toNat / 4 ^ (u.tid % 4) % 4) with
        | some m => if 120 ≤ f.a.toNat ∧ f.a.toNat < 123 ∧ m.live = false then 0 else c.val m f.a
        | none => 0) := by
  refine ⟨_, rfl, ?_⟩
  convert lanes_effect h _ ?_ using 1
  · funext u
    have : f.sel.toNat / 4 ^ (u.tid % 4) % 4 = bits f.sel.toNat (2 * (u.tid % 4) + 1) (2 * (u.tid % 4)) := by
      rw [bits, show 2 * (u.tid % 4) + 1 + 1 - 2 * (u.tid % 4) = 2 by omega, pow_mul]; norm_num
    rw [this]
    congr 1
    cases g.thread (u.tid / 4 * 4 + bits f.sel.toNat (2 * (u.tid % 4) + 1) (2 * (u.tid % 4))) with
    | none => rfl
    | some m => simp only [Ctx.helperVal, Nat.lt_succ_iff]
  · intro u
    simp

theorem xlane_effect {s : State} {c : Ctx} {g : Group} (h : InIssue s c g) (x : LXlane) :
    Gives (.xlane x) s fun t => LaneEffect s t c g [] fun u => u.setReg x.d
      (match g.thread (u.tid / 32 * 32 + (c.opB g u x.bs x.b).toNat % 32) with
        | some m => if m.live then c.val m x.a else 0
        | none => 0) :=
  ⟨_, rfl, lanes_effect h _ fun u => by simp⟩

theorem wvote_effect {s : State} {c : Ctx} {g : Group} (h : InIssue s c g) (w : LAw) :
    Gives (.wvote w) s fun t => LaneEffect s t c g [] fun u => (u.setReg w.d (c.ballot g u.tid w.pa)).setPred w.pd
      (if w.k.toNat = 0 then (List.range 32).all fun i =>
          (g.thread (u.tid / 32 * 32 + i)).isNone || (c.ballot g u.tid w.pa).getLsbD i
       else decide (c.ballot g u.tid w.pa ≠ 0)) := by
  refine ⟨_, rfl, ?_⟩
  convert lanes_effect h _ ?_ using 1
  · funext u
    simp only [← ballot_eq_warpMask, ne_eq, decide_not]
    rfl
  · intro u
    simp

/-! ### The value of the lowest home lane -/

theorem laneOf_head_le {l : List Nat} {a j : Nat} (h : (l.map laneOf).Pairwise (· < ·)) (ha : l.head? = some a) (hj : j ∈ l) :
    laneOf a < laneOf j ∨ j = a := by
  cases l with
  | nil => simp at ha
  | cons b l =>
    obtain rfl : b = a := by simpa using ha
    rcases List.mem_cons.mp hj with rfl | hj
    · exact .inr rfl
    · exact .inl ((List.pairwise_cons.mp h).1 _ (List.mem_map_of_mem hj))

/-- In ascending home lane the first thread is that of the lowest. -/
theorem firstVal_eq {c : Ctx} {g : Group} {u : Thread} (a : Code) (h : (c.active.map laneOf).Pairwise (· < ·))
    (hu : u.tid ∈ c.active) (hmin : ∀ j ∈ c.active, laneOf u.tid ≤ laneOf j) (ht : g.thread u.tid = some u) :
    c.firstVal g a = c.val u a := by
  obtain ⟨b, hb⟩ : ∃ b, c.active.head? = some b := Option.ne_none_iff_exists'.1 fun e => by
    rw [List.head?_eq_none_iff.1 e] at hu; simp at hu
  have := hmin b (List.mem_of_mem_head? hb)
  rcases laneOf_head_le h hb hu with hlt | rfl
  · omega
  · simp [Ctx.firstVal, hb, ht]

end Sys2Proof.Machine

namespace Sys2Proof.Proofs

open Machine

/-- Settles O1: an operand of BS is read from the issue and the group alone. -/
theorem uniformOperandOfLanes : Obligations.UniformOperandOfLanes := by
  unfold Obligations.UniformOperandOfLanes
  intro c g b hb
  have hx : c.uniB g b = c.uni g b.toNat := if_pos hb
  refine ⟨_, rfl, fun h => ?_, fun h => ?_, fun u => ?_, fun u f hbs hf => ?_⟩
  · rw [Ctx.uni, h]; rfl
  · rw [Ctx.uni, h]; rfl
  · rw [Ctx.opB, if_pos rfl, hx]
  · rw [Ctx.leaBase, hbs, if_pos rfl, hf, hx]

/-- Settles O14: the exchanges read the group as it stood before the issue, lane by lane; a ballot by its bits. -/
theorem laneExchanges : Obligations.LaneExchanges := by
  unfold Obligations.LaneExchanges
  intro s c g h f x w
  exact ⟨fun u => c.ballot g u.tid w.pa, qxch_effect h f, xlane_effect h x, wvote_effect h w,
    fun u i hi => getLsbD_ballot c g u.tid w.pa hi⟩

/-- Settles O17: in an issue in ascending home lane the first active thread has the lowest. -/
theorem firstLane : Obligations.FirstLane := by
  unfold Obligations.FirstLane
  intro s c g h f u hp hu hmin ht
  refine ⟨_, rfl, ?_⟩
  have e := setUni_effect h f.d fun c g => (c.firstVal g f.a).setWidth 64
  rwa [firstVal_eq f.a hp hu hmin ht, ← BitVec.ofNat_toNat] at e

/-- Settles O58: what the lists of the reset state leave out stands at the reset values of a core and a column. -/
theorem resetValues : Obligations.ResetValues := by
  unfold Obligations.ResetValues
  have hcore : ∀ k, State.reset.core k = Core.reset := fun _ => rfl
  have hcol : ∀ k, State.reset.column k = Column.reset := fun _ => rfl
  have hlit : ∀ b, b < 64 → Core.reset.lit.getLsbD b = decide (b < 8) := by decide
  have hlive : ∀ b, b < 24 → Column.reset.live.getLsbD b = true := by decide
  refine ⟨rfl, rfl, rfl, memOk_reset, ⟨by decide, by decide⟩, rfl, rfl, rfl, rfl, rfl, rfl, fun k hk => ?_,
    ⟨_, rfl, rfl, rfl, rfl, rfl⟩, fun core b hb => ?_, fun _ => ⟨rfl, rfl⟩, fun col => ?_, fun col b hb => ?_⟩
  · show mget [(0, _)] k = none
    rw [mget, if_neg hk]
    split <;> rfl
  · rw [hcore, hlit b hb]
  · rw [hcol]
    exact ⟨rfl, by decide, by decide, rfl⟩
  · rw [hcol]
    exact ⟨hlive b hb, rfl, rfl⟩

end Sys2Proof.Proofs
end

section
/-! SUPPORT. The system registers (R50, R53, R77, R87, R99, R100, R165, R210, R211, R309). -/

namespace Sys2Proof.Machine

/-! ### The temperatures word (R99) -/

theorem le_foldl_max (l : List Nat) (a : Nat) : a ≤ l.foldl max a ∧ ∀ x ∈ l, x ≤ l.foldl max a := by
  induction l generalizing a with
  | nil => simp
  | cons b l ih =>
    obtain ⟨h1, h2⟩ := ih (max a b)
    simp only [List.foldl_cons, List.mem_cons, forall_eq_or_imp]
    exact ⟨by omega, by omega, h2⟩

theorem foldl_max_le {l : List Nat} {a m : Nat} (ha : a ≤ m) (h : ∀ x ∈ l, x ≤ m) : l.foldl max a ≤ m := by
  induction l generalizing a with
  | nil => exact ha
  | cons b l ih => exact ih (by have := h b (by simp); omega) fun x hx => h x (by simp [hx])

/-- The hottest temperature is the one that no other exceeds. -/
theorem hottest_eq {ts : List Nat} {y : Nat} (hy : y ∈ ts) (h : ∀ x ∈ ts, x ≤ y) : hottest ts = y :=
  Nat.le_antisymm (foldl_max_le (Nat.zero_le y) h) ((le_foldl_max ts 0).2 y hy)

/-- Fields of five bits, one for each element of a list, from the field `k` up. -/
theorem foldl_fields (code : Nat → Nat) (hc : ∀ t, code t < 32) (ts : List Nat) (k n : Nat) (hn : n < 2 ^ (5 * k)) :
    let x := (ts.zipIdx k).foldl (fun n (t, j) => n + code t * 2 ^ (5 * j)) n
    x < 2 ^ (5 * (k + ts.length)) ∧ x % 2 ^ (5 * k) = n ∧ ∀ j y, ts[j]? = some y → x / 2 ^ (5 * (k + j)) % 2 ^ 5 = code y := by
  induction ts generalizing k n with
  | nil => simp [hn, Nat.mod_eq_of_lt hn]
  | cons t ts ih =>
    have hp : 2 ^ (5 * (k + 1)) = 32 * 2 ^ (5 * k) := by rw [Nat.mul_add, pow_add]; ring
    have ht := hc t
    obtain ⟨hlt, hmod, hget⟩ := ih (k + 1) (n + code t * 2 ^ (5 * k)) (by rw [hp]; nlinarith)
    simp only [List.zipIdx_cons, List.foldl_cons]
    generalize (ts.zipIdx (k + 1)).foldl (fun n (t, j) => n + code t * 2 ^ (5 * j)) (n + code t * 2 ^ (5 * k)) = x at *
    have low : x % 2 ^ (5 * k) = n := by
      rw [← Nat.mod_mod_of_dvd x (pow_dvd_pow 2 (show 5 * k ≤ 5 * (k + 1) by omega)), hmod, Nat.add_mul_mod_self_right, Nat.mod_eq_of_lt hn]
    refine ⟨by rwa [List.length_cons, show k + (ts.length + 1) = k + 1 + ts.length by omega], low, fun j y hj => ?_⟩
    cases j with
    | zero =>
      obtain rfl : t = y := by simpa using hj
      have : x / 2 ^ (5 * k) % 2 ^ 5 = x % 2 ^ (5 * (k + 1)) / 2 ^ (5 * k) := by
        rw [Nat.mul_add, pow_add, Nat.mod_mul_right_div_self]
      rw [Nat.add_zero, this, hmod, Nat.add_mul_div_right _ _ (by positivity), Nat.div_eq_of_lt hn, Nat.zero_add]
    | succ j => rw [show k + (j + 1) = k + 1 + j by omega]; exact hget j y (by simpa using hj)

/-- The place of the first element that equals a value. -/
theorem find_zipIdx_first {ts : List Nat} {y i : Nat} (k : Nat) (hi : ts[i]? = some y) (hf : ∀ j, j < i → ts[j]? ≠ some y) :
    (ts.zipIdx k).find? (fun (t, _) => decide (t = y)) = some (y, k + i) := by
  induction ts generalizing k i with
  | nil => simp at hi
  | cons t ts ih =>
    rw [List.zipIdx_cons, List.find?_cons]
    cases i with
    | zero =>
      obtain rfl : t = y := by simpa using hi
      simp
    | succ i =>
      have ht : t ≠ y := by simpa using hf 0 (by omega)
      simp only [ht, decide_false]
      rw [ih (k + 1) (by simpa using hi) fun j hj => by simpa using hf (j + 1) (by omega)]
      congr 2
      omega

theorem tempCode_lt (t : Nat) : tempCode t < 32 := by unfold tempCode; omega

/-- %thermal of twelve layers (R99): a code for each, and the first of the hottest ones. -/
theorem thermal_fields {c : Column} (hl : c.temps.length = 12) :
    (∀ j y, c.temps[j]? = some y → c.thermal / 2 ^ (5 * j) % 2 ^ 5 = tempCode y) ∧
    ∀ h y, c.temps[h]? = some y → (∀ j z, c.temps[j]? = some z → z ≤ y ∧ (j < h → z < y)) →
      c.thermal / 2 ^ 60 = h ∧ c.thermal < 2 ^ 64 := by
  obtain ⟨hlt, -, hget⟩ := foldl_fields tempCode tempCode_lt c.temps 0 0 (by simp)
  simp only [Nat.zero_add, hl] at hlt hget
  rw [Column.thermal]
  generalize (c.temps.zipIdx).foldl (fun n (t, j) => n + tempCode t * 2 ^ (5 * j)) 0 = x at *
  refine ⟨fun j y hy => ?_, fun h y hy hmax => ?_⟩
  · rw [← hget j y hy]
    have hj : j < 12 := hl ▸ (List.getElem?_eq_some_iff.1 hy).1
    generalize ((c.temps.zipIdx.find? _).map _).getD 0 = m
    have : m * 2 ^ 60 = m * 2 ^ (5 * (11 - j)) * 2 ^ 5 * 2 ^ (5 * j) := by
      rw [Nat.mul_assoc, Nat.mul_assoc, ← pow_add, ← pow_add]
      congr 2
      omega
    rw [this, Nat.add_mul_div_right _ _ (by positivity), Nat.add_mul_mod_self_right]
  · have hh : h < 12 := hl ▸ (List.getElem?_eq_some_iff.1 hy).1
    have hot : hottest c.temps = y := hottest_eq (List.mem_of_getElem? hy) fun z hz => by
      obtain ⟨j, hj⟩ := List.mem_iff_getElem?.1 hz
      exact (hmax j z hj).1
    have first := find_zipIdx_first 0 hy fun j hj e => absurd ((hmax j y e).2 hj) (lt_irrefl y)
    rw [hot, first]
    simp only [Option.map_some, Option.getD_some, Nat.zero_add]
    omega

/-! ### System registers (R210, R309) -/

theorem sregWide_iff (r : Nat) : sregWide r = true ↔ r ∈ [0x012, 0x020, 0x022, 0x040, 0x041] := by
  unfold sregWide
  fun_cases sregInfo r <;> simp_all

theorem sysr_effect {s : State} {c : Ctx} {g : Group} (h : InIssue s c g) (f : LAy) :
    Gives (.sysr f) s fun t => LaneEffect s t c g [] fun u =>
      let x := s.sreg g (c.source u) f.sreg.toNat
      if f.sreg.toNat ∈ [0x012, 0x020, 0x022, 0x040, 0x041] then u.setPair f.v x else u.setReg f.v (x.setWidth 32) := by
  refine ⟨_, rfl, ?_⟩
  convert lanes_effect h _ ?_ using 1
  · funext u
    simp only [Thread.setSized, sregWide_iff]
  · intro u
    simp

/-- The words of R77, R87, R99, R100 and R211 as their fields. -/
theorem capacityWord_eq (s : State) (core : Nat) : let k := s.core core
    let lit := ((List.range 64).filter fun b => k.lit.getLsbD b).length
    s.capacityWord core = if k.chosen = [] then lit + lit * 2 ^ 8
      else lit + (lit - k.chosen.length) * 2 ^ 8 + 2 ^ 15 + min 255 ((k.due - s.stime) / 1024) * 2 ^ 16 := by
  simp only [State.capacityWord, List.isEmpty_iff]
  rfl

theorem sreg_ids (s : State) (g : Group) (u : Thread) :
    s.sreg g u 0x000 = BitVec.ofNat 64 u.tid ∧ s.sreg g u 0x001 = BitVec.ofNat 64 g.gid ∧
    s.sreg g u 0x030 = u.fpmode.setWidth 64 ∧ s.sreg g u 0x031 = u.nflags.setWidth 64 ∧
    s.sreg g u 0x041 = BitVec.ofNat 64 s.stime ∧ s.sreg g u 0x002 = BitVec.ofNat 64 (u.tid % 32) := ⟨rfl, rfl, rfl, rfl, rfl, rfl⟩

theorem sreg_warp (s : State) (g : Group) (u : Thread) {a first n : Nat} (h : g.blocks[u.tid / 256]? = some (a, first, n)) :
    s.sreg g u 0x003 = BitVec.ofNat 64 (first + u.tid / 32 % 8) := by
  show BitVec.ofNat 64 (g.warpOf u.tid) = _
  rw [Group.warpOf, h]

theorem sreg_thermal (s : State) (g : Group) (u : Thread) (hl : (s.column g.core).temps.length = 12) :
    let ts := (s.column g.core).temps
    let x := (s.sreg g u 0x012).toNat
    (∀ j y, ts[j]? = some y → x / 2 ^ (5 * j) % 2 ^ 5 = min 31 (y - 75)) ∧
      ∀ h y, ts[h]? = some y → (∀ j z, ts[j]? = some z → z ≤ y ∧ (j < h → z < y)) → x / 2 ^ 60 = h := by
  obtain ⟨hcodes, hhot⟩ := thermal_fields hl
  have hx : (s.sreg g u 0x012).toNat = (s.column g.core).thermal % 2 ^ 64 := BitVec.toNat_ofNat ..
  simp only [hx]
  refine ⟨fun j y hy => ?_, fun h y hy hmax => ?_⟩
  · have hj : j < 12 := hl ▸ (List.getElem?_eq_some_iff.1 hy).1
    rw [← Nat.mod_mul_right_div_self, Nat.mod_mod_of_dvd _ ?_, Nat.mod_mul_right_div_self]
    · exact hcodes j y hy
    · rw [← pow_add]
      exact pow_dvd_pow 2 (by omega)
  · obtain ⟨h1, h2⟩ := hhot h y hy hmax
    rwa [Nat.mod_eq_of_lt h2]

theorem sreg_clock (s : State) (g : Group) (u : Thread) : let i := s.island (g.core / 12)
    let count := i.count + (s.stime - i.at_) * i.mhz / 2400
    (count ≠ i.count → s.sreg g u 0x015 = BitVec.ofNat 64 (i.mhz + i.cut.toNat * 2 ^ 16)) ∧
    (count = i.count → s.sreg g u 0x015 = BitVec.ofNat 64 (i.wasMhz + i.wasCut.toNat * 2 ^ 16)) ∧
    s.sreg g u 0x040 = BitVec.ofNat 64 count := by
  refine ⟨fun h => ?_, fun h => ?_, rfl⟩
  · exact congrArg (BitVec.ofNat 64) (if_neg h)
  · exact congrArg (BitVec.ofNat 64) (if_pos h)

theorem sreg_traps (s : State) (g : Group) (u : Thread) :
    (∀ l ls, u.traps = l :: ls → s.sreg g u 0x020 = l.epc ∧ s.sreg g u 0x022 = l.tval ∧
      s.sreg g u 0x023 = l.tmask.setWidth 64 ∧
      s.sreg g u 0x021 = BitVec.ofNat 64 (l.code.toNat + l.word * 2 ^ 8 + u.traps.length * 2 ^ 24)) ∧
    (u.traps = [] → s.sreg g u 0x020 = 0 ∧ s.sreg g u 0x021 = 0 ∧ s.sreg g u 0x022 = 0 ∧ s.sreg g u 0x023 = 0) := by
  constructor
  · intro l ls h
    simp [State.sreg, Thread.cause, h]
  · intro h
    simp [State.sreg, Thread.cause, h]

/-- What SYSW does in a thread of the issue (R309). -/
theorem sysw_effect (f : LAy) : ActsEach (.sysw f) fun s c _ u t =>
    let v := c.syswVal u f
    (u.badSysw f.sreg.toNat v = true → t = s.raise u.tid 0x01 c.word 0 0) ∧
    (u.badSysw f.sreg.toNat v = false → OneThread s t c u (u.setSreg f.sreg.toNat v)) := by
  intro s c g h
  refine ⟨_, rfl, eachActive_inOrder h _ _ fun s tid c g u ha => ⟨fun hb => ?_, fun hb => ?_⟩⟩
  · exact if_pos hb
  · simp only [hb, Bool.false_eq_true, if_false]
    refine oneThread_effect ha _ fun v => ?_
    unfold Thread.setSreg Thread.onTop
    split <;> (try split) <;> rfl

theorem inOrder_mono {p q : State → Nat → State → Prop} {l : List Nat} {s t : State} (h : InOrder p l s t)
    (hpq : ∀ s tid t, p s tid t → q s tid t) : InOrder q l s t := by
  induction h with
  | done s => exact .done s
  | next tid rest s m t hp _ ih => exact .next tid rest s m t (hpq _ _ _ hp) ih

/-- What each active thread does in turn, by what it does more exactly. -/
theorem actsEach_mono {i : Instr} {p q : State → Ctx → Group → Thread → State → Prop} (h : ActsEach i p)
    (hpq : ∀ s c g u t, Acting s u.tid c g u → p s c g u t → q s c g u t) : ActsEach i q := by
  intro s c g hi
  obtain ⟨t, ht, ho⟩ := h s c g hi
  exact ⟨t, ht, inOrder_mono ho fun s tid t hp c g u ha => hpq s c g u t (acting_tid ha ▸ ha) (hp c g u ha)⟩

end Sys2Proof.Machine

namespace Sys2Proof.Proofs

open Machine

/-- Settles O25: SYSR register by register, %thermal by the fields of its sum; SYSW by whether it traps. -/
theorem systemRegisters : Obligations.SystemRegisters := by
  unfold Obligations.SystemRegisters
  refine ⟨fun s c g h f => ⟨sysr_effect h f, fun u => ?_⟩, fun f => actsEach_mono (sysw_effect f) fun s c _ u t _ h => ?_⟩
  · obtain ⟨h0, h1, h30, h31, h41, h2⟩ := sreg_ids s g u
    obtain ⟨h15, h15', h40⟩ := sreg_clock s g u
    exact ⟨h0, h1, h30, h31, h41, h2, fun _ _ _ hb => sreg_warp s g u hb, rfl, rfl, rfl,
      ⟨rfl, rfl, congrArg (BitVec.ofNat 64) (capacityWord_eq s g.core), rfl, sreg_thermal s g u, rfl, rfl, h15, h15', h40⟩,
      sreg_traps s g u⟩
  · obtain ⟨hbad, hok⟩ := h
    have hr : ∀ r : BitVec 10, f.sreg = r → f.sreg.toNat = r.toNat := fun _ => congrArg _
    have hwide : f.sreg = 0x020#10 ∨ f.sreg = 0x022#10 → c.syswVal u f = c.pair u f.v := by
      rintro (e | e) <;> simp [Ctx.syswVal, sregWide, sregInfo, hr _ e]
    have hnarrow : f.sreg = 0x030#10 ∨ f.sreg = 0x031#10 → c.syswVal u f = (c.val u f.v).setWidth 64 := by
      rintro (e | e) <;> simp [Ctx.syswVal, sregWide, sregInfo, hr _ e]
    refine ⟨fun e => ?_, fun e => ?_, fun l ls hl => ⟨fun e hw => ?_, fun e hw => ?_, fun e => ?_⟩, fun hn e => hbad ?_⟩
    · have := hok (by simp [Thread.badSysw, hr _ e])
      simpa [hnarrow (.inl e), hr _ e, Thread.setSreg] using this
    · have := hok (by simp [Thread.badSysw, hr _ e])
      simpa [hnarrow (.inr e), hr _ e, Thread.setSreg] using this
    · have := hok (by simpa [Thread.badSysw, hr _ e, hl, hwide (.inl e), bits] using hw)
      simpa [hwide (.inl e), hr _ e, Thread.setSreg, Thread.onTop, hl] using this
    · exact hbad (by simpa [Thread.badSysw, hr _ e, hl, hwide (.inl e), bits] using hw)
    · have := hok (by simp [Thread.badSysw, hr _ e, hl])
      simpa [hwide (.inr e), hr _ e, Thread.setSreg, Thread.onTop, hl] using this
    · rcases e with e | e <;> simp [Thread.badSysw, hr _ e, hn]

end Sys2Proof.Proofs
end

section
/-! SUPPORT. A launch that ends while a take still holds the bank of its DONE counter open (R30, R90, R298). -/

namespace Sys2Proof.Machine.LastExit

/-- A launch of one thread, with DONE at 0x800. -/
def launch : Launch :=
  { rec_ := { entry := 0, lo := 0, hi := 1, tvt := 0, rgns := 0, threads := 1, regs8 := 1, gang := 1, rows := 0, acc := 0,
              cls := 0, tenant := 0, nrgn := 0, pthr := 0, nuni := 0, rowh := 0, uimg := 0, done := 0x800, reserved := false },
    uimg := [], regions := [], seen := [0], ended := [], done := false, hidden := [] }

/-- Its one group, on core 0, with no region and no row slot. -/
def group : Group := Group.start 0 0 0 1 launch none [(0, 0, 1)] []

/-- Its one thread. -/
def thread : Thread := Thread.start 0 8 0 ⟨0, 0, 0⟩

/-- The thread's packet under way. -/
def issue : Ctx := Ctx.start 0 0 0 [0] ⟨0, 0, 0⟩ [] false

/-- A take by another group of core 0 that is under way from the row at 0x18000, of which eight beats are to come: as 0x800, that
row lies in bank 0 of column 0. -/
def take : Take :=
  { id := 7, core := 0, guid := 9, tid := 0, slot := 0, va := 0x18000, pa := 0x18000, dest := .staging, beat := 0, nextAt := 0,
    dead := [], data := [], bad := false, missed := [], batch := none, outcome := 0 }

/-- Tenant 0 with frame 0 mapped onto frame 0, readable and writable, and its stage-1 tree rooted at 0. -/
def tenant : Tenant := { Tenant.ofCfg TenantCfg.blank with stage2 := [(0, 7)] }

/-- The tree: tables at 0, 0x1000 and 0x2000, and in the one at 0x3000 a page of 2 MiB at 0. -/
def tree : List Host.Cell :=
  [(0, 0x01), (1, 0x10), (0x1000, 0x01), (0x1001, 0x20), (0x2000, 0x01), (0x2001, 0x30), (0x3000, 0x0F)]

/-- The machine as the thread's EXIT is under way. -/
def state : State :=
  { State.reset with ready := true, nextId := 10, mem := tree, groups := [(0, group)], launches := [(1, launch)],
                     tenants := [(0, tenant)], takes := [take], cur := some issue }

theorem inIssue : InIssue state issue group := ⟨rfl, rfl⟩

theorem acting : Acting state 0 issue group thread := ⟨rfl, rfl, by decide⟩

theorem memOk : MemOk state := ⟨rfl, by decide⟩

theorem done_place : state.xlateTables launch.rec_.tenant launch.rec_.done 1 = .ok 0x800 := by decide

/-- The bank of the counter serves no access while the take holds its row open. -/
theorem not_served : state.served 0x800 = false := by decide

/-- The signal-add is put off: it waits among those to be made again. -/
theorem dones_exit : (match exec .exit state with | .next t => t.dones | _ => []) = [⟨0, 0x800, 0, false⟩] := by decide

end Sys2Proof.Machine.LastExit

namespace Sys2Proof.Proofs

open Machine

/-- Refutes O24: the statement asks that no row slot holds a row open, but a take under way holds its row's bank as well (R90,
R298).  Where such a bank is that of the DONE counter, the signal-add waits, and the counter does not take 1 with the EXIT. -/
theorem not_threadExit : ¬ Obligations.ThreadExit := by
  unfold Obligations.ThreadExit
  intro h
  obtain ⟨t, ht, ho⟩ := h LastExit.state LastExit.issue LastExit.group LastExit.inIssue
  have dones : t.dones = [⟨0, 0x800, 0, false⟩] := by
    have := LastExit.dones_exit
    rwa [ht] at this
  cases ho with
  | next tid rest s m t hp hrest =>
    cases hrest
    obtain ⟨-, -, -, last⟩ := hp LastExit.issue LastExit.group LastExit.thread LastExit.acting
    have idle : LastExit.launch.done = false ∧ (∀ r ∈ LastExit.state.ranges, r.launch = LastExit.group.launch → r.b ≤ r.a) ∧
        (∀ p ∈ LastExit.state.groups, p.1 ≠ LastExit.issue.guid → p.2.launch ≠ LastExit.group.launch) ∧
        ∀ v ∈ LastExit.state.saved, v.group.launch ≠ LastExit.group.launch := by decide
    obtain ⟨-, ended⟩ := last rfl rfl rfl (by decide)
    obtain ⟨-, -, -, -, done⟩ := ended LastExit.launch (by decide) rfl rfl
    obtain ⟨e, -⟩ := done 0x800 idle (by decide) LastExit.done_place (by decide) rfl LastExit.memOk (by decide) (by decide)
    rw [e] at dones
    cases dones

end Sys2Proof.Proofs
end

section
/-! SUPPORT. A saved group whose guid stands in a list of groups that is not in rising order, where no look-up finds it: a wait of
that entry's is taken for its own as it resumes (R83, R172). -/

namespace Sys2Proof.Machine.DoubleEntry

/-- A launch of one thread, of class 1. -/
def launch : Launch :=
  { rec_ := { entry := 0, lo := 0, hi := 1, tvt := 0, rgns := 0, threads := 1, regs8 := 1, gang := 1, rows := 0, acc := 0,
              cls := 1, tenant := 0, nrgn := 0, pthr := 0, nuni := 0, rowh := 0, uimg := 0, done := 0, reserved := false },
    uimg := [], regions := [], seen := [], ended := [], done := false, hidden := [] }

/-- A group of it on core 0. -/
def group : Group := Group.start 0 0 0 1 launch none [(0, 0, 1)] []

/-- Its thread as it starts: Runnable, with no trap due. -/
def thread : Thread := Thread.start 0 8 0 ⟨0, 0, 0⟩

/-- The group in its save area. -/
def saved : Saved := { guid := 3, group := group, carried := [], bytes := 0, home := none, held := [], copies := [] }

/-- A group whose thread waits on the scratchpad line at 0x80000 of core 0, outside every region. -/
def waiting : Group :=
  group.onThread 0 fun u => { u with run := .parked (.line (padKey 0 0x80000)) ⟨0, 0, 0⟩ ⟨0, 0, 0⟩ }

def tenant : Tenant := Tenant.ofCfg { TenantCfg.blank with clusters := [0] }

/-- The waiting group stands as guid 3 behind a guid 5, where no look-up of 3 finds it. -/
def state : State :=
  { State.reset with ready := true, groups := [(5, group), (3, waiting)], saved := [saved], tenants := [(0, tenant)] }

theorem memOk : MemOk state := ⟨rfl, by decide⟩

theorem backOk : state.backOk saved 0 = true := by decide

/-- The resumed thread has a trap due: the line of the other entry's wait lies in none of its group's regions. -/
theorem due_resumed : (match exec (.resumption 3 0 true) state with
    | .next t => ((t.group 3).bind fun y => y.threads.head?).map fun u => u.due.isSome
    | _ => none) = some true := by decide

end Sys2Proof.Machine.DoubleEntry

namespace Sys2Proof.Proofs

open Machine

/-- Refutes O55: its second part, on resumption, holds of lists of groups in any order, and in one that is not rising an entry of the
saved group's own guid may stand where no look-up finds it.  Its threads' waits are then taken for those of the resumed group, and a
thread resumes with the trap of a line that it never waited for. -/
theorem not_preemptionAndFaults : ¬ Obligations.PreemptionAndFaults := by
  unfold Obligations.PreemptionAndFaults
  intro h
  obtain ⟨-, resumption, -⟩ := h
  obtain ⟨-, back, -⟩ := resumption DoubleEntry.state DoubleEntry.saved 0 DoubleEntry.tenant (by decide) rfl rfl
  obtain ⟨t, ht, y, hy, -, -, -, -, -, -, -, -, -, -, -, -, hthreads, -⟩ :=
    back DoubleEntry.backOk (by decide) DoubleEntry.memOk
  have due : ((t.group 3).bind fun y => y.threads.head?).map (fun u => u.due.isSome) = some true := by
    have := DoubleEntry.due_resumed
    rwa [show exec (.resumption 3 0 true) DoubleEntry.state = .next t from ht] at this
  rw [show t.group 3 = some y from hy] at due
  obtain ⟨w, hw, hdue⟩ := Option.map_eq_some_iff.1 due
  have h0 : y.threads[0]? = some w := by rwa [← List.head?_eq_getElem?]
  obtain ⟨e, -⟩ := hthreads 0 DoubleEntry.thread w (by decide) h0
  rw [e] at hdue
  cases hdue

end Sys2Proof.Proofs
end

section
/-! SUPPORT. What a slot chooses and begins (R11, R17, R41, R100, R192), and what a merge tick leaves of a group's bundles (R15,
R16). -/

namespace Sys2Proof.Machine

/-! ### The first of a list by an order -/

/-- No element of the list comes before the first by an order that is a strict weak one. -/
theorem firstBy_spec {α : Type} {before : α → α → Bool} (asymm : ∀ x y, before x y = true → before y x = false)
    (weak : ∀ x y z, before y x = false → before z y = false → before z x = false) {l : List α} {x : α}
    (h : firstBy before l = some x) : x ∈ l ∧ ∀ y ∈ l, before y x = false := by
  have irrefl : ∀ x, before x x = false := fun x => by
    by_contra e
    have e : before x x = true := by simpa using e
    exact absurd (asymm x x e) (by simp [e])
  induction l generalizing x with
  | nil => simp [firstBy] at h
  | cons a l ih =>
    rw [firstBy] at h
    split at h
    · next hn =>
      cases h
      have : l = [] := by
        cases l with
        | nil => rfl
        | cons b l =>
          rw [firstBy] at hn
          split at hn
          · simp at hn
          · split at hn <;> simp at hn
      subst this
      simp [irrefl]
    · next y hy =>
      obtain ⟨hm, hall⟩ := ih hy
      split at h <;> cases h
      · next hb => exact ⟨by simp [hm], List.forall_mem_cons.2 ⟨asymm _ _ hb, hall⟩⟩
      · next hb =>
        have hb : before y a = false := by simpa using hb
        exact ⟨by simp, List.forall_mem_cons.2 ⟨irrefl a, fun z hz => weak _ _ _ hb (hall z hz)⟩⟩

/-! ### The group, the entry and the bundle that a slot serves (R17, R41) -/

/-- R41: an aged group, of the most passes; where none has aged, one of the highest class, of those the oldest, then the least %gid. -/
theorem chooseGroup_spec {s : State} {slot : Nat} {cs : List (Nat × Group × List Entry)} {c : Nat × Group × List Entry}
    (h : s.chooseGroup slot cs = some c) : c ∈ cs ∧
      ((∃ d ∈ cs, 1024 ≤ nth d.2.1.passes slot) → 1024 ≤ nth c.2.1.passes slot ∧
        ∀ d ∈ cs, nth d.2.1.passes slot ≤ nth c.2.1.passes slot) ∧
      ((∀ d ∈ cs, nth d.2.1.passes slot < 1024) → ∀ d ∈ cs, d.2.1.rec_.cls ≤ c.2.1.rec_.cls ∧
        (d.2.1.rec_.cls = c.2.1.rec_.cls → s.oldestArrival slot c ≤ s.oldestArrival slot d ∧
          (s.oldestArrival slot c = s.oldestArrival slot d → c.2.1.gid ≤ d.2.1.gid))) := by
  dsimp only [State.chooseGroup] at h
  split at h
  · next hnone =>
    have young : ∀ d ∈ cs, nth d.2.1.passes slot < 1024 := by
      simpa [List.isEmpty_iff, List.filter_eq_nil_iff] using hnone
    obtain ⟨hm, hall⟩ := firstBy_spec (fun x y => by simp; omega) (fun x y z => by simp; omega) h
    refine ⟨hm, fun ⟨d, hd, ho⟩ => ?_, fun _ d hd => ?_⟩
    · have := young d hd; omega
    · have := hall d hd
      simp at this
      omega
  · next hsome =>
    obtain ⟨hm, hall⟩ := firstBy_spec (fun x y => by simp; omega) (fun x y z => by simp; omega) h
    obtain ⟨hc, hage⟩ : c ∈ cs ∧ 1024 ≤ nth c.2.1.passes slot := by simpa using hm
    refine ⟨hc, fun _ => ⟨hage, fun d hd => ?_⟩, fun hy => ?_⟩
    · by_cases ho : 1024 ≤ nth d.2.1.passes slot
      · have := hall d (by simpa using ⟨hd, ho⟩)
        simp at this
        omega
      · omega
    · have := hy c hc; omega

/-- R17: an entry that 64 issues have passed over, the one that reached 64 first; where there is none, one of the highest priority,
and of those the lowest packet and word. -/
theorem chooseEntry_spec {slot : Nat} {es : List Entry} {e : Entry} (h : chooseEntry slot es = some e) : e ∈ es ∧
    ((∃ f ∈ es, nth f.passes slot = 64) → nth e.passes slot = 64 ∧
      ∀ f ∈ es, nth f.passes slot = 64 → nth e.reached slot ≤ nth f.reached slot) ∧
    ((∀ f ∈ es, nth f.passes slot ≠ 64) → ∀ f ∈ es, f.point.prio.toNat ≤ e.point.prio.toNat ∧
      (f.point.prio = e.point.prio → e.point.pc < f.point.pc ∨ e.point.pc = f.point.pc ∧ e.point.word ≤ f.point.word)) := by
  simp only [chooseEntry, pointBefore, ← BitVec.toNat_inj] at h ⊢
  split at h
  · next hnone =>
    have young : ∀ f ∈ es, nth f.passes slot ≠ 64 := by
      simpa [List.isEmpty_iff, List.filter_eq_nil_iff] using hnone
    obtain ⟨hm, hall⟩ := firstBy_spec (fun x y => by simp; omega) (fun x y z => by simp; omega) h
    refine ⟨hm, fun ⟨f, hf, ho⟩ => absurd ho (young f hf), fun _ f hf => ?_⟩
    have := hall f hf
    simp at this
    omega
  · next hsome =>
    obtain ⟨hm, hall⟩ := firstBy_spec (fun x y => by simp; omega) (fun x y z => by simp; omega) h
    obtain ⟨he, hage⟩ : e ∈ es ∧ nth e.passes slot = 64 := by simpa using hm
    refine ⟨he, fun _ => ⟨hage, fun f hf ho => ?_⟩, fun hy => absurd hage (hy e he)⟩
    have := hall f (by simpa using ⟨hf, ho⟩)
    simp at this
    omega

/-- R17: a ready bundle of the entry that is oldest. -/
theorem chooseBundle_spec {s : State} {k : Nat} {g : Group} {slot : Nat} {e : Entry} {b : Bundle}
    (h : s.chooseBundle k g slot e = some b) : b ∈ g.bundles ∧ b.slot = slot ∧ g.bundlePoint b = some e.point ∧
      ∀ d ∈ s.readyBundles k g slot e, g.bundleArrival b ≤ g.bundleArrival d := by
  simp only [State.chooseBundle] at h
  obtain ⟨hm, hall⟩ := firstBy_spec (fun x y => by simp; omega) (fun x y z => by simp; omega) h
  obtain ⟨hb, ⟨hslot, hpoint⟩, -⟩ : b ∈ g.bundles ∧ (b.slot = slot ∧ g.bundlePoint b = some e.point) ∧ _ := by
    simpa [State.readyBundles] using hm
  refine ⟨hb, hslot, hpoint, fun d hd => ?_⟩
  have := hall d hd
  simp at this
  omega

/-- The choice of a slot that may issue (R17, R41). -/
theorem exec_issueSlotSelect_closed {s : State} {core slot : Nat} (h : s.slotOpen core slot = false ∨ 4 ≤ slot) :
    exec (.issueSlotSelect core slot) s = .next s := by
  refine congrArg Host.Outcome.next (if_pos ?_)
  simpa using h

theorem exec_issueSlotSelect_open {s : State} {core slot : Nat} (h : s.slotOpen core slot = true) (hs : slot < 4) :
    let s1 := (s.gatherCore core).endHoldsOn core slot
    let cs := s1.slotGroups core slot
    exec (.issueSlotSelect core slot) s = .next (match s1.chooseGroup slot cs with
      | none => s1
      | some c => (s1.countGroups slot c.1 cs).serve slot c) := by
  refine congrArg Host.Outcome.next (if_neg ?_)
  simp [h]
  omega

/-! ### The bundles that a tick makes of a list of threads (R15) -/

/-- The elements of a list, each once, after those of another. -/
theorem mem_foldl_distinct {α : Type} [BEq α] [LawfulBEq α] {x : α} (xs l : List α) :
    x ∈ xs.foldl (fun l y => if l.contains y then l else l ++ [y]) l ↔ x ∈ l ∨ x ∈ xs := by
  induction xs generalizing l with
  | nil => simp
  | cons a xs ih =>
    rw [List.foldl_cons, ih]
    split
    · next ha =>
      have ha : a ∈ l := by simpa using ha
      simp only [List.mem_cons]
      exact ⟨fun h => h.imp id .inr, fun h => h.elim .inl fun h => h.elim (fun e => .inl (e ▸ ha)) .inr⟩
    · simp only [List.mem_append, List.mem_cons, List.not_mem_nil, or_false]
      exact or_assoc

theorem mem_quadsAt {ts : List Nat} {k q : Nat} : q ∈ quadsAt ts k ↔ (∃ t ∈ ts, t / 4 = q) ∧ q % 8 = k := by
  rw [quadsAt, List.mem_filter, mem_foldl_distinct]
  simp [(perm_sortBy _ ts).mem_iff]

theorem le_foldl_length {ls : List (List Nat)} {l : List Nat} (h : l ∈ ls) (n : Nat) :
    l.length ≤ ls.foldl (fun m l => max m l.length) n := by
  have mono : ∀ (ls : List (List Nat)) n, n ≤ ls.foldl (fun m l => max m l.length) n := fun ls n =>
    List.foldlRecOn (motive := fun m => n ≤ m) ls _ le_rfl fun m hm l _ => le_trans hm (le_max_left ..)
  induction ls generalizing n with
  | nil => simp at h
  | cons a ls ih =>
    rw [List.foldl_cons]
    rcases List.mem_cons.1 h with rfl | h
    · exact le_trans (le_max_right ..) (mono ls _)
    · exact ih h _

/-- No two threads of a list stand in different quads of one position. -/
def OneQuadEach (ts : List Nat) : Prop := ∀ i ∈ ts, ∀ j ∈ ts, i / 4 % 8 = j / 4 % 8 → i / 4 = j / 4

theorem mem_remadeBundles {slot : Nat} {ts : List Nat} {b : Bundle} (h : b ∈ remadeBundles slot ts) :
    b.slot = slot ∧ b.collective = false ∧ (∀ i ∈ b.tids, i ∈ ts) ∧ OneQuadEach b.tids := by
  simp only [remadeBundles, List.mem_map] at h
  obtain ⟨j, -, rfl⟩ := h
  have member : ∀ i, (i ∈ ((List.range 8).map (quadsAt ts)).flatMap fun l => match l[j]? with
      | some q => (upFrom (4 * q) 4).filter ts.contains
      | none => []) → i ∈ ts ∧ (quadsAt ts (i / 4 % 8))[j]? = some (i / 4) := by
    intro i hi
    simp only [List.mem_flatMap, List.mem_map] at hi
    obtain ⟨l, ⟨k, -, rfl⟩, hi⟩ := hi
    split at hi
    · next q hq =>
      obtain ⟨⟨n, hn, rfl⟩, ht⟩ : (∃ n < 4, 4 * q + n = i) ∧ i ∈ ts := by simpa [upFrom] using hi
      obtain ⟨-, rfl⟩ := mem_quadsAt.1 (List.mem_of_getElem? hq)
      exact ⟨ht, by rwa [show (4 * q + n) / 4 = q by omega]⟩
    · simp at hi
  refine ⟨rfl, rfl, fun i hi => (member i hi).1, fun i hi k hk e => ?_⟩
  have h1 := (member i hi).2
  rw [e, (member k hk).2] at h1
  exact (Option.some.inj h1).symm

theorem exists_remadeBundle {slot : Nat} {ts : List Nat} {t : Nat} (h : t ∈ ts) :
    ∃ b ∈ remadeBundles slot ts, b.slot = slot ∧ t ∈ b.tids := by
  have hq : t / 4 ∈ quadsAt ts (t / 4 % 8) := mem_quadsAt.2 ⟨⟨t, h, rfl⟩, rfl⟩
  obtain ⟨j, hj, e⟩ := List.mem_iff_getElem.1 hq
  have hl : quadsAt ts (t / 4 % 8) ∈ (List.range 8).map (quadsAt ts) :=
    List.mem_map_of_mem (List.mem_range.2 (Nat.mod_lt _ (by omega)))
  simp only [remadeBundles]
  refine ⟨_, List.mem_map_of_mem (List.mem_range.2 (lt_of_lt_of_le hj (le_foldl_length hl 0))), rfl, ?_⟩
  refine List.mem_flatMap.2 ⟨_, hl, ?_⟩
  rw [List.getElem?_eq_getElem hj, e]
  simp only [upFrom, List.mem_filter, List.mem_map, List.mem_range, List.contains_eq_mem, decide_eq_true_eq]
  exact ⟨⟨t % 4, by omega, by omega⟩, h⟩

/-! ### A merge tick of one group -/

/-- A bundle that a tick may remake stands in a slot at a point. -/
def Group.looseAt (g : Group) (slot : Nat) (p : Point) (b : Bundle) : Prop :=
  b.slot = slot ∧ b.collective = false ∧ g.bundlePoint b = some p

/-- All threads of a bundle stand at one word, no two in different quads of one position. -/
def Group.alike (g : Group) (b : Bundle) : Prop :=
  OneQuadEach b.tids ∧ ∀ i ∈ b.tids, ∀ j ∈ b.tids, (g.thread i).map (·.word) = (g.thread j).map (·.word)

theorem remakeAt_rest (g : Group) (slot : Nat) (p : Point) :
    g.remakeAt slot p = { g with bundles := (g.remakeAt slot p).bundles } := by
  simp only [Group.remakeAt]
  split <;> rfl

theorem mem_loose {g : Group} {slot : Nat} {p : Point} {t : Nat} :
    t ∈ g.loose slot p ↔ ∃ b ∈ g.bundles, g.looseAt slot p b ∧ t ∈ b.tids := by
  simp [Group.loose, Group.looseAt, and_assoc]

/-- A bundle that stands where the tick remakes holds a thread. -/
theorem tids_of_looseAt {g : Group} {slot : Nat} {p : Point} {b : Bundle} (h : g.looseAt slot p b) : ∃ t, t ∈ b.tids := by
  obtain ⟨-, -, hp⟩ := h
  rw [Group.bundlePoint] at hp
  obtain ⟨t, ht, -⟩ := Option.bind_eq_some_iff.1 hp
  exact ⟨t, List.mem_of_mem_head? ht⟩

/-- The bundles that one slot of one point remade leaves: those that do not stand there, and new ones, each of threads at a word. -/
theorem mem_remakeAt {g : Group} {slot : Nat} {p : Point} {b : Bundle} : b ∈ (g.remakeAt slot p).bundles ↔
    b ∈ g.bundles ∧ ¬ g.looseAt slot p b ∨
      ∃ w < 3, b ∈ remadeBundles slot ((g.loose slot p).filter fun t => decide ((g.thread t).map (·.word) = some w)) := by
  simp only [Group.remakeAt]
  split
  · next he =>
    have he : g.loose slot p = [] := by simpa using he
    have none : ∀ b ∈ g.bundles, ¬ g.looseAt slot p b := fun b hb hl => by
      obtain ⟨t, ht⟩ := tids_of_looseAt hl
      have := mem_loose.2 ⟨b, hb, hl, ht⟩
      rw [he] at this
      simp at this
    have empty : ∀ b, b ∉ remadeBundles slot [] := fun b => List.not_mem_nil
    simp only [he, List.filter_nil, empty, and_false, exists_false, or_false]
    exact ⟨fun hb => ⟨hb, none b hb⟩, fun hb => hb.1⟩
  · simp only [List.mem_append, List.mem_filter, List.mem_flatMap, List.mem_range]
    refine or_congr (and_congr_right fun _ => ?_) Iff.rfl
    simp only [Group.looseAt]
    cases b.collective <;> simp [imp_iff_not_or]

/-- What remaking the bundles of some slots and points leaves of a group: its bundles alone are others; a collective one stands; a
thread has one in the slots where it had one; one that is new, or stood at one of the slots and points, is alike. -/
structure Remade (h : Group) (done : Nat → Point → Prop) (g : Group) : Prop where
  rest : g = { h with bundles := g.bundles }
  whole : ∀ b ∈ h.bundles, b.collective = true → b ∈ g.bundles
  cover : ∀ slot tid, (∃ b ∈ h.bundles, b.slot = slot ∧ tid ∈ b.tids) ↔ ∃ b ∈ g.bundles, b.slot = slot ∧ tid ∈ b.tids
  words : ∀ b ∈ g.bundles, b.collective = false → ∀ i ∈ b.tids, ∃ u, h.thread i = some u ∧ u.word < 3
  alike : ∀ b ∈ g.bundles, b.collective = false →
    b ∈ h.bundles ∧ (∀ p, h.bundlePoint b = some p → ¬ done b.slot p) ∨ h.alike b

/-- One more slot of a point remade. -/
theorem Remade.step {h g : Group} {done : Nat → Point → Prop} (r : Remade h done g) (slot : Nat) (p : Point) :
    Remade h (fun i q => done i q ∨ i = slot ∧ q = p) (g.remakeAt slot p) := by
  have hthread : ∀ i, g.thread i = h.thread i := fun i => by rw [r.rest]; rfl
  have hpoint : ∀ b, g.bundlePoint b = h.bundlePoint b := fun b => by rw [r.rest]; rfl
  have fresh : ∀ (w : Nat) (b : Bundle), b ∈ remadeBundles slot ((g.loose slot p).filter fun t =>
      decide ((g.thread t).map (·.word) = some w)) → b.slot = slot ∧ b.collective = false ∧ OneQuadEach b.tids ∧
        ∀ i ∈ b.tids, i ∈ g.loose slot p ∧ (h.thread i).map (·.word) = some w := fun w b hb => by
    obtain ⟨hs, hc, hm, hq⟩ := mem_remadeBundles hb
    exact ⟨hs, hc, hq, fun i hi => by simpa [hthread] using hm i hi⟩
  have looseWord : ∀ t ∈ g.loose slot p, ∃ u, h.thread t = some u ∧ u.word < 3 := fun t ht => by
    obtain ⟨b, hb, ⟨-, hc, -⟩, ht⟩ := mem_loose.1 ht
    exact r.words b hb hc t ht
  refine ⟨?_, fun b hb hc => ?_, fun sl tid => (r.cover sl tid).trans ⟨?_, ?_⟩, fun b hb hc i hi => ?_, fun b hb hc => ?_⟩
  · rw [remakeAt_rest, r.rest]
  · exact mem_remakeAt.2 (.inl ⟨r.whole b hb hc, fun ⟨_, hn, _⟩ => by rw [hc] at hn; cases hn⟩)
  · rintro ⟨b, hb, rfl, ht⟩
    by_cases hl : g.looseAt slot p b
    · have hmem := mem_loose.2 ⟨b, hb, hl, ht⟩
      obtain ⟨u, hu, hw⟩ := looseWord tid hmem
      have hmem : tid ∈ (g.loose slot p).filter fun t => decide ((g.thread t).map (·.word) = some u.word) := by
        simpa [hthread, hu] using hmem
      obtain ⟨d, hd, hds, hdt⟩ := exists_remadeBundle (slot := slot) hmem
      exact ⟨d, mem_remakeAt.2 (.inr ⟨u.word, hw, hd⟩), hds.trans hl.1.symm, hdt⟩
    · exact ⟨b, mem_remakeAt.2 (.inl ⟨hb, hl⟩), rfl, ht⟩
  · rintro ⟨b, hb, rfl, ht⟩
    rcases mem_remakeAt.1 hb with ⟨hb, -⟩ | ⟨w, -, hb⟩
    · exact ⟨b, hb, rfl, ht⟩
    · obtain ⟨hs, -, -, hm⟩ := fresh w b hb
      obtain ⟨d, hd, hl, hdt⟩ := mem_loose.1 (hm tid ht).1
      exact ⟨d, hd, hl.1.trans hs.symm, hdt⟩
  · rcases mem_remakeAt.1 hb with ⟨hb, -⟩ | ⟨w, -, hb⟩
    · exact r.words b hb hc i hi
    · obtain ⟨-, -, -, hm⟩ := fresh w b hb
      exact looseWord i (hm i hi).1
  · rcases mem_remakeAt.1 hb with ⟨hb, hn⟩ | ⟨w, -, hb⟩
    · refine (r.alike b hb hc).imp_left fun ⟨hh, hd⟩ => ⟨hh, fun q hq => ?_⟩
      rintro (hdone | ⟨hs, rfl⟩)
      · exact hd q hq hdone
      · exact hn ⟨hs, hc, (hpoint b).trans hq⟩
    · obtain ⟨-, -, hq, hm⟩ := fresh w b hb
      exact .inr ⟨hq, fun i hi j hj => (hm i hi).2.trans (hm j hj).2.symm⟩

/-- Slot after slot of a point remade. -/
theorem Remade.slots {h : Group} (is : List Nat) (p : Point) {done : Nat → Point → Prop} {g : Group} (r : Remade h done g) :
    Remade h (fun i q => done i q ∨ i ∈ is ∧ q = p) (is.foldl (fun (h : Group) i => h.remakeAt i p) g) := by
  induction is generalizing done g with
  | nil => simpa using r
  | cons i is ih => simpa only [List.foldl_cons, List.mem_cons, or_and_right, or_assoc] using ih (r.step i p)

/-- The four slots of each of a list of entries remade. -/
theorem Remade.entries {h : Group} (es : List Entry) {done : Nat → Point → Prop} {g : Group} (r : Remade h done g) :
    Remade h (fun i q => done i q ∨ i < 4 ∧ ∃ e ∈ es, q = e.point)
      (es.foldl (fun (h : Group) e => (List.range 4).foldl (fun (h : Group) i => h.remakeAt i e.point) h) g) := by
  induction es generalizing done g with
  | nil => simpa using r
  | cons e es ih =>
    simpa only [List.foldl_cons, List.mem_range, List.mem_cons, exists_eq_or_imp, and_or_left, or_assoc] using ih (r.slots (List.range 4) e.point)

/-- A merge tick of a group whose bundles that are not collective stand in the four slots at its entries (R15). -/
theorem merged_spec {h : Group} (hb : ∀ b ∈ h.bundles, b.collective = false → b.slot < 4 ∧
      (∃ e ∈ h.entries, h.bundlePoint b = some e.point) ∧ ∀ i ∈ b.tids, ∃ u, h.thread i = some u ∧ u.word < 3) :
    let y := h.merged
    y = { h with bundles := y.bundles } ∧ (∀ b ∈ h.bundles, b.collective = true → b ∈ y.bundles) ∧
    (∀ slot tid, (∃ b ∈ h.bundles, b.slot = slot ∧ tid ∈ b.tids) ↔ ∃ b ∈ y.bundles, b.slot = slot ∧ tid ∈ b.tids) ∧
    ∀ b ∈ y.bundles, b.collective = false → h.alike b := by
  have start : Remade h (fun _ _ => False) h :=
    ⟨rfl, fun _ hb _ => hb, fun _ _ => Iff.rfl, fun b hm hc => (hb b hm hc).2.2, fun b hm _ => .inl ⟨hm, fun _ _ => id⟩⟩
  have r := start.entries h.entries
  refine ⟨r.rest, r.whole, r.cover, fun b hm hc => (r.alike b hm hc).resolve_left ?_⟩
  rintro ⟨hm, hn⟩
  obtain ⟨hs, ⟨e, he, hp⟩, -⟩ := hb b hm hc
  exact hn _ hp (.inr ⟨hs, e, he, rfl⟩)

end Sys2Proof.Machine
end

section
/-! SUPPORT. A packet begins (R100, R192): what its fetch reads, and what the beginning leaves of its slot and its group. -/

namespace Sys2Proof.Machine

/-! ### Fetches read neither groups nor slots -/

/-- Nothing of the machine but its groups and cores differs, and in a core neither the translation cache nor the instruction cache. -/
structure KeepsCaches (core : Nat) (s t : State) : Prop where
  rest : t = { s with groups := t.groups, cores := t.cores }
  tlb : (t.core core).tlb = (s.core core).tlb
  icache : (t.core core).icache = (s.core core).icache

section
variable {core : Nat} {s t : State} (h : KeepsCaches core s t)
include h

theorem KeepsCaches.walkFrom (tenant va level table : Nat) : t.walkFrom tenant va level table = s.walkFrom tenant va level table := by
  rw [h.rest]
  induction level generalizing table with
  | zero => rfl
  | succ level ih => simp only [State.walkFrom, ih]; rfl

theorem KeepsCaches.walkNow (tenant va : Nat) : t.walkNow tenant va = s.walkNow tenant va := by
  simp only [State.walkNow, h.walkFrom, show t.tenant tenant = s.tenant tenant by rw [h.rest]; rfl]

theorem KeepsCaches.xlate (tenant va access : Nat) : t.xlate core tenant va access = s.xlate core tenant va access := by
  simp only [State.xlate, h.tlb]

theorem KeepsCaches.xlateEng (tenant va access : Nat) : t.xlateEng core tenant va access = s.xlateEng core tenant va access := by
  have peered : ∀ r, t.peered r = s.peered r := fun r => by rw [h.rest]; rfl
  simp only [State.xlateEng, State.xlateTables, h.xlate, h.walkNow, peered]

theorem KeepsCaches.fetchBy {g : Group} (hg : g.core = core) (pc : Nat) (x : Nat → Xl) : t.fetchBy g pc x = s.fetchBy g pc x := by
  have cached : t.cached g.core g.launch pc = s.cached g.core g.launch pc := by rw [State.cached, hg, h.icache]; rfl
  have peer : ∀ k, t.peerFault k = s.peerFault k := fun k => by rw [h.rest]; rfl
  have bad : ∀ k n, t.badAt k n = s.badAt k n ∧ t.readBad g.core k n = s.readBad g.core k n := fun k n => by
    rw [h.rest]; exact ⟨rfl, rfl⟩
  have bytes : ∀ hidden va p q, t.packetBytes hidden va p q = s.packetBytes hidden va p q := fun hidden va p q => by rw [h.rest]; rfl
  have launches : t.launches = s.launches := by rw [h.rest]
  simp only [State.fetchBy, cached, peer, bad, bytes, launches]

theorem KeepsCaches.fetchFor {g : Group} (hg : g.core = core) (p : Point) : t.fetchFor g p = s.fetchFor g p := by
  subst hg
  have fetch : ∀ pc, t.fetch g pc = s.fetch g pc := fun pc => by simp only [State.fetch, h.fetchBy rfl, h.xlate]
  simp only [State.fetchFor, State.aheadFault, fetch, h.xlateEng]

end

/-! ### The beginning of a packet -/

theorem askRun_rest (s : State) (tenant : Nat) (ps : List Nat) :
    s.askRun tenant ps = { s with peerOut := (s.askRun tenant ps).peerOut } :=
  List.foldlRecOn (motive := fun t : State => t = { s with peerOut := t.peerOut }) _ _ rfl fun t ht e _ => by
    obtain ⟨k, n⟩ := e
    rw [ht]
    rfl

/-- What a fetched packet leaves: all but the requests to peers and one core's instruction cache stands. -/
theorem fetched_rest (s : State) (g : Group) (pc : Nat) (bs : List Byte) : let t := s.fetched g pc bs
    t = { s with peerOut := t.peerOut, cores := t.cores } ∧
      t.core g.core = { s.core g.core with icache := (t.core g.core).icache } := by
  simp only [State.fetched, State.cache]
  rw [askRun_rest]
  split
  · exact ⟨rfl, rfl⟩
  · refine ⟨rfl, ?_⟩
    rw [core_setCore_self]
    rfl

theorem fetch_of_fetchFor {s : State} {g : Group} {p : Point} {bs : List Byte} (h : s.fetchFor g p = .ok bs) :
    s.fetch g p.pc = .ok bs := by
  rw [State.fetchFor] at h
  split at h
  · next b hb =>
    split at h <;> cases h
    exact hb
  · next hn => exact absurd h (hn bs)

/-- A packet in the cache is what a fetch gives. -/
theorem eq_of_cached {s : State} {g : Group} {pc : Nat} {bs b : List Byte} (h : s.fetch g pc = .ok bs)
    (hc : s.cached g.core g.launch pc = some b) : b = bs := by
  simp only [State.fetch, State.fetchBy, hc] at h
  split at h <;> simp_all

/-- A fetched packet is in the cache. -/
theorem cached_fetched {s : State} {g : Group} {pc : Nat} {bs : List Byte} (h : s.fetch g pc = .ok bs) :
    (s.fetched g pc bs).cached g.core g.launch pc = some bs := by
  have same : ∀ ps, (s.askRun g.rec_.tenant ps).cached g.core g.launch pc = s.cached g.core g.launch pc := fun ps => by
    rw [askRun_rest]; rfl
  simp only [State.fetched, State.cache, same]
  cases hc : s.cached g.core g.launch pc with
  | some b =>
    rw [if_pos Option.isSome_some, same, hc, eq_of_cached h hc]
  | none =>
    have hn : ((s.askRun g.rec_.tenant (s.fetchPlaces g pc)).core g.core).icache.find?
        (fun x => decide (x.1 = g.launch) && decide (x.2.1 = pc)) = none := by
      have := same (s.fetchPlaces g pc)
      rw [hc] at this
      exact Option.map_eq_none_iff.1 this
    rw [if_neg (by simp), State.cached, core_setCore_self]
    show Option.map _ (List.find? _ (_ ++ _)) = _
    rw [List.find?_append]
    erw [hn]
    simp

/-- A slot that issues keeps the caches of its core. -/
theorem keepsCaches_occupySlot (s : State) (f : Group → Group) (k core slot : Nat) :
    KeepsCaches core s ((s.onGroup k f).occupySlot core slot) := by
  rw [onGroup_rest]
  refine ⟨rfl, ?_, ?_⟩ <;> simp only [State.occupySlot, core_setCore_self] <;> rfl

/-- A list sorted by a total order is in that order, equal elements as well. -/
theorem pairwise_sortBy_total {α : Type} {le : α → α → Bool} (tr : ∀ a b c, le a b = true → le b c = true → le a c = true)
    (tot : ∀ a b, le a b = false → le b a = true) (l : List α) : (sortBy le l).Pairwise fun a b => le a b = true := by
  induction l with
  | nil => exact .nil
  | cons x l ih =>
    rw [sortBy]
    generalize sortBy le l = m at ih
    induction m with
    | nil => simp [insertBy]
    | cons y m ihm =>
      obtain ⟨hy, hm⟩ := List.pairwise_cons.1 ih
      rw [insertBy]
      split
      · next hxy => exact List.pairwise_cons.2 ⟨List.forall_mem_cons.2 ⟨hxy, fun z hz => tr _ _ _ hxy (hy z hz)⟩, ih⟩
      · next hxy =>
        refine List.pairwise_cons.2 ⟨fun z hz => ?_, ihm hm⟩
        rcases List.mem_cons.1 ((perm_insertBy le x m).mem_iff.1 hz) with rfl | hz
        · exact tot _ _ (by simpa using hxy)
        · exact hy z hz

/-- An issue's threads stand in ascending home lane. -/
theorem pairwise_laneOf_sortBy (l : List Nat) :
    ((sortBy (fun a b => decide (laneOf a ≤ laneOf b)) l).map (· % 32)).Pairwise (· ≤ ·) := by
  rw [List.pairwise_map]
  refine (pairwise_sortBy_total (fun a b c => ?_) (fun a b => ?_) l).imp fun h => of_decide_eq_true h
  · simp only [decide_eq_true_eq]
    exact le_trans
  · simp only [decide_eq_true_eq, decide_eq_false_iff_not]
    exact le_of_not_ge

/-- The state once a bundle has left its group and its slot has issued. -/
def State.taken (s : State) (k core : Nat) (b : Bundle) : State :=
  (s.onGroup k fun x => { x with bundles := x.bundles.filter fun q => decide (q ≠ b) }).occupySlot core b.slot

theorem keepsCaches_taken (s : State) (k core : Nat) (b : Bundle) : KeepsCaches core s (s.taken k core b) :=
  keepsCaches_occupySlot s _ k core b.slot

theorem core_taken (s : State) (k core : Nat) (b : Bundle) : (s.taken k core b).core core = { s.core core with
    slotAt := setAt (s.core core).slotAt b.slot (s.clock core + if (s.column core).neigh then 2 else 1)
    turn := (s.clock core + 1, b.slot) } := by
  rw [State.taken, onGroup_rest, State.occupySlot, core_setCore_self]
  rfl

theorem group_taken {s : State} {k : Nat} {g : Group} (hg : s.group k = some g) (core : Nat) (b : Bundle) :
    (s.taken k core b).group k = some { g with bundles := g.bundles.filter fun d => decide (d ≠ b) } := by
  show State.group (s.onGroup k _) k = _
  rw [group_onGroup, if_pos rfl, hg]
  rfl

/-- The packet of a bundle with no trap due begins once its fetch gives its bytes. -/
theorem begin_eq {s : State} {k : Nat} {g : Group} {b : Bundle} {p : Point} {bs : List Byte} (hg : s.group k = some g)
    (hp : g.bundleHere b = some p) (hd : ∀ t ∈ b.tids, ∀ u, g.thread t = some u → u.due = none)
    (hf : s.fetchFor g p = .ok bs) :
    s.begin k b = { (s.taken k g.core b).fetched g p.pc bs with
      cur := some { Ctx.start g.core b.slot k b.tids p bs ((s.taken k g.core b).produces g p bs) with
        collective := b.collective } } := by
  have due : b.tids.filter (fun t => ((g.thread t).bind (·.due)).isSome) = [] := by
    rw [List.filter_eq_nil_iff]
    intro t ht
    cases hu : g.thread t with
    | none => simp
    | some u => simp [hd t ht u hu]
  have fetch : (s.taken k g.core b).fetchFor g p = .ok bs := ((keepsCaches_taken s k g.core b).fetchFor rfl p).trans hf
  simp only [State.begin, hg, hp, due, List.isEmpty_nil, Bool.not_true, Bool.false_eq_true, if_false]
  rw [← State.taken, fetch]

/-- What the beginning of a packet leaves (R100, R192). -/
theorem begin_spec {s : State} {k : Nat} {g : Group} {b : Bundle} {p : Point} {bs : List Byte} (hg : s.group k = some g)
    (hp : g.bundleHere b = some p) (hd : ∀ t ∈ b.tids, ∀ u, g.thread t = some u → u.due = none)
    (hf : s.fetchFor g p = .ok bs) :
    ∃ (c : Ctx) (y : Group), (s.begin k b).cached g.core g.launch p.pc = some bs ∧
      (s.begin k b).cur = some c ∧ c.guid = k ∧ c.core = g.core ∧
      c.slot = b.slot ∧ c.pc = p.pc ∧ c.first = p.word ∧ c.bytes = bs ∧ c.active.Perm b.tids ∧ c.collective = b.collective ∧
      (c.active.map fun t => t % 32).Pairwise (· ≤ ·) ∧ (s.begin k b).group k = some y ∧
      y = { g with bundles := g.bundles.filter fun d => decide (d ≠ b) } ∧
      (b.slot < ((s.core g.core).slotAt).length → ((s.begin k b).core g.core).slotAt.getD b.slot 0 =
        s.clock g.core + if (s.column g.core).neigh then 2 else 1) ∧
      ((s.begin k b).core g.core).turn = (s.clock g.core + 1, b.slot) := by
  have e := begin_eq hg hp hd hf
  have hm := keepsCaches_taken s k g.core b
  have hcore := core_taken s k g.core b
  have hgroup := group_taken hg g.core b
  generalize s.taken k g.core b = m at e hm hcore hgroup
  have hcached := cached_fetched (fetch_of_fetchFor ((hm.fetchFor rfl p).trans hf))
  obtain ⟨hrest, hcore'⟩ := fetched_rest m g p.pc bs
  generalize m.fetched g p.pc bs = t at e hcached hrest hcore'
  have hx : ∀ j, (s.begin k b).core j = t.core j := fun j => by rw [e]; rfl
  have hgroup' : (s.begin k b).group k = t.group k := by rw [e]; rfl
  refine ⟨_, _, ?_, (congrArg State.cur e :), rfl, rfl, rfl, rfl, rfl, rfl,
    perm_sortBy _ _, rfl, pairwise_laneOf_sortBy _, hgroup'.trans ?_, rfl, fun hl => ?_, ?_⟩
  · rwa [State.cached, hx]
  · rw [hrest]
    exact hgroup
  · rw [hx, hcore', hcore]
    exact (getD_setAt _ _ _ _ _ hl).trans (if_pos rfl)
  · rw [hx, hcore', hcore]

/-! ### A merge tick of a core (R15, R175) -/

theorem exec_mergeTick_early {s : State} {core : Nat} (h : s.clock core % 8 ≠ 0) : exec (.mergeTick core) s = .next s :=
  congrArg Host.Outcome.next (if_pos (by simp [State.tickDue, h]))

theorem group_mergeTick {s : State} {k : Nat} {g : Group} (hg : s.group k = some g) (core : Nat) :
    State.group { s with groups := s.groups.map fun (k, g) =>
      (k, if g.core = core ∧ g.halted = false then (s.gatherGroup g).merged else g) } k =
      some (if g.core = core ∧ g.halted = false then (s.gatherGroup g).merged else g) :=
  (mget_map (fun g : Group => if g.core = core ∧ g.halted = false then (s.gatherGroup g).merged else g) s.groups k).trans
    (congrArg (Option.map _) hg)

end Sys2Proof.Machine

namespace Sys2Proof.Proofs

open Machine

/-- Settles O53: the choices by the first of a list in an order; the beginning of a packet by what its fetch reads; a merge tick
slot by slot and entry by entry. -/
theorem issueSlotsAndMergeTicks : Obligations.IssueSlotsAndMergeTicks := by
  unfold Obligations.IssueSlotsAndMergeTicks
  refine ⟨fun s core slot => ⟨exec_issueSlotSelect_closed, fun ho hs => ?_⟩, fun _ _ _ _ h => chooseGroup_spec h,
    fun _ _ _ h => chooseEntry_spec h, fun _ _ _ _ _ _ h => chooseBundle_spec h,
    fun _ _ _ _ _ _ hg hp hd hf => begin_spec hg hp hd hf, fun s core => ⟨fun hc => ?_, fun hc => ⟨_, rfl, ?_⟩⟩⟩
  · intro s1 cs
    rw [exec_issueSlotSelect_open ho hs]
    refine ⟨fun hn => ?_, fun k g es e b hc he => ?_⟩
    · rw [show ((s.gatherCore core).endHoldsOn core slot).slotGroups core slot = [] from hn]
      rfl
    · intro s2 hb
      rw [show ((s.gatherCore core).endHoldsOn core slot).chooseGroup slot _ = some (k, g, es) from hc]
      simp only [State.serve, he]
      rw [show ((((s.gatherCore core).endHoldsOn core slot).countGroups slot k _).chooseBundle k g slot e) = some b from hb]
  · exact exec_mergeTick_early hc
  · rw [if_neg (by simp [State.tickDue, hc])]
    refine ⟨rfl, fun k g hg => ?_⟩
    rw [group_mergeTick hg]
    refine ⟨fun hn => congrArg some (if_neg ?_), fun hcore hhalt => ?_⟩
    · rintro ⟨h1, h2⟩
      simp [h1, h2] at hn
    · intro h hb
      obtain ⟨hrest, hwhole, hcover, halike⟩ := merged_spec hb
      exact ⟨_, congrArg some (if_pos ⟨hcore, hhalt⟩), hrest, hwhole, hcover, fun b hm hc i hi j hj =>
        ⟨(halike b hm hc).2 i hi j hj, (halike b hm hc).1 i hi j hj⟩⟩

end Sys2Proof.Proofs
end

section
/-! SUPPORT. An issue as it is read, gathered, and run (R22, R23, R161, R187 to R192, R208). -/

namespace Sys2Proof.Machine

/-! ### Reading an issue -/

/-- An issue read from a word that decodes.  The decoder and the fuel stand as variables while the recursion unfolds, so that the
kernel does not evaluate the decoder on an unknown word. -/
theorem readIssue_succ {n : Nat} {bytes : List Byte} {fuel k : Nat} {i : Instr} (hd : decodeAt n bytes k = .ok i) :
    readIssue n bytes (fuel + 1) k =
      let next := k + instrWords i
      let chained := chainBit (wordOfBytes bytes k)
      let bad : List (Nat × Byte) :=
        if (i.isTransfer && decide (next ≠ 3)) || (chained && decide (next = 3)) then [(k, 0x01)] else []
      if chained && decide (next < 3) then
        let r := readIssue n bytes fuel next
        { r with is := (k, i) :: r.is, bad := bad ++ r.bad }
      else { is := [(k, i)], after := next, bad := bad } := by
  obtain ⟨fuel', hf⟩ : ∃ x, x = fuel + 1 := ⟨_, rfl⟩
  rw [← hf]
  delta readIssue readIssue._f
  obtain ⟨dec, hdec⟩ : ∃ dec, dec = decodeAt n bytes := ⟨_, rfl⟩
  rw [← hdec] at hd ⊢
  subst hf
  simp only [hd]

theorem readIssue_of_issueWords {n : Nat} {bytes : List Byte} {k after : Nat} {is : List (Nat × Instr)}
    (h : IssueWords n bytes k is after) {fuel : Nat} (hk : 3 - k ≤ fuel) (h0 : fuel ≠ 0) :
    readIssue n bytes fuel k = { is := is, after := after, bad := [] } := by
  induction h generalizing fuel with
  | one k i hd hc ht =>
    obtain ⟨fuel, rfl⟩ := Nat.exists_eq_succ_of_ne_zero h0
    cases hi : i.isTransfer with
    | false => simp [readIssue_succ hd, hc, hi]
    | true => simp [readIssue_succ hd, hc, hi, ht hi]
  | more k i is after hd hc ht hn _ ih =>
    obtain ⟨fuel, rfl⟩ := Nat.exists_eq_succ_of_ne_zero h0
    have hw : 1 ≤ instrWords i := by unfold instrWords; split <;> omega
    simp [readIssue_succ hd, hc, ht, hn, Nat.ne_of_lt hn, ih (fuel := fuel) (by omega) (by omega)]

/-- Two instructions may stand in one issue (R208). -/
def FitTogether (n : Nat) (a b : Nat × Instr) : Prop :=
  (a.2.pipe = .none ∨ a.2.pipe ≠ b.2.pipe) ∧ a.2.uses.clash b.2.uses n = false

theorem pairBreach_eq_nil {n : Nat} {a b : Nat × Instr} (h : FitTogether n a b) : pairBreach n a b = [] := by
  obtain ⟨hp, hc⟩ := h
  have apart : (decide (a.2.pipe ≠ .none) && decide (a.2.pipe = b.2.pipe)) = false := by
    rcases hp with hp | hp <;> simp [hp]
  rw [pairBreach, apart, hc]
  rfl

theorem chainBreaches_eq_nil {n : Nat} {is : List (Nat × Instr)} (h : is.Pairwise (FitTogether n)) : chainBreaches n is = [] := by
  induction h with
  | nil => rfl
  | cons ha _ ih =>
    rw [chainBreaches, ih, List.append_nil, List.flatMap_eq_nil_iff]
    exact fun b hb => pairBreach_eq_nil (ha b hb)

/-- The latches that an instruction reads are defined for every thread of an issue (R205). -/
def Ctx.LatchesDefined (c : Ctx) (i : Instr) : Prop :=
  (i.uses.latches ≠ [] → c.paired = true) ∧ ∀ k ∈ i.uses.latches, ∀ tid ∈ c.active, ∃ v, (k, tid, v) ∈ c.prev

theorem latchOk_of_latchesDefined {c : Ctx} {i : Instr} (h : c.LatchesDefined i) : i.uses.latches.all c.latchOk = true := by
  obtain ⟨hp, hl⟩ := h
  refine List.all_eq_true.2 fun k hk => ?_
  simp only [Ctx.latchOk, hp (List.ne_nil_of_mem hk), Bool.true_and, List.all_eq_true, List.any_eq_true]
  intro tid ht
  obtain ⟨v, hv⟩ := hl k hk tid ht
  exact ⟨_, hv, by simp⟩

theorem latchBreaches_eq_nil {c : Ctx} {is : List (Nat × Instr)} (h : ∀ p ∈ is, c.LatchesDefined p.2) : c.latchBreaches is = [] := by
  refine List.filterMap_eq_nil_iff.2 fun p hp => ?_
  exact if_pos (latchOk_of_latchesDefined (h p hp))

/-- The words at which an issue stands, and those after it, break no rule. -/
theorem parse_of_issueWords {c : Ctx} {n after : Nat} {is : List (Nat × Instr)} (hw : IssueWords n c.bytes c.first is after)
    (hs : c.first ∈ (packetInstrs n c.bytes).map (·.1))
    (hp : c.producer = true → c.first = 0 → producerOk n c.bytes = true) (hc : is.Pairwise (FitTogether n))
    (hl : ∀ p ∈ is, c.LatchesDefined p.2) : c.parse n = ({ is := is, after := after, bad := [] }, none) := by
  have pair : (c.producer && decide (c.first = 0) && !producerOk n c.bytes) = false := by
    cases hq : c.producer <;> by_cases hf : c.first = 0 <;> simp_all
  simp only [Ctx.parse, readIssue_of_issueWords hw (Nat.sub_le 3 _) (by decide), chainBreaches_eq_nil hc, latchBreaches_eq_nil hl,
    List.contains_iff_mem.2 hs, pair]
  rfl

/-! ### The threads that make an issue -/

theorem stillActive_eq {s : State} {guid : Nat} {g : Group} {tids : List Nat} (hg : s.group guid = some g)
    (h : ∀ tid ∈ tids, ∃ u, g.thread tid = some u ∧ u.run = .runnable) : s.stillActive guid tids = tids := by
  refine List.filter_eq_self.2 fun tid ht => ?_
  obtain ⟨u, hu, hr⟩ := h tid ht
  simp [State.thread, hg, hu, Thread.runnable, hr]

/-- A thread's quad, or home warp, stands wholly among threads, a home warp alone (R22, R23). -/
def Group.UnitWhole (g : Group) (tids : List Nat) (quad : Bool) (tid : Nat) : Prop :=
  let w := if quad then 4 else 32
  (∀ u ∈ g.threads, u.live = true → u.tid / w = tid / w → u.tid ∈ tids) ∧ (quad = false → ∀ j ∈ tids, j / 32 = tid / 32)

theorem together_iff (g : Group) (quad : Bool) (tids : List Nat) (tid : Nat) :
    g.together quad tids tid = true ↔ g.UnitWhole tids quad tid := by
  simp only [Group.together, Group.unit, Group.UnitWhole, Bool.and_eq_true, List.all_eq_true, List.mem_map, List.mem_filter,
    List.contains_iff_mem, Bool.or_eq_true, decide_eq_true_eq]
  refine and_congr ⟨fun h u hu hl hw => h _ ⟨u, ⟨hu, hl, hw⟩, rfl⟩, ?_⟩ (by cases quad <;> simp)
  rintro h _ ⟨u, ⟨hu, hl, hw⟩, rfl⟩
  exact h u hu hl hw

theorem issueKind_singleton (k : Nat) (i : Instr) : issueKind [(k, i)] = i.gathers := by
  cases h : i.gathers <;> simp [issueKind, h]

theorem step_of_cur {s : State} {c : Ctx} (hc : s.cur = some c) :
    step s = andThen (runIssueWith exec s) fun t => .next t.settle := by
  rw [step, State.stepOnce, hc]

section
variable {ex : Instr → State → Out} {s : State} {c : Ctx} {g : Group} {r : ReadIssue} (hc : s.cur = some c)
  (hg : s.group c.guid = some g)
  (ha : ∀ tid ∈ c.active, ∃ u, g.thread tid = some u ∧ u.run = .runnable) (hr : c.parse g.nregs = (r, none))
include hc hg ha hr

/-- An issue whose words break no rule is made by all its threads where each stands with its unit.  The reading of the issue stands
as a variable while the issue unfolds, so that the kernel does not evaluate it. -/
theorem runIssue_of_whole (hn : c.active ≠ [])
    (hw : ∀ quad, issueKind r.is = some quad → ∀ tid ∈ c.active, g.UnitWhole c.active quad tid) :
    runIssueWith ex s =
      State.makeIssue ex { s with cur := some (c.ready g r c.active) } (c.ready g r c.active) g r := by
  have he : c.active.isEmpty = false := by simpa using hn
  obtain ⟨parse, hp⟩ : ∃ f, f = Ctx.parse := ⟨_, rfl⟩
  rw [runIssueWith]
  rw [← hp] at hr ⊢
  simp only [hc, hg, stillActive_eq hg ha, hr]
  obtain ⟨q, hq⟩ : ∃ q, q = issueKind r.is := ⟨_, rfl⟩
  rw [← hq] at hw ⊢
  cases q with
  | none => simp only [he, Bool.false_eq_true, if_false, State.gatherMid, List.foldl_nil]
  | some quad =>
    have hp : c.active.partition (g.together quad c.active) = (c.active, []) := by
      rw [List.partition_eq_filter_filter, List.filter_eq_self.2 fun tid ht => (together_iff ..).2 (hw quad rfl tid ht),
        List.filter_eq_nil_iff.2 fun tid ht => by simp [(together_iff ..).2 (hw quad rfl tid ht)]]
    simp only [hp, he, Bool.false_eq_true, if_false, State.gatherMid, List.foldl_nil]

/-- Threads that all stand without their unit at a collective instruction gather there. -/
theorem runIssue_of_apart {quad : Bool} (hk : issueKind r.is = some quad) (hw : ∀ tid ∈ c.active, ¬ g.UnitWhole c.active quad tid) :
    runIssueWith ex s = .next (State.onGroup { s.gatherMid c quad c.active with cur := none } c.guid Group.tidy) := by
  have hp : c.active.partition (g.together quad c.active) = ([], c.active) := by
    rw [List.partition_eq_filter_filter, List.filter_eq_nil_iff.2 fun tid ht => mt (together_iff ..).1 (hw tid ht),
      List.filter_eq_self.2 fun tid ht => by simp [mt (together_iff ..).1 (hw tid ht)]]
  obtain ⟨parse, hq⟩ : ∃ f, f = Ctx.parse := ⟨_, rfl⟩
  rw [runIssueWith]
  rw [← hq] at hr ⊢
  simp only [hc, hg, stillActive_eq hg ha, hr, hk, hp, List.isEmpty_nil, if_true, Option.getD_some]

end

theorem thread_gatherMid (s : State) (c : Ctx) (quad : Bool) (tids : List Nat) (j : Nat) :
    (s.gatherMid c quad tids).thread c.guid j = if j ∈ tids then
      (s.thread c.guid j).map fun u => { u with run := .gathering, word := c.first, quad := quad } else s.thread c.guid j := by
  induction tids generalizing s with
  | nil => rfl
  | cons t tids ih =>
    have one : (s.onGroup c.guid fun g => g.gatherAt quad t c.first).thread c.guid j = if j = t then
        (s.thread c.guid j).map fun u => { u with run := .gathering, word := c.first, quad := quad } else s.thread c.guid j := by
      simp only [thread_eq, group_onGroup, if_pos]
      cases s.group c.guid with
      | none => simp
      | some g =>
        refine (Group.thread_onThread (g.unbundle t) t j
          (fun u => { u with run := .gathering, word := c.first, quad := quad }) fun _ => rfl).trans ?_
        by_cases h : j = t
        · subst h; simp only [if_pos]; rfl
        · simp only [if_neg h]; rfl
    refine (ih _).trans ?_
    rw [one]
    by_cases h : j = t <;> by_cases h' : j ∈ tids <;> simp [h, h', Function.comp_def]

/-! ### Running the instructions of an issue -/

theorem missed_onCur (s : State) {f : Ctx → Ctx} (hf : ∀ c, (f c).misses = c.misses) : (s.onCur f).missed = s.missed := by
  cases h : s.cur <;> simp [State.missed, h, hf]

/-- A state in whose issue under way no thread has failed. -/
def State.NoneFailed (s : State) : Prop := ∃ d, s.cur = some d ∧ d.traps = [] ∧ d.retries = []

theorem onCur_id {s : State} {c : Ctx} {f : Ctx → Ctx} (h : s.cur = some c) (hf : f c = c) : s.onCur f = s := by
  rw [onCur_eq h, hf, ← h]

theorem dropFailed_eq {s : State} (h : s.NoneFailed) : s.dropFailed = s := by
  obtain ⟨d, hd, ht, hr⟩ := h
  have keep : (d.active.filter fun t => !(d.traps.any fun r => decide (r.tid = t)) && !(d.retries.any fun r => decide (r.1 = t))) =
      d.active := by simp [ht, hr]
  exact onCur_id hd (by rw [keep])

theorem runWords_of_wordsRun {is : List (Nat × Instr)} {s t : State} (h : WordsRun is s t) : runWords exec is s = .next t := by
  induction h with
  | done s => rfl
  | word k i rest s m t c d hc he hd ht hr _ ih =>
    rw [runWords, onCur_eq hc, he]
    exact (congrArg (runWords exec rest) (dropFailed_eq ⟨d, hd, ht, hr⟩)).trans ih

theorem noneFailed_of_wordsRun {is : List (Nat × Instr)} {s t : State} (h : WordsRun is s t) (hs : s.NoneFailed) : t.NoneFailed := by
  induction h with
  | done s => exact hs
  | word k i rest s m t c d _ _ hd ht hr _ ih => exact ih ⟨d, hd, ht, hr⟩

theorem failed_eq {s : State} (h : s.NoneFailed) : s.failed = { traps := [], retries := [] } := by
  obtain ⟨d, hd, ht, hr⟩ := h
  simp [State.failed, hd, ht, hr]

theorem settleSld_eq {is : List (Nat × Instr)} (h : sldAhead is = none) (s : State) (n : Nat) : s.settleSld is n = s := by
  simp [State.settleSld, h]

section
variable {is : List (Nat × Instr)} (hl : sldAhead is = none)
include hl

/-- A run in which no thread fails ends the runs of a chained issue. -/
theorem runChained_of_wordsRun {s t : State} (h : WordsRun is s t) (hs : s.NoneFailed) (hm : t.missed = []) (n : Nat) (f : Failed) :
    runChained exec is (n + 1) s f = .next (t.onCur fun c => { c with traps := f.traps, retries := f.retries }) := by
  have none := failed_eq (noneFailed_of_wordsRun h hs)
  simp only [runChained, runWords_of_wordsRun h, andThen, hm, List.isEmpty_nil, if_true, settleSld_eq hl, Bool.not_true,
    Bool.false_eq_true, if_false, none]
  rfl

/-- After a run in which some threads fail, the others run the issue again. -/
theorem runChained_of_failed {s t : State} {c : Ctx} (hc : s.cur = some c) (h : runWords exec is s = .next t) (hm : t.missed = [])
    (hf : t.failed.tids ≠ []) (ho : (c.active.filter fun tid => !t.failed.tids.contains tid) ≠ []) (n : Nat) :
    runChained exec is (n + 1) s { traps := [], retries := [] } = runChained exec is n
      { s with cur := some { c with active := c.active.filter fun tid => !t.failed.tids.contains tid } } t.failed := by
  have hf' : t.failed.tids.isEmpty = false := by simpa using hf
  have ho' : (c.active.filter fun tid => !t.failed.tids.contains tid).isEmpty = false := by
    rw [Bool.eq_false_iff]; exact fun h => ho (List.isEmpty_iff.1 h)
  simp only [runChained, h, andThen, hm, List.isEmpty_nil, if_true, settleSld_eq hl, Bool.not_true, Bool.false_eq_true, if_false,
    hf', onCur_eq hc, State.noneActive, ho', List.nil_append]

end

/-- Where no thread has failed and none parks, a chained issue leaves nothing to settle. -/
theorem settleChained_eq {s : State} (h : s.NoneFailed) (hw : ∀ d, s.cur = some d → d.waits = []) (c : Ctx) : s.settleChained c = s := by
  obtain ⟨d, hd, ht, hr⟩ := h
  simp only [State.settleChained, hd, ht, hr, hw d hd, List.foldl_nil]

/-- An issue of one instruction, in which no access misses the translation cache. -/
theorem makeIssue_single {s t : State} {c : Ctx} {g : Group} {k after : Nat} {i : Instr} {bad : List (Nat × Byte)}
    (he : exec i s = .next t) (hm : t.missed = []) :
    State.makeIssue exec s c g { is := [(k, i)], after := after, bad := bad } =
      .next (((t.readsDone s c g [i]).markIssued c).charge c [i]).afterIssue := by
  simp only [State.makeIssue, he, andThen, State.orSuspend, hm, List.isEmpty_nil, if_true]

/-- An issue of several instructions, in whose last run no access misses the translation cache. -/
theorem makeIssue_chained {s t : State} {c : Ctx} {g : Group} {r : ReadIssue} (h1 : 1 < r.is.length)
    (he : runChained exec r.is (c.active.length + 1) s { traps := [], retries := [] } = .next t) (hm : t.missed = []) :
    State.makeIssue exec s c g r =
      .next ((((t.settleChained c).readsDone s c g (r.is.map (·.2))).markIssued c).charge c (r.is.map (·.2))).afterIssue := by
  obtain ⟨is, after, bad⟩ := r
  match is, h1 with
  | a :: b :: is, _ => simp only [State.makeIssue, he, andThen, State.orSuspend, hm, List.isEmpty_nil, if_true]

end Sys2Proof.Machine
end

section
/-! SUPPORT. What follows an issue (R12, R189, R192, R205): the packet's next issue, the consumer of a latch pair, or the next
packet. -/

namespace Sys2Proof.Machine

/-! ### Threads arrive at a point -/

/-- A thread that has arrived at a point. -/
def Thread.arrived (now : Nat) (p : Point) (u : Thread) : Thread := { u with run := .runnable, point := p, word := p.word, arrival := now }

theorem Thread.arrived_comp (now : Nat) (p : Point) : Thread.arrived now p ∘ Thread.arrived now p = Thread.arrived now p := rfl

theorem Thread.arrived_of_runnable {u : Thread} (h : u.run = .runnable) (now : Nat) (p : Point) :
    u.arrived now p = { u with point := p, word := p.word, arrival := now } := by
  rw [Thread.arrived, ← h]

theorem Group.thread_arriveAll (g : Group) (now slot : Nat) (tids : List Nat) (p : Point) (j : Nat) :
    (g.arriveAll now slot tids p).thread j = if j ∈ tids then (g.thread j).map (Thread.arrived now p) else g.thread j := by
  have bundles : (g.arriveAll now slot tids p).thread j =
      (tids.foldl (fun (h : Group) t => (h.unbundle t).onThread t (Thread.arrived now p)) g).thread j := by
    unfold Group.arriveAll
    split <;> rfl
  rw [bundles]
  clear bundles
  induction tids generalizing g with
  | nil => rfl
  | cons t tids ih =>
    have one : ((g.unbundle t).onThread t (Thread.arrived now p)).thread j =
        if j = t then (g.thread j).map (Thread.arrived now p) else g.thread j := by
      refine ((g.unbundle t).thread_onThread t j (Thread.arrived now p) fun _ => rfl).trans ?_
      by_cases h : j = t
      · subst h; rfl
      · simp only [if_neg h]; rfl
    rw [List.foldl_cons, ih, one]
    by_cases h : j = t
    · subst h
      by_cases h' : j ∈ tids <;> simp [h', Thread.arrived_comp]
    · simp [h]

/-- A thread that arrives at one point of a list, and at no other, stands there at the end. -/
theorem Group.thread_foldl_arriveAll (now slot : Nat) (tidsOf : Point → List Nat) {j : Nat} {p : Point} {ps : List Point}
    (hj : ∀ q, j ∈ tidsOf q ↔ q = p) (g : Group) :
    (ps.foldl (fun (h : Group) q => h.arriveAll now slot (tidsOf q) q) g).thread j =
      if p ∈ ps then (g.thread j).map (Thread.arrived now p) else g.thread j := by
  induction ps generalizing g with
  | nil => rfl
  | cons q ps ih =>
    rw [List.foldl_cons, ih, Group.thread_arriveAll]
    simp only [hj, List.mem_cons]
    by_cases h : q = p
    · subst h
      by_cases h' : q ∈ ps <;> simp [h', Thread.arrived_comp]
    · simp [h, Ne.symm h]

theorem mem_pointsOf {ms : List (Nat × Point)} {m : Nat × Point} (h : m ∈ ms) : m.2 ∈ pointsOf ms := by
  have hm := (mem_foldl_distinct (x := m.2) (ms.map (·.2)) []).2 (.inr (List.mem_map_of_mem h))
  rwa [List.foldl_map] at hm

/-! ### The end of an issue -/

section
variable {s : State} {c : Ctx} {g : Group} (hc : s.cur = some c) (hg : s.group c.guid = some g) (hm : c.moves = []) (hn : c.active ≠ [])
  (ha : ∀ tid ∈ c.active, ∃ u, g.thread tid = some u ∧ u.run = .runnable)
include hc hg hm hn ha

/-- What follows an issue whose threads all go on to the next word. -/
theorem afterIssue_eq : s.afterIssue =
    if c.after < 3 then { s with
      cur := none, packets := s.packets ++ [{ c with
        first := c.after, here := c.after, chained := false, snap := [], snapS := [], traps := [], retries := [],
        waits := [], misses := [] }] }
    else if c.producer then State.beginConsumer { s with cur := none } c c.active
    else State.endPacket { s with cur := none } c c.active := by
  have he : c.active.isEmpty = false := by simpa using hn
  have act : State.stillActive { s with cur := none } c.guid c.active = c.active := stillActive_eq hg ha
  rw [State.afterIssue, hc]
  simp only [act, he, hm, List.isEmpty_nil, true_and, and_true, Bool.false_eq_true, if_false]

end

/-- The consumer of a latch pair is appended to the packets in progress. -/
theorem packets_beginConsumer {s : State} {c : Ctx} {g : Group} {bs : List Byte} (hg : s.group c.guid = some g)
    (hf : s.fetch g (c.pc + 1) = .ok bs) (tids : List Nat) : ∃ d : Ctx,
    (s.beginConsumer c tids).packets = s.packets ++ [d] ∧ d.guid = c.guid ∧ d.active.Perm tids ∧ d.pc = c.pc + 1 ∧ d.first = 0 ∧
      d.bytes = bs ∧ d.prev = c.latches ∧ d.paired = true := by
  have keep : (s.fetched g (c.pc + 1) bs).packets = s.packets := (congrArg State.packets (fetched_rest s g (c.pc + 1) bs).1 :)
  simp only [State.beginConsumer, hg, hf, State.onGroup_packets, keep]
  exact ⟨_, rfl, rfl, perm_sortBy _ _, rfl, rfl, rfl, rfl, rfl⟩

/-- The end of a packet changes its group alone, where no thread yields. -/
theorem endPacket_rest {s : State} {c : Ctx} (hy : c.yielded = false) (tids : List Nat) :
    s.endPacket c tids = { s with groups := (s.endPacket c tids).groups } := by
  simp only [State.endPacket, hy, Bool.false_eq_true, if_false]
  exact onGroup_rest ..

/-- The first word of the packet after a thread's. -/
def State.nextPoint (s : State) (c : Ctx) (tid : Nat) : Point :=
  { prio := ((s.thread c.guid tid).map (·.point.prio)).getD 0, pc := c.pc + 1, word := 0 }

theorem goals_of_noMoves (s : State) {c : Ctx} (hm : c.moves = []) (tids : List Nat) :
    s.goals c tids = tids.map fun t => (t, s.nextPoint c t) := by
  simp only [State.goals, hm, List.find?_nil]
  rfl

theorem nextPoint_eq {s : State} {c : Ctx} {g : Group} (hg : s.group c.guid = some g) {tid : Nat} {u : Thread}
    (hu : g.thread tid = some u) : s.nextPoint c tid = { prio := u.point.prio, pc := c.pc + 1, word := 0 } := by
  simp only [State.nextPoint, State.thread, hg, hu, Option.map_some, Option.getD_some]

/-- At the end of a packet that no thread leaves by a transfer, each goes on to the next packet. -/
theorem thread_endPacket {s : State} {c : Ctx} {g : Group} {tids : List Nat} (hg : s.group c.guid = some g) (hy : c.yielded = false)
    (hm : c.moves = []) {tid : Nat} {u : Thread} (ht : tid ∈ tids) (hu : g.thread tid = some u) :
    (s.endPacket c tids).thread c.guid tid = some (u.arrived s.stime { prio := u.point.prio, pc := c.pc + 1, word := 0 }) := by
  rw [← nextPoint_eq hg hu]
  have goals := goals_of_noMoves s hm tids
  have goal : s.nextPoint c tid ∈ pointsOf (s.goals c tids) := by
    rw [goals]
    exact mem_pointsOf (List.mem_map.2 ⟨tid, ht, rfl⟩)
  have only : ∀ q, tid ∈ ((s.goals c tids).filter fun m => decide (m.2 = q)).map (·.1) ↔ q = s.nextPoint c tid := by
    intro q
    simp only [goals, List.mem_map, List.mem_filter, decide_eq_true_eq]
    constructor
    · rintro ⟨_, ⟨⟨t, _, rfl⟩, rfl⟩, rfl⟩
      rfl
    · rintro rfl
      exact ⟨_, ⟨⟨tid, ht, rfl⟩, rfl⟩, rfl⟩
  simp only [State.endPacket, hy, Bool.false_eq_true, if_false, thread_eq, group_onGroup, if_pos, hg, Option.map_some,
    Option.bind_some]
  refine (Group.thread_foldl_arriveAll s.stime c.slot _ only g).trans ?_
  rw [if_pos goal, hu]
  rfl

/-! ### A step that runs an issue (R189 to R191) -/

section
variable {s : State} {c : Ctx} {g : Group} {r : ReadIssue} (hc : s.cur = some c) (hg : s.group c.guid = some g)
  (ha : ∀ tid ∈ c.active, ∃ u, g.thread tid = some u ∧ u.run = .runnable) (hr : c.parse g.nregs = (r, none))
include hc hg ha hr

/-- A step in which threads gather. -/
theorem step_gathers {quad : Bool} (hk : issueKind r.is = some quad) (hw : ∀ tid ∈ c.active, ¬ g.UnitWhole c.active quad tid) :
    ∃ m : State, step s = .next m.settle ∧ m.cur = none ∧ ∀ tid u, tid ∈ c.active → g.thread tid = some u →
      m.thread c.guid tid = some { u with run := .gathering, word := c.first, quad := quad } := by
  refine ⟨State.onGroup { s.gatherMid c quad c.active with cur := none } c.guid Group.tidy, ?_,
    State.onGroup_cur _ c.guid Group.tidy, fun tid u ht hu => ?_⟩
  · rw [step_of_cur hc, runIssue_of_apart hc hg ha hr hk hw]
    rfl
  · have h := thread_gatherMid s c quad c.active tid
    rw [if_pos ht, show s.thread c.guid tid = some u by simp [State.thread, hg, hu]] at h
    generalize s.gatherMid c quad c.active = m at h ⊢
    refine Eq.trans ?_ h
    simp only [thread_eq, group_onGroup, if_pos]
    show ((m.group c.guid).map Group.tidy).bind _ = _
    cases m.group c.guid <;> rfl

variable (hn : c.active ≠ [])
  (hw : ∀ quad, issueKind r.is = some quad → ∀ tid ∈ c.active, g.UnitWhole c.active quad tid)
include hn hw

/-- A step that makes an issue. -/
theorem step_makes {t : State} (hm : State.makeIssue exec { s with cur := some (c.ready g r c.active) } (c.ready g r c.active) g r =
    .next t) : step s = .next t.settle := by
  rw [step_of_cur hc, runIssue_of_whole hc hg ha hr hn hw, hm]
  rfl

end

/-! ### A step between issues -/

theorem step_of_event {s : State} {i : Instr} {rest : List Input} (hc : s.cur = none) (hi : s.inputs = .event i :: rest)
    (hw : Input.waits s (.event i) = false) : step s = andThen (exec i { s with inputs := rest }) fun t => .next t.settle := by
  have act : s.act = exec i { s with inputs := rest } := by
    rw [State.act, hi]
    simp only [hw, Bool.false_eq_true, if_false]
    rfl
  rw [step, State.stepOnce]
  split
  · next h => exact absurd (h.symm.trans hc) (by simp)
  · rw [act]

end Sys2Proof.Machine

namespace Sys2Proof.Proofs

open Machine

/-- Settles O56: the issue is read word by word, its unit is whole or gathers, and its runs are those of its words; what follows an
issue is said case by case. -/
theorem stepRunsDecodedInstruction : Obligations.StepRunsDecodedInstruction := by
  unfold Obligations.StepRunsDecodedInstruction
  refine ⟨fun s c g hc hg ha hn hs hp => ?_, fun s i rest hc hi hw => ?_, fun s c g hc hg hm hn _ ha => ?_⟩
  · intro defined whole made
    refine ⟨fun i t hd hch ht hdef => ?_, fun is after hw h1 hpw hdef hwh hl => ?_⟩
    · have hr : c.parse g.nregs = _ := parse_of_issueWords (.one _ i hd hch ht) hs hp (List.pairwise_singleton _ _)
        (by rintro _ (_ | ⟨_, ⟨⟩⟩); exact hdef)
      have kind := issueKind_singleton c.first i
      intro c1
      refine ⟨fun quad hq hno => step_gathers hc hg ha hr (kind.trans hq) hno, fun hwh he hm => ?_⟩
      exact step_makes hc hg ha hr hn (fun quad hq => hwh quad (kind.symm.trans hq)) (makeIssue_single he hm)
    · have hr : c.parse g.nregs = _ := parse_of_issueWords hw hs hp hpw hdef
      intro c1 m ht hre hmi
      have ready : c.ready g { is := is, after := after, bad := [] } c.active = c1 := by
        simp only [Ctx.ready, h1, decide_true, if_true]
        rfl
      have clean : ∀ {l}, State.NoneFailed { s with cur := some { c1 with active := l } } := ⟨_, rfl, ht, hre⟩
      have makes : ∀ t', runChained exec is (c.active.length + 1) m { traps := [], retries := [] } = .next t' → t'.missed = [] →
          made (t'.settleChained c1) m c1 (is.map (·.2)) := fun t' he hm =>
        step_makes hc hg ha hr hn hwh (by rw [ready]; exact makeIssue_chained h1 he hm)
      refine ⟨fun t hrun hm => ⟨?_, fun hwt => settleChained_eq (noneFailed_of_wordsRun hrun clean) hwt c1⟩, ?_⟩
      · obtain ⟨d, hd, hdt, hdr⟩ := noneFailed_of_wordsRun hrun clean
        refine makes t ((runChained_of_wordsRun hl hrun clean hm _ _).trans (congrArg _ (onCur_id hd ?_))) hm
        rw [← hdt, ← hdr]
      · intro t0 t hrun hm0 f others hf ho hrun' hm
        obtain ⟨n, hn'⟩ := Nat.exists_eq_succ_of_ne_zero (show c.active.length ≠ 0 by simpa using hn)
        refine makes _ ?_ ?_
        · rw [runChained_of_failed (c := c1) hl rfl hrun hm0 hf ho, hn']
          exact runChained_of_wordsRun hl hrun' clean hm n f
        · rwa [missed_onCur]
          exact fun _ => rfl
  · rw [step_of_event hc hi hw]
    exact ⟨fun t he => by rw [he]; rfl, fun f he => by rw [he]; rfl⟩
  · have hafter := afterIssue_eq hc hg hm hn ha
    refine ⟨fun hl => hafter.trans (if_pos hl), fun bs hl hp hf => ?_, fun hl hp hy => ?_⟩
    · rw [hafter, if_neg (Nat.not_lt.2 hl), if_pos hp]
      exact packets_beginConsumer (s := { s with cur := none }) hg hf c.active
    · rw [if_neg (Nat.not_lt.2 hl), if_neg (by simp [hp])] at hafter
      rw [hafter]
      refine ⟨endPacket_rest hy c.active, fun tid u ht hu => (thread_endPacket (s := { s with cur := none }) hg hy hm ht hu).trans ?_⟩
      obtain ⟨u', hu', hrun⟩ := ha tid ht
      obtain rfl : u' = u := Option.some.inj (hu'.symm.trans hu)
      rw [Thread.arrived_of_runnable hrun]

end Sys2Proof.Proofs
end

section
/-! SUPPORT. A gang whose members take the serial numbers of resident groups (R38, R67). -/

namespace Sys2Proof.Machine.TakenNumber

/-- A gang of two, one thread to a group, with a region of four pages and one of twenty, both of rank 7. -/
def launch : Launch :=
  { rec_ := { entry := 0, lo := 0, hi := 2, tvt := 0, rgns := 0, threads := 1, regs8 := 1, gang := 2, rows := 0, acc := 0,
              cls := 0, tenant := 0, nrgn := 2, pthr := 0, nuni := 0, rowh := 0, uimg := 0, done := 0, reserved := false },
    uimg := [], regions := [(0x4000, 7, 0), (0x14000, 7, 0)], seen := [], ended := [], done := false, hidden := [] }

/-- Its untaken indices, in the pool of cluster 0. -/
def range : Range := { cluster := 0, launch := 7, a := 0, b := 2, owner := none, task := none }

/-- A group on core 1 that holds the first twelve pages of a bank. -/
def holder (bank : Nat) : Group :=
  Group.start 0 1 0 9 launch none [(0, bank, 1)] [Region.fresh (bank * 0x10000) 0xC000 7 0 false]

/-- Core 1 has three of its pinned banks lit, 0, 2 and 3.  The group in bank 0 has the number that the next group will take. -/
def state : State :=
  { State.reset with
    ready := true, cores := [(1, { Core.reset with lit := 0xD#64 })], groups := [(0, holder 0), (5, holder 2)],
    launches := [(7, launch)], ranges := [range] }

theorem window : (windowsOf 0 2).find? (state.windowOk launch) = some 0 := by decide +kernel

theorem first : firstBy gangBefore ((state.gangRanges 0).filter fun p =>
    !state.awayOf p.1.launch && !((windowsOf 0 p.2.rec_.gang).filter (state.windowOk p.2)).isEmpty) = some (range, launch) := by
  decide +kernel

/-- The first member replaces the group in bank 0; the region of four pages then goes behind the group in bank 2, and no
run of twenty pages is left for the other. -/
theorem no_second : (match exec (.gangStart 0) state with | .next t => (t.group 1).isNone | _ => false) = true := by decide +kernel

end Sys2Proof.Machine.TakenNumber

namespace Sys2Proof.Proofs

open Machine

/-- Refutes O52: the statement puts no bound on the numbers of the resident groups, and in a state whose next number one of them bears
already the first member of a gang takes that group's place.  The pages set free change where the hamper puts the second member's first
region, which leaves no run for its other region: the window passed R38's test, but its second core no longer has room, and the
second member does not start. -/
theorem not_dispatcherActions : ¬ Obligations.DispatcherActions := by
  unfold Obligations.DispatcherActions
  intro h
  obtain ⟨-, -, -, -, -, -, -, gangs, -⟩ := h
  obtain ⟨-, starts, -⟩ := gangs TakenNumber.state 0
  obtain ⟨t, ht, members, -⟩ := starts TakenNumber.range TakenNumber.launch 0 TakenNumber.first TakenNumber.window
  obtain ⟨g, hg, -⟩ := members 1 (by decide)
  have absent : (t.group 1).isNone = true := by
    have := TakenNumber.no_second
    rwa [show exec (.gangStart 0) TakenNumber.state = .next t from ht] at this
  rw [show t.group 1 = some g from hg] at absent
  cases absent

end Sys2Proof.Proofs
end

section
/-! SUPPORT. Ranges of a launch: the first of a list by an order, the pool that serves a request and what it gives (R35, R36), the
threads that wait in GRANGE.take (R268), and launch records on their way (R260). -/

namespace Sys2Proof.Machine

/-! ### The first of a list by an order, and the longest -/

section FirstBy

variable {α : Type} {before : α → α → Bool}

theorem firstBy_eq_none {l : List α} : firstBy before l = none ↔ l = [] := by
  cases l with
  | nil => simp [firstBy]
  | cons x xs =>
    simp only [firstBy, reduceCtorEq, iff_false]
    split
    · simp
    · split <;> simp

theorem mem_of_firstBy {l : List α} {x : α} (h : firstBy before l = some x) : x ∈ l := by
  induction l generalizing x with
  | nil => simp [firstBy] at h
  | cons a l ih =>
    rw [firstBy] at h
    split at h
    · cases h; simp
    · next y hy =>
      split at h <;> cases h
      · exact List.mem_cons_of_mem _ (ih hy)
      · simp

/-- An element that comes strictly before all others of a list is its first. -/
theorem firstBy_eq_some {l : List α} {x : α} (hx : x ∈ l)
    (h : ∀ y ∈ l, y ≠ x → before x y = true ∧ before y x = false) : firstBy before l = some x := by
  induction l with
  | nil => simp at hx
  | cons a l ih =>
    rw [firstBy]
    by_cases hl : x ∈ l
    · rw [ih hl fun y hy => h y (by simp [hy])]
      by_cases ha : a = x
      · subst ha; simp
      · simp [(h a (by simp) ha).1]
    · obtain rfl : x = a := by simpa [hl] using hx
      cases hf : firstBy before l with
      | none => rfl
      | some y =>
        have hy := mem_of_firstBy hf
        simp [(h y (by simp [hy]) fun e => hl (e ▸ hy)).2]

end FirstBy

theorem foldl_max_spec {α : Type} (f : α → Nat) (l : List α) (n : Nat) : let m := l.foldl (fun n r => max n (f r)) n
    n ≤ m ∧ (∀ y ∈ l, f y ≤ m) ∧ (m = n ∨ ∃ z ∈ l, m = f z) := by
  induction l generalizing n with
  | nil => simp
  | cons a l ih =>
    obtain ⟨h1, h2, h3⟩ := ih (max n (f a))
    refine ⟨Nat.le_trans (Nat.le_max_left _ _) h1, List.forall_mem_cons.2 ⟨Nat.le_trans (Nat.le_max_right _ _) h1, h2⟩, ?_⟩
    rcases h3 with h3 | ⟨z, hz, h3⟩
    · rcases Nat.le_total (f a) n with h | h
      · exact .inl (by rw [List.foldl_cons, h3]; omega)
      · exact .inr ⟨a, by simp, by rw [List.foldl_cons, h3]; omega⟩
    · exact .inr ⟨z, by simp [hz], h3⟩

/-- The least number below a bound at which a function is greatest, as a fold finds it. -/
theorem foldl_best_spec (f : Nat → Nat) (n : Nat) :
    let b := (List.range n).foldl (fun best c => if f best < f c then c else best) 0
    (b < n ∨ b = 0) ∧ (∀ j, j < n → f j ≤ f b) ∧ ∀ j, j < b → f j < f b := by
  induction n with
  | zero => simp
  | succ n ih =>
    obtain ⟨hb, hle, hlt⟩ := ih
    simp only [List.range_succ, List.foldl_append, List.foldl_cons, List.foldl_nil]
    generalize (List.range n).foldl (fun best c => if f best < f c then c else best) 0 = b at *
    split
    · next h =>
      refine ⟨.inl (by omega), fun j hj => ?_, fun j hj => Nat.lt_of_le_of_lt (hle j hj) h⟩
      rcases Nat.lt_succ_iff_lt_or_eq.1 hj with hj | rfl
      · exact Nat.le_of_lt (Nat.lt_of_le_of_lt (hle j hj) h)
      · exact Nat.le_refl _
    · next h =>
      refine ⟨by omega, fun j hj => ?_, hlt⟩
      rcases Nat.lt_succ_iff_lt_or_eq.1 hj with hj | rfl
      · exact hle j hj
      · omega

theorem foldl_best_eq (f : Nat → Nat) {n k : Nat} (hk : k < n) (hle : ∀ j, j < n → f j ≤ f k) (hlt : ∀ j, j < k → f j < f k) :
    (List.range n).foldl (fun best c => if f best < f c then c else best) 0 = k := by
  obtain ⟨hb, ble, blt⟩ := foldl_best_spec f n
  generalize (List.range n).foldl (fun best c => if f best < f c then c else best) 0 = b at *
  rcases Nat.lt_trichotomy b k with h | h | h
  · have := hlt b h; have := ble k hk; omega
  · exact h
  · have := blt k h; have := hle b (by omega); omega

theorem mset_mset {α : Type} (m : SMap α) (k : Nat) (x y : α) : mset (mset m k x) k y = mset m k y := by
  induction m with
  | nil => simp [mset]
  | cons p m ih =>
    obtain ⟨j, w⟩ := p
    by_cases h : k = j
    · simp [mset, h]
    · by_cases hlt : k < j
      · simp [mset, h, hlt]
      · simp [mset, h, hlt, ih]

/-! ### A request for a range of one launch (R35, R36) -/

/-- The ranges of a group's launch in a pool, where its tenant has that cluster. -/
def State.launchPool (s : State) (g : Group) (k : Nat) : List Range := s.ranges.filter fun x =>
  decide (x.cluster = k) && (decide (x.launch = g.launch) && (s.clustersOf g.rec_.tenant).contains k)

/-- The test that a range passes for a thread of a group that waits in GRANGE.take. -/
def State.grangeOk (s : State) (g : Group) (r : Range) : Bool :=
  decide (r.launch = g.launch) && (s.clustersOf g.rec_.tenant).contains r.cluster

theorem mem_launchPool {s : State} {g : Group} {k : Nat} {x : Range} : x ∈ s.launchPool g k ↔
    x ∈ s.ranges ∧ x.cluster = k ∧ x.launch = g.launch ∧ k ∈ s.clustersOf g.rec_.tenant := by
  simp [State.launchPool]

theorem filter_grangeOk (s : State) (g : Group) (k : Nat) :
    (s.ranges.filter fun r => decide (r.cluster = k) && s.grangeOk g r) = s.launchPool g k := by
  refine List.filter_congr fun r _ => ?_
  by_cases h : r.cluster = k
  · simp [State.grangeOk, h]
  · simp [h]

theorem wanted_eq_none {s : State} {g : Group} {k : Nat} : s.wanted k (s.grangeOk g) = none ↔ s.launchPool g k = [] := by
  rw [State.wanted, Option.map_eq_none_iff, firstBy_eq_none, filter_grangeOk]

theorem wanted_eq_some {s : State} {g : Group} {k : Nat} (h : s.launchPool g k ≠ []) :
    s.wanted k (s.grangeOk g) = some g.launch := by
  obtain ⟨l, hl⟩ := Option.ne_none_iff_exists'.1 (mt wanted_eq_none.1 h)
  obtain ⟨r, hr, rfl⟩ := Option.map_eq_some_iff.1 hl
  rw [filter_grangeOk] at hr
  obtain ⟨-, -, hlaunch, -⟩ := mem_launchPool.1 (mem_of_firstBy hr)
  rw [hl, hlaunch]

theorem longest_spec (s : State) (g : Group) (k : Nat) : let m := s.longest k (s.grangeOk g)
    (∀ y ∈ s.launchPool g k, y.b - y.a ≤ m) ∧ (m = 0 ∨ ∃ z ∈ s.launchPool g k, m = z.b - z.a) := by
  rw [State.longest, filter_grangeOk]
  exact (foldl_max_spec (fun r : Range => r.b - r.a) _ 0).2

theorem server_eq_none {s : State} {g : Group} {core : Nat} (hc : core < 768) (h : ∀ k, k < 32 → s.launchPool g k = []) :
    s.server core (s.grangeOk g) = none := by
  have own : s.wanted (clusterOf core) (s.grangeOk g) = none :=
    wanted_eq_none.2 (h _ (by simp only [clusterOf, Config.coresPerCluster]; omega))
  obtain ⟨hb, -, -⟩ := foldl_best_spec (fun k => s.longest k (s.grangeOk g)) 32
  simp only [State.server, own, Option.map_eq_none_iff]
  exact wanted_eq_none.2 (h _ (by rcases hb with hb | hb <;> simp only [Config.clusters] <;> omega))

/-- The pool `k` serves a request of a core: its own where that has a range of the launch, else the lowest of those whose largest
range of it is longest. -/
structure Serves (s : State) (g : Group) (core k : Nat) : Prop where
  bound : k < 32
  filled : ∀ x ∈ s.ranges, x.a < x.b
  some_ : s.launchPool g k ≠ []
  own : s.launchPool g (core / 24) ≠ [] → k = core / 24
  other : s.launchPool g (core / 24) = [] →
    (∀ j, j < 32 → ∀ y ∈ s.launchPool g j, ∃ z ∈ s.launchPool g k, y.b - y.a ≤ z.b - z.a) ∧
      ∀ j, j < k → ∃ z ∈ s.launchPool g k, ∀ y ∈ s.launchPool g j, y.b - y.a < z.b - z.a

theorem server_eq_some {s : State} {g : Group} {core k : Nat} (h : Serves s g core k) :
    s.server core (s.grangeOk g) = some (k, g.launch) := by
  have here := wanted_eq_some h.some_
  by_cases hown : s.launchPool g (core / 24) = []
  · have own : s.wanted (clusterOf core) (s.grangeOk g) = none := wanted_eq_none.2 hown
    obtain ⟨hle, hlt⟩ := h.other hown
    have le_longest := fun k => (longest_spec s g k).1
    have best := foldl_best_eq (fun k => s.longest k (s.grangeOk g)) h.bound (fun j hj => ?_) fun j hj => ?_
    · simp only [State.server, own]
      rw [show Config.clusters = 32 from rfl, best, here]
      rfl
    · rcases (longest_spec s g j).2 with e | ⟨y, hy, e⟩
      · omega
      · obtain ⟨z, hz, hyz⟩ := hle j hj y hy
        exact e ▸ Nat.le_trans hyz (le_longest k z hz)
    · obtain ⟨z, hz, hall⟩ := hlt j hj
      have hzk := le_longest k z hz
      rcases (longest_spec s g j).2 with e | ⟨y, hy, e⟩
      · have := h.filled z (mem_launchPool.1 hz).1; omega
      · have := hall y hy; omega
  · obtain rfl := h.own hown
    simp only [State.server, show clusterOf core = core / 24 from rfl, here]

/-- The first index that a request takes from a range: of a free range it takes the lower half, of a local one the upper half (R35). -/
def Range.lo (u : Range) : Nat := if u.owner = none then u.a else u.b - (u.b - u.a + 1) / 2

/-- One past the last index that a request takes from a range. -/
def Range.hi (u : Range) : Nat := if u.owner = none then u.a + (u.b - u.a + 1) / 2 else u.b

/-- What a request leaves of a range. -/
def Range.left (u : Range) : Range :=
  if u.owner = none then { u with a := u.a + (u.b - u.a + 1) / 2 } else { u with b := u.b - (u.b - u.a + 1) / 2 }

/-- The local range that a request gives a core. -/
def Range.given (u : Range) (core launch : Nat) : Range :=
  { cluster := core / 24, launch := launch, a := u.lo, b := u.hi, owner := some core, task := none }

theorem serveFrom_eq {s : State} {cluster launch : Nat} {u : Range} (h : s.largestRange cluster launch = some u) (core : Nat) :
    s.serveFrom core cluster launch =
      ({ s with ranges := (s.ranges.map fun y : Range => if y = u then u.left else y).filter (fun y : Range => decide (y.a < y.b)) ++
          [u.given core launch] }).setCore core { s.core core with lo := u.lo, hi := u.hi } := by
  simp only [State.serveFrom, h, Range.given, Range.lo, Range.hi, Range.left]
  cases u.owner <;> rfl

/-- The largest range of a group's launch in a pool that serves it. -/
theorem largestRange_eq {s : State} {g : Group} {k : Nat} {x : Range} (hx : x ∈ s.launchPool g k)
    (h : ∀ y ∈ s.launchPool g k, y ≠ x → y.b - y.a < x.b - x.a ∨ y.b - y.a = x.b - x.a ∧ x.a < y.a) :
    s.largestRange k g.launch = some x := by
  obtain ⟨-, -, -, hk⟩ := mem_launchPool.1 hx
  have pool : (s.ranges.filter fun r => decide (r.cluster = k) && decide (r.launch = g.launch)) = s.launchPool g k := by
    simp [State.launchPool, hk]
  rw [State.largestRange, pool]
  refine firstBy_eq_some hx fun y hy hne => ?_
  rcases h y hy hne with hlt | ⟨heq, hlt⟩
  · constructor
    · rw [if_pos (by omega)]; simpa using hlt
    · rw [if_pos (by omega)]; simp; omega
  · rw [if_neg (by omega), if_neg (by omega)]
    simp; omega

/-! ### A thread that takes the lowest index of a range (R268) -/

@[simp] theorem setTake_tid (u : Thread) (d : Code) (p : Pred) (r : Option Range) : (u.setTake d p r).tid = u.tid := by
  cases r <;> simp [Thread.setTake]

@[simp] theorem setTake_point (u : Thread) (d : Code) (p : Pred) (r : Option Range) : (u.setTake d p r).point = u.point := by
  cases r <;> simp [Thread.setTake]

@[simp] theorem setTake_standing (u : Thread) (d : Code) (p : Pred) (r : Option Range) (q : Point) :
    (u.setTake d p r).standing q = u.standing q := by
  simp [Thread.standing]

theorem goOn_wake {s : State} {k tid : Nat} {u : Thread} (hu : s.thread k tid = some u) (hl : u.later = []) (next : Point) :
    s.goOn k tid next = s.wake k tid next := by
  simp [State.goOn, hu, hl]

@[simp] theorem setRegAt_later (u : Thread) (d : Code) (k : Nat) (v : Word) : (u.setRegAt d k v).later = u.later := by
  unfold Thread.setRegAt; split <;> rfl

@[simp] theorem setPred_later (u : Thread) (p : Pred) (b : Bool) : (u.setPred p b).later = u.later := by
  unfold Thread.setPred; split <;> rfl

@[simp] theorem setTake_later (u : Thread) (d : Code) (p : Pred) (r : Option Range) : (u.setTake d p r).later = u.later := by
  cases r <;> simp [Thread.setTake]

/-- The ranges without the lowest index of one. -/
def takeLowest (rs : List Range) (got : Option Range) : List Range :=
  match got with
  | some r => (rs.map fun x => if x = r then { r with a := r.a + 1 } else x).filter fun x => decide (x.a < x.b)
  | none => rs

theorem takeFrom_eq (s : State) (k tid : Nat) (d : Code) (p : Pred) (got : Option Range) : s.takeFrom k tid d p got =
    ({ s with ranges := takeLowest s.ranges got }).onThread k tid fun u => u.setTake d p got := by
  cases got <;> rfl

/-- A thread as it goes on with what GRANGE.take gave it. -/
def Thread.tookOn (u : Thread) (d : Code) (p : Pred) (got : Option Range) (next : Point) (now : Nat) : Thread :=
  { u.setTake d p got with run := .runnable, point := u.standing next, word := next.word, arrival := now }

/-- A waiting thread takes from a range, or finds none, and goes on; no other thread changes. -/
theorem taken_spec {s : State} {k tid : Nat} {u : Thread} (hu : s.thread k tid = some u) (hl : u.later = []) (d : Code) (p : Pred)
    (got : Option Range) (next : Point) : let t := (s.takeFrom k tid d p got).goOn k tid next
    t = { s with groups := t.groups, ranges := takeLowest s.ranges got } ∧
    t.thread k tid = some (u.tookOn d p got next s.stime) ∧
    ∀ i j, (i ≠ k ∨ j ≠ tid) → t.thread i j = s.thread i j := by
  have changed : ∀ i j, (s.takeFrom k tid d p got).thread i j =
      (s.thread i j).map fun u => if i = k ∧ j = tid then u.setTake d p got else u := fun i j => by
    rw [takeFrom_eq, thread_changed _ _ _ _ _ _ (fun _ => setTake_tid ..)]; rfl
  have taken : (s.takeFrom k tid d p got).thread k tid = some (u.setTake d p got) := by rw [changed, hu]; simp
  have now : (s.takeFrom k tid d p got).stime = s.stime := by rw [takeFrom_eq, State.onThread, onGroup_rest]
  dsimp only
  rw [goOn_wake taken (by rw [setTake_later, hl])]
  refine ⟨?_, ?_, fun i j hij => ?_⟩
  · rw [State.wake, onGroup_rest, takeFrom_eq, State.onThread, onGroup_rest]
  · rw [thread_wake, taken, now]
    simp [Thread.tookOn]
  · have hij : ¬ (i = k ∧ j = tid) := by tauto
    rw [thread_wake, changed]
    simp [hij]

/-! ### The threads that wait in GRANGE.take -/

/-- The wait of a thread in GRANGE.take. -/
def Group.grangeWait (guid : Nat) (g : Group) (v : Thread) (e : Code) (q : Pred) (next : Point) : GrangeWait :=
  ⟨v.lastIssue, g.slotOf v.tid, laneOf v.tid, (guid, g, v.tid, e, q, next)⟩

theorem mem_grangeWaits {guid : Nat} {g : Group} {x : GrangeWait} : x ∈ g.grangeWaits guid ↔
    ∃ v ∈ g.threads, ∃ e q a next, v.run = .parked (.grange e q) a next ∧ x = g.grangeWait guid v e q next := by
  rw [Group.grangeWaits, List.mem_filterMap]
  refine exists_congr fun v => and_congr_right fun _ => ?_
  split
  · next e q a next hr => simp [hr, Group.grangeWait, eq_comm]
  · next hne => simpa using fun e q a next hr => absurd hr (hne e q a next)

theorem grangeWait_before_iff (a b : GrangeWait) : a.before b = true ↔ a.issued < b.issued ∨ a.issued = b.issued ∧
    (a.slot < b.slot ∨ a.slot = b.slot ∧ a.lane < b.lane) := by
  unfold GrangeWait.before
  split
  · simp; omega
  · split <;> simp <;> omega

theorem grangeWait_not_before_iff (a b : GrangeWait) : a.before b = false ↔ b.issued < a.issued ∨ b.issued = a.issued ∧
    (b.slot < a.slot ∨ b.slot = a.slot ∧ b.lane ≤ a.lane) := by
  rw [← Bool.not_eq_true, grangeWait_before_iff]
  omega

/-- The waiter of a core is the thread that issued first among those that wait on it (R19, R268). -/
theorem grangeWaiter_spec {s : State} {core guid tid : Nat} {g : Group} {d : Code} {p : Pred} {next : Point}
    (h : s.grangeWaiter core = some (guid, g, tid, d, p, next)) {k : Nat} {y : Group} {w : Thread} {e : Code} {q : Pred}
    {a b : Point} (hy : (k, y) ∈ s.groups) (hc : y.core = core) (hw : w ∈ y.threads) (hr : w.run = .parked (.grange e q) a b) :
    ∃ v ∈ g.threads, v.tid = tid ∧ (v.lastIssue < w.lastIssue ∨ v.lastIssue = w.lastIssue ∧
      (g.slotOf tid < y.slotOf w.tid ∨ g.slotOf tid = y.slotOf w.tid ∧ tid % 32 ≤ w.tid % 32)) := by
  obtain ⟨x, hx, htaker⟩ := Option.map_eq_some_iff.1 h
  obtain ⟨hmem, hall⟩ := firstBy_spec (fun a b => by rw [grangeWait_before_iff, grangeWait_not_before_iff]; omega)
    (fun a b c => by simp only [grangeWait_not_before_iff]; omega) hx
  obtain ⟨⟨k', z⟩, -, hxz⟩ := List.mem_flatMap.1 hmem
  dsimp only at hxz
  split at hxz
  · obtain ⟨v, hv, e', q', _, n', -, rfl⟩ := mem_grangeWaits.1 hxz
    obtain ⟨-, rfl, rfl, -⟩ : k' = guid ∧ z = g ∧ v.tid = tid ∧ e' = d ∧ q' = p ∧ n' = next := by
      simpa [Group.grangeWait] using htaker
    have other := hall (y.grangeWait k w e q b) (List.mem_flatMap.2 ⟨(k, y), hy, by
      simpa only [if_pos hc] using mem_grangeWaits.2 ⟨w, hw, e, q, a, b, hr, rfl⟩⟩)
    exact ⟨v, hv, rfl, (grangeWait_not_before_iff _ _).1 other⟩
  · simp at hxz

/-! ### The request of a waiting thread (R35, R36, R268) -/

theorem exec_coreRequest_waiter {s : State} {core guid tid : Nat} {g : Group} {d : Code} {p : Pred} {next : Point}
    (h : s.grangeWaiter core = some (guid, g, tid, d, p, next)) :
    exec (.coreRequest core) s = .next (s.serveGrange guid g tid d p next) := by
  show execCoreRequest core s = _
  rw [execCoreRequest, h]

/-- A core as the request of one of its waiting threads, served, leaves it: with the range given last. -/
def State.servedBy (s : State) (core : Nat) (given : State) : State :=
  { given.setCore core { given.core core with served := s.stime + 1 } with servedAt := s.stime + 1 }

theorem serveGrange_eq (s : State) (guid : Nat) (g : Group) (tid : Nat) (d : Code) (p : Pred) (next : Point) :
    s.serveGrange guid g tid d p next =
      (if (s.core g.core).hot || (s.server g.core (s.grangeOk g)).isNone then s.takeFrom guid tid d p none
       else (s.servedBy g.core (s.request g.core (s.grangeOk g))).takeFrom guid tid d p
         (s.request g.core (s.grangeOk g)).ranges.getLast?).goOn guid tid next := rfl

/-- A core that is hot, and one that no pool serves, gives the thread nothing. -/
theorem serveGrange_none {s : State} {g : Group} (h : (s.core g.core).hot = true ∨ s.server g.core (s.grangeOk g) = none)
    (guid tid : Nat) (d : Code) (p : Pred) (next : Point) :
    s.serveGrange guid g tid d p next = (s.takeFrom guid tid d p none).goOn guid tid next := by
  rw [serveGrange_eq, if_pos]
  rcases h with h | h <;> simp [h]

/-- The state as a request of a core, served from a range, leaves it: what is left of the range and the local range given. -/
def State.afterRequest (s : State) (core launch : Nat) (u : Range) : State :=
  { s with
    ranges := (s.ranges.map fun y : Range => if y = u then u.left else y).filter (fun y : Range => decide (y.a < y.b)) ++
      [u.given core launch]
    cores := mset s.cores core { s.core core with lo := u.lo, hi := u.hi, served := s.stime + 1 }
    servedAt := s.stime + 1 }

theorem servedBy_serveFrom {s : State} {cluster launch : Nat} {u : Range} (h : s.largestRange cluster launch = some u) (core : Nat) :
    s.servedBy core (s.serveFrom core cluster launch) = s.afterRequest core launch u := by
  rw [serveFrom_eq h, State.servedBy, core_setCore_self]
  simp only [State.setCore, mset_mset, State.afterRequest]

theorem serveGrange_some {s : State} {g : Group} {k : Nat} {u : Range} (hot : (s.core g.core).hot = false)
    (hs : Serves s g g.core k) (hu : s.largestRange k g.launch = some u) (guid tid : Nat) (d : Code) (p : Pred) (next : Point) :
    s.serveGrange guid g tid d p next =
      ((s.afterRequest g.core g.launch u).takeFrom guid tid d p (some (u.given g.core g.launch))).goOn guid tid next := by
  have server := server_eq_some hs
  have request : s.request g.core (s.grangeOk g) = s.serveFrom g.core k g.launch := by simp [State.request, server]
  have last : (s.serveFrom g.core k g.launch).ranges.getLast? = some (u.given g.core g.launch) := by
    rw [serveFrom_eq hu]; exact List.getLast?_concat
  rw [serveGrange_eq, if_neg (by simp [hot, server]), request, last, servedBy_serveFrom hu]

/-- The lowest index of the range given is taken; no other range is changed by that. -/
theorem ranges_taken {s : State} {core launch : Nat} {u : Range} (hs : ∀ y ∈ s.ranges, y ≠ u.given core launch)
    (hl : u.left ≠ u.given core launch) :
    takeLowest (s.afterRequest core launch u).ranges (some (u.given core launch)) =
      (s.ranges.map fun y : Range => if y = u then u.left else y).filter (fun y : Range => decide (y.a < y.b)) ++
        (if u.lo + 1 < u.hi then [{ u.given core launch with a := u.lo + 1 }] else []) := by
  have others : ∀ y ∈ (s.ranges.map fun y : Range => if y = u then u.left else y).filter (fun y : Range => decide (y.a < y.b)),
      y ≠ u.given core launch ∧ y.a < y.b := fun y hy => by
    obtain ⟨hm, hab⟩ := List.mem_filter.1 hy
    obtain ⟨z, hz, rfl⟩ := List.mem_map.1 hm
    refine ⟨?_, by simpa using hab⟩
    split
    · exact hl
    · exact hs z hz
  simp only [takeLowest, State.afterRequest, List.map_append, List.filter_append]
  generalize List.filter _ (s.ranges.map _) = rest at *
  congr 1
  · have same : (rest.map fun x => if x = u.given core launch then { u.given core launch with a := (u.given core launch).a + 1 }
        else x) = rest := by
      conv_rhs => rw [← List.map_id rest]
      exact List.map_congr_left fun y hy => if_neg (others y hy).1
    rw [same]
    exact List.filter_eq_self.2 fun y hy => by simpa using (others y hy).2
  · simp only [List.map_cons, List.map_nil, if_true]
    simp only [List.filter_cons, List.filter_nil, decide_eq_true_eq]
    rfl

theorem groups_request (s : State) (core : Nat) (ok : Range → Bool) : (s.request core ok).groups = s.groups := by
  unfold State.request
  split
  · next c l _ =>
    cases hu : s.largestRange c l with
    | none => simp [State.serveFrom, hu]
    | some u => rw [serveFrom_eq hu]; rfl
  · rfl

/-- Whatever serves a waiting thread, it takes from a range, or finds none, in a state with the same groups. -/
theorem serveGrange_taken (s : State) (guid : Nat) (g : Group) (tid : Nat) (d : Code) (p : Pred) (next : Point) :
    ∃ (m : State) (got : Option Range), s.serveGrange guid g tid d p next = (m.takeFrom guid tid d p got).goOn guid tid next ∧
      m.groups = s.groups := by
  rw [serveGrange_eq]
  split
  · exact ⟨s, none, rfl, rfl⟩
  · exact ⟨_, _, rfl, groups_request ..⟩

/-- What CORE_REQUEST leaves of a thread that waits in GRANGE.take. -/
theorem coreRequest_waiter_spec {s : State} {core guid tid : Nat} {g : Group} {d : Code} {p : Pred} {next : Point} {u : Thread}
    (h : s.grangeWaiter core = some (guid, g, tid, d, p, next)) (hc : core < 768) (hcore : g.core = core)
    (hg : s.group guid = some g) (hu : g.thread tid = some u) (hl : u.later = []) :
    ∃ t, exec (.coreRequest core) s = .next t ∧ (∀ k j, (k ≠ guid ∨ j ≠ tid) → t.thread k j = s.thread k j) ∧
      ((s.core core).hot = true ∨ (∀ k, k < 32 → s.launchPool g k = []) →
        t.thread guid tid = some (u.tookOn d p none next s.stime) ∧ t.ranges = s.ranges) ∧
      ∀ (k : Nat) (x : Range), (s.core core).hot = false → Serves s g core k → x ∈ s.launchPool g k →
        (∀ y ∈ s.launchPool g k, y ≠ x → y.b - y.a < x.b - x.a ∨ y.b - y.a = x.b - x.a ∧ x.a < y.a) →
        t.thread guid tid = some (u.tookOn d p (some (x.given core g.launch)) next s.stime) ∧
        (t.core core).lo = x.lo ∧ (t.core core).hi = x.hi ∧ (t.core core).served = s.stime + 1 ∧
        t.ranges = takeLowest (s.afterRequest core g.launch x).ranges (some (x.given core g.launch)) := by
  subst hcore
  have thread_of : ∀ m : State, m.groups = s.groups → ∀ i j, m.thread i j = s.thread i j := fun m hm i j => by
    simp only [State.thread, State.group, hm]
  have hthread : s.thread guid tid = some u := by rw [thread_eq, hg]; exact hu
  refine ⟨_, exec_coreRequest_waiter h, ?_, fun hn => ?_, fun k x hot hs hx hmax => ?_⟩
  · obtain ⟨m, got, e, hm⟩ := serveGrange_taken s guid g tid d p next
    obtain ⟨-, -, hother⟩ := taken_spec ((thread_of m hm guid tid).trans hthread) hl d p got next
    rw [e]
    exact fun i j hij => (hother i j hij).trans (thread_of m hm i j)
  · rw [serveGrange_none (hn.imp_right (server_eq_none hc))]
    obtain ⟨hrest, hthis, -⟩ := taken_spec hthread hl d p none next
    exact ⟨hthis, by rw [hrest]; rfl⟩
  · rw [serveGrange_some hot hs (largestRange_eq hx hmax)]
    obtain ⟨hrest, hthis, -⟩ := taken_spec (s := s.afterRequest g.core g.launch x) hthread hl d p
      (some (x.given g.core g.launch)) next
    have hcore : (s.afterRequest g.core g.launch x).core g.core =
        { s.core g.core with lo := x.lo, hi := x.hi, served := s.stime + 1 } := by
      simp [State.core, State.afterRequest, mget_mset]
    generalize State.goOn _ _ _ _ = t at *
    have tcore : t.core g.core = (s.afterRequest g.core g.launch x).core g.core := by rw [hrest]; rfl
    rw [hcore] at tcore
    exact ⟨hthis, by rw [tcore], by rw [tcore], by rw [tcore], by rw [hrest]⟩

/-! ### GRANGE.read, GRANGE.take and ENQ, thread by thread (R260, R268) -/

/-- An instruction whose active threads act in turn completes in every issue. -/
theorem actsEach_of_eachActive {i : Instr} {p : State → Ctx → Group → Thread → State → Prop}
    (f : State → Ctx → Group → Thread → State) (e : ∀ s, exec i s = .next (s.eachActive f))
    (hp : ∀ s tid c g u, Acting s tid c g u → p s c g u (f s c g u)) : ActsEach i p :=
  fun s _ _ h => ⟨_, e s, eachActive_inOrder h f p hp⟩

/-- The thread under way takes from a range, or finds none. -/
theorem takeFrom_effect {s : State} {tid : Nat} {c : Ctx} {g : Group} {u : Thread} (h : Acting s tid c g u) (d : Code) (p : Pred)
    (got : Option Range) :
    OneThread { s with ranges := takeLowest s.ranges got } (s.takeFrom c.guid u.tid d p got) c u (u.setTake d p got) := by
  rw [takeFrom_eq]
  exact oneThread_effect (s := { s with ranges := takeLowest s.ranges got }) ⟨h.cur, h.group, h.thread⟩ _
    fun v => setTake_tid v d p got

theorem grangeLane_local {s : State} {c : Ctx} {g : Group} {u : Thread} (f : LGrange)
    (h : s.localRange g.core g.launch ≠ none ∨ (s.core g.core).hot = true) :
    s.grangeLane c g u f = s.takeFrom c.guid u.tid f.d f.p (s.localRange g.core g.launch) := by
  rw [State.grangeLane, if_neg]
  · rfl
  · rcases h with h | h <;> simp [h]

theorem grangeLane_request {s : State} {c : Ctx} {g : Group} {u : Thread} (f : LGrange)
    (h : s.localRange g.core g.launch = none) (hot : (s.core g.core).hot = false) :
    s.grangeLane c g u f = s.await u.tid (.grange f.d f.p) := by
  rw [State.grangeLane, if_pos (by simp [h, hot])]

/-- A record goes to the launch queue of the tenant where that has room (R260). -/
theorem enqueue_launch {s : State} {tid : Nat} {c : Ctx} {g : Group} {u : Thread} (h : Acting s tid c g u) {f : LEq} {va : Nat}
    {r : LaunchRec} {ack : Option Nat} {x : Tenant} (hf : f.lq = true) (hx : s.tenant g.rec_.tenant = some x) :
    (1024 ≤ x.launchQ.length → OneThread s (s.enqueue c g u f va r ack) c u (u.setPred f.pd false)) ∧
    (x.launchQ.length < 1024 → OneThread { s with
        tenants := mset s.tenants g.rec_.tenant { x with
          launchQ := x.launchQ ++ [⟨r, va, g.core, g.gid, u.tid, ack, c.guid, s.nextId⟩] }
        nextId := s.nextId + 1 } (s.enqueue c g u f va r ack) c u (u.setPred f.pd true)) := by
  simp only [State.enqueue, hf, if_true, hx]
  refine ⟨fun hq => ?_, fun hq => ?_⟩
  · rw [if_pos (show Config.launchQueueLen ≤ _ from hq)]
    exact oneThread_effect h _ fun v => setPred_tid v _ _
  · rw [if_neg (Nat.not_le.2 (show _ < Config.launchQueueLen from hq))]
    exact oneThread_effect (s := { s with tenants := _, nextId := s.nextId + 1 }) ⟨h.cur, h.group, h.thread⟩ _
      fun v => setPred_tid v _ _

/-- A record goes to the outbound buffer of the core where that has room (R42, R260). -/
theorem enqueue_task {s : State} {tid : Nat} {c : Ctx} {g : Group} {u : Thread} (h : Acting s tid c g u) {f : LEq} {va : Nat}
    {r : LaunchRec} {ack : Option Nat} (hf : f.lq = false) : let sent := s.tasks.filter fun q => decide (q.sender = g.core)
    (16 ≤ sent.length → OneThread s (s.enqueue c g u f va r ack) c u (u.setPred f.pd false)) ∧
    (sent.length < 16 → OneThread { s with
        tasks := s.tasks ++ [⟨g.core, (c.val u f.a).toNat, g.rec_.tenant, r, va, g.gid, u.tid, ack, c.guid, s.nextId⟩]
        nextId := s.nextId + 1 } (s.enqueue c g u f va r ack) c u (u.setPred f.pd true)) := by
  simp only [State.enqueue, hf, Bool.false_eq_true, if_false]
  refine ⟨fun hq => ?_, fun hq => ?_⟩
  · rw [if_pos (show Config.outboundLen ≤ _ from hq)]
    exact oneThread_effect h _ fun v => setPred_tid v _ _
  · rw [if_neg (Nat.not_le.2 (show _ < Config.outboundLen from hq))]
    exact oneThread_effect (s := { s with tasks := _, nextId := s.nextId + 1 }) ⟨h.cur, h.group, h.thread⟩ _
      fun v => setPred_tid v _ _

/-- A core of a tenant, as ENQ's A names it. -/
theorem coreOf_iff {s : State} {tenant a : Nat} : s.coreOf tenant a = true ↔ a < 768 ∧ a / 24 ∈ s.clustersOf tenant := by
  rw [State.coreOf, Bool.and_eq_true, decide_eq_true_iff, List.contains_iff_mem]
  rfl

section EnqLane

variable {s : State} {c : Ctx} {g : Group} {u : Thread} {f : LEq}

theorem enqLane_misaligned (h : (c.uni g f.u.toNat).toNat % 8 ≠ 0) :
    s.enqLane c g u f = s.raise u.tid 0x01 (BitVec.ofNat 64 (c.uni g f.u.toNat).toNat) 0 0 := if_pos h

theorem enqLane_misaligned_ack (h : (c.uni g f.u.toNat).toNat % 8 = 0) (hf : f.ack = true)
    (ha : (c.uni g (f.u.toNat + 1)).toNat % 8 ≠ 0) :
    s.enqLane c g u f = s.raise u.tid 0x01 (BitVec.ofNat 64 (c.uni g (f.u.toNat + 1)).toNat) 0 0 := by
  rw [State.enqLane, if_neg (not_not.2 h), if_pos ⟨hf, ha⟩]

variable (h : (c.uni g f.u.toNat).toNat % 8 = 0) (ha : f.ack = true → (c.uni g (f.u.toNat + 1)).toNat % 8 = 0)
include h ha

theorem enqLane_wrongCore (hq : f.lq = false)
    (hd : 768 ≤ (c.val u f.a).toNat ∨ (c.val u f.a).toNat / 24 ∉ s.clustersOf g.rec_.tenant) :
    s.enqLane c g u f = s.raise u.tid 0x01 (BitVec.ofNat 64 (c.val u f.a).toNat) 0 0 := by
  have : s.coreOf g.rec_.tenant (c.val u f.a).toNat = false := by
    rw [← Bool.not_eq_true, coreOf_iff, not_and_or, Nat.not_lt]
    exact hd
  rw [State.enqLane, if_neg (not_not.2 h), if_neg fun e => e.2 (ha e.1), if_pos (by simp [hq, this]),
    BitVec.ofNat_toNat]

/-- Once the addresses and the core have passed, ENQ reads the record. -/
theorem enqLane_read (hd : f.lq = false → (c.val u f.a).toNat < 768 ∧ (c.val u f.a).toNat / 24 ∈ s.clustersOf g.rec_.tenant) :
    (∀ x, s.readRecord g (c.uni g f.u.toNat).toNat = .miss x → s.enqLane c g u f = s.missing u.tid x 0) ∧
    (∀ code x, s.readRecord g (c.uni g f.u.toNat).toNat = .fatal code x →
      s.enqLane c g u f = s.raise u.tid code (BitVec.ofNat 64 x) 0 0) ∧
    ∀ r, s.readRecord g (c.uni g f.u.toNat).toNat = .ok r → s.enqLane c g u f =
      s.enqueue c g u f (c.uni g f.u.toNat).toNat r (if f.ack then some (c.uni g (f.u.toNat + 1)).toNat else none) := by
  have core : ¬ (!f.lq && !s.coreOf g.rec_.tenant (c.val u f.a).toNat) = true := by
    cases hq : f.lq
    · simp [coreOf_iff.2 (hd hq)]
    · simp
  rw [State.enqLane, if_neg (not_not.2 h), if_neg fun e => e.2 (ha e.1), if_neg core]
  exact ⟨fun x e => by rw [e], fun code x e => by rw [e], fun r e => by rw [e]⟩

end EnqLane

end Sys2Proof.Machine

namespace Sys2Proof.Proofs

open Machine

/-- Settles O40: GRANGE and ENQ thread by thread; the request of a waiting thread by the pool that serves it and the range it is
given. -/
theorem rangesAndQueues : Obligations.RangesAndQueues := by
  unfold Obligations.RangesAndQueues
  refine ⟨fun f => ?_, fun f => ?_, fun s core guid g tid d p next u h hc hcore hg hu hl => ⟨?_, ?_⟩, fun f => ?_⟩
  · refine actsEach_of_eachActive _ (fun _ => rfl) fun s tid c g u h => ⟨fun hn => ?_, fun r hr => ?_⟩
    · simpa only [hn] using oneThread_effect h (fun v => ((v.setRegAt f.d 0 _).setRegAt f.d 1 _).setPred f.p _) (by simp)
    · simpa only [hr] using oneThread_effect h (fun v => ((v.setRegAt f.d 0 _).setRegAt f.d 1 _).setPred f.p _) (by simp)
  · refine actsEach_of_eachActive _ (fun _ => rfl) fun s tid c g u h => ⟨fun hgang => if_pos hgang, fun hgang => ?_⟩
    rw [if_neg (Nat.not_lt.2 hgang)]
    refine ⟨fun r hr => ⟨_, rfl, ?_⟩, fun hn => ⟨fun hot => ?_, grangeLane_request f hn⟩⟩
    · rw [grangeLane_local f (.inl (by simp [hr])), hr]
      exact takeFrom_effect h f.d f.p (some r)
    · rw [grangeLane_local f (.inr hot), hn]
      exact takeFrom_effect h f.d f.p none
  · exact fun k y w e q a b hy hk hw hr => grangeWaiter_spec h hy hk hw hr
  · obtain ⟨t, ht, hother, hnone, hsome⟩ := coreRequest_waiter_spec h hc hcore hg hu hl
    refine ⟨t, ht, hother, hnone, fun k x hot hk hfilled hown hpools hx hmax => ?_⟩
    obtain ⟨hthread, hlo, hhi, hserved, hranges⟩ :=
      hsome k x hot ⟨hk, hfilled, List.ne_nil_of_mem hx, hown, hpools⟩ hx hmax
    exact ⟨hthread, hlo, hhi, hserved, fun hy hleft => hranges.trans (ranges_taken hy hleft)⟩
  · refine actsEach_of_eachActive _ (fun _ => rfl) fun s tid c g u h => ?_
    refine ⟨enqLane_misaligned, enqLane_misaligned_ack, enqLane_wrongCore, fun hva hack hd => ?_,
      fun r hva hack hr => ⟨fun x hf hx => ?_, fun hf hcore hcluster => ?_⟩⟩
    · obtain ⟨hmiss, hfatal, -⟩ := enqLane_read hva hack hd
      exact ⟨hmiss, hfatal⟩
    · obtain ⟨-, -, hok⟩ := enqLane_read (s := s) (u := u) hva hack (by simp [hf])
      obtain ⟨hfull, hroom⟩ := enqueue_launch h hf hx
      rw [hok r hr]
      exact ⟨hfull, fun hq => ⟨_, hroom hq, rfl⟩⟩
    · obtain ⟨-, -, hok⟩ := enqLane_read hva hack fun _ => ⟨hcore, hcluster⟩
      obtain ⟨hfull, hroom⟩ := enqueue_task h hf
      rw [hok r hr]
      exact ⟨hfull, fun hq => ⟨_, hroom hq, rfl⟩⟩

end Sys2Proof.Proofs
end

section
/-! SUPPORT. The encodings of a port's blocks (R184): what a sender sends is the shortest body that decodes to the block, ties to the
lower tag. -/

namespace Sys2Proof.Machine

/-! ### Bits of a mask -/

theorem bit_eq_testBit (n i : Nat) : bit n i = n.testBit i := by
  rw [bit, Nat.testBit_eq_decide_div_mod_eq]

theorem length_leBytes (n v : Nat) : (leBytes n v).length = n := by
  induction n generalizing v with
  | zero => rfl
  | succ n ih => simp [leBytes, ih]

theorem leNat_leBytes {n v : Nat} (h : v < 256 ^ n) : leNat (leBytes n v) = v := by
  induction n generalizing v with
  | zero => simp_all [leBytes, leNat]
  | succ n ih =>
    rw [leBytes, leNat, ih (by rw [Nat.pow_succ] at h; omega), BitVec.toNat_ofNat]
    omega

theorem testBit_leNat (bs : List Byte) (i : Nat) : (leNat bs).testBit i = (bs.getD (i / 8) 0).getLsbD (i % 8) := by
  induction bs generalizing i with
  | nil => simp [leNat]
  | cons b bs ih =>
    have hb : b.toNat < 2 ^ 8 := b.isLt
    rw [leNat, Nat.add_comm, show 256 * leNat bs = 2 ^ 8 * leNat bs from rfl, Nat.testBit_two_pow_mul_add _ hb]
    split
    · next h => simp [Nat.div_eq_of_lt h, Nat.mod_eq_of_lt h, BitVec.getLsbD]
    · next h =>
      rw [ih, show i / 8 = (i - 8) / 8 + 1 by omega, show i % 8 = (i - 8) % 8 by omega]
      simp

/-- A mask with one byte more. -/
def maskStep (n : Nat) (p : Byte × Nat) : Nat := if p.1 = 0 then n else n + 2 ^ p.2

/-- The mask of a block: its bit `i` says that byte `i` is not zero. -/
def maskOf (block : List Byte) : Nat := block.zipIdx.foldl maskStep 0

theorem maskStep_spec {n k : Nat} (hn : n < 2 ^ k) (b : Byte) : maskStep n (b, k) < 2 ^ (k + 1) ∧
    (maskStep n (b, k)).testBit k = (b != 0) ∧ ∀ i, i < k → (maskStep n (b, k)).testBit i = n.testBit i := by
  simp only [maskStep]
  split
  · next hb => exact ⟨by rw [Nat.pow_succ]; omega, by simp [hb, Nat.testBit_lt_two_pow hn], fun _ _ => rfl⟩
  · next hb =>
    rw [Nat.add_comm n]
    exact ⟨by rw [Nat.pow_succ]; omega, by simpa [Nat.testBit_two_pow_add_eq, Nat.testBit_lt_two_pow hn] using hb,
      fun i hi => Nat.testBit_two_pow_add_gt hi n⟩

theorem foldl_maskStep_spec (block : List Byte) (k n : Nat) (hn : n < 2 ^ k) : let m := (block.zipIdx k).foldl maskStep n
    m < 2 ^ (k + block.length) ∧ (∀ i, i < k → m.testBit i = n.testBit i) ∧ ∀ i, m.testBit (k + i) = (block.getD i 0 != 0) := by
  induction block generalizing k n with
  | nil => exact ⟨hn, fun _ _ => rfl, fun i => by
      simpa using Nat.testBit_lt_two_pow (Nat.lt_of_lt_of_le hn (Nat.pow_le_pow_right (by simp) (by omega)))⟩
  | cons b block ih =>
    obtain ⟨hstep, hhere, hbelow⟩ := maskStep_spec hn b
    obtain ⟨hlt, hlow, hhigh⟩ := ih (k + 1) _ hstep
    refine ⟨by rwa [List.length_cons, show k + (block.length + 1) = k + 1 + block.length by omega],
      fun i hi => (hlow i (by omega)).trans (hbelow i hi), fun i => ?_⟩
    cases i with
    | zero => exact (hlow k (by omega)).trans hhere
    | succ i => simpa [Nat.add_assoc, Nat.add_comm 1] using hhigh i

theorem maskOf_spec (block : List Byte) : maskOf block < 2 ^ block.length ∧
    ∀ i, (maskOf block).testBit i = (block.getD i 0 != 0) := by
  obtain ⟨hlt, -, hbits⟩ := foldl_maskStep_spec block 0 0 (by simp)
  simp only [Nat.zero_add] at hlt hbits
  exact ⟨hlt, hbits⟩

/-! ### Sparse bodies -/

/-- The bytes of a block, from place `k` on, under the set bits of a mask. -/
def underMask (mask k : Nat) (block : List Byte) : List Byte := ((block.zipIdx k).filter fun p => mask.testBit p.2).map (·.1)

theorem underMask_cons (mask k : Nat) (b : Byte) (block : List Byte) :
    underMask mask k (b :: block) = (if mask.testBit k then [b] else []) ++ underMask mask (k + 1) block := by
  rw [underMask, List.zipIdx_cons, List.filter_cons]
  split <;> simp [underMask]

section SparseBytes

variable {mask k n : Nat} {bs : List Byte}

theorem sparseBytes_zero {block : List Byte} : sparseBytes mask k 0 bs = some block ↔ bs = [] ∧ block = [] := by
  cases bs <;> simp [sparseBytes.eq_def, eq_comm]

theorem sparseBytes_skip (h : mask.testBit k = false) :
    sparseBytes mask k (n + 1) bs = (sparseBytes mask (k + 1) n bs).map (0 :: ·) := by
  rw [sparseBytes.eq_def]
  simp [bit_eq_testBit, h]

theorem sparseBytes_take (h : mask.testBit k = true) (b : Byte) :
    sparseBytes mask k (n + 1) (b :: bs) = (sparseBytes mask (k + 1) n bs).map (b :: ·) := by
  rw [sparseBytes.eq_def]
  simp [bit_eq_testBit, h]

theorem sparseBytes_short (h : mask.testBit k = true) : sparseBytes mask k (n + 1) [] = none := by
  rw [sparseBytes.eq_def]
  simp [bit_eq_testBit, h]

end SparseBytes

/-- A Sparse body decodes to a block of the length asked whose bytes under a set bit of the mask are those of the body, in order,
and whose others are zero. -/
theorem sparseBytes_eq_some_iff (mask k n : Nat) (bs block : List Byte) : sparseBytes mask k n bs = some block ↔
    block.length = n ∧ bs = underMask mask k block ∧ ∀ i, i < n → mask.testBit (k + i) = false → block.getD i 0 = 0 := by
  induction n generalizing k bs block with
  | zero =>
    rw [sparseBytes_zero, List.length_eq_zero_iff]
    exact ⟨by rintro ⟨rfl, rfl⟩; exact ⟨rfl, rfl, by simp⟩, by rintro ⟨rfl, rfl, -⟩; exact ⟨rfl, rfl⟩⟩
  | succ n ih =>
    have split_zeros : ∀ (b : Byte) (rest : List Byte),
        (∀ i, i < n + 1 → mask.testBit (k + i) = false → (b :: rest).getD i 0 = 0) ↔
        (mask.testBit k = false → b = 0) ∧ ∀ i, i < n → mask.testBit (k + 1 + i) = false → rest.getD i 0 = 0 := by
      intro b rest
      refine ⟨fun h => ⟨h 0 (by omega), fun i hi hm => h (i + 1) (by omega) (by rwa [show k + (i + 1) = k + 1 + i by omega])⟩,
        fun ⟨h0, h⟩ i hi hm => ?_⟩
      cases i with
      | zero => exact h0 hm
      | succ i => exact h i (by omega) (by rwa [show k + 1 + i = k + (i + 1) by omega])
    cases hk : mask.testBit k with
    | false =>
      rw [sparseBytes_skip hk, Option.map_eq_some_iff]
      constructor
      · rintro ⟨rest, hrest, rfl⟩
        obtain ⟨hlen, hbs, hzero⟩ := (ih ..).1 hrest
        exact ⟨by simp [hlen], by simp [underMask_cons, hk, hbs], (split_zeros ..).2 ⟨fun _ => rfl, hzero⟩⟩
      · rintro ⟨hlen, hbs, hzero⟩
        obtain ⟨b, rest, rfl⟩ := List.exists_cons_of_length_eq_add_one hlen
        obtain ⟨hb, hrest⟩ := (split_zeros ..).1 hzero
        obtain rfl := hb hk
        exact ⟨rest, (ih ..).2 ⟨by simpa using hlen, by simpa [underMask_cons, hk] using hbs, hrest⟩, rfl⟩
    | true =>
      constructor
      · intro h
        cases bs with
        | nil => simp [sparseBytes_short hk] at h
        | cons c bs =>
          rw [sparseBytes_take hk, Option.map_eq_some_iff] at h
          obtain ⟨rest, hrest, rfl⟩ := h
          obtain ⟨hlen, hbs, hzero⟩ := (ih ..).1 hrest
          exact ⟨by simp [hlen], by simp [underMask_cons, hk, hbs], (split_zeros ..).2 ⟨by simp [hk], hzero⟩⟩
      · rintro ⟨hlen, hbs, hzero⟩
        obtain ⟨b, rest, rfl⟩ := List.exists_cons_of_length_eq_add_one hlen
        obtain ⟨-, hrest⟩ := (split_zeros ..).1 hzero
        rw [underMask_cons, if_pos hk, List.singleton_append] at hbs
        rw [hbs, sparseBytes_take hk, (ih ..).2 ⟨by simpa using hlen, rfl, hrest⟩]
        rfl

theorem getD_of_mem_zipIdx {block : List Byte} {p : Byte × Nat} (h : p ∈ block.zipIdx) : block.getD p.2 0 = p.1 := by
  rw [List.getD_eq_getElem?_getD, List.mem_zipIdx_iff_getElem?.1 h]
  rfl

/-- The bytes of a block that are not zero are those under its own mask. -/
theorem underMask_maskOf (block : List Byte) : underMask (maskOf block) 0 block = block.filter (· != 0) := by
  obtain ⟨-, hbits⟩ := maskOf_spec block
  have : (block.zipIdx.filter fun p => (maskOf block).testBit p.2) = block.zipIdx.filter ((· != 0) ∘ Prod.fst) :=
    List.filter_congr fun p hp => by rw [hbits, getD_of_mem_zipIdx hp]; rfl
  rw [underMask, this, ← List.filter_map, List.zipIdx_map_fst]

/-- No mask under which a block decodes leaves out a byte that is not zero. -/
theorem length_nonzero_le {mask : Nat} {block : List Byte}
    (h : ∀ i, i < block.length → mask.testBit i = false → block.getD i 0 = 0) :
    (block.filter (· != 0)).length ≤ (underMask mask 0 block).length := by
  rw [← underMask_maskOf, underMask, underMask, List.length_map, List.length_map, ← List.countP_eq_length_filter,
    ← List.countP_eq_length_filter]
  obtain ⟨-, hbits⟩ := maskOf_spec block
  refine List.countP_mono_left fun p hp hnz => ?_
  rw [hbits, bne_iff_ne] at hnz
  by_contra hm
  exact hnz (h p.2 (by simpa using List.snd_lt_of_mem_zipIdx hp) (by simpa using hm))

/-! ### What each tag stands for -/

theorem blockOf_raw {body block : List Byte} : blockOf 0 body = some block ↔ body.length = 256 ∧ body = block := by
  simp [blockOf]

theorem blockOf_zero {body block : List Byte} : blockOf 1 body = some block ↔ body = [] ∧ block = List.replicate 256 0 := by
  cases body with
  | nil => exact ⟨fun h => ⟨rfl, (Option.some.inj h).symm⟩, by rintro ⟨-, rfl⟩; rfl⟩
  | cons b body => exact ⟨by rintro ⟨⟩, by rintro ⟨⟨⟩, -⟩⟩

theorem blockOf_repeat {body block : List Byte} : blockOf 2 body = some block ↔
    body.length = 4 ∧ (List.replicate 64 body).flatten = block := by
  simp [blockOf]

theorem blockOf_sparse {mask body block : List Byte} (h : mask.length = 32) : blockOf 3 (mask ++ body) = some block ↔
    block.length = 256 ∧ body = underMask (leNat mask) 0 block ∧
      ∀ i, i < 256 → (leNat mask).testBit i = false → block.getD i 0 = 0 := by
  have : blockOf 3 (mask ++ body) = sparseBytes (leNat mask) 0 256 body := by
    simp [blockOf, h]
  rw [this, sparseBytes_eq_some_iff]
  simp

theorem blockOf_short {body : List Byte} (h : body.length < 32) : blockOf 3 body = none := by
  simp [blockOf, h]

theorem blockOf_other {tag : Byte} (h : 4 ≤ tag.toNat) (body : List Byte) : blockOf tag body = none := by
  have ne : ∀ k : Byte, k.toNat < 4 → tag ≠ k := by rintro k hk rfl; omega
  rw [blockOf, if_neg (ne 0 (by decide)), if_neg (ne 1 (by decide)), if_neg (ne 2 (by decide)), if_neg (ne 3 (by decide))]

/-! ### The encodings of a block -/

theorem mem_ite_singleton {α : Type} {p : Prop} [Decidable p] {x a : α} : x ∈ (if p then [a] else []) ↔ p ∧ x = a := by
  split <;> simp [*]

theorem mem_encodings {block : List Byte} {e : Nat × List Byte} : e ∈ encodings block ↔
    e = (0, block) ∨ ((∀ b ∈ block, b = 0) ∧ e = (1, [])) ∨
      ((List.replicate 64 (block.take 4)).flatten = block ∧ e = (2, block.take 4)) ∨
      e = (3, leBytes 32 (maskOf block) ++ block.filter (· != 0)) := by
  have all_zero : block.all (· == 0) = true ↔ ∀ b ∈ block, b = 0 := by simp
  simp only [encodings, List.mem_append, List.mem_singleton, mem_ite_singleton, all_zero, or_assoc]
  rfl

theorem encodings_sorted (block : List Byte) : (encodings block).Pairwise fun a b => a.1 ≤ b.1 := by
  simp only [encodings]
  split <;> split <;> simp

/-- Each encoding of a block of 256 bytes decodes to it. -/
theorem blockOf_encoding {block : List Byte} (hl : block.length = 256) {e : Nat × List Byte} (he : e ∈ encodings block) :
    blockOf (BitVec.ofNat 8 e.1) e.2 = some block := by
  rcases mem_encodings.1 he with rfl | ⟨hz, rfl⟩ | ⟨hr, rfl⟩ | rfl
  · exact blockOf_raw.2 ⟨hl, rfl⟩
  · exact blockOf_zero.2 ⟨rfl, List.eq_replicate_iff.2 ⟨hl, hz⟩⟩
  · exact blockOf_repeat.2 ⟨by simp [hl], hr⟩
  · obtain ⟨hlt, hbits⟩ := maskOf_spec block
    have mask : leNat (leBytes 32 (maskOf block)) = maskOf block :=
      leNat_leBytes (by rw [hl] at hlt; exact hlt)
    refine (blockOf_sparse (length_leBytes ..)).2 ⟨hl, by rw [mask, underMask_maskOf], fun i _ hi => ?_⟩
    rw [mask, hbits] at hi
    simpa using hi

/-- A body that decodes to a block of 256 bytes is no shorter than the encoding of its tag. -/
theorem exists_encoding {tag : Byte} {body block : List Byte} (h : blockOf tag body = some block) :
    ∃ e ∈ encodings block, e.1 = tag.toNat ∧ e.2.length ≤ body.length := by
  rcases Nat.lt_or_ge tag.toNat 4 with ht | ht
  · have tags : ∀ t : Byte, t.toNat < 4 → t = 0 ∨ t = 1 ∨ t = 2 ∨ t = 3 := by decide
    rcases tags tag ht with rfl | rfl | rfl | rfl
    · obtain ⟨-, rfl⟩ := blockOf_raw.1 h
      exact ⟨_, mem_encodings.2 (.inl rfl), rfl, Nat.le_refl _⟩
    · obtain ⟨rfl, rfl⟩ := blockOf_zero.1 h
      exact ⟨_, mem_encodings.2 (.inr (.inl ⟨fun b hb => List.eq_of_mem_replicate hb, rfl⟩)), rfl, Nat.le_refl _⟩
    · obtain ⟨hl, rfl⟩ := blockOf_repeat.1 h
      have word : ((List.replicate 64 body).flatten).take 4 = body := by
        rw [List.replicate_succ, List.flatten_cons, List.take_left' hl]
      exact ⟨_, mem_encodings.2 (.inr (.inr (.inl ⟨by rw [word], rfl⟩))), rfl, by rw [word]⟩
    · rcases Nat.lt_or_ge body.length 32 with hs | hs
      · rw [blockOf_short hs] at h
        cases h
      · have hm : (body.take 32).length = 32 := by simp [hs]
        rw [← List.take_append_drop 32 body, blockOf_sparse hm] at h
        obtain ⟨hl, hbody, hzero⟩ := h
        have := length_nonzero_le (mask := leNat (body.take 32)) (block := block) (by rwa [hl])
        rw [← hbody, List.length_drop] at this
        exact ⟨_, mem_encodings.2 (.inr (.inr (.inr rfl))), rfl, by
          rw [List.length_append, length_leBytes]; omega⟩
  · simp [blockOf_other ht] at h

/-! ### What a sender sends -/

/-- A fold that keeps the shorter of two encodings, the first of two as short, finds the shortest, of the lowest tag. -/
theorem foldl_shortest {f : Option (Nat × List Byte) → Nat × List Byte → Option (Nat × List Byte)}
    (hf : ∀ b e, f (some b) e = if e.2.length < b.2.length then some e else some b) (l : List (Nat × List Byte))
    (b : Nat × List Byte) (hs : (b :: l).Pairwise fun x y => x.1 ≤ y.1) : ∃ r ∈ b :: l, l.foldl f (some b) = some r ∧
      ∀ e ∈ b :: l, r.2.length ≤ e.2.length ∧ (r.2.length = e.2.length → r.1 ≤ e.1) := by
  induction l generalizing b with
  | nil => exact ⟨b, by simp, rfl, by simp⟩
  | cons a l ih =>
    obtain ⟨hb, hal⟩ := List.pairwise_cons.1 hs
    obtain ⟨hba, hbl⟩ := List.forall_mem_cons.1 hb
    obtain ⟨ha, hl⟩ := List.pairwise_cons.1 hal
    rw [List.foldl_cons, hf]
    split
    · next hlt =>
      obtain ⟨r, hr, hfold, hmin⟩ := ih a hal
      obtain ⟨hra, -⟩ := hmin a (by simp)
      exact ⟨r, List.mem_cons_of_mem _ hr, hfold, List.forall_mem_cons.2 ⟨⟨by omega, fun e => by omega⟩, hmin⟩⟩
    · next hge =>
      obtain ⟨r, hr, hfold, hmin⟩ := ih b (List.pairwise_cons.2 ⟨hbl, hl⟩)
      obtain ⟨⟨hrb, htie⟩, hrl⟩ := List.forall_mem_cons.1 hmin
      refine ⟨r, ?_, hfold, List.forall_mem_cons.2 ⟨⟨hrb, htie⟩, List.forall_mem_cons.2 ⟨⟨by omega, fun e => ?_⟩, hrl⟩⟩⟩
      · rcases List.mem_cons.1 hr with h | h <;> simp [h]
      · exact Nat.le_trans (htie (by omega)) hba

theorem sendBlock_eq (block : List Byte) : ∃ f : Option (Nat × List Byte) → Nat × List Byte → Option (Nat × List Byte),
    (∀ e, f none e = some e) ∧ (∀ b e, f (some b) e = if e.2.length < b.2.length then some e else some b) ∧
    sendBlock block = ((encodings block).foldl f none).getD (0, block) := by
  refine ⟨_, ?_, ?_, rfl⟩
  · exact fun _ => rfl
  · exact fun _ _ => rfl

/-- A sender sends an encoding of the block, the shortest, ties to the lower tag. -/
theorem sendBlock_spec (block : List Byte) : sendBlock block ∈ encodings block ∧ ∀ e ∈ encodings block,
    (sendBlock block).2.length ≤ e.2.length ∧ ((sendBlock block).2.length = e.2.length → (sendBlock block).1 ≤ e.1) := by
  obtain ⟨f, hnone, hsome, hsend⟩ := sendBlock_eq block
  obtain ⟨l, hl⟩ : ∃ l, encodings block = (0, block) :: l := ⟨_, rfl⟩
  have sorted := encodings_sorted block
  rw [hl] at sorted
  obtain ⟨r, hr, hfold, hmin⟩ := foldl_shortest hsome l (0, block) sorted
  rw [hsend, hl, List.foldl_cons, hnone, hfold]
  exact ⟨hr, hmin⟩

theorem blockOf_sendBlock {block : List Byte} (hl : block.length = 256) :
    blockOf (BitVec.ofNat 8 (sendBlock block).1) (sendBlock block).2 = some block :=
  blockOf_encoding hl (sendBlock_spec block).1

/-- No body that decodes to the block is shorter than what a sender sends for it, and none as short has a lower tag. -/
theorem sendBlock_shortest {tag : Byte} {body block : List Byte} (h : blockOf tag body = some block) :
    (sendBlock block).2.length ≤ body.length ∧ ((sendBlock block).2.length = body.length → (sendBlock block).1 ≤ tag.toNat) := by
  obtain ⟨e, he, htag, hlen⟩ := exists_encoding h
  obtain ⟨hle, htie⟩ := (sendBlock_spec block).2 e he
  exact ⟨Nat.le_trans hle hlen, fun heq => htag ▸ htie (by omega)⟩

/-! ### The blocks of a payload -/

/-- Block `i` of a payload, padded with zeros. -/
def payloadBlock (bs : List Byte) (i : Nat) : List Byte :=
  (bs.drop (256 * i)).take 256 ++ List.replicate (256 - ((bs.drop (256 * i)).take 256).length) 0

theorem payloadBlocks_eq (bs : List Byte) : payloadBlocks bs = (List.range ((bs.length + 255) / 256)).map (payloadBlock bs) := rfl

theorem length_payloadBlock (bs : List Byte) (i : Nat) : (payloadBlock bs i).length = 256 := by
  rw [payloadBlock, List.length_append, List.length_replicate, List.length_take]
  omega

theorem payloadBlock_succ (bs : List Byte) (i : Nat) : payloadBlock bs (i + 1) = payloadBlock (bs.drop 256) i := by
  simp only [payloadBlock, List.drop_drop]
  rw [show 256 * (i + 1) = 256 + 256 * i by omega]

/-- The blocks of a payload put together again give the payload, and zeros after it. -/
theorem flatten_payloadBlocks (bs : List Byte) (n : Nat) (h : bs.length ≤ 256 * n) :
    (((List.range n).map (payloadBlock bs)).flatten).take bs.length = bs := by
  induction n generalizing bs with
  | zero => simp_all
  | succ n ih =>
    have rest : (List.range n).map (payloadBlock bs ∘ Nat.succ) = (List.range n).map (payloadBlock (bs.drop 256)) :=
      List.map_congr_left fun i _ => payloadBlock_succ bs i
    rw [List.range_succ_eq_map, List.map_cons, List.map_map, rest, List.flatten_cons]
    rcases Nat.le_total bs.length 256 with hs | hs
    · rw [List.take_append_of_le_length (by rwa [length_payloadBlock])]
      simp [payloadBlock, List.take_of_length_le hs]
    · have first : payloadBlock bs 0 = bs.take 256 := by simp [payloadBlock, hs]
      have := ih (bs.drop 256) (by rw [List.length_drop]; omega)
      rw [List.length_drop] at this
      rw [List.take_append, length_payloadBlock, this, first, List.take_take, Nat.min_eq_right hs, List.take_append_drop]

theorem exists_wireOf {bs b : List Byte} {i : Nat} (h : (payloadBlocks bs)[i]? = some b) :
    ∃ e, (wireOf bs)[i]? = some e ∧ blockOf (e.headD 0) e.tail = some b := by
  refine ⟨BitVec.ofNat 8 (sendBlock b).1 :: (sendBlock b).2, by rw [wireOf, List.getElem?_map, h]; rfl, blockOf_sendBlock ?_⟩
  obtain ⟨j, -, rfl⟩ := List.mem_map.1 (payloadBlocks_eq bs ▸ List.mem_of_getElem? h)
  exact length_payloadBlock bs j

end Sys2Proof.Machine
end

section
/-! SUPPORT. Bring-up (R186), and what accesses of the host, of a peer and of RDMA leave (R88, R101 to R103, R177, R182 to R185). -/

namespace Sys2Proof.Machine

/-! ### Bring-up -/

theorem mget_map_range {α : Type} (f : Nat → α) (n k : Nat) :
    mget ((List.range n).map fun i => (i, f i)) k = if k < n then some (f k) else none := by
  have shifted : ∀ (m a : Nat), mget ((List.range' a m).map fun i => (i, f i)) k =
      if a ≤ k ∧ k < a + m then some (f k) else none := by
    intro m
    induction m with
    | zero => intro a; rw [if_neg (by omega)]; rfl
    | succ m ih =>
      intro a
      simp only [List.range'_succ, List.map_cons, mget, ih]
      rcases Nat.lt_trichotomy k a with h | rfl | h
      · rw [if_neg (by omega), if_pos h, if_neg (by omega)]
      · rw [if_pos rfl, if_pos (by omega)]
      · rw [if_neg (by omega), if_neg (by omega)]
        simp only [show (a + 1 ≤ k ∧ k < a + 1 + m) ↔ (a ≤ k ∧ k < a + (m + 1)) by omega]
  simpa [List.range_eq_range'] using shifted n 0

theorem getLsbD_lowBanks {n b : Nat} (hb : b < 64) : (lowBanks n).getLsbD b = decide (b < n) := by
  rw [lowBanks, BitVec.getLsbD_ofNat, Nat.testBit_two_pow_sub_one]
  simp [hb]

theorem onlyGroups_capacityEvents (s : State) (cs : List Nat) : OnlyGroups s (cs.foldl State.capacityEvent s) :=
  List.foldlRecOn (motive := OnlyGroups s) _ _ (.refl s) fun _ ht _ _ => ht.trans ⟨rfl⟩

theorem failBank_rest (s : State) (p : Nat × Nat) : s.failBank p = { s with columns := (s.failBank p).columns } := by
  unfold State.failBank; split <;> rfl

theorem failBanks_rest (s : State) (ps : List (Nat × Nat)) :
    ps.foldl State.failBank s = { s with columns := (ps.foldl State.failBank s).columns } :=
  List.foldlRecOn (motive := fun t : State => t = { s with columns := t.columns }) _ _ rfl fun t ht p _ => by
    rw [failBank_rest, ht]

theorem getLsbD_bank (k : Nat) {b : Nat} (hb : b < 24) : (1#24 <<< k).getLsbD b = decide (b = k) := by
  rw [BitVec.getLsbD_shiftLeft, BitVec.getLsbD_one]
  simp only [hb, decide_true, Bool.true_and]
  rw [Bool.eq_iff_iff]
  simp
  omega

theorem live_failBank (s : State) (p : Nat × Nat) {col b : Nat} (hc : col < 768) (hb : b < 24) :
    ((s.failBank p).column col).live.getLsbD b = ((s.column col).live.getLsbD b && !decide (p = (col, b))) := by
  obtain ⟨c, k⟩ := p
  unfold State.failBank
  by_cases h : c = col
  · subst h
    by_cases hk : k < 24
    · rw [if_pos ⟨hc, hk⟩, column_setColumn_self]
      rw [BitVec.getLsbD_and, BitVec.getLsbD_not, getLsbD_bank k hb]
      simp [hb, eq_comm]
    · rw [if_neg (by simp [hk])]
      have : k ≠ b := by omega
      simp [this]
  · split
    · rw [column_setColumn_other _ _ (Ne.symm h)]; simp [h]
    · simp [h]

theorem live_failBanks (ps : List (Nat × Nat)) (s : State) {col b : Nat} (hc : col < 768) (hb : b < 24) :
    ((ps.foldl State.failBank s).column col).live.getLsbD b =
      ((s.column col).live.getLsbD b && !decide ((col, b) ∈ ps)) := by
  induction ps generalizing s with
  | nil => simp
  | cons p ps ih =>
    rw [List.foldl_cons, ih, live_failBank s p hc hb, Bool.and_assoc, ← Bool.not_or, ← Bool.decide_or]
    simp [eq_comm]

/-- The machine as bring-up sets it before the failing banks are retired. -/
def State.broughtUp (s : State) (n : Nat) : State :=
  { s with
    ready := true, budget := 1800, keys := [], frameKey := []
    tenants := s.tenants.map fun (q, t) => (q, { t with stage2 := [] })
    cores := (List.range Config.cores).map fun c => (c, { s.core c with lit := lowBanks n }) }

theorem lit_broughtUp (s : State) (n : Nat) {core b : Nat} (hc : core < 768) (hb : b < 64) :
    ((s.broughtUp n).core core).lit.getLsbD b = decide (b < n) := by
  have : (s.broughtUp n).core core = { s.core core with lit := lowBanks n } := by
    rw [State.core, State.broughtUp, mget_map_range, if_pos (show core < Config.cores from hc)]
    rfl
  rw [this]
  exact getLsbD_lowBanks hb

theorem broughtUp_fields (s : State) (n : Nat) : let w := s.broughtUp n
    w.ready = true ∧ w.budget = 1800 ∧ w.keys = [] ∧ w.frameKey = [] ∧ (∀ y ∈ w.tenants, y.2.stage2 = []) ∧ w.mem = s.mem ∧
      w.columns = s.columns := by
  simp only [State.broughtUp, true_and, and_true]
  intro y hy
  obtain ⟨z, -, rfl⟩ := List.mem_map.1 hy
  rfl

/-- Bring-up lights the banks paid for, with the capacity event where those are more than the pinned ones, and retires the failing
banks: of the machine as it sets it, only groups and columns differ after. -/
theorem exec_powerOnReset {s : State} (h : s.ready = false) (lit : Nat) (failed : List (Nat × Nat)) :
    ∃ m, OnlyGroups (s.broughtUp (max 8 (min 64 lit))) m ∧
      exec (.powerOnReset lit failed) s = .next (failed.foldl State.failBank m) := by
  show ∃ m, _ ∧ execPowerOnReset lit failed s = _
  refine ⟨if 8 < max 8 (min 64 lit) then (List.range Config.cores).foldl State.capacityEvent (s.broughtUp (max 8 (min 64 lit)))
    else s.broughtUp (max 8 (min 64 lit)), ?_, ?_⟩
  · split
    · exact onlyGroups_capacityEvents _ _
    · exact .refl _
  · rw [execPowerOnReset, if_neg (by simp [h])]
    rfl

theorem powerOnReset_spec {s : State} (h : s.ready = false) (lit : Nat) (failed : List (Nat × Nat)) :
    Gives (.powerOnReset lit failed) s fun t => t.ready = true ∧ t.budget = 1800 ∧ t.keys = [] ∧ t.frameKey = [] ∧
      (∀ y ∈ t.tenants, y.2.stage2 = []) ∧ t.mem = s.mem ∧
      (∀ core b, core < 768 → b < 64 → (t.core core).lit.getLsbD b = decide (b < max 8 (min 64 lit))) ∧
      ∀ col b, col < 768 → b < 24 →
        (t.column col).live.getLsbD b = ((s.column col).live.getLsbD b && !decide ((col, b) ∈ failed)) := by
  obtain ⟨m, hm, he⟩ := exec_powerOnReset h lit failed
  have rest := failBanks_rest m failed
  refine ⟨_, he, ?_⟩
  have hlive : ∀ col b, col < 768 → b < 24 → ((failed.foldl State.failBank m).column col).live.getLsbD b = _ :=
    fun col b hc hb => live_failBanks failed m hc hb
  generalize failed.foldl State.failBank m = t at *
  rw [hm.rest] at rest
  generalize max 8 (min 64 lit) = n at *
  obtain ⟨ready, budget, keys, frameKey, tenants, mem, columns⟩ := broughtUp_fields s n
  have lit := fun core b hc hb => lit_broughtUp s n (core := core) (b := b) hc hb
  generalize s.broughtUp n = w at *
  have column : ∀ k, w.column k = s.column k := fun k => by rw [State.column, columns]; rfl
  refine ⟨(congrArg State.ready rest).trans ready, (congrArg State.budget rest).trans budget, (congrArg State.keys rest).trans keys,
    (congrArg State.frameKey rest).trans frameKey, ?_, (congrArg State.mem rest).trans mem, fun core b hc hb => ?_,
    fun col b hc hb => by rw [hlive col b hc hb, hm.column, column]⟩
  · rw [rest]
    exact tenants
  · rw [rest]
    exact lit core b hc hb

/-! ### Entries that firmware posts -/

theorem postFault_room {s : State} {die : Nat} (h : s.dieRoom die = true) (hh : ∀ x ∈ s.heldFaults, x.1 ≠ die) {e : FaultEntry}
    (hc : e.core = noCore) : s.postFault die e = { s with
      dieQ := s.dieQ ++ [(die, { e with token := s.nextToken, clock := BitVec.ofNat 64 s.stime })]
      nextToken := s.nextToken + 1 } := by
  have : (s.dieRoom die && s.heldFaults.all fun x => decide (x.1 ≠ die)) = true := by simpa [h] using hh
  rw [State.postFault, if_pos this, State.place_, if_pos hc]

theorem postFault_full {s : State} {die : Nat} (h : s.dieRoom die = false) (e : FaultEntry) :
    s.postFault die e = { s with heldFaults := s.heldFaults ++ [(die, e)] } := by
  rw [State.postFault, if_neg (by simp [h])]

theorem unmark_eq (s : State) (m : NetMark) : s.unmark m = { s with netBad := s.netBad.filter fun x => decide (x ≠ m) } := by
  unfold State.unmark State.marked
  split
  · rfl
  · next h =>
    have : s.netBad.filter (fun x => decide (x ≠ m)) = s.netBad :=
      List.filter_eq_self.2 fun x hx => by simpa using fun e => h (by simpa [e] using hx)
    rw [this]

theorem marked_iff {s : State} {m : NetMark} : s.marked m = true ↔ m ∈ s.netBad := by
  simp [State.marked]

/-- The entry of an access from outside that meets an uncorrectable error (R103). -/
def errorEntry (tenant va access : Nat) : FaultEntry :=
  { FaultEntry.blank with kind := 3, cause := 0x21, tenant := tenant, access := access, addr := va }

/-- The entry of a host access that meets a fault (R177). -/
def hostEntry (tenant va access : Nat) : FaultEntry :=
  { FaultEntry.blank with kind := 2, cause := 0x20, tenant := tenant, access := access, addr := va }

theorem countErrorAt_rest (s : State) (pa : Nat) : s.countErrorAt pa = { s with columns := (s.countErrorAt pa).columns } := by
  unfold State.countErrorAt; split <;> rfl

/-- What an error leaves that an access from outside meets: its entry, the columns' counts, and the mark of the die network spent. -/
theorem outsideError_eq {s : State} (h : s.dieRoom 0 = true) (hh : ∀ x ∈ s.heldFaults, x.1 ≠ 0) (tenant va access : Nat)
    (ps : List Nat) : s.outsideError tenant va access ps = { s with
      dieQ := s.dieQ ++ [(0, { errorEntry tenant va access with token := s.nextToken, clock := BitVec.ofNat 64 s.stime })]
      nextToken := s.nextToken + 1
      columns := (s.outsideError tenant va access ps).columns
      netBad := s.netBad.filter fun m => decide (m ≠ .outside) } := by
  unfold State.outsideError
  rw [postFault_room h hh rfl, unmark_eq]
  split
  · rw [countErrorAt_rest]; rfl
  · rfl

/-! ### Bytes written and read by a party outside -/

/-- One byte written at a translated place. -/
def State.writeAt (tenant : Nat) (s : State) (x : Nat × Byte) : State := s.devWrite tenant x.1 [x.2]

/-- Only memory differs, and the places of a list hold the bytes of another. -/
structure WritesAt (s t : State) (ps : List Nat) (bs : List Byte) : Prop where
  rest : t = { s with mem := t.mem }
  here : ∀ (i p : Nat), ps[i]? = some p → t.byte p = bs.getD i 0
  others : ∀ k, k ∉ ps → t.byte k = s.byte k

theorem writesAt_foldl (tenant : Nat) {ps : List Nat} {bs : List Byte} (hl : ps.length = bs.length) (hn : ps.Nodup)
    (hp : ∀ p ∈ ps, p < Config.peerBase) {s : State} (hs : MemOk s) :
    WritesAt s ((ps.zip bs).foldl (State.writeAt tenant) s) ps bs := by
  induction ps generalizing bs s with
  | nil => exact ⟨rfl, by simp, fun _ _ => rfl⟩
  | cons p ps ih =>
    obtain ⟨b, bs, rfl⟩ := List.exists_cons_of_length_pos (l := bs) (by rw [← hl]; simp)
    obtain ⟨hpn, hn⟩ := List.nodup_cons.1 hn
    obtain ⟨hpp, hp⟩ := List.forall_mem_cons.1 hp
    have step : s.writeAt tenant (p, b) = s.write p [b] := if_neg (Nat.not_le.2 hpp)
    have byte_step : ∀ k, (s.write p [b]).byte k = if k = p then b else s.byte k := fun k => by
      rw [byte_write hs]
      by_cases h : k = p
      · simp [h]
      · rw [if_neg (by simp only [List.length_singleton]; omega), if_neg h]
    rw [List.zip_cons_cons, List.foldl_cons, step]
    obtain ⟨rest, here, others⟩ := ih (by simpa using hl) hn hp (memOk_write hs p [b])
    refine ⟨rest, fun i q hq => ?_, fun k hk => ?_⟩
    · cases i with
      | zero =>
        obtain rfl : p = q := by simpa using hq
        rw [others p hpn, byte_step, if_pos rfl]
        rfl
      | succ i => exact here i q (by simpa using hq)
    · obtain ⟨hkp, hk⟩ := not_or.1 (mt List.mem_cons.2 hk)
      rw [others k hk, byte_step, if_neg hkp]

theorem outsideWrite_eq {s : State} (hb : s.badUnits = []) (hm : .outside ∉ s.netBad) (tenant va : Nat) (ps : List Nat)
    (bs : List Byte) (hr : ((ps.zip bs).foldl (State.writeAt tenant) s).badUnits = s.badUnits) :
    s.outsideWrite tenant va ps bs = (ps.zip bs).foldl (State.writeAt tenant) s := by
  have : ¬ (s.partlyBad ps || s.marked .outside) = true := by simp [State.partlyBad, hb, marked_iff, hm]
  refine (if_neg this).trans ?_
  change (fun t : State => { t with badUnits := t.badUnits.filter fun u => !((upFrom (u * 64) 64).all ps.contains) })
    ((ps.zip bs).foldl (State.writeAt tenant) s) = _
  generalize (ps.zip bs).foldl (State.writeAt tenant) s = t at *
  simp only
  rw [hr, hb, List.filter_nil, ← hb, ← hr]

/-- A write by a party outside, without an error, at places of this package. -/
theorem writesAt_outsideWrite {s : State} (hs : MemOk s) (hb : s.badUnits = []) (hm : .outside ∉ s.netBad) (tenant va : Nat)
    {ps : List Nat} {bs : List Byte} (hl : ps.length = bs.length) (hn : ps.Nodup) (hp : ∀ p ∈ ps, p < Config.peerBase) :
    WritesAt s (s.outsideWrite tenant va ps bs) ps bs := by
  have h := writesAt_foldl tenant hl hn hp hs
  rw [outsideWrite_eq hb hm tenant va ps bs (by rw [h.rest])]
  exact h

theorem outsideWrite_marked {s : State} (hm : .outside ∈ s.netBad) (tenant va : Nat) (ps : List Nat) (bs : List Byte) :
    s.outsideWrite tenant va ps bs = s.outsideError tenant va 1 ps := by
  rw [State.outsideWrite, if_pos (by simp [marked_iff.2 hm])]

theorem outsideBad_iff {s : State} {ps : List Nat} :
    s.outsideBad ps = true ↔ .outside ∈ s.netBad ∨ ∃ p ∈ ps, s.badAt p 1 = true := by
  simp [State.outsideBad, marked_iff]

theorem not_outsideBad {s : State} (hb : s.badUnits = []) (hm : .outside ∉ s.netBad) (ps : List Nat) : s.outsideBad ps = false := by
  simp [← Bool.not_eq_true, outsideBad_iff, hm, State.badAt, hb]

/-- Bytes at places of this package. -/
theorem devReads_eq (s : State) {ps : List Nat} (hp : ∀ p ∈ ps, p < Config.peerBase) :
    (ps.flatMap fun p => s.devRead p 1) = ps.map s.byte := by
  rw [List.map_eq_flatMap]
  exact List.flatMap_congr fun p h => if_neg (Nat.not_le.2 (hp p h))

theorem askRun_eq (s : State) (tenant : Nat) {ps : List Nat} (hp : ∀ p ∈ ps, p < Config.peerBase) : s.askRun tenant ps = s := by
  have : (ps.filter fun p => decide (Config.peerBase ≤ p)) = [] :=
    List.filter_eq_nil_iff.2 fun p h => by simpa using hp p h
  rw [State.askRun, this]
  rfl

theorem outsideRead_eq {s : State} (hb : s.badUnits = []) (hm : .outside ∉ s.netBad) (dest : ReplyTo) (tenant va : Nat) {ps : List Nat}
    (hp : ∀ p ∈ ps, p < Config.peerBase) : s.outsideRead dest tenant va ps = s.reply dest (some (ps.map s.byte)) := by
  rw [State.outsideRead, if_neg (by simp [not_outsideBad hb hm]), askRun_eq s tenant hp, devReads_eq s hp]

/-! ### Host accesses (R177) -/

section HostAccess

variable {s : State} {tenant : Option Nat} {va : Nat} {bs : List Byte} {len : Nat}

theorem hostReady_remap (h : ∃ c ∈ s.columns, c.2.remap.isSome = true) (write : Option (List Byte)) :
    s.hostReady tenant va write len = false := by
  obtain ⟨c, hc, hr⟩ := h
  have : s.noRemap = false := by
    rw [State.noRemap, List.all_eq_false]
    exact ⟨c, hc, by simpa using Option.isSome_iff_ne_none.1 hr⟩
  unfold State.hostReady
  rw [this, Bool.false_and]

theorem exec_hostAccess_waits {write : Option (List Byte)} (h : s.hostReady tenant va write len = false) :
    exec (.hostAccess tenant va write len) s = .next s := by
  show execHostAccess tenant va write len s = _
  simp [execHostAccess, h]

theorem exec_hostWrite (h : s.hostReady tenant va (some bs) len = true) {ps : List Nat}
    (hp : s.tablePlaces (tenant.getD 0) va bs.length 1 = some ps) :
    exec (.hostAccess tenant va (some bs) len) s = .next (s.outsideWrite (tenant.getD 0) va ps bs) := by
  show execHostAccess tenant va (some bs) len s = _
  simp [execHostAccess, h, hp]

theorem exec_hostWrite_fault (h : s.hostReady tenant va (some bs) len = true)
    (hp : s.tablePlaces (tenant.getD 0) va bs.length 1 = none) :
    exec (.hostAccess tenant va (some bs) len) s = .next (s.hostFault (tenant.getD 0) va bs.length 1) := by
  show execHostAccess tenant va (some bs) len s = _
  simp [execHostAccess, h, hp]

theorem exec_hostRead (h : s.hostReady tenant va none len = true) {ps : List Nat}
    (hp : s.tablePlaces (tenant.getD 0) va len 0 = some ps) :
    exec (.hostAccess tenant va none len) s = .next (s.outsideRead .host (tenant.getD 0) va ps) := by
  show execHostAccess tenant va none len s = _
  simp [execHostAccess, h, hp]

theorem exec_hostRead_fault (h : s.hostReady tenant va none len = true) (hp : s.tablePlaces (tenant.getD 0) va len 0 = none) :
    exec (.hostAccess tenant va none len) s = .next ((s.hostFault (tenant.getD 0) va len 0).reply .host none) := by
  show execHostAccess tenant va none len s = _
  simp [execHostAccess, h, hp]

end HostAccess

theorem length_tablePlaces {s : State} {tenant va n access : Nat} {ps : List Nat} (h : s.tablePlaces tenant va n access = some ps) :
    ps.length = n := by
  unfold State.tablePlaces at h
  split at h
  · cases h
    simp [upFrom]
  · simp at h

theorem hostFault_denied {s : State} {q va n access : Nat} (h : s.tableError q va n access = none) :
    s.hostFault q va n access = s.postFault 0 (hostEntry q (va % 2 ^ 57) access) := by
  rw [State.hostFault, h]
  rfl

theorem hostFault_error {s : State} {q va n access pa : Nat} (h : s.tableError q va n access = some pa) :
    s.hostFault q va n access = s.outsideError q (va % 2 ^ 57) access [pa] := by
  rw [State.hostFault, h]

/-- The reply to the host, where there is one, added to those sent. -/
def State.answered (s : State) (answer : Option Reply) : State := { s with replies := s.replies ++ answer.toList }

/-- A host access that is denied leaves an entry of KIND 2 in the queue of die 0, or held for it. -/
theorem denied_spec {i : Instr} {s : State} {q va n access : Nat} (answer : Option Reply) (he : s.tableError q va n access = none)
    (h : exec i s = .next ((s.hostFault q va n access).answered answer)) :
    let entry := fun (e : FaultEntry) =>
      e.kind = 2 ∧ e.cause = 0x20 ∧ e.tenant = q ∧ e.access = access ∧ e.addr = va % 2 ^ 57 ∧ e.core = 1023
    (s.dieRoom 0 = true → (∀ h ∈ s.heldFaults, h.1 ≠ 0) → ∃ e, entry e ∧ exec i s = .next { s with
      dieQ := s.dieQ ++ [(0, e)], nextToken := s.nextToken + 1, replies := s.replies ++ answer.toList }) ∧
    (s.dieRoom 0 = false → ∃ e, entry e ∧ exec i s = .next { s with
      heldFaults := s.heldFaults ++ [(0, e)], replies := s.replies ++ answer.toList }) := by
  rw [hostFault_denied he] at h
  refine ⟨fun room held =>
      ⟨{ hostEntry q (va % 2 ^ 57) access with token := s.nextToken, clock := BitVec.ofNat 64 s.stime },
        ⟨rfl, rfl, rfl, rfl, rfl, rfl⟩, ?_⟩,
    fun full => ⟨hostEntry q (va % 2 ^ 57) access, ⟨rfl, rfl, rfl, rfl, rfl, rfl⟩, ?_⟩⟩
  · rw [h, postFault_room room held rfl]; rfl
  · rw [h, postFault_full full]; rfl

/-- An access from outside that meets an uncorrectable error leaves an entry of KIND 3 in the queue of die 0. -/
theorem spoilt_spec {i : Instr} {s : State} {q addr access : Nat} {ps : List Nat} (answer : Option Reply)
    (h : exec i s = .next ((s.outsideError q addr access ps).answered answer)) :
    s.dieRoom 0 = true → (∀ h ∈ s.heldFaults, h.1 ≠ 0) → Gives i s fun t => ∃ e, t = { s with
      dieQ := s.dieQ ++ [(0, e)], nextToken := s.nextToken + 1, columns := t.columns, replies := s.replies ++ answer.toList,
      netBad := s.netBad.filter fun m => decide (m ≠ .outside) } ∧
      e.kind = 3 ∧ e.cause = 0x21 ∧ e.tenant = q ∧ e.access = access ∧ e.addr = addr := by
  intro room held
  refine ⟨_, h, { errorEntry q addr access with token := s.nextToken, clock := BitVec.ofNat 64 s.stime }, ?_, rfl, rfl, rfl, rfl, rfl⟩
  rw [outsideError_eq room held]
  rfl

end Sys2Proof.Machine

end

section
/-! SUPPORT. What arrives at a port (R183, R184), and launch packets of the fabric (R32). -/

namespace Sys2Proof.Machine

/-! ### Flits (R184) -/

section Flit

variable {s : State} {port left : Nat} {ok : Bool} {tag : Byte} {body : List Byte}

theorem exec_flit_noPort (h : 36 ≤ port) : exec (.flitReceive port ok tag ⟨body, left⟩) s = .next s :=
  congrArg Host.Outcome.next (if_pos h)

theorem exec_flit_resent (h : port < 36) (hb : ok = false ∨ blockOf tag body = none) :
    exec (.flitReceive port ok tag ⟨body, left⟩) s = .next { s with resent := s.resent + 1 } := by
  have noBlock : (if ok then blockOf tag body else none) = none := by
    rcases hb with rfl | hb
    · rfl
    · rw [hb, ite_self]
  refine congrArg Host.Outcome.next ((if_neg (Nat.not_le.2 h)).trans ?_)
  simp only [noBlock]

theorem exec_flit_block (h : port < 36) {block : List Byte} (hb : blockOf tag body = some block) :
    exec (.flitReceive port true tag ⟨body, left⟩) s = .next { s with portIn := s.portIn ++ [(port, block.take left)] } := by
  refine congrArg Host.Outcome.next ((if_neg (Nat.not_le.2 h)).trans ?_)
  simp only [if_true, hb]

end Flit

/-- The bytes of a block that stand under the bits of a mask of 32 bytes. -/
theorem underMask_leNat (mask block : List Byte) : underMask (leNat mask) 0 block =
    (block.zipIdx.filter fun p => (mask.getD (p.2 / 8) 0).getLsbD (p.2 % 8)).map (·.1) := by
  simp only [underMask, testBit_leNat]

/-! ### Launch packets (R32, R33) -/

theorem permits_iff {x : Tenant} {sender : Nat} {r : LaunchRec} : x.permits sender r = true ↔
    x.cfg.launchOn = true ∧ sender ∈ x.cfg.senders ∧ r.entry ∈ x.cfg.entries ∧ r.cls ≤ x.cfg.maxClass := by
  simp [Tenant.permits, and_assoc]

theorem dropPacket_eq {s : State} {q : Nat} {x : Tenant} (h : s.tenant q = some x) :
    s.dropPacket q = { s with tenants := mset s.tenants q { x with drops := x.drops + 1 } } := by
  rw [State.dropPacket, State.onTenant, h]
  rfl

section Packet

variable {s : State} {q sender : Nat} {record : BitVec 512}

theorem exec_packet_stranger (h : s.tenant q = none) : exec (.fabricLaunchPacket ⟨q, sender⟩ record) s = .next s := by
  show execFabricLaunchPacket ⟨q, sender⟩ record s = _
  rw [execFabricLaunchPacket, h]

variable {x : Tenant} (hx : s.tenant q = some x)
include hx

theorem exec_packet_refused (h : ¬ x.permits sender (.ofNat record.toNat) = true) :
    exec (.fabricLaunchPacket ⟨q, sender⟩ record) s = .next (s.dropPacket q) := by
  show execFabricLaunchPacket ⟨q, sender⟩ record s = _
  simp [execFabricLaunchPacket, hx, h]

theorem exec_packet_rejected (h : x.permits sender (.ofNat record.toNat) = true)
    (hl : s.checkLaunch (.ofNat record.toNat) q = none) : exec (.fabricLaunchPacket ⟨q, sender⟩ record) s =
      .next ((s.dropPacket q).postFault 0 { FaultEntry.blank with kind := 4, tenant := q }) := by
  show execFabricLaunchPacket ⟨q, sender⟩ record s = _
  simp [execFabricLaunchPacket, hx, h, hl]

theorem exec_packet_accepted (h : x.permits sender (.ofNat record.toNat) = true) {l : Launch}
    (hl : s.checkLaunch (.ofNat record.toNat) q = some l) : exec (.fabricLaunchPacket ⟨q, sender⟩ record) s =
      .next (s.addLaunch l (s.leastPool q) none none) := by
  show execFabricLaunchPacket ⟨q, sender⟩ record s = _
  simp [execFabricLaunchPacket, hx, h, hl]

end Packet

theorem trimRanges_eq {s : State} (h : ∀ y ∈ s.ranges, y.a < y.b) : s.trimRanges = s := by
  rw [State.trimRanges, List.filter_eq_self.2 fun y hy => decide_eq_true (h y hy)]

/-- A launch with an index not yet taken is not complete. -/
theorem launchCheck_untaken {s : State} {l : Nat} {y : Range} (hy : y ∈ s.ranges) (hl : y.launch = l) (hab : y.a < y.b) :
    s.launchCheck l = s := by
  have untaken : (s.ranges.any fun r => decide (r.launch = l) && decide (r.a < r.b)) = true :=
    List.any_eq_true.2 ⟨y, hy, by simp [hl, hab]⟩
  unfold State.launchCheck
  split
  · rfl
  · simp [untaken]

theorem addLaunch_eq {s : State} {l : Launch} (hl : l.rec_.lo < l.rec_.hi) (hr : ∀ y ∈ s.ranges, y.a < y.b) (cluster : Nat)
    (owner task : Option Nat) : s.addLaunch l cluster owner task = { s with
      nextId := s.nextId + 1
      launches := mset s.launches s.nextId l
      ranges := s.ranges ++ [{ cluster := cluster, launch := s.nextId, a := l.rec_.lo, b := l.rec_.hi, owner := owner,
                               task := task }] } := by
  rw [State.addLaunch, trimRanges_eq]
  · exact launchCheck_untaken (List.mem_append_right _ (List.mem_singleton_self _)) rfl hl
  · exact List.forall_mem_append.2 ⟨hr, List.forall_mem_singleton.2 hl⟩

end Sys2Proof.Machine
end

section
/-! SUPPORT. Accesses of a peer and of RDMA at guest-physical addresses of one 2 MiB frame (R101, R182, R183). -/

namespace Sys2Proof.Machine

/-! ### The places of a run of guest-physical bytes -/

theorem mem_upFrom {a n k : Nat} : k ∈ upFrom a n ↔ a ≤ k ∧ k < a + n := by
  rw [upFrom, List.mem_map]
  constructor
  · rintro ⟨i, hi, rfl⟩
    have := List.mem_range.1 hi
    omega
  · rintro ⟨ha, hk⟩
    exact ⟨k - a, List.mem_range.2 (by omega), by omega⟩

theorem length_upFrom (a n : Nat) : (upFrom a n).length = n := by simp [upFrom]

theorem map_upFrom {α : Type} (f : Nat → α) (a n : Nat) : (upFrom a n).map f = (List.range n).map fun i => f (a + i) := by
  rw [upFrom, List.map_map]
  rfl

theorem pagesOf_subset {va n p : Nat} (h : p ∈ pagesOf va n) : ∃ i, i < n ∧ p = va + i := by
  unfold pagesOf at h
  split at h
  · cases h
  · rcases List.mem_cons.1 h with rfl | h
    · exact ⟨0, by omega, rfl⟩
    · obtain ⟨j, hj, rfl⟩ := List.mem_map.1 h
      have := List.mem_range.1 hj
      exact ⟨(va / 4096 + 1 + j) * 4096 - va, by omega, by omega⟩

theorem mem_pagesOf_self {va n : Nat} (h : 0 < n) : va ∈ pagesOf va n := by
  rw [pagesOf, if_neg (by omega)]
  exact List.mem_cons_self

theorem stage2_low {s : State} {q gpa : Nat} {t : Tenant} (ht : s.tenant q = some t) (hg : gpa < 2 ^ 39) : s.stage2 q gpa =
    let e := ((mget t.stage2 (gpa / Config.frameBytes)).getD 0).toNat
    if bit e 3 || !bit e 0 then .no .replayable
    else .ok (bits e 47 21 * Config.frameBytes + gpa % Config.frameBytes) (bit e 1) (bit e 2) := by
  have hbit : bit gpa 47 = false := by rw [bit_eq_testBit, Nat.testBit_lt_two_pow (Nat.lt_trans hg (by decide))]
  simp only [State.stage2, ht, hbit, Nat.mod_eq_of_lt (Nat.lt_trans hg (by decide : 2 ^ 39 < 2 ^ 48))]
  rfl

/-- Stage 2 maps a frame as a whole: the addresses of one frame get places as far apart as they are. -/
theorem stage2_add {s : State} {q gpa pa i : Nat} {rd wr : Bool} (h : s.stage2 q gpa = .ok pa rd wr) (hg : gpa < 2 ^ 39)
    (hf : gpa / 2 ^ 21 = (gpa + i) / 2 ^ 21) : s.stage2 q (gpa + i) = .ok (pa + i) rd wr ∧ pa + i < Config.peerBase := by
  cases ht : s.tenant q with
  | none => simp [State.stage2, ht] at h
  | some t =>
    have same : (gpa + i) / Config.frameBytes = gpa / Config.frameBytes := hf.symm
    have offset : (gpa + i) % Config.frameBytes = gpa % Config.frameBytes + i := by
      simp only [Config.frameBytes] at same ⊢
      omega
    rw [stage2_low ht hg] at h
    rw [stage2_low ht (by omega), same, offset]
    generalize ((mget t.stage2 (gpa / Config.frameBytes)).getD 0).toNat = e at h ⊢
    have frame : bits e 47 21 < 2 ^ 27 := Nat.mod_lt _ (by decide)
    simp only at h ⊢
    split at h
    · cases h
    · next hok =>
      injection h with hpa hrd hwr
      rw [if_neg hok, ← hpa, hrd, hwr, Nat.add_assoc]
      refine ⟨rfl, ?_⟩
      have := Nat.mod_lt (gpa + i) (show 0 < Config.frameBytes by decide)
      rw [offset] at this
      simp only [Config.frameBytes, Config.peerBase] at this ⊢
      omega

/-- The place of a guest-physical address for an access that reads or writes. -/
def State.guestPlace (s : State) (q : Nat) (read write : Bool) (gpa : Nat) : Option Nat :=
  match s.stage2 q gpa with
  | .ok pa rd wr => if (!read || rd) && (!write || wr) && !s.peerFault pa then some pa else none
  | .no _ => none

theorem guestPlaces_eq (s : State) (q gpa n : Nat) (read write : Bool) : s.guestPlaces q gpa n read write =
    if (pagesOf gpa n).all fun p => (s.guestPlace q read write p).isSome then
      some ((upFrom gpa n).map fun a => (s.guestPlace q read write a).getD 0)
    else none := rfl

/-- A run of bytes, not empty, lies in one frame. -/
def InFrame (gpa n : Nat) : Prop := 0 < n ∧ gpa / 2 ^ 21 = (gpa + n - 1) / 2 ^ 21

/-- Stage 2 gives the place of an address with the permissions that an access needs. -/
def State.Mapped (s : State) (q gpa pa : Nat) (read write : Bool) : Prop :=
  ∃ rd wr, s.stage2 q gpa = .ok pa rd wr ∧ (read = true → rd = true) ∧ (write = true → wr = true)

/-- Stage 2 gives an address no place, or one without a permission that an access needs. -/
def State.Denied (s : State) (q gpa pa : Nat) (read write : Bool) : Prop := (∃ f, s.stage2 q gpa = .no f) ∨
  ∃ rd wr, s.stage2 q gpa = .ok pa rd wr ∧ (read = true ∧ rd = false ∨ write = true ∧ wr = false)

section Guest

variable {s : State} {q gpa pa n : Nat} {read write : Bool}

theorem guestPlace_mapped (hm : s.Mapped q gpa pa read write) (hg : gpa < 2 ^ 39) {i : Nat}
    (hf : gpa / 2 ^ 21 = (gpa + i) / 2 ^ 21) : s.guestPlace q read write (gpa + i) = some (pa + i) := by
  obtain ⟨rd, wr, h, hrd, hwr⟩ := hm
  obtain ⟨hi, hlt⟩ := stage2_add h hg hf
  have rdOk : (!read || rd) = true := by cases read <;> simp_all
  have wrOk : (!write || wr) = true := by cases write <;> simp_all
  have own : s.peerFault (pa + i) = false := by simp [State.peerFault, Nat.not_le.2 hlt]
  simp only [State.guestPlace, hi]
  rw [rdOk, wrOk, own]
  rfl

theorem guestPlace_denied (hd : s.Denied q gpa pa read write) : s.guestPlace q read write gpa = none := by
  rcases hd with ⟨f, h⟩ | ⟨rd, wr, h, ⟨rfl, rfl⟩ | ⟨rfl, rfl⟩⟩ <;> simp [State.guestPlace, h]

theorem inFrame_add (hn : InFrame gpa n) {i : Nat} (hi : i < n) : gpa / 2 ^ 21 = (gpa + i) / 2 ^ 21 := by
  obtain ⟨hpos, hf⟩ := hn
  omega

theorem lt_peerBase_of_mapped (hm : s.Mapped q gpa pa read write) (hg : gpa < 2 ^ 39) (hn : InFrame gpa n) :
    ∀ p ∈ upFrom pa n, p < Config.peerBase := by
  intro p hp
  obtain ⟨rd, wr, h, -⟩ := hm
  obtain ⟨hlo, hhi⟩ := mem_upFrom.1 hp
  obtain ⟨-, hlt⟩ := stage2_add h hg (inFrame_add hn (i := p - pa) (by omega))
  omega

theorem guestPlaces_mapped (hm : s.Mapped q gpa pa read write) (hg : gpa < 2 ^ 39) (hn : InFrame gpa n) :
    s.guestPlaces q gpa n read write = some (upFrom pa n) := by
  have place : ∀ i, i < n → s.guestPlace q read write (gpa + i) = some (pa + i) := fun i hi =>
    guestPlace_mapped hm hg (inFrame_add hn hi)
  rw [guestPlaces_eq, if_pos]
  · rw [map_upFrom, upFrom]
    exact congrArg some (List.map_congr_left fun i hi => by rw [place i (List.mem_range.1 hi)]; rfl)
  · refine List.all_eq_true.2 fun p hp => ?_
    obtain ⟨i, hi, rfl⟩ := pagesOf_subset hp
    rw [place i hi]
    rfl

theorem guestPlaces_denied (hd : s.Denied q gpa pa read write) (hn : InFrame gpa n) :
    s.guestPlaces q gpa n read write = none := by
  rw [guestPlaces_eq, if_neg]
  intro h
  have := List.all_eq_true.1 h gpa (mem_pagesOf_self hn.1)
  rw [guestPlace_denied hd] at this
  cases this

theorem noRemap_of (hr : ∀ c ∈ s.columns, c.2.remap = none) : s.noRemap = true := by
  simpa [State.noRemap] using hr

theorem guestReady_denied (hr : s.noRemap = true) (hp : s.guestPlaces q gpa n read write = none) :
    s.guestReady q gpa n read write = true := by
  rw [State.guestReady, hr, hp]
  rfl

theorem guestReady_some (hr : s.noRemap = true) {ps : List Nat} (hp : s.guestPlaces q gpa n read write = some ps) :
    s.guestReady q gpa n read write = s.servedAll ps := by
  rw [State.guestReady, hr, hp]
  rfl

theorem servedAll_upFrom : s.servedAll (upFrom pa n) = true ↔ ∀ i, i < n → s.served (pa + i) = true := by
  simp [State.servedAll, upFrom]

end Guest

/-! ### What is written and read -/

theorem memRead_eq (noisy : SMap FrameBase) (m : List Host.Cell) (k n : Nat) :
    memRead noisy m k n = (upFrom k n).map (memGet noisy m) := by
  induction n generalizing k with
  | zero => rfl
  | succ n ih =>
    rw [memRead, ih, map_upFrom, map_upFrom, List.range_succ_eq_map, List.map_cons, List.map_map]
    refine congrArg _ (List.map_congr_left fun i _ => ?_)
    rw [Function.comp, Nat.add_assoc, Nat.add_comm 1 i]

theorem map_byte_upFrom (s : State) (pa n : Nat) : (upFrom pa n).map s.byte = s.bytes pa n := (memRead_eq ..).symm

/-- Bytes written at places one after another are written from the first place up. -/
theorem WritesAt.writes {s t : State} {pa : Nat} {bs : List Byte} (h : WritesAt s t (upFrom pa bs.length) bs) : Writes s t pa bs := by
  obtain ⟨rest, here, others⟩ := h
  refine ⟨rest, fun k => ?_⟩
  split
  · next hk =>
    refine here (k - pa) k ?_
    rw [upFrom, List.getElem?_map, List.getElem?_range (by omega)]
    simp [Nat.add_sub_cancel' hk.1]
  · next hk => exact others k fun hmem => hk (mem_upFrom.1 hmem)

/-! ### Accesses of RDMA (R183) -/

section Rdma

variable {s : State} {q gpa n : Nat} {bs : List Byte} {ps : List Nat}

theorem exec_rdmaWrite_waits (h : s.guestReady q gpa bs.length false true = false) :
    exec (.rdmaWrite q gpa bs) s = .next s := by
  show execRdmaWrite q gpa bs s = _
  simp [execRdmaWrite, h]

theorem exec_rdmaWrite_denied (hp : s.guestPlaces q gpa bs.length false true = none) :
    exec (.rdmaWrite q gpa bs) s = .next s := by
  show execRdmaWrite q gpa bs s = _
  simp [execRdmaWrite, hp]

theorem exec_rdmaWrite (h : s.guestReady q gpa bs.length false true = true)
    (hp : s.guestPlaces q gpa bs.length false true = some ps) :
    exec (.rdmaWrite q gpa bs) s = .next (s.outsideWrite q 0 ps bs) := by
  show execRdmaWrite q gpa bs s = _
  simp [execRdmaWrite, h, hp]

theorem exec_rdmaRead_waits (h : s.guestReady q gpa n true false = false) : exec (.rdmaRead q gpa n) s = .next s := by
  show execRdmaRead q gpa n s = _
  simp [execRdmaRead, h]

theorem exec_rdmaRead_denied (h : s.guestReady q gpa n true false = true) (hp : s.guestPlaces q gpa n true false = none) :
    exec (.rdmaRead q gpa n) s = .next (s.reply .ethernet none) := by
  show execRdmaRead q gpa n s = _
  simp [execRdmaRead, h, hp]

theorem exec_rdmaRead (h : s.guestReady q gpa n true false = true) (hp : s.guestPlaces q gpa n true false = some ps) :
    exec (.rdmaRead q gpa n) s = .next (s.outsideRead .ethernet q 0 ps) := by
  show execRdmaRead q gpa n s = _
  simp [execRdmaRead, h, hp]

end Rdma

/-! ### Accesses of a peer (R182) -/

/-- The run that a peer's access meets: its bytes, and whether it reads and writes. -/
def peerReach : PeerOp → Nat × Bool × Bool
  | .write bs => (bs.length, false, true)
  | .read n => (n, true, false)
  | op => ((peerChange op).1, true, true)

/-- A peer's operation is an atomic: neither a write nor a read. -/
def AtomicOp (op : PeerOp) : Prop := (∀ bs, op ≠ .write bs) ∧ ∀ n, op ≠ .read n

section Peer

variable {s : State} {q peer gpa : Nat} {op : PeerOp} {ps : List Nat}

theorem peerReady_eq (s : State) (q gpa : Nat) (op : PeerOp) : s.peerReady q gpa op =
    s.guestReady q (gpa % 2 ^ 39) (peerReach op).1 (peerReach op).2.1 (peerReach op).2.2 := by
  cases op <;> rfl

theorem exec_peer_waits (hg : gpa < 2 ^ 39)
    (h : s.guestReady q gpa (peerReach op).1 (peerReach op).2.1 (peerReach op).2.2 = false) :
    exec (.fabricPeerAccess q peer gpa op) s = .next s := by
  refine congrArg Host.Outcome.next (if_neg ?_)
  rw [peerReady_eq, Nat.mod_eq_of_lt hg, h]
  exact Bool.false_ne_true

theorem exec_peer (hg : gpa < 2 ^ 39)
    (h : s.guestReady q gpa (peerReach op).1 (peerReach op).2.1 (peerReach op).2.2 = true) :
    exec (.fabricPeerAccess q peer gpa op) s = .next (s.peerAccess q peer gpa op) := by
  refine congrArg Host.Outcome.next ((if_pos ?_).trans ?_)
  · rw [peerReady_eq, Nat.mod_eq_of_lt hg, h]
  · rw [Nat.mod_eq_of_lt hg]

theorem peerAccess_denied (hp : s.guestPlaces q gpa (peerReach op).1 (peerReach op).2.1 (peerReach op).2.2 = none) :
    s.peerAccess q peer gpa op = s.reply (.peer peer) none := by
  cases op <;> simp only [peerReach] at hp <;> simp only [State.peerAccess, hp]

theorem peerAccess_write {bs : List Byte} (hp : s.guestPlaces q gpa bs.length false true = some ps) :
    s.peerAccess q peer gpa (.write bs) = (s.outsideWrite q 0 ps bs).reply (.peer peer) (some []) := by
  simp only [State.peerAccess, hp]

theorem peerAccess_read {n : Nat} (hp : s.guestPlaces q gpa n true false = some ps) :
    s.peerAccess q peer gpa (.read n) = s.outsideRead (.peer peer) q 0 ps := by
  simp only [State.peerAccess, hp]

theorem peerReach_atomic (hop : AtomicOp op) : peerReach op = ((peerChange op).1, true, true) := by
  cases op with
  | write bs => exact absurd rfl (hop.1 bs)
  | read n => exact absurd rfl (hop.2 n)
  | atomic | cas | add => rfl

/-- A peer's atomic, where nothing fails, writes what it makes of the bytes it finds, and answers with those. -/
theorem peerAccess_atomic (hop : AtomicOp op) (hb : s.badUnits = []) (hm : .outside ∉ s.netBad)
    (hp : s.guestPlaces q gpa (peerChange op).1 true true = some ps) (hlt : ∀ p ∈ ps, p < Config.peerBase) :
    s.peerAccess q peer gpa op = (s.outsideWrite q 0 ps (leBytes (peerChange op).1
      ((peerChange op).2 (leNat (ps.map s.byte))))).reply (.peer peer) (some (ps.map s.byte)) := by
  cases op with
  | write bs => exact absurd rfl (hop.1 bs)
  | read n => exact absurd rfl (hop.2 n)
  | atomic | cas | add => simp only [State.peerAccess, hp, not_outsideBad hb hm, devReads_eq s hlt]; rfl

end Peer

/-! ### The three cases of an access at guest-physical addresses -/

/-- What the accesses of a peer and of RDMA suppose: sound memory without an error, no remapping step, and an address that names no
other package. -/
structure Undisturbed (s : State) (gpa : Nat) : Prop where
  mem : MemOk s
  units : s.badUnits = []
  net : .outside ∉ s.netBad
  low : gpa < 2 ^ 39
  remap : s.noRemap = true

section Cases

variable {s : State} {q gpa pa n : Nat} {read write : Bool} (hu : Undisturbed s gpa) (hn : InFrame gpa n)
include hu hn

theorem guestReady_held (h : s.Mapped q gpa pa read write ∧ ∃ i, i < n ∧ s.served (pa + i) = false) :
    s.guestReady q gpa n read write = false := by
  obtain ⟨hm, i, hi, hno⟩ := h
  rw [guestReady_some hu.remap (guestPlaces_mapped hm hu.low hn), ← Bool.not_eq_true, servedAll_upFrom]
  exact fun hall => by simp [hall i hi] at hno

theorem guest_reach (h : s.Mapped q gpa pa read write ∧ ∀ i, i < n → s.served (pa + i) = true) :
    s.guestReady q gpa n read write = true ∧ s.guestPlaces q gpa n read write = some (upFrom pa n) ∧
      ∀ p ∈ upFrom pa n, p < Config.peerBase := by
  obtain ⟨hm, hall⟩ := h
  have places := guestPlaces_mapped hm hu.low hn
  exact ⟨(guestReady_some hu.remap places).trans (servedAll_upFrom.2 hall), places, lt_peerBase_of_mapped hm hu.low hn⟩

theorem guest_denied (h : s.Denied q gpa pa read write) :
    s.guestReady q gpa n read write = true ∧ s.guestPlaces q gpa n read write = none := by
  have places := guestPlaces_denied h hn
  exact ⟨guestReady_denied hu.remap places, places⟩

end Cases

/-- The answer to a peer, added to the replies that stood before its access. -/
def State.tells (s m : State) (peer : Nat) (bs : Option (List Byte)) : State :=
  { m with replies := s.replies ++ [⟨.peer peer, bs, wireOf (bs.getD [])⟩] }

theorem reply_peer {s m : State} (h : m.replies = s.replies) (peer : Nat) (bs : Option (List Byte)) :
    m.reply (.peer peer) bs = s.tells m peer bs := by
  rw [State.reply, State.tells, h]

theorem writes_outsideWrite {s : State} {gpa : Nat} (hu : Undisturbed s gpa) (q : Nat) {pa : Nat} {bs : List Byte}
    (hlt : ∀ p ∈ upFrom pa bs.length, p < Config.peerBase) :
    Writes s (s.outsideWrite q 0 (upFrom pa bs.length) bs) pa bs :=
  (writesAt_outsideWrite hu.mem hu.units hu.net q 0 (length_upFrom ..) (nodup_upFrom ..) hlt).writes

theorem replies_of_writes {s t : State} {pa : Nat} {bs : List Byte} (h : Writes s t pa bs) : t.replies = s.replies :=
  (congrArg State.replies h.rest).trans rfl

/-- A peer's atomic waits, or changes what it finds and answers with it, or is refused. -/
theorem peer_atomic_cases {s : State} {gpa : Nat} (hu : Undisturbed s gpa) (q peer pa : Nat) {op : PeerOp} (hop : AtomicOp op)
    (hn : InFrame gpa (peerChange op).1) : let w := (peerChange op).1
    let i := Instr.fabricPeerAccess q peer gpa op
    ((s.Mapped q gpa pa true true ∧ ∃ i, i < w ∧ s.served (pa + i) = false) → exec i s = .next s) ∧
    ((s.Mapped q gpa pa true true ∧ ∀ i, i < w → s.served (pa + i) = true) → Gives i s fun t => ∃ m,
      Writes s m pa (leBytes w ((peerChange op).2 (s.num pa w))) ∧ t = s.tells m peer (some (s.bytes pa w))) ∧
    (s.Denied q gpa pa true true → exec i s = .next (s.tells s peer none)) := by
  intro w i
  have reach := peerReach_atomic hop
  refine ⟨fun h => exec_peer_waits hu.low ?_, fun h => ?_, fun h => ?_⟩
  · rw [reach]
    exact guestReady_held hu hn h
  · obtain ⟨ready, places, hlt⟩ := guest_reach hu hn h
    have old : (upFrom pa w).map s.byte = s.bytes pa w := map_byte_upFrom ..
    have hl : (leBytes w ((peerChange op).2 (s.num pa w))).length = w := length_leBytes ..
    have written := writes_outsideWrite hu q (pa := pa) (bs := leBytes w ((peerChange op).2 (s.num pa w))) (by rwa [hl])
    rw [hl] at written
    refine ⟨_, exec_peer hu.low (by rw [reach]; exact ready), _, written, ?_⟩
    rw [peerAccess_atomic hop hu.units hu.net places hlt, old]
    exact reply_peer (replies_of_writes written) ..
  · obtain ⟨ready, places⟩ := guest_denied hu hn h
    rw [exec_peer hu.low (by rw [reach]; exact ready), peerAccess_denied (by rw [reach]; exact places)]
    rfl

/-- A write at guest-physical addresses, of RDMA or of a peer: it waits, or is made, or has no effect here. -/
theorem guest_write_cases {s : State} {gpa : Nat} (hu : Undisturbed s gpa) (q peer pa : Nat) {bs : List Byte}
    (hn : InFrame gpa bs.length) : let w := Instr.rdmaWrite q gpa bs
    let p := Instr.fabricPeerAccess q peer gpa (.write bs)
    ((s.Mapped q gpa pa false true ∧ ∃ i, i < bs.length ∧ s.served (pa + i) = false) →
      exec w s = .next s ∧ exec p s = .next s) ∧
    ((s.Mapped q gpa pa false true ∧ ∀ i, i < bs.length → s.served (pa + i) = true) → (Gives w s fun t => Writes s t pa bs) ∧
      Gives p s fun t => ∃ m, Writes s m pa bs ∧ t = s.tells m peer (some [])) ∧
    (s.Denied q gpa pa false true → exec w s = .next s ∧ exec p s = .next (s.tells s peer none)) := by
  intro w p
  refine ⟨fun h => ?_, fun h => ?_, fun h => ?_⟩
  · have waits := guestReady_held hu hn h
    exact ⟨exec_rdmaWrite_waits waits, exec_peer_waits hu.low waits⟩
  · obtain ⟨ready, places, hlt⟩ := guest_reach hu hn h
    have written := writes_outsideWrite hu q hlt
    refine ⟨⟨_, exec_rdmaWrite ready places, written⟩, _, exec_peer hu.low ready, _, written, ?_⟩
    rw [peerAccess_write places]
    exact reply_peer (replies_of_writes written) ..
  · obtain ⟨ready, places⟩ := guest_denied hu hn h
    refine ⟨exec_rdmaWrite_denied places, ?_⟩
    rw [exec_peer hu.low ready, peerAccess_denied places]
    rfl

/-- A read at guest-physical addresses, of a peer or of RDMA: it waits, or gets the bytes, or an error. -/
theorem guest_read_cases {s : State} {gpa : Nat} (hu : Undisturbed s gpa) (q peer pa : Nat) {n : Nat}
    (hn : InFrame gpa n) : let r := Instr.rdmaRead q gpa n
    let p := Instr.fabricPeerAccess q peer gpa (.read n)
    ((s.Mapped q gpa pa true false ∧ ∃ i, i < n ∧ s.served (pa + i) = false) → exec r s = .next s ∧ exec p s = .next s) ∧
    ((s.Mapped q gpa pa true false ∧ ∀ i, i < n → s.served (pa + i) = true) →
      exec p s = .next (s.tells s peer (some (s.bytes pa n))) ∧
        exec r s = .next { s with replies := s.replies ++ [⟨.ethernet, some (s.bytes pa n), []⟩] }) ∧
    (s.Denied q gpa pa true false → exec p s = .next (s.tells s peer none) ∧
      exec r s = .next { s with replies := s.replies ++ [⟨.ethernet, none, []⟩] }) := by
  intro r p
  refine ⟨fun h => ?_, fun h => ?_, fun h => ?_⟩
  · have waits := guestReady_held hu hn h
    exact ⟨exec_rdmaRead_waits waits, exec_peer_waits hu.low waits⟩
  · obtain ⟨ready, places, hlt⟩ := guest_reach hu hn h
    rw [exec_peer hu.low ready, exec_rdmaRead ready places, peerAccess_read places, outsideRead_eq hu.units hu.net _ q 0 hlt,
      outsideRead_eq hu.units hu.net _ q 0 hlt, map_byte_upFrom]
    exact ⟨rfl, rfl⟩
  · obtain ⟨ready, places⟩ := guest_denied hu hn h
    rw [exec_peer hu.low ready, exec_rdmaRead_denied ready places, peerAccess_denied places]
    exact ⟨rfl, rfl⟩

end Sys2Proof.Machine
end

section

namespace Sys2Proof.Proofs

open Machine

/-- Settles O51: each access from outside is a bring-up, a translated run of bytes that waits, is served or is refused, a packet,
or a flit, whose block decodes to what was sent. -/
theorem outsideAccesses : Obligations.OutsideAccesses := by
  unfold Obligations.OutsideAccesses
  refine ⟨fun s lit failed => ⟨fun up => congrArg Host.Outcome.next (if_pos up), fun down => powerOnReset_spec down lit failed⟩,
    fun s tenant va bs len hs => ?_, fun s q sender record => ⟨exec_packet_stranger, fun x hx => ?_⟩,
    fun s q peer gpa pa hs hb hm hg hr => ?_, fun s port left ok tag body block => ?_, fun bs => ?_, fun s port data =>
      ⟨fun h => congrArg Host.Outcome.next (if_neg (Nat.not_le.2 h)), fun h => congrArg Host.Outcome.next (if_pos h)⟩⟩
  · intro w r q
    have unanswered : ∀ t : State, t.answered none = t := fun t => by simp [State.answered]
    refine ⟨fun h => ⟨exec_hostAccess_waits (hostReady_remap h _), exec_hostAccess_waits (hostReady_remap h _)⟩,
      exec_hostAccess_waits, exec_hostAccess_waits, fun ready => ⟨fun hp he => ?_, fun ps hp hm => ?_, fun pa hp he => ?_,
        fun ps hp hn hlt hb hm => ?_⟩, fun ready => ⟨fun hp he => ?_, fun pa hp he => ?_, fun ps hp => ⟨fun hbad => ?_,
        fun hlt hb hm => ?_⟩⟩⟩
    · simpa only [Option.toList_none, List.append_nil] using
        denied_spec none he (by rw [unanswered]; exact exec_hostWrite_fault ready hp)
    · simpa only [Option.toList_none, List.append_nil] using
        spoilt_spec none (by rw [unanswered, ← outsideWrite_marked hm]; exact exec_hostWrite ready hp)
    · simpa only [Option.toList_none, List.append_nil] using
        spoilt_spec none ((exec_hostWrite_fault ready hp).trans (by rw [hostFault_error he, unanswered]))
    · obtain ⟨rest, here, others⟩ := writesAt_outsideWrite hs hb hm q va (length_tablePlaces hp) hn hlt
      exact ⟨_, exec_hostWrite ready hp, rest, here, others⟩
    · exact denied_spec (some ⟨.host, none, []⟩) he (exec_hostRead_fault ready hp)
    · exact spoilt_spec (some ⟨.host, none, []⟩) ((exec_hostRead_fault ready hp).trans (by rw [hostFault_error he]; rfl))
    · refine spoilt_spec (ps := ps) (some ⟨.host, none, []⟩) ((exec_hostRead ready hp).trans ?_)
      rw [State.outsideRead, if_pos (outsideBad_iff.2 hbad)]
      rfl
    · exact (exec_hostRead ready hp).trans (congrArg Host.Outcome.next (outsideRead_eq hb hm .host q va hlt))
  · intro permits dropped entry
    have drops : s.dropPacket q = dropped := dropPacket_eq hx
    refine ⟨fun no => ?_, fun yes rejected => ⟨fun room held => ?_, fun full => ?_⟩, fun l yes accepted lo ordered => ?_⟩
    · rw [exec_packet_refused hx (mt permits_iff.1 no), drops]
    · rw [exec_packet_rejected hx (permits_iff.2 yes) rejected, drops, postFault_room (s := dropped) room held rfl]
      exact ⟨_, ⟨rfl, rfl, rfl⟩, rfl⟩
    · rw [exec_packet_rejected hx (permits_iff.2 yes) rejected, drops, postFault_full (s := dropped) full]
      exact ⟨_, ⟨rfl, rfl, rfl⟩, rfl⟩
    · rw [exec_packet_accepted hx (permits_iff.2 yes) accepted, addLaunch_eq lo ordered]
  · have hu : Undisturbed s gpa := ⟨hs, hb, hm, hg, noRemap_of hr⟩
    refine ⟨fun bs hn => guest_write_cases hu q peer pa hn, fun n hn => guest_read_cases hu q peer pa hn,
      fun v hn => peer_atomic_cases hu q peer pa (op := .add v) ⟨nofun, nofun⟩ hn,
      fun w8 cmp new hn => peer_atomic_cases hu q peer pa (op := .cas w8 cmp new) ⟨nofun, nofun⟩ hn,
      fun opt v hn => peer_atomic_cases hu q peer pa (op := .atomic opt v) ⟨nofun, nofun⟩ hn⟩
  · refine ⟨exec_flit_noPort, fun h hno => exec_flit_resent h (.inl hno), fun hl => ⟨fun h => ?_, sendBlock_shortest⟩,
      fun hl => blockOf_repeat.2 ⟨hl, rfl⟩, fun mask hmask hblock => ?_, fun h hno => exec_flit_resent h (.inr ?_)⟩
    · exact exec_flit_block h (blockOf_sendBlock hl)
    · obtain ⟨hl, hbody, hzero⟩ := (blockOf_sparse hmask).1 hblock
      exact ⟨hl, by rwa [underMask_leNat] at hbody, fun i hi hbit => hzero i hi (by rwa [testBit_leNat])⟩
    · rcases Nat.lt_or_ge tag.toNat 4 with ht | ht
      · exact hno ht
      · exact blockOf_other ht body
  · refine ⟨?_, fun b hb => ?_, ?_, fun i b => exists_wireOf⟩
    · rw [payloadBlocks_eq]
      exact flatten_payloadBlocks bs _ (by omega)
    · obtain ⟨j, -, rfl⟩ := List.mem_map.1 hb
      exact length_payloadBlock bs j
    · rw [wireOf, payloadBlocks_eq, List.length_map, List.length_map, List.length_range]

end Sys2Proof.Proofs
end

section
/-! SUPPORT. Two copies under one number, of which a landing picks the first (R117, R121, R253). -/

namespace Sys2Proof.Machine.SharedNumber

/-- One element of a copy: the whole of its destination. -/
def chunk : Chunk := { num := 0, off := 0, addr := 0x2000, len := 1, dead := false, srcGone := false, void := false }

/-- A copy of one byte within the stacked DRAM of tenant 0, which maps no frame. -/
def copy : Copy :=
  { id := 5, core := 0, guid := 0, tid := 0, tenant := 0, gid := 0, dims := [], saddr := 0x1000, daddr := 0x2000, ctr := 0,
    ssp := false, dsp := false, csp := false, sfmt := 8, dfmt := 8, rnd := 0, sat := false, owed := [chunk], batch := none,
    outcome := 0, flags := 0, paused := none, kept := [] }

/-- Another one, that thread 1 has started. -/
def other : Copy := { copy with tid := 1 }

/-- Both copies stand under the number 5. -/
def state : State := { State.reset with ready := true, copies := [copy, other] }

theorem memOk : MemOk state := ⟨rfl, by decide⟩

/-- The tables of the tenant end at once: the source's translation is a replayable fault (R101, R167). -/
theorem landing_fault : ∃ va access, copy.landing state chunk = .fault .replayable va access := ⟨0x1000, 0, by rfl⟩

/-- The fault pauses both copies, each as it stands. -/
theorem threads_paused : (match exec (.copyChunkLanding 5 0) state with | .next t => t.copies.map (·.tid) | _ => []) = [0, 1] := by
  decide

end Sys2Proof.Machine.SharedNumber

namespace Sys2Proof.Proofs

open Machine

/-- Refutes O46: the statement lets two copies bear one number, and says that a replayable fault puts the paused copy in the place of
both.  The model pauses each of them as it stands, so that the copy of another thread stays that thread's. -/
theorem not_copiesAndKvComplete : ¬ Obligations.CopiesAndKvComplete := by
  unfold Obligations.CopiesAndKvComplete
  intro h
  obtain ⟨landings, -⟩ := h
  obtain ⟨-, -, replayable, -⟩ := landings SharedNumber.state SharedNumber.copy SharedNumber.chunk (by decide) (by decide) rfl rfl
    (by decide) (by decide) (by decide) (by decide) (by decide) (by decide) (by decide) SharedNumber.memOk rfl
  obtain ⟨va, access, fault⟩ := SharedNumber.landing_fault
  obtain ⟨t, ht, -, copies, -⟩ := replayable va access rfl rfl fault
  have paused : t.copies.map (·.tid) = [0, 1] := by
    have := SharedNumber.threads_paused
    rwa [show exec (.copyChunkLanding 5 0) SharedNumber.state = .next t from ht] at this
  rw [copies] at paused
  exact absurd paused (by decide)

end Sys2Proof.Proofs
end

section
/-! SUPPORT. Rounding (R44, R50, R51): what a magnitude in units of a power of two rounds to, the codes of a floating-point format in
the order of the magnitudes that they stand for, and the rounding into a format. -/

namespace Sys2Proof.Machine

/-! ### Magnitudes in units of a power of two -/

theorem two_zpow_pos (e : Int) : (0 : Rat) < 2 ^ e := zpow_pos two_pos e

/-- A magnitude in a finer unit. -/
theorem scaled_finer (m : Nat) {e q : Int} (h : q ≤ e) : (m : Rat) * 2 ^ e = ((m * 2 ^ (e - q).toNat : Nat) : Rat) * 2 ^ q := by
  have hs : e = ((e - q).toNat : Int) + q := by omega
  push_cast
  rw [mul_assoc, ← zpow_natCast, ← zpow_add₀ two_ne_zero, ← hs]

theorem scaled_lt_scaled {a b : Nat} {e : Int} : (a : Rat) * 2 ^ e < b * 2 ^ e ↔ a < b := by
  rw [mul_lt_mul_iff_left₀ (two_zpow_pos e), Nat.cast_lt]

theorem scaled_le_scaled {a b : Nat} {e : Int} : (a : Rat) * 2 ^ e ≤ b * 2 ^ e ↔ a ≤ b := by
  rw [mul_le_mul_iff_left₀ (two_zpow_pos e), Nat.cast_le]

theorem scaled_inj {a b : Nat} {e : Int} : (a : Rat) * 2 ^ e = b * 2 ^ e ↔ a = b := by
  rw [mul_left_inj' (two_zpow_pos e).ne', Nat.cast_inj]

theorem compare_scaled (a b : Nat) (e : Int) : compare ((a : Rat) * 2 ^ e) (b * 2 ^ e) = compare a b := by
  rcases lt_trichotomy a b with h | h | h
  · rw [compare_lt_iff_lt.2 h, compare_lt_iff_lt, scaled_lt_scaled]; exact h
  · rw [compare_eq_iff_eq.2 h, compare_eq_iff_eq, h]
  · rw [compare_gt_iff_gt.2 h, compare_gt_iff_gt]; exact scaled_lt_scaled.2 h

theorem compare_scaled_finer (m j : Nat) {e q : Int} (h : q ≤ e) :
    compare ((m : Rat) * 2 ^ e) (j * 2 ^ q) = compare (m * 2 ^ (e - q).toNat) j := by
  rw [scaled_finer m h, compare_scaled]

theorem compare_scaled_coarser (m j : Nat) {e q : Int} (h : e ≤ q) :
    compare ((m : Rat) * 2 ^ e) (j * 2 ^ q) = compare m (j * 2 ^ (q - e).toNat) := by
  rw [scaled_finer j h, compare_scaled]

theorem half_unit (k : Nat) (q : Int) : ((k : Rat) + 1 / 2) * 2 ^ q = ((2 * k + 1 : Nat) : Rat) * 2 ^ (q - 1) := by
  rw [zpow_sub_one₀ two_ne_zero]; push_cast; ring

theorem succ_unit (k : Nat) (q : Int) : ((k : Rat) + 1) * 2 ^ q = ((k + 1 : Nat) : Rat) * 2 ^ q := by push_cast; rfl

/-- The whole units of 2^q in m × 2^e. -/
def wholeUnits (m : Nat) (e q : Int) : Nat := if q ≤ e then m * 2 ^ (e - q).toNat else m / 2 ^ (q - e).toNat

/-- A comparison that is that with m × 2^e at every multiple of 2^b. -/
def ComparesAs (cmp : Rat → Ordering) (m : Nat) (e b : Int) : Prop :=
  ∀ (j : Nat) (q : Int), b ≤ q → cmp (j * 2 ^ q) = compare ((m : Rat) * 2 ^ e) (j * 2 ^ q)

theorem comparesAs_self (m : Nat) (e b : Int) : ComparesAs (compare ((m : Rat) * 2 ^ e)) m e b := fun _ _ _ => rfl

theorem ComparesAs.coarser {cmp : Rat → Ordering} {m : Nat} {e b b' : Int} (h : ComparesAs cmp m e b) (hb : b ≤ b') :
    ComparesAs cmp m e b' := fun j q hq => h j q (hb.trans hq)

/-! ### Rounding to a unit (R50) -/

/-- Without a remainder the units are kept. -/
theorem roundsTo_of_eq {mode : Nat} {neg : Bool} {cmp : Rat → Ordering} {q : Int} {k : Nat}
    (heq : cmp (k * (2 : Rat) ^ q) = .eq) (below : cmp ((k + 1) * (2 : Rat) ^ q) = .lt) : RoundsTo mode neg cmp q k k where
  above := by rw [heq]; nofun
  below := below
  exact _ := rfl
  nearest _ h := by rw [heq] at h; cases h
  directed _ h := by rw [heq] at h; cases h

/-- Which way a remainder `r` of `2^s` goes. -/
theorem roundShift_fst (mode : Nat) (neg : Bool) (m s : Nat) : (roundShift mode neg m s).1 =
    if (match mode with
      | 0 => decide (2 ^ s < 2 * (m % 2 ^ s)) || (decide (2 * (m % 2 ^ s) = 2 ^ s) && decide (m / 2 ^ s % 2 = 1))
      | 1 => false
      | 2 => neg && decide (m % 2 ^ s ≠ 0)
      | _ => !neg && decide (m % 2 ^ s ≠ 0)) then m / 2 ^ s + 1 else m / 2 ^ s := rfl

/-- A number against the middle of its multiple of `2^(s + 1)` and the next. -/
theorem compare_half (m s : Nat) :
    compare m ((2 * (m / 2 ^ (s + 1)) + 1) * 2 ^ s) = compare (2 * (m % 2 ^ (s + 1))) (2 ^ (s + 1)) := by
  have hd := Nat.div_add_mod m (2 ^ (s + 1))
  have middle : (2 * (m / 2 ^ (s + 1)) + 1) * 2 ^ s = 2 ^ (s + 1) * (m / 2 ^ (s + 1)) + 2 ^ s := by ring
  have double : 2 ^ (s + 1) = 2 * 2 ^ s := pow_succ' 2 s
  rw [middle]
  rcases lt_trichotomy (2 * (m % 2 ^ (s + 1))) (2 ^ (s + 1)) with h | h | h
  · rw [compare_lt_iff_lt.2 h, compare_lt_iff_lt]; omega
  · rw [compare_eq_iff_eq.2 h, compare_eq_iff_eq]; omega
  · rw [compare_gt_iff_gt.2 h, compare_gt_iff_gt]; omega

theorem compare_mul_add (k d r : Nat) : compare (k * d + r) (k * d) = if r = 0 then .eq else .gt := by
  split
  · rw [compare_eq_iff_eq]; omega
  · rw [compare_gt_iff_gt]; omega

/-- Rounding by a shift, for a comparison with m / 2^s at multiples of one half. -/
theorem roundShift_roundsTo {mode : Nat} (hmode : mode < 4) (neg : Bool) {cmp : Rat → Ordering} {m s : Nat} {q : Int}
    (here : cmp ((m / 2 ^ s : Nat) * 2 ^ q) = if m % 2 ^ s = 0 then .eq else .gt)
    (next : cmp (((m / 2 ^ s : Nat) + 1) * 2 ^ q) = .lt)
    (half : cmp (((m / 2 ^ s : Nat) + 1 / 2) * 2 ^ q) = compare (2 * (m % 2 ^ s)) (2 ^ s)) :
    RoundsTo mode neg cmp q (m / 2 ^ s) (roundShift mode neg m s).1 := by
  by_cases hr : m % 2 ^ s = 0
  · rw [if_pos hr] at here
    have : (roundShift mode neg m s).1 = m / 2 ^ s := by
      rw [roundShift_fst]
      interval_cases mode <;> simp [hr, (Nat.two_pow_pos s).ne]
    rw [this]
    exact roundsTo_of_eq here next
  rw [if_neg hr] at here
  refine ⟨by rw [here]; nofun, next, (fun h => by rw [here] at h; cases h), fun h0 _ => ?_, fun h0 _ => ?_⟩
  · subst h0
    rw [roundShift_fst, half]
    rcases lt_trichotomy (2 * (m % 2 ^ s)) (2 ^ s) with h | h | h
    · rw [compare_lt_iff_lt.2 h]
      simp [h.not_gt, h.ne]
    · rw [compare_eq_iff_eq.2 h]
      rcases Nat.mod_two_eq_zero_or_one (m / 2 ^ s) with e | e <;> simp [h, e]
    · rw [compare_gt_iff_gt.2 h]
      simp [show 2 ^ s < 2 * (m % 2 ^ s) from h]
  · rw [roundShift_fst]
    interval_cases mode
    · exact absurd rfl h0
    · rfl
    · cases neg <;> simp [hr]
    · cases neg <;> simp [hr]

theorem roundShift_snd (mode : Nat) (neg : Bool) (m s : Nat) : (roundShift mode neg m s).2 = decide (m % 2 ^ s ≠ 0) := rfl

/-- R50: what `roundAt` makes of a magnitude, for a comparison that is exact at multiples of half the unit. -/
theorem roundAt_roundsTo {mode : Nat} (hmode : mode < 4) (neg : Bool) {cmp : Rat → Ordering} {m : Nat} {e q : Int}
    (hcmp : ComparesAs cmp m e (q - 1)) :
    RoundsTo mode neg cmp q (wholeUnits m e q) (roundAt mode neg m e q).1 ∧
    ((roundAt mode neg m e q).2 = true ↔ cmp (wholeUnits m e q * 2 ^ q) = .gt) := by
  unfold roundAt wholeUnits
  by_cases hq : q ≤ e
  · simp only [if_pos hq]
    have heq : cmp ((m * 2 ^ (e - q).toNat : Nat) * 2 ^ q) = .eq := by
      rw [hcmp _ _ (by omega), compare_scaled_finer _ _ hq, compare_eq_iff_eq]
    refine ⟨roundsTo_of_eq heq ?_, by rw [heq]; simp⟩
    rw [succ_unit, hcmp _ _ (by omega), compare_scaled_finer _ _ hq, compare_lt_iff_lt]
    exact Nat.lt_succ_self _
  · simp only [if_neg hq]
    obtain ⟨s, hs⟩ : ∃ s, (q - e).toNat = s + 1 := ⟨(q - e).toNat - 1, by omega⟩
    rw [hs]
    have hd := Nat.div_add_mod' m (2 ^ (s + 1))
    have hr := Nat.mod_lt m (Nat.two_pow_pos (s + 1))
    have here : cmp ((m / 2 ^ (s + 1) : Nat) * 2 ^ q) = if m % 2 ^ (s + 1) = 0 then .eq else .gt := by
      rw [hcmp _ _ (by omega), compare_scaled_coarser _ _ (by omega), hs, ← compare_mul_add (m / 2 ^ (s + 1)) (2 ^ (s + 1)), hd]
    refine ⟨roundShift_roundsTo hmode neg here ?_ ?_, ?_⟩
    · rw [succ_unit, hcmp _ _ (by omega), compare_scaled_coarser _ _ (by omega), hs, compare_lt_iff_lt]
      exact Nat.lt_mul_of_div_lt (Nat.lt_succ_self _) (Nat.two_pow_pos _)
    · have hs' : (q - 1 - e).toNat = s := by omega
      rw [half_unit, hcmp _ _ (by omega), compare_scaled_coarser _ _ (by omega), hs']
      exact compare_half m s
    · rw [here, roundShift_snd]
      split <;> simp_all

/-! ### The units of a precision -/

theorem le_wholeUnits {m n : Nat} {e q : Int} : n ≤ wholeUnits m e q ↔ (n : Rat) * 2 ^ q ≤ m * 2 ^ e := by
  unfold wholeUnits
  split
  · rw [scaled_finer m ‹q ≤ e›, scaled_le_scaled]
  · rw [scaled_finer n (show e ≤ q by omega), scaled_le_scaled, Nat.le_div_iff_mul_le (Nat.two_pow_pos _)]

theorem wholeUnits_lt {m n : Nat} {e q : Int} : wholeUnits m e q < n ↔ (m : Rat) * 2 ^ e < n * 2 ^ q := by
  rw [← not_le, le_wholeUnits, not_le]

theorem wholeUnits_antitone (m : Nat) (e : Int) {q q' : Int} (h : q ≤ q') : wholeUnits m e q' ≤ wholeUnits m e q := by
  rw [le_wholeUnits]
  calc ((wholeUnits m e q' : Nat) : Rat) * 2 ^ q ≤ (wholeUnits m e q' : Nat) * 2 ^ q' :=
        mul_le_mul_of_nonneg_left (zpow_le_zpow_right₀ one_le_two h) (Nat.cast_nonneg _)
    _ ≤ m * 2 ^ e := le_wholeUnits.1 le_rfl

/-- The unit in which a magnitude takes `p` bits. -/
def ownUnit (m : Nat) (e : Int) (p : Nat) : Int := e + Int.ofNat (Nat.log2 m + 1) - Int.ofNat p

theorem two_pow_scaled (a : Nat) (e : Int) : ((2 ^ a : Nat) : Rat) * 2 ^ e = 2 ^ ((a : Int) + e) := by
  push_cast
  rw [← zpow_natCast, ← zpow_add₀ two_ne_zero]

theorem wholeUnits_ownUnit {m : Nat} (hm : m ≠ 0) (e : Int) {p : Nat} (hp : 0 < p) :
    2 ^ (p - 1) ≤ wholeUnits m e (ownUnit m e p) ∧ wholeUnits m e (ownUnit m e p) < 2 ^ p := by
  rw [le_wholeUnits, wholeUnits_lt]
  have lower : ((2 ^ m.log2 : Nat) : Rat) * 2 ^ e ≤ m * 2 ^ e := scaled_le_scaled.2 (Nat.log2_self_le hm)
  have upper : (m : Rat) * 2 ^ e < ((2 ^ (m.log2 + 1) : Nat) : Rat) * 2 ^ e := scaled_lt_scaled.2 Nat.lt_log2_self
  rw [two_pow_scaled] at lower upper
  rw [two_pow_scaled, two_pow_scaled, ownUnit]
  simp only [Int.ofNat_eq_natCast]
  rw [show ((p - 1 : Nat) : Int) + (e + ((m.log2 + 1 : Nat) : Int) - (p : Int)) = (m.log2 : Int) + e by omega,
    show (p : Int) + (e + ((m.log2 + 1 : Nat) : Int) - (p : Int)) = ((m.log2 + 1 : Nat) : Int) + e by omega]
  exact ⟨lower, upper⟩

theorem roundAt_bounds (mode : Nat) (neg : Bool) (m : Nat) (e q : Int) :
    wholeUnits m e q ≤ (roundAt mode neg m e q).1 ∧ (roundAt mode neg m e q).1 ≤ wholeUnits m e q + 1 := by
  unfold roundAt wholeUnits
  split
  · simp
  · have up : ∀ (b : Bool) (k : Nat), k ≤ (if b then k + 1 else k) ∧ (if b then k + 1 else k) ≤ k + 1 := by
      intro b k
      cases b <;> simp
    rw [roundShift_fst]
    exact up _ _

/-- The rounding of a magnitude to precision `p` with least unit 2^qmin, in the terms of R50: `q` and `q'` are the units under the
bounded and the unbounded exponent. -/
structure FinRounded (mode : Nat) (neg : Bool) (cmp : Rat → Ordering) (p : Nat) (qmin q q' : Int) (k y k' y' : Nat)
    (r : Nat × Int × Bool × Bool) : Prop where
  rounds : RoundsTo mode neg cmp q k y
  least : qmin ≤ q
  fits : k < 2 ^ p
  full : 2 ^ (p - 1) ≤ k ∨ q = qmin
  rounds' : RoundsTo mode neg cmp q' k' y'
  full' : 2 ^ (p - 1) ≤ k'
  fits' : k' < 2 ^ p
  value : (r.1 : Rat) * 2 ^ r.2.1 = y * 2 ^ q
  unit : qmin ≤ r.2.1
  narrow : r.1 < 2 ^ p
  subnormal : r.1 < 2 ^ (p - 1) → r.2.1 = qmin
  inexact : r.2.2.1 = true ↔ cmp (k * 2 ^ q) = .gt
  tiny : r.2.2.2 = true ↔ (y' : Rat) * 2 ^ q' < 2 ^ (qmin + p - 1)

theorem roundFin_eq (mode : Nat) (neg : Bool) (m : Nat) (e : Int) (p : Nat) (qmin : Int) :
    roundFin mode neg m e p qmin =
      let qu := ownUnit m e p
      let q := if qu < qmin then qmin else qu
      let y := (roundAt mode neg m e q).1
      let tiny := if qu < qmin then decide ((roundAt mode neg m e qu).1 < 2 ^ (p - 1 + (qmin - qu).toNat)) else false
      if y = 2 ^ p then (2 ^ (p - 1), q + 1, (roundAt mode neg m e q).2, tiny) else (y, q, (roundAt mode neg m e q).2, tiny) := rfl

/-- R50: what `roundFin` makes of a magnitude, for a comparison that is exact at multiples of half its own unit. -/
theorem roundFin_rounded {mode : Nat} (hmode : mode < 4) (neg : Bool) {cmp : Rat → Ordering} {m : Nat} (hm : m ≠ 0) {e : Int} {p : Nat}
    (hp : 0 < p) (qmin : Int) (hcmp : ComparesAs cmp m e (ownUnit m e p - 1)) :
    ∃ q q' k y k' y', FinRounded mode neg cmp p qmin q q' k y k' y' (roundFin mode neg m e p qmin) := by
  rw [roundFin_eq]
  obtain ⟨hfull, hfits⟩ := wholeUnits_ownUnit hm e hp
  generalize hqu : ownUnit m e p = qu at *
  obtain ⟨q, hq⟩ : ∃ q, q = if qu < qmin then qmin else qu := ⟨_, rfl⟩
  have hquq : qu ≤ q := by split at hq <;> omega
  obtain ⟨rounds, inexact⟩ := roundAt_roundsTo hmode neg (hcmp.coarser (show qu - 1 ≤ q - 1 by omega))
  obtain ⟨rounds', -⟩ := roundAt_roundsTo hmode neg hcmp
  have fits : wholeUnits m e q < 2 ^ p := (wholeUnits_antitone m e hquq).trans_lt hfits
  have full : 2 ^ (p - 1) ≤ wholeUnits m e q ∨ q = qmin := by
    split at hq
    · exact .inr hq
    · exact .inl (hq ▸ hfull)
  obtain ⟨hlo, hhi⟩ := roundAt_bounds mode neg m e q
  have tiny : (if qu < qmin then decide ((roundAt mode neg m e qu).1 < 2 ^ (p - 1 + (qmin - qu).toNat)) else false) = true ↔
      ((roundAt mode neg m e qu).1 : Rat) * 2 ^ qu < 2 ^ (qmin + p - 1) := by
    have unit : (2 : Rat) ^ (qmin + p - 1) = ((2 ^ (p - 1) : Nat) : Rat) * 2 ^ qmin := by
      rw [two_pow_scaled]; congr 1; omega
    rw [unit]
    by_cases hlt : qu < qmin
    · rw [if_pos hlt, decide_eq_true_iff, scaled_finer _ hlt.le, scaled_lt_scaled, pow_add]
    · rw [if_neg hlt]
      have hge : ((2 ^ (p - 1) : Nat) : Rat) * 2 ^ qmin ≤ ((roundAt mode neg m e qu).1 : Nat) * 2 ^ qu :=
        mul_le_mul (Nat.cast_le.2 (hfull.trans (roundAt_bounds mode neg m e qu).1)) (zpow_le_zpow_right₀ one_le_two (by omega))
          (two_zpow_pos _).le (Nat.cast_nonneg _)
      exact ⟨nofun, fun h => absurd h hge.not_gt⟩
  have least : qmin ≤ q := by split at hq <;> omega
  refine ⟨q, qu, wholeUnits m e q, (roundAt mode neg m e q).1, wholeUnits m e qu, (roundAt mode neg m e qu).1, ?_⟩
  simp only [← hq]
  by_cases hy : (roundAt mode neg m e q).1 = 2 ^ p
  · rw [if_pos hy]
    refine ⟨rounds, least, fits, full, rounds', hfull, hfits, ?_, by show qmin ≤ q + 1; omega,
      Nat.pow_lt_pow_right one_lt_two (by omega), fun h => absurd h (lt_irrefl _), inexact, tiny⟩
    show ((2 ^ (p - 1) : Nat) : Rat) * 2 ^ (q + 1) = _
    rw [hy, two_pow_scaled, two_pow_scaled]
    congr 1
    omega
  · rw [if_neg hy]
    exact ⟨rounds, least, fits, full, rounds', hfull, hfits, rfl, least, by show _ < _; omega,
      fun h => full.resolve_left (by have : _ < _ := h; omega), inexact, tiny⟩

/-! ### Codes in the order of their magnitudes (R44) -/

/-- Mantissa bits of a floating-point format. -/
def fracBits (f : Nat) : Nat := (fmtShape f).2.1

/-- The exponent of the least unit of a floating-point format. -/
def leastUnit (f : Nat) : Int := 1 - Int.ofNat (fmtShape f).2.2 - Int.ofNat (fracBits f)

/-- The magnitude of a code without its sign, in least units, by its mantissa bits. -/
def codeMag (mb c : Nat) : Nat := if c / 2 ^ mb = 0 then c else (c % 2 ^ mb + 2 ^ mb) * 2 ^ (c / 2 ^ mb - 1)

theorem codeMag_subnormal {mb c : Nat} (h : c < 2 ^ mb) : codeMag mb c = c := by
  rw [codeMag, if_pos (Nat.div_eq_of_lt h)]

theorem codeMag_normal {mb x : Nat} (h : x < 2 ^ mb) (e : Nat) : codeMag mb (x + (e + 1) * 2 ^ mb) = (x + 2 ^ mb) * 2 ^ e := by
  have hd : (x + (e + 1) * 2 ^ mb) / 2 ^ mb = e + 1 := by
    rw [Nat.add_mul_div_right _ _ (Nat.two_pow_pos mb), Nat.div_eq_of_lt h, zero_add]
  rw [codeMag, hd, if_neg (Nat.succ_ne_zero e), Nat.add_mul_mod_self_right, Nat.mod_eq_of_lt h, Nat.add_sub_cancel]

/-- Every code is a mantissa below an exponent. -/
theorem code_split (mb c : Nat) : c < 2 ^ mb ∨ ∃ x e, x < 2 ^ mb ∧ c = x + (e + 1) * 2 ^ mb := by
  by_cases h : c < 2 ^ mb
  · exact .inl h
  · obtain ⟨e, he⟩ := Nat.exists_eq_add_of_le' (Nat.div_pos (not_lt.1 h) (Nat.two_pow_pos mb))
    exact .inr ⟨c % 2 ^ mb, e, Nat.mod_lt _ (Nat.two_pow_pos mb), by rw [← he]; exact (Nat.mod_add_div' c _).symm⟩

theorem codeMag_lt_succ (mb c : Nat) : codeMag mb c < codeMag mb (c + 1) := by
  have hpos := Nat.two_pow_pos mb
  rcases code_split mb c with h | ⟨x, e, hx, rfl⟩
  · rw [codeMag_subnormal h]
    rcases Nat.lt_or_eq_of_le (Nat.succ_le_of_lt h) with h' | h'
    · rw [codeMag_subnormal h']; exact Nat.lt_succ_self c
    · have := codeMag_normal hpos 0
      rw [zero_add, zero_add, one_mul, zero_add, pow_zero, mul_one] at this
      rw [show c + 1 = 2 ^ mb from h', this, ← h']
      exact Nat.lt_succ_self c
  · rw [codeMag_normal hx]
    rcases Nat.lt_or_eq_of_le (Nat.succ_le_of_lt hx) with h' | h'
    · rw [show x + (e + 1) * 2 ^ mb + 1 = x + 1 + (e + 1) * 2 ^ mb by omega, codeMag_normal h']
      exact Nat.mul_lt_mul_of_pos_right (by omega) (Nat.two_pow_pos e)
    · have hx' : x + 1 = 2 ^ mb := h'
      rw [show x + (e + 1) * 2 ^ mb + 1 = 0 + (e + 1 + 1) * 2 ^ mb by rw [Nat.add_one_mul (e + 1)]; omega, codeMag_normal hpos,
        zero_add, pow_succ' 2 e, ← mul_assoc]
      exact Nat.mul_lt_mul_of_pos_right (by omega) (Nat.two_pow_pos e)

theorem codeMag_strictMono (mb : Nat) : StrictMono (codeMag mb) := strictMono_nat_of_lt_succ (codeMag_lt_succ mb)

/-- The code of a mantissa in units of 2^q, the least unit being 2^qmin. -/
theorem codeMag_of_units {mb md : Nat} {q qmin : Int} (hw : md < 2 ^ (mb + 1)) (hq : qmin ≤ q) (hs : md < 2 ^ mb → q = qmin) :
    codeMag mb (if md < 2 ^ mb then md else md - 2 ^ mb + (q - qmin + 1).toNat * 2 ^ mb) = md * 2 ^ (q - qmin).toNat := by
  split
  · rw [codeMag_subnormal ‹_›, hs ‹_›, sub_self, Int.toNat_zero, pow_zero, mul_one]
  · rw [show (q - qmin + 1).toNat = (q - qmin).toNat + 1 by omega, codeMag_normal (by rw [pow_succ] at hw; omega),
      Nat.sub_add_cancel (not_lt.1 ‹_›)]

/-! ### What a sign and a code stand for -/

theorem signed_fields {eb mb c : Nat} (neg : Bool) (hc : c < 2 ^ (eb + mb)) :
    let x := (if neg then 2 ^ (eb + mb) else 0) + c
    (decide (x / 2 ^ (eb + mb) % 2 = 1) = neg) ∧ x / 2 ^ mb % 2 ^ eb = c / 2 ^ mb ∧ x % 2 ^ mb = c % 2 ^ mb := by
  have hq : c / 2 ^ mb < 2 ^ eb := by rw [Nat.div_lt_iff_lt_mul (Nat.two_pow_pos mb), ← pow_add]; exact hc
  cases neg
  · simp only [Bool.false_eq_true, if_false, zero_add]
    exact ⟨by rw [Nat.div_eq_of_lt hc]; rfl, Nat.mod_eq_of_lt hq, trivial⟩
  · simp only [if_true]
    refine ⟨?_, ?_, ?_⟩
    · rw [Nat.add_div_left _ (Nat.two_pow_pos _), Nat.div_eq_of_lt hc]; rfl
    · rw [pow_add, Nat.mul_comm, Nat.mul_add_div (Nat.two_pow_pos mb), Nat.add_mod_left, Nat.mod_eq_of_lt hq]
    · rw [pow_add, Nat.mul_comm, Nat.mul_add_mod]

theorem dec_float {f : Nat} (hf : f < 6) (x : Nat) : dec f x =
    let eb := (fmtShape f).1
    let mb := fracBits f
    let neg := decide (x / 2 ^ (eb + mb) % 2 = 1)
    let e := x / 2 ^ mb % 2 ^ eb
    let m := x % 2 ^ mb
    if f = 3 ∧ e = 15 ∧ m = 7 then .nan
    else if f ≠ 3 ∧ f ≠ 5 ∧ e = 2 ^ eb - 1 then (if m = 0 then .inf neg else .nan)
    else if e = 0 then .fin neg m (leastUnit f)
    else .fin neg (m + 2 ^ mb) (Int.ofNat e - Int.ofNat (fmtShape f).2.2 - Int.ofNat mb) := by
  interval_cases f <;> rfl

/-- R44: what a sign and a code stand for. -/
theorem dec_signed {f : Nat} (hf : f < 6) (neg : Bool) {c : Nat} (hc : c < 2 ^ ((fmtShape f).1 + fracBits f)) :
    dec f (signBits f neg + c) =
      let e := c / 2 ^ fracBits f
      let m := c % 2 ^ fracBits f
      if f = 3 ∧ e = 15 ∧ m = 7 then .nan
      else if f ≠ 3 ∧ f ≠ 5 ∧ e = 2 ^ (fmtShape f).1 - 1 then (if m = 0 then .inf neg else .nan)
      else if e = 0 then .fin neg m (leastUnit f)
      else .fin neg (m + 2 ^ fracBits f) (Int.ofNat e - Int.ofNat (fmtShape f).2.2 - Int.ofNat (fracBits f)) := by
  obtain ⟨hs, he, hm⟩ := signed_fields neg hc
  rw [← show signBits f neg = if neg then 2 ^ ((fmtShape f).1 + fracBits f) else 0 from rfl] at hs he hm
  rw [dec_float hf]
  simp only [hs, he, hm]

/-- The largest finite code is below the codes of infinities and NaNs. -/
theorem finite_code {f : Nat} (hf : f < 6) {c : Nat} (hc : c ≤ maxBits f) : c < 2 ^ ((fmtShape f).1 + fracBits f) ∧
    ¬ (f = 3 ∧ c / 2 ^ fracBits f = 15 ∧ c % 2 ^ fracBits f = 7) ∧
    ¬ (f ≠ 3 ∧ f ≠ 5 ∧ c / 2 ^ fracBits f = 2 ^ (fmtShape f).1 - 1) := by
  interval_cases f <;> simp only [maxBits, fracBits, fmtShape] at hc ⊢ <;> omega

/-- A sign and a finite code stand for the code's magnitude with that sign. -/
theorem dec_finite {f : Nat} (hf : f < 6) (neg : Bool) {c : Nat} (hc : c ≤ maxBits f) : ∃ m e,
    dec f (signBits f neg + c) = .fin neg m e ∧ (m : Rat) * 2 ^ e = codeMag (fracBits f) c * 2 ^ leastUnit f := by
  obtain ⟨hlt, h3, hinf⟩ := finite_code hf hc
  rw [dec_signed hf neg hlt]
  simp only [if_neg h3, if_neg hinf]
  rcases code_split (fracBits f) c with h | ⟨x, e, hx, rfl⟩
  · rw [if_pos (Nat.div_eq_of_lt h), Nat.mod_eq_of_lt h, codeMag_subnormal h]
    exact ⟨_, _, rfl, rfl⟩
  · have hd : (x + (e + 1) * 2 ^ fracBits f) / 2 ^ fracBits f = e + 1 := by
      rw [Nat.add_mul_div_right _ _ (Nat.two_pow_pos _), Nat.div_eq_of_lt hx, zero_add]
    rw [hd, if_neg (Nat.succ_ne_zero e), Nat.add_mul_mod_self_right, Nat.mod_eq_of_lt hx, codeMag_normal hx]
    refine ⟨_, _, rfl, ?_⟩
    rw [scaled_finer (q := leastUnit f) _ (by unfold leastUnit; simp only [Int.ofNat_eq_natCast]; omega)]
    congr 4
    unfold leastUnit
    simp only [Int.ofNat_eq_natCast]
    omega

/-! ### Rounding into a floating-point format (R44, R50, R51) -/

theorem precision_eq {f : Nat} (hf : f < 6) : [24, 8, 11, 4, 3, 2].getD f 0 = fracBits f + 1 := by
  interval_cases f <;> rfl

theorem least_eq {f : Nat} (hf : f < 6) : [-149, -133, -24, -9, -16, -1].getD f 0 = leastUnit f := by
  interval_cases f <;> rfl

theorem top_eq {f : Nat} (hf : f < 6) : ([(2 ^ 24 - 1) * 2 ^ 104, 255 * 2 ^ 120, 65504, 448, 57344, 6] : List Rat).getD f 0 =
    codeMag (fracBits f) (maxBits f) * 2 ^ leastUnit f := by
  interval_cases f <;> norm_num [codeMag, fracBits, maxBits, leastUnit, fmtShape]

/-- The code of a mantissa `md` in units of 2^q. -/
def codeOf (f md : Nat) (q : Int) : Nat :=
  if md < 2 ^ fracBits f then md else md - 2 ^ fracBits f + (q - leastUnit f + 1).toNat * 2 ^ fracBits f

theorem roundFloat_fin (f mode : Nat) (sat neg : Bool) {m : Nat} (hm : m ≠ 0) (e : Int) :
    roundFloat f mode sat (.fin neg m e) =
      let r := roundFin mode neg m e (fracBits f + 1) (leastUnit f)
      if maxBits f < codeOf f r.1 r.2.1 then (overflowBits f mode sat neg, fOF ||| fNX)
      else (signBits f neg + codeOf f r.1 r.2.1,
        (if r.2.2.1 then fNX else fNone) ||| (if r.2.2.1 && r.2.2.2 then fUF else fNone)) := if_neg hm

theorem roundFloat_zero (f mode : Nat) (sat neg : Bool) (e : Int) : roundFloat f mode sat (.fin neg 0 e) = (signBits f neg, fNone) := rfl

theorem codeOf_mag {f md : Nat} {q : Int} (hw : md < 2 ^ (fracBits f + 1)) (hq : leastUnit f ≤ q)
    (hs : md < 2 ^ fracBits f → q = leastUnit f) :
    (codeMag (fracBits f) (codeOf f md q) : Rat) * 2 ^ leastUnit f = md * 2 ^ q := by
  rw [codeOf, codeMag_of_units hw hq hs, ← scaled_finer md hq]

/-- R51: what becomes of a result beyond the largest finite value. -/
theorem overflow_becomes {f mode : Nat} (hf : f < 6) (sat neg : Bool) :
    (sat = true ∨ f = 5 → overflowBits f mode sat neg = signBits f neg + maxBits f) ∧
    (sat = false → f = 3 → dec f (overflowBits f mode sat neg) = .nan) ∧
    (sat = false → f ≠ 3 → f ≠ 5 →
      (mode = 0 ∨ (mode = 2 ∧ neg = true) ∨ (mode = 3 ∧ neg = false) → dec f (overflowBits f mode sat neg) = .inf neg) ∧
      (¬ (mode = 0 ∨ (mode = 2 ∧ neg = true) ∨ (mode = 3 ∧ neg = false)) →
        overflowBits f mode sat neg = signBits f neg + maxBits f)) := by
  refine ⟨fun h => ?_, fun hs h3 => ?_, fun hs h3 h5 => ⟨fun h => ?_, fun h => ?_⟩⟩
  · unfold overflowBits
    rcases h with rfl | rfl
    · split
      · rfl
      · rfl
    · rfl
  · subst hs h3
    rw [show overflowBits 3 mode false neg = nanBits 3 from rfl]
    rfl
  · subst hs
    have : overflowBits f mode false neg = signBits f neg + maxBits f + 1 := by
      simp only [overflowBits, if_neg h3, if_neg h5, if_pos h, Bool.false_eq_true, if_false]
    rw [this]
    interval_cases f <;> cases neg <;> first | exact absurd rfl h3 | exact absurd rfl h5 | rfl
  · subst hs
    simp only [overflowBits, if_neg h3, if_neg h5, if_neg h, Bool.false_eq_true, if_false]

/-- R44, R50, R51: a magnitude is rounded into a format as IEEE 754 says, for every comparison that is exact at multiples of half the
magnitude's own unit. -/
theorem roundFloat_rounds {f mode : Nat} (hf : f < 6) (hmode : mode < 4) (sat neg : Bool) {m : Nat} (hm : m ≠ 0) {e : Int}
    {cmp : Rat → Ordering} (hcmp : ComparesAs cmp m e (ownUnit m e (fracBits f + 1) - 1)) :
    RoundsFloat f mode sat neg cmp (roundFloat f mode sat (.fin neg m e)) := by
  obtain ⟨q, q', k, y, k', y', h⟩ := roundFin_rounded hmode neg hm (show 0 < fracBits f + 1 by omega) (leastUnit f) hcmp
  unfold RoundsFloat
  rw [precision_eq hf, least_eq hf, top_eq hf, roundFloat_fin f mode sat neg hm]
  generalize roundFin mode neg m e (fracBits f + 1) (leastUnit f) = r at h
  have mag := codeOf_mag h.narrow h.unit h.subnormal
  rw [h.value] at mag
  refine ⟨q, q', k, y, k', y', h.rounds, h.least, h.fits, h.full, h.rounds', h.full', h.fits', fun hle => ?_, fun hlt => ?_⟩
  · rw [← mag, scaled_le_scaled, (codeMag_strictMono _).le_iff_le] at hle
    dsimp only
    rw [if_neg hle.not_gt]
    obtain ⟨m', e', hd, hv⟩ := dec_finite hf neg hle
    refine ⟨⟨m', e', hd, hv.trans mag⟩, fun hx => ?_, fun hx => ?_⟩
    · have exact : r.2.2.1 = false := by rw [← Bool.not_eq_true, h.inexact]; exact hx
      simp only [exact, Bool.false_and, Bool.false_eq_true, if_false]
      rfl
    · simp only [h.inexact.2 hx, Bool.true_and, if_true]
      by_cases ht : r.2.2.2 = true
      · rw [if_pos ht, if_pos (h.tiny.1 ht)]
      · rw [if_neg ht, if_neg (mt h.tiny.2 ht)]
        rfl
  · rw [← mag, scaled_lt_scaled, (codeMag_strictMono _).lt_iff_lt] at hlt
    dsimp only
    rw [if_pos hlt]
    obtain ⟨hsat, h3, hother⟩ := overflow_becomes (mode := mode) hf sat neg
    have largest : overflowBits f mode sat neg = signBits f neg + maxBits f → ∃ m e, dec f (overflowBits f mode sat neg) = .fin neg m e ∧
        (m : Rat) * 2 ^ e = codeMag (fracBits f) (maxBits f) * 2 ^ leastUnit f := fun h => h ▸ dec_finite hf neg le_rfl
    refine ⟨rfl, fun h => largest (hsat h), h3, fun hs n3 n5 => ⟨(hother hs n3 n5).1, fun h => largest ((hother hs n3 n5).2 ?_)⟩⟩
    cases neg <;> simp at h ⊢ <;> omega

/-- Rounding an exact value. -/
theorem roundFloat_rounds_exact {f mode : Nat} (hf : f < 6) (hmode : mode < 4) (sat neg : Bool) {m : Nat} (hm : m ≠ 0) (e : Int) :
    RoundsFloat f mode sat neg (compare ((m : Rat) * 2 ^ e)) (roundFloat f mode sat (.fin neg m e)) :=
  roundFloat_rounds hf hmode sat neg hm (comparesAs_self m e _)

end Sys2Proof.Machine
end

section
/-! SUPPORT. Sums and products of exact values, the order of FP32 words (R263), and what rounding makes of zeros, infinities and NaNs
(R51). -/

namespace Sys2Proof.Machine

/-! ### Sums and products -/

@[simp] theorem rat_fin (neg : Bool) (m : Nat) (e : Int) : (Val.fin neg m e).rat = (signed neg m : Rat) * 2 ^ e := by
  cases neg <;> simp [Val.rat, signed]

theorem signed_scale (neg : Bool) (m s : Nat) : signed neg (m * 2 ^ s) = signed neg m * 2 ^ s := by
  cases neg <;> simp [signed]

theorem signed_eq_zero {neg : Bool} {m : Nat} : signed neg m = 0 ↔ m = 0 := by
  cases neg <;> simp [signed]

/-- A signed integer times 2^e, and its zero. -/
theorem ofInt_fin (i e : Int) (z : Bool) : ∃ n k j, ofInt i e z = .fin n k j ∧ (ofInt i e z).rat = i * 2 ^ e ∧ (k = 0 → n = z) := by
  unfold ofInt
  split
  · refine ⟨_, _, _, rfl, ?_, fun _ => rfl⟩
    simp [signed, *]
  · refine ⟨_, _, _, rfl, ?_, fun h => absurd (Int.natAbs_eq_zero.1 h) ‹_›⟩
    rw [rat_fin]
    congr 2
    by_cases h : i < 0 <;> simp [signed, h, abs_of_neg, abs_of_nonneg, not_lt.1]

theorem signed_scaled (neg : Bool) (m : Nat) {e q : Int} (h : q ≤ e) :
    ((signed neg (m * 2 ^ (e - q).toNat) : Int) : Rat) * 2 ^ q = (signed neg m : Rat) * 2 ^ e := by
  have := scaled_finer m h
  cases neg <;> simp only [signed, Bool.false_eq_true, if_false, if_true, Int.ofNat_eq_natCast, Int.cast_neg, Int.cast_natCast, neg_mul,
    this]

/-- The sum of finite values is exact; a zero takes the sign of R263. -/
theorem add_fin (mode : Nat) (n n' : Bool) (m m' : Nat) (e e' : Int) : ∃ k j z,
    (Val.fin n m e).add mode (.fin n' m' e') = .fin z k j ∧
    ((Val.fin n m e).add mode (.fin n' m' e')).rat = (Val.fin n m e).rat + (Val.fin n' m' e').rat ∧
    (k = 0 → z = if m = 0 ∧ m' = 0 ∧ n = n' then n else decide (mode = 2)) := by
  have hl : (if e ≤ e' then e else e') ≤ e := by split <;> omega
  have hr : (if e ≤ e' then e else e') ≤ e' := by split <;> omega
  simp only [Val.add]
  generalize (if e ≤ e' then e else e') = q at hl hr
  obtain ⟨z, k, j, h, hrat, hz⟩ := ofInt_fin (signed n (m * 2 ^ (e - q).toNat) + signed n' (m' * 2 ^ (e' - q).toNat)) q
    (if m = 0 ∧ m' = 0 ∧ n = n' then n else zeroSign mode)
  refine ⟨k, j, z, h, ?_, hz⟩
  rw [hrat, Int.cast_add, add_mul, signed_scaled _ _ hl, signed_scaled _ _ hr, rat_fin, rat_fin]

theorem mul_fin (n n' : Bool) (m m' : Nat) (e e' : Int) :
    ((Val.fin n m e).mul (.fin n' m' e')).rat = (Val.fin n m e).rat * (Val.fin n' m' e').rat := by
  simp only [Val.mul, rat_fin]
  rw [zpow_add₀ two_ne_zero]
  cases n <;> cases n' <;> simp [signed] <;> ring

/-! ### FP32 words -/

/-- An FP32 word is a sign and a code: a finite one, that of an infinity, or a NaN. -/
theorem dec32_cases (x : Word) : ∃ neg c, x.toNat = signBits 0 neg + c ∧
    ((c ≤ maxBits 0 ∧ ∃ m e, dec32 x = .fin neg m e ∧ (m : Rat) * 2 ^ e = codeMag 23 c * 2 ^ (-149 : Int)) ∨
      (c = 0x7F800000 ∧ dec32 x = .inf neg) ∨ (0x7F800000 < c ∧ c < 2 ^ 31 ∧ dec32 x = .nan)) := by
  obtain ⟨neg, c, hc, hx⟩ : ∃ neg c, c < 2 ^ 31 ∧ x.toNat = signBits 0 neg + c := by
    by_cases h : x.toNat < 2 ^ 31
    · exact ⟨false, x.toNat, h, (zero_add _).symm⟩
    · exact ⟨true, x.toNat - 2 ^ 31, by omega, by simp only [signBits, fmtShape, if_true]; omega⟩
  refine ⟨neg, c, hx, ?_⟩
  rw [dec32, hx]
  rcases lt_trichotomy c 0x7F800000 with h | h | h
  · exact .inl ⟨by simp only [maxBits]; omega, dec_finite (by omega) neg (by simp only [maxBits]; omega)⟩
  · subst h
    exact .inr (.inl ⟨rfl, by rw [dec_signed (by omega) neg hc]; rfl⟩)
  · refine .inr (.inr ⟨h, hc, ?_⟩)
    rw [dec_signed (by omega) neg hc]
    simp only [fracBits, fmtShape]
    rw [if_neg (by omega), if_pos (by omega), if_neg (by omega)]

/-- A code's magnitude with the sign of its key, in units of 2^−149. -/
def keyMag (k : Int) : Int := if k < 0 then -Int.ofNat (codeMag 23 k.natAbs) else Int.ofNat (codeMag 23 k.natAbs)

theorem keyMag_natCast (c : Nat) : keyMag c = codeMag 23 c := by
  rw [keyMag, if_neg (by omega), Int.natAbs_natCast]; rfl

theorem keyMag_neg (c : Nat) : keyMag (-c) = -codeMag 23 c := by
  rcases Nat.eq_zero_or_pos c with rfl | h
  · rfl
  · rw [keyMag, if_pos (by omega), Int.natAbs_neg, Int.natAbs_natCast]; rfl

theorem keyMag_strictMono : StrictMono keyMag := by
  have mono := codeMag_strictMono 23
  have zero : codeMag 23 0 = 0 := rfl
  intro a b h
  obtain ⟨i, rfl | rfl⟩ := Int.eq_nat_or_neg a <;> obtain ⟨j, rfl | rfl⟩ := Int.eq_nat_or_neg b <;>
    simp only [keyMag_natCast, keyMag_neg]
  · exact Int.ofNat_lt.2 (mono (Int.ofNat_lt.1 h))
  · omega
  · have hi := mono.monotone (Nat.zero_le i)
    have hj := mono.monotone (Nat.zero_le j)
    rcases Nat.eq_zero_or_pos i with rfl | hp
    · have := mono (show 0 < j by omega); omega
    · have := mono hp; omega
  · have := mono (show j < i by omega); omega

theorem fpCmpKey_signed (neg : Bool) {c : Nat} (hc : c < 2 ^ 31) :
    fpCmpKey (signBits 0 neg + c) = if neg then -Int.ofNat c else Int.ofNat c := by
  cases neg
  · rw [show signBits 0 false = 0 from rfl, zero_add, fpCmpKey, if_pos hc]; rfl
  · rw [show signBits 0 true = 2 ^ 31 from rfl, fpCmpKey, if_neg (by omega), Nat.add_sub_cancel_left]; rfl

/-- An FP32 word that is no NaN by its key: a finite value, or an infinity. -/
theorem dec32_key {x : Word} (h : dec32 x ≠ .nan) :
    (∃ n m e, dec32 x = .fin n m e ∧ (dec32 x).rat = keyMag (fpCmpKey x.toNat) * 2 ^ (-149 : Int) ∧
      -0x7F800000 < fpCmpKey x.toNat ∧ fpCmpKey x.toNat < 0x7F800000) ∨
    (∃ n, dec32 x = .inf n ∧ fpCmpKey x.toNat = if n then -0x7F800000 else 0x7F800000) := by
  obtain ⟨neg, c, hx, ⟨hc, m, e, hd, hv⟩ | ⟨rfl, hd⟩ | ⟨-, -, hd⟩⟩ := dec32_cases x
  · have key : fpCmpKey x.toNat = if neg then -Int.ofNat c else Int.ofNat c := by
      simp only [maxBits] at hc
      rw [hx]
      exact fpCmpKey_signed neg (by omega)
    refine .inl ⟨neg, m, e, hd, ?_, ?_⟩
    · rw [hd, key, rat_fin]
      cases neg
      · simpa [signed, keyMag_natCast] using hv
      · simpa [signed, keyMag_neg] using hv
    · simp only [maxBits] at hc
      rw [key]
      cases neg <;> simp <;> omega
  · refine .inr ⟨neg, hd, ?_⟩
    rw [hx]
    cases neg <;> rfl
  · exact absurd hd h

/-- The order of the values is that of the keys. -/
theorem less_iff_key {x y : Word} (hx : dec32 x ≠ .nan) (hy : dec32 y ≠ .nan) :
    (dec32 x).Less (dec32 y) ↔ fpCmpKey x.toNat < fpCmpKey y.toNat := by
  obtain ⟨n, m, e, hdx, hrx, hlx, hux⟩ | ⟨n, hdx, hkx⟩ := dec32_key hx <;>
    obtain ⟨n', m', e', hdy, hry, hly, huy⟩ | ⟨n', hdy, hky⟩ := dec32_key hy
  · rw [hdx] at hrx ⊢
    rw [hdy] at hry ⊢
    show (Val.fin n m e).rat < (Val.fin n' m' e').rat ↔ _
    rw [hrx, hry, mul_lt_mul_iff_left₀ (two_zpow_pos _), Int.cast_lt, keyMag_strictMono.lt_iff_lt]
  · rw [hdx, hdy, hky]
    cases n' <;> simp [Val.Less] <;> omega
  · rw [hdx, hdy, hkx]
    cases n <;> simp [Val.Less] <;> omega
  · rw [hdx, hdy, hkx, hky]
    cases n <;> cases n' <;> simp [Val.Less]

theorem key_le_of_fpKey {x y : Nat} (h : fpKey x ≤ fpKey y) : fpCmpKey x ≤ fpCmpKey y := by
  simp only [fpKey, fpCmpKey, Int.ofNat_eq_natCast] at *
  split at h <;> split at h <;> simp only [*, if_true, if_false] <;> omega

theorem not_less_of_fpKey {x y : Word} (hx : dec32 x ≠ .nan) (hy : dec32 y ≠ .nan) (h : fpKey x.toNat ≤ fpKey y.toNat) :
    ¬ (dec32 y).Less (dec32 x) := by
  rw [less_iff_key hy hx, not_lt]
  exact key_le_of_fpKey h

theorem fpMin_nan {x y : Word} (h : dec32 x = .nan ∨ dec32 y = .nan) : fpMin x y = 0x7FC00000#32 := if_pos h

theorem fpMax_nan {x y : Word} (h : dec32 x = .nan ∨ dec32 y = .nan) : fpMax x y = 0x7FC00000#32 := if_pos h

theorem fpMin_of_ne {x y : Word} (hx : dec32 x ≠ .nan) (hy : dec32 y ≠ .nan) :
    fpMin x y = if fpKey y.toNat < fpKey x.toNat then y else x := if_neg (not_or.2 ⟨hx, hy⟩)

theorem fpMax_of_ne {x y : Word} (hx : dec32 x ≠ .nan) (hy : dec32 y ≠ .nan) :
    fpMax x y = if fpKey x.toNat < fpKey y.toNat then y else x := if_neg (not_or.2 ⟨hx, hy⟩)

theorem fpMin_least (x y : Word) : FloatLeast x y (fpMin x y) where
  nan := fpMin_nan
  one hx hy := by
    rw [fpMin_of_ne hx hy]
    split
    · exact .inr rfl
    · exact .inl rfl
  least hx hy := by
    rw [fpMin_of_ne hx hy]
    split
    · exact ⟨not_less_of_fpKey hy hx (by omega), not_less_of_fpKey hy hy le_rfl⟩
    · exact ⟨not_less_of_fpKey hx hx le_rfl, not_less_of_fpKey hx hy (by omega)⟩
  zeros := by rintro (⟨rfl, rfl⟩ | ⟨rfl, rfl⟩) <;> decide

theorem fpMax_greatest (x y : Word) : FloatGreatest x y (fpMax x y) where
  nan := fpMax_nan
  one hx hy := by
    rw [fpMax_of_ne hx hy]
    split
    · exact .inr rfl
    · exact .inl rfl
  greatest hx hy := by
    rw [fpMax_of_ne hx hy]
    split
    · exact ⟨not_less_of_fpKey hx hy (by omega), not_less_of_fpKey hy hy le_rfl⟩
    · exact ⟨not_less_of_fpKey hx hx le_rfl, not_less_of_fpKey hy hx (by omega)⟩
  zeros := by rintro (⟨rfl, rfl⟩ | ⟨rfl, rfl⟩) <;> decide

/-! ### Rounding of zeros, infinities and NaNs -/

theorem roundFloat_inf {f : Nat} (mode : Nat) (neg : Bool) (h3 : f ≠ 3) (h5 : f ≠ 5) :
    roundFloat f mode false (.inf neg) = (signBits f neg + maxBits f + 1, fNone) := by
  simp only [roundFloat, h3, h5, Bool.false_eq_true, or_self, if_false]

theorem dec_infinity {f : Nat} (hf : f < 6) (h3 : f ≠ 3) (h5 : f ≠ 5) (neg : Bool) :
    dec f (signBits f neg + maxBits f + 1) = .inf neg := by
  interval_cases f <;> first | exact absurd rfl h3 | exact absurd rfl h5 | (cases neg <;> rfl)

theorem roundFloat_inf_saturates {f mode : Nat} {sat : Bool} (hf : f < 6) (neg : Bool) (h : f = 5 ∨ sat = true) :
    (roundFloat f mode sat (.inf neg)).2 = fOF ||| fNX ∧ (roundFloat f mode sat (.inf neg)).1 = signBits f neg + maxBits f := by
  have hinf : f = 3 ∨ f = 5 ∨ sat = true := .inr h
  simp only [roundFloat, if_pos hinf, true_and]
  exact (overflow_becomes hf sat neg).1 h.symm

theorem dec_zero {f : Nat} (hf : f < 6) (neg : Bool) : dec f (signBits f neg) = .fin neg 0 (leastUnit f) := by
  have := dec_signed hf neg (Nat.two_pow_pos ((fmtShape f).1 + fracBits f))
  rw [add_zero] at this
  rw [this]
  interval_cases f <;> rfl

theorem roundFloat_nan {f : Nat} (hf : f < 6) (mode : Nat) (sat : Bool) : roundFloat f mode sat .nan =
    ([0x7FC00000, 0x7FC0, 0x7E00, 0x7F, 0x7E, 0].getD f 0, if f = 5 then fNV else 0) := by
  interval_cases f <;> rfl

theorem maxBits_eq {f : Nat} (hf : f < 6) : maxBits f = [0x7F7FFFFF, 0x7F7F, 0x7BFF, 0x7E, 0x7B, 7].getD f 0 := by
  interval_cases f <;> rfl

theorem signBits_eq {f : Nat} (hf : f < 6) (neg : Bool) :
    signBits f neg = if neg then [2 ^ 31, 2 ^ 15, 2 ^ 15, 2 ^ 7, 2 ^ 7, 8].getD f 0 else 0 := by
  interval_cases f <;> rfl

/-! ### FP32 -/

theorem overflowBits_fp32_le (mode : Nat) (sat neg : Bool) : overflowBits 0 mode sat neg ≤ signBits 0 neg + maxBits 0 + 1 := by
  simp only [overflowBits, show ¬ (0 = 5) by decide, show ¬ (0 = 3) by decide, if_false]
  split
  · omega
  · split <;> omega

theorem signBits_fp32_le (neg : Bool) : signBits 0 neg ≤ 2 ^ 31 := by cases neg <;> decide

theorem roundFloat_fp32_lt (mode : Nat) (v : Val) : (roundFloat 0 mode false v).1 < 2 ^ 32 := by
  have max0 : maxBits 0 = 0x7F7FFFFF := rfl
  cases v with
  | nan => exact (by decide : (0x7FC00000 : Nat) < 2 ^ 32)
  | inf neg =>
    have hsign := signBits_fp32_le neg
    rw [roundFloat_inf mode neg (by decide) (by decide)]
    dsimp only
    omega
  | fin neg m e =>
    have hsign := signBits_fp32_le neg
    by_cases hm : m = 0
    · subst hm
      rw [roundFloat_zero]
      dsimp only
      omega
    · rw [roundFloat_fin 0 mode false neg hm]
      have hover := overflowBits_fp32_le mode false neg
      dsimp only
      split <;> dsimp only <;> omega

theorem round32_toNat (mode : Nat) (v : Val) : (round32 mode v).1.toNat = (roundFloat 0 mode false v).1 ∧
    (round32 mode v).2 = (roundFloat 0 mode false v).2 :=
  ⟨Nat.mod_eq_of_lt (roundFloat_fp32_lt mode v), rfl⟩

theorem dec32_round32 (mode : Nat) (v : Val) : dec32 (round32 mode v).1 = dec 0 (roundFloat 0 mode false v).1 := by
  rw [dec32, (round32_toNat mode v).1]

@[simp] theorem round32_nan (mode : Nat) : round32 mode .nan = (0x7FC00000#32, 0) := rfl

theorem round32_inf (mode : Nat) (neg : Bool) : round32 mode (.inf neg) = (if neg then 0xFF800000#32 else 0x7F800000#32, 0) := by
  cases neg <;> rfl

theorem round32_zero (mode : Nat) (neg : Bool) (e : Int) :
    round32 mode (.fin neg 0 e) = (if neg then 0x80000000#32 else 0#32, 0) := by
  cases neg <;> rfl

theorem dec32_round32_inf (mode : Nat) (neg : Bool) : dec32 (round32 mode (.inf neg)).1 = .inf neg := by
  rw [round32_inf]
  cases neg <;> rfl

/-- Rounding a magnitude to FP32, for a comparison that is exact at multiples of half the magnitude's own unit. -/
theorem round32_rounds {mode : Nat} (hmode : mode < 4) (neg : Bool) {m : Nat} (hm : m ≠ 0) {e : Int} {cmp : Rat → Ordering}
    (hcmp : ComparesAs cmp m e (ownUnit m e 24 - 1)) :
    RoundsFloat 0 mode false neg cmp ((round32 mode (.fin neg m e)).1.toNat, (round32 mode (.fin neg m e)).2) := by
  rw [(round32_toNat mode _).1, (round32_toNat mode _).2]
  exact roundFloat_rounds (by omega) hmode false neg hm hcmp

/-! ### Operations of a format with their flags (R52, R263) -/

theorem asWord_finish (mode : Nat) (r : Val) (nv : Flags) :
    asWord (finish 0 mode r nv) = ((round32 mode r).1, (round32 mode r).2 ||| nv) := rfl

theorem madeNan_of_ne {r : Val} (h : r ≠ .nan) (xs : List Val) : madeNan r xs = 0 := if_neg fun h' => h h'.1

theorem madeNan_of_mem {r : Val} {xs : List Val} (h : .nan ∈ xs) : madeNan r xs = 0 :=
  if_neg fun h' => h'.2 (List.any_eq_true.2 ⟨_, h, decide_eq_true rfl⟩)

theorem madeNan_invalid {xs : List Val} (h : .nan ∉ xs) : madeNan .nan xs = fNV := by
  refine if_pos ⟨rfl, fun hany => ?_⟩
  obtain ⟨x, hx, e⟩ := List.any_eq_true.1 hany
  exact h (of_decide_eq_true e ▸ hx)

/-- A result that is no NaN is rounded once, with no further flag. -/
theorem asWord_finish_of_ne {r : Val} (h : r ≠ .nan) (mode : Nat) (xs : List Val) :
    asWord (finish 0 mode r (madeNan r xs)) = round32 mode r := by
  rw [asWord_finish, madeNan_of_ne h]
  simp

theorem asWord_finish_nan (mode : Nat) (nv : Flags) : asWord (finish 0 mode .nan nv) = (0x7FC00000#32, nv) := by
  rw [asWord_finish]
  simp

@[simp] theorem add_nan_left (mode : Nat) (v : Val) : Val.add mode .nan v = .nan := rfl

@[simp] theorem add_nan_right (mode : Nat) (v : Val) : Val.add mode v .nan = .nan := by cases v <;> rfl

@[simp] theorem mul_nan_left (v : Val) : Val.mul .nan v = .nan := rfl

@[simp] theorem mul_nan_right (v : Val) : Val.mul v .nan = .nan := by cases v <;> rfl

theorem add_inf_opposite (mode : Nat) (n : Bool) : (Val.inf n).add mode (.inf !n) = .nan := by cases n <;> rfl

theorem add_inf_same (mode : Nat) (n : Bool) : (Val.inf n).add mode (.inf n) = .inf n := by simp [Val.add]

/-- 0 × ∞ is invalid. -/
theorem mul_zero_inf {a b : Val} {n p : Bool} {e : Int} (h : (a = .inf n ∧ b = .fin p 0 e) ∨ (b = .inf n ∧ a = .fin p 0 e)) :
    a.mul b = .nan ∧ a ≠ .nan ∧ b ≠ .nan := by
  obtain ⟨rfl, rfl⟩ | ⟨rfl, rfl⟩ := h <;> exact ⟨rfl, nofun, nofun⟩

/-- FADD, FMUL and FFMA: one rounding of the exact value, the canonical NaN for a NaN, NV where no operand was one. -/
theorem fp_results (m : Nat) (x y z : Word) :
    let a := dec32 x; let b := dec32 y; let d := dec32 z
    let v := asWord (fpAdd 0 m x.toNat y.toNat); let w := asWord (fpMul 0 m x.toNat y.toNat)
    let r := asWord (fpFma 0 m x.toNat y.toNat z.toNat)
    (a = .nan ∨ b = .nan → v = (0x7FC00000#32, 0) ∧ w = (0x7FC00000#32, 0) ∧ r = (0x7FC00000#32, 0)) ∧
    (d = .nan → r.1 = 0x7FC00000#32 ∧ (a.mul b ≠ .nan → r.2 = 0)) ∧
    (∀ n, a = .inf n → b = .inf (!n) → v = (0x7FC00000#32, fNV)) ∧
    (∀ n p e, (a = .inf n ∧ b = .fin p 0 e) ∨ (b = .inf n ∧ a = .fin p 0 e) →
      w = (0x7FC00000#32, fNV) ∧ r = (0x7FC00000#32, fNV)) ∧
    (∀ n, a.mul b = .inf n → d = .inf (!n) → r = (0x7FC00000#32, fNV)) ∧
    (a.add m b ≠ .nan → v = round32 m (a.add m b)) ∧ (a.mul b ≠ .nan → w = round32 m (a.mul b)) ∧
    ((a.mul b).add m d ≠ .nan → r = round32 m ((a.mul b).add m d)) := by
  intro a b d v w r
  have hv : v = asWord (finish 0 m (a.add m b) (madeNan (a.add m b) [a, b])) := rfl
  have hw : w = asWord (finish 0 m (a.mul b) (madeNan (a.mul b) [a, b])) := rfl
  have hr : r = asWord (finish 0 m ((a.mul b).add m d)
    (madeNan (a.mul b) [a, b] ||| madeNan ((a.mul b).add m d) [a.mul b, d])) := rfl
  clear_value a b d v w r
  subst hv hw hr
  refine ⟨fun h => ?_, fun h => ?_, fun n ha hb => ?_, fun n p e h => ?_, fun n h hd => ?_, fun h => ?_, fun h => ?_, fun h => ?_⟩
  · have mem : Val.nan ∈ [a, b] := by rcases h with rfl | rfl <;> simp
    have hadd : a.add m b = .nan := by rcases h with rfl | rfl <;> simp
    have hmul : a.mul b = .nan := by rcases h with rfl | rfl <;> simp
    simp only [hadd, hmul, madeNan_of_mem mem, add_nan_left, asWord_finish_nan, true_and]
    rw [madeNan_of_mem (by simp)]
    rfl
  · subst h
    simp only [add_nan_right, asWord_finish_nan, true_and]
    intro h
    rw [madeNan_of_ne h, madeNan_of_mem (by simp)]
    rfl
  · subst ha hb
    rw [add_inf_opposite, madeNan_invalid (by simp), asWord_finish_nan]
  · obtain ⟨hmul, ha, hb⟩ := mul_zero_inf h
    have made : madeNan .nan [a, b] = fNV := madeNan_invalid (by simp [ha.symm, hb.symm])
    simp only [hmul, add_nan_left, asWord_finish_nan, made, true_and]
    rw [madeNan_of_mem (by simp)]
    rfl
  · subst hd
    rw [h, add_inf_opposite, madeNan_of_ne (by nofun), madeNan_invalid (by simp), asWord_finish_nan]
    rfl
  · exact asWord_finish_of_ne h m _
  · exact asWord_finish_of_ne h m _
  · have hmul : a.mul b ≠ .nan := fun e => h (by rw [e]; rfl)
    rw [madeNan_of_ne hmul, show (0 : Flags) ||| madeNan ((a.mul b).add m d) [a.mul b, d] = _ from BitVec.zero_or]
    exact asWord_finish_of_ne h m _

end Sys2Proof.Machine

namespace Sys2Proof.Proofs

open Machine

/-- Settles O10: rounding by the comparison of a magnitude with the multiples of half its unit, and the order of codes that is that of
their magnitudes. -/
theorem floatArithmetic : Obligations.FloatArithmetic := by
  unfold Obligations.FloatArithmetic
  refine ⟨fun f mode sat hf hmode neg m e => ⟨fun hm => roundFloat_rounds_exact hf hmode sat neg hm e, fun hm => ?_, fun h3 h5 hs => ?_,
    fun h3 hs => ?_, fun h => ?_, roundFloat_nan hf mode sat⟩, round32_toNat, fun mode n n' m m' e e' => ⟨add_fin mode n n' m m' e e',
    ⟨_, _, rfl, mul_fin n n' m m' e e'⟩, rfl, rfl, add_inf_same mode n, rfl, fun hm => ⟨if_neg hm, ?_⟩⟩, fun s c g h f => ⟨?_, ?_⟩⟩
  · subst hm
    exact ⟨_, dec_zero hf neg, rfl⟩
  · subst hs
    rw [roundFloat_inf mode neg h3 h5]
    exact ⟨dec_infinity hf h3 h5 neg, rfl⟩
  · subst h3 hs
    rfl
  · obtain ⟨hflags, hbits⟩ := roundFloat_inf_saturates (mode := mode) hf neg h
    refine ⟨hflags, ?_⟩
    rw [hbits, signBits_eq hf, maxBits_eq hf, Nat.add_comm]
  · rw [Val.mul, if_neg hm, bne_comm]
  · exact ⟨_, _, ⟨_, rfl, aluLA_effect h f fpMin⟩, ⟨_, rfl, aluLA_effect h f fpMax⟩, fun u => ⟨fpMin_least _ _, fpMax_greatest _ _⟩⟩
  · exact ⟨_, _, _, ⟨_, rfl, fpAlu_effect h f.k f.d _ fun _ _ => rfl⟩, ⟨_, rfl, fpAlu_effect h f.k f.d _ fun _ _ => rfl⟩,
      ⟨_, rfl, fpAlu_effect h f.k f.d _ fun _ _ => rfl⟩, fun u => fp_results (c.mode u) _ _ _⟩

end Sys2Proof.Proofs
end

section
/-! SUPPORT. Conversions to integers and to E8M0 (R51, R318), rounding of values that FP32 holds, and FRND (R266). -/

namespace Sys2Proof.Machine

/-! ### Integers (R51) -/

theorem roundAt_integer {mode : Nat} (hmode : mode < 4) (neg : Bool) (m : Nat) (e : Int) :
    RoundsTo mode neg (compare ((m : Rat) * 2 ^ e)) 0 (wholeUnits m e 0) (roundAt mode neg m e 0).1 ∧
    ((roundAt mode neg m e 0).2 = true ↔ ((wholeUnits m e 0 : Nat) : Rat) ≠ m * 2 ^ e) := by
  obtain ⟨rounds, inexact⟩ := roundAt_roundsTo hmode neg (comparesAs_self m e (0 - 1))
  refine ⟨rounds, inexact.trans ?_⟩
  have le := le_wholeUnits.1 (le_refl (wholeUnits m e 0))
  rw [zpow_zero, mul_one] at le ⊢
  rw [compare_gt_iff_gt]
  exact ⟨ne_of_lt, fun h => lt_of_le_of_ne le h⟩

/-- Clamping an integer. -/
theorem clamp_eq {lo hi : Int} (h : lo ≤ hi) (i : Int) (nx : Flags) :
    (if i < lo then (lo, nx ||| fSAT) else if hi < i then (hi, nx ||| fSAT) else (i, nx)) =
      (max lo (min i hi), nx ||| if i < lo ∨ hi < i then fSAT else 0) := by
  by_cases h1 : i < lo
  · rw [if_pos h1, if_pos (.inl h1), max_eq_left (by omega)]
  · by_cases h2 : hi < i
    · rw [if_neg h1, if_pos h2, if_pos (.inr h2), min_eq_right h2.le, max_eq_right h]
    · rw [if_neg h1, if_neg h2, if_neg (by omega), min_eq_left (by omega), max_eq_right (by omega)]
      simp

theorem roundInt_fin {mode : Nat} (hmode : mode < 4) {lo hi : Int} (h : lo ≤ hi) (neg : Bool) (m : Nat) (e : Int) :
    ∃ k y : Nat, RoundsTo mode neg (compare ((m : Rat) * 2 ^ e)) 0 k y ∧
      let i : Int := if neg then -y else y
      roundInt mode lo hi (.fin neg m e) =
        (max lo (min i hi), (if (k : Rat) = m * (2 : Rat) ^ e then 0 else fNX) ||| if i < lo ∨ hi < i then fSAT else 0) := by
  obtain ⟨rounds, inexact⟩ := roundAt_integer hmode neg m e
  refine ⟨_, _, rounds, ?_⟩
  simp only [roundInt, Int.ofNat_eq_natCast, clamp_eq h]
  congr 2
  by_cases hx : (roundAt mode neg m e 0).2 = true
  · rw [if_pos hx, if_neg (inexact.1 hx)]
  · rw [if_neg hx, if_pos (not_not.1 (mt inexact.2 hx))]
    rfl

theorem roundInt_range {mode : Nat} {lo hi : Int} (hlo : lo ≤ 0) (hhi : 0 ≤ hi) (v : Val) :
    lo ≤ (roundInt mode lo hi v).1 ∧ (roundInt mode lo hi v).1 ≤ hi := by
  cases v with
  | nan => exact ⟨hlo, hhi⟩
  | inf neg => cases neg <;> simp [roundInt] <;> omega
  | fin neg m e =>
    simp only [roundInt, clamp_eq (hlo.trans hhi)]
    omega

/-- The integer formats: width and range. -/
def intFormats : List (Nat × Nat × Int × Int) :=
  [(7, 32, -2 ^ 31, 2 ^ 31 - 1), (8, 8, -128, 127), (9, 4, -7, 7), (10, 32, 0, 2 ^ 32 - 1), (11, 8, 0, 255)]

theorem ofInt_toNat_of_range {w : Nat} {i : Int} (h0 : 0 ≤ i) (h : i < 2 ^ w) : (BitVec.ofInt w i).toNat = i.toNat := by
  rw [BitVec.toNat_ofInt, Int.emod_eq_of_lt h0 (by exact_mod_cast h)]

theorem convert_int {df w : Nat} {lo hi : Int} (h : (df, w, lo, hi) ∈ intFormats) (mode : Nat) (sat : Bool) (v : Val) :
    lo ≤ 0 ∧ 0 ≤ hi ∧
    convert df mode sat v = ((BitVec.ofInt w (roundInt mode lo hi v).1).toNat, (roundInt mode lo hi v).2) := by
  simp only [intFormats, List.mem_cons, Prod.mk.injEq, List.not_mem_nil, or_false] at h
  rcases h with ⟨rfl, rfl, rfl, rfl⟩ | ⟨rfl, rfl, rfl, rfl⟩ | ⟨rfl, rfl, rfl, rfl⟩ | ⟨rfl, rfl, rfl, rfl⟩ | ⟨rfl, rfl, rfl, rfl⟩
  · exact ⟨by decide, by decide, rfl⟩
  · exact ⟨by decide, by decide, rfl⟩
  · exact ⟨by decide, by decide, rfl⟩
  · obtain ⟨h0, h1⟩ := roundInt_range (mode := mode) (lo := 0) (hi := 2 ^ 32 - 1) le_rfl (by decide) v
    exact ⟨le_rfl, by decide, by rw [ofInt_toNat_of_range h0 (by omega)]; rfl⟩
  · obtain ⟨h0, h1⟩ := roundInt_range (mode := mode) (lo := 0) (hi := 255) le_rfl (by decide) v
    exact ⟨le_rfl, by decide, by rw [ofInt_toNat_of_range h0 (by omega)]; rfl⟩

/-! ### E8M0 (R318) -/

/-- The largest power of two that a magnitude reaches. -/
theorem power_below {m : Nat} (hm : m ≠ 0) (e : Int) :
    let b : Rat := 2 ^ (e + Int.ofNat m.log2)
    b = ((2 ^ m.log2 : Nat) : Rat) * 2 ^ e ∧ b ≤ m * 2 ^ e ∧ (m : Rat) * 2 ^ e < 2 * b := by
  intro b
  have hb : b = ((2 ^ m.log2 : Nat) : Rat) * 2 ^ e := by rw [two_pow_scaled, add_comm]; rfl
  refine ⟨hb, ?_, ?_⟩
  · rw [hb, scaled_le_scaled]
    exact Nat.log2_self_le hm
  · rw [hb, ← mul_assoc, show (2 : Rat) * ((2 ^ m.log2 : Nat) : Rat) = ((2 ^ (m.log2 + 1) : Nat) : Rat) by push_cast; ring,
      scaled_lt_scaled]
    exact Nat.lt_log2_self

theorem compare_three_halves (m l : Nat) (e : Int) :
    compare ((m : Rat) * 2 ^ e) (3 / 2 * (((2 ^ l : Nat) : Rat) * 2 ^ e)) = compare (2 * m) (3 * 2 ^ l) := by
  have hx : (m : Rat) * 2 ^ e = ((2 * m : Nat) : Rat) * 2 ^ (e - 1) := by rw [zpow_sub_one₀ two_ne_zero]; push_cast; ring
  have hb : 3 / 2 * (((2 ^ l : Nat) : Rat) * 2 ^ e) = ((3 * 2 ^ l : Nat) : Rat) * 2 ^ (e - 1) := by
    rw [zpow_sub_one₀ two_ne_zero]; push_cast; ring
  rw [hx, hb, compare_scaled]

/-- Whether a positive value `m` in units that make its lowest power of two 2^k goes up to the next (R318). -/
def e8m0Up (mode m : Nat) (k : Int) : Bool :=
  match mode with
  | 0 => decide (2 ^ m.log2 < 2 * (m - 2 ^ m.log2)) || (decide (2 * (m - 2 ^ m.log2) = 2 ^ m.log2) && decide ((k + 127) % 2 = 1))
  | 3 => decide (m - 2 ^ m.log2 ≠ 0)
  | _ => false

theorem roundE8m0_eq (mode : Nat) {m : Nat} (hm : m ≠ 0) (e : Int) : roundE8m0 mode (.fin false m e) =
    let j := e + Int.ofNat m.log2
    let k := if e8m0Up mode m j then j + 1 else j
    if 127 < k then (0xFE, fOF ||| fNX) else if k < -127 then (0, fUF ||| fNX)
    else ((k + 127).toNat, if m - 2 ^ m.log2 = 0 then fNone else fNX) := if_neg hm

/-- R318: a positive value to a power of two. -/
theorem roundE8m0_pos {mode : Nat} (hmode : mode < 4) {m : Nat} (hm : m ≠ 0) (e : Int) :
    ∃ j k : Int, let x : Rat := m * (2 : Rat) ^ e; let b : Rat := (2 : Rat) ^ j
      b ≤ x ∧ x < 2 * b ∧ (x = b → k = j) ∧
      (x ≠ b → (mode = 1 ∨ mode = 2 → k = j) ∧ (mode = 3 → k = j + 1) ∧ (mode = 0 →
        (x < 3 / 2 * b → k = j) ∧ (3 / 2 * b < x → k = j + 1) ∧
        (x = 3 / 2 * b → (k = j ∨ k = j + 1) ∧ (k + 127) % 2 = 0))) ∧
      (127 < k → roundE8m0 mode (.fin false m e) = (0xFE, fOF ||| fNX)) ∧
      (k < -127 → roundE8m0 mode (.fin false m e) = (0, fUF ||| fNX)) ∧
      (-127 ≤ k → k ≤ 127 → roundE8m0 mode (.fin false m e) = ((k + 127).toNat, if x = b then 0 else fNX)) := by
  obtain ⟨hb, below, above⟩ := power_below hm e
  have hlog := Nat.log2_self_le hm
  have hrest : ((m : Rat) * 2 ^ e = 2 ^ (e + Int.ofNat m.log2)) ↔ m - 2 ^ m.log2 = 0 := by
    rw [hb, scaled_inj]; omega
  have half := compare_three_halves m m.log2 e
  rw [← hb] at half
  generalize hj : e + Int.ofNat m.log2 = j at *
  have heq := roundE8m0_eq mode hm e
  rw [hj] at heq
  dsimp only at heq
  obtain ⟨up, hup⟩ : ∃ up, up = e8m0Up mode m j := ⟨_, rfl⟩
  rw [← hup] at heq
  refine ⟨j, if up then j + 1 else j, below, above, fun h => ?_, fun h => ⟨fun hm => ?_, fun hm => ?_, fun hm => ⟨fun h' => ?_,
    fun h' => ?_, fun h' => ?_⟩⟩, fun hk => ?_, fun hk => ?_, fun h1 h2 => ?_⟩
  · have : up = false := by
      have hpos := Nat.two_pow_pos m.log2
      rw [hup]
      unfold e8m0Up
      rw [hrest.1 h]
      interval_cases mode <;> simp [hpos.ne]
    rw [this]; rfl
  · have : up = false := by rcases hm with rfl | rfl <;> exact hup
    rw [this]; rfl
  · subst hm
    rw [hup, show e8m0Up 3 m j = true from decide_eq_true (mt hrest.2 h), if_pos rfl]
  · rw [← compare_lt_iff_lt, half, compare_lt_iff_lt] at h'
    subst hm
    have : up = false := by rw [hup]; simp only [e8m0Up, Bool.or_eq_false_iff, decide_eq_false_iff_not, Bool.and_eq_false_iff]; omega
    rw [this]; rfl
  · rw [← compare_gt_iff_gt, half, compare_gt_iff_gt] at h'
    subst hm
    have : up = true := by rw [hup]; simp only [e8m0Up, Bool.or_eq_true, decide_eq_true_iff]; omega
    rw [this]; rfl
  · rw [← compare_eq_iff_eq, half, compare_eq_iff_eq] at h'
    subst hm
    have : up = decide ((j + 127) % 2 = 1) := by
      rw [hup]
      simp only [e8m0Up, show 2 * (m - 2 ^ m.log2) = 2 ^ m.log2 by omega, lt_irrefl, decide_false, decide_true, Bool.false_or,
        Bool.true_and]
    rw [this]
    by_cases hodd : (j + 127) % 2 = 1
    · rw [decide_eq_true hodd, if_pos rfl]; omega
    · rw [decide_eq_false hodd, if_neg Bool.false_ne_true]; omega
  · rw [heq, if_pos hk]
  · rw [heq, if_neg (not_lt.2 (show (if up then j + 1 else j) ≤ 127 by omega)), if_pos hk]
  · rw [heq, if_neg (not_lt.2 h2), if_neg (not_lt.2 h1)]
    by_cases hx : (m : Rat) * 2 ^ e = 2 ^ j
    · rw [if_pos (hrest.1 hx), if_pos hx]; rfl
    · rw [if_neg (mt hrest.2 hx), if_neg hx]

/-! ### Values that a format holds are not changed -/

/-- A value of at most the format's precision, in its units and within its range, is rounded to itself. -/
theorem RoundsFloat_exact {f mode : Nat} (hf : f < 6) {sat neg : Bool} {x : Rat} {a : Nat} {b : Int} {r : Nat × Flags}
    (h : RoundsFloat f mode sat neg (compare x) r) (hx : x = a * 2 ^ b) (ha : a < 2 ^ (fracBits f + 1)) (hb : leastUnit f ≤ b)
    (htop : x ≤ codeMag (fracBits f) (maxBits f) * 2 ^ leastUnit f) :
    (∃ m e, dec f r.1 = .fin neg m e ∧ (m : Rat) * 2 ^ e = x) ∧ r.2 = 0 := by
  unfold RoundsFloat at h
  rw [precision_eq hf, least_eq hf, top_eq hf] at h
  obtain ⟨q, q', k, y, k', y', rounds, least, -, full, -, -, -, hle, -⟩ := h
  have below : (k : Rat) * 2 ^ q ≤ x := by
    have := rounds.above
    rwa [ne_eq, compare_lt_iff_lt, not_lt] at this
  have hq : q ≤ b := by
    rcases full with full | rfl
    · by_contra hlt
      have : ((2 ^ fracBits f : Nat) : Rat) * 2 ^ q < ((2 ^ (fracBits f + 1) : Nat) : Rat) * 2 ^ b :=
        (mul_le_mul_of_nonneg_right (Nat.cast_le.2 full) (two_zpow_pos q).le).trans_lt
          (below.trans_lt (hx ▸ scaled_lt_scaled.2 ha))
      rw [two_pow_scaled, two_pow_scaled, zpow_lt_zpow_iff_right₀ one_lt_two] at this
      omega
    · exact hb
  have exact : compare x (k * 2 ^ q) = .eq := by
    rw [scaled_finer a hq] at hx
    have hk := rounds.below
    rw [compare_lt_iff_lt, succ_unit, hx, scaled_lt_scaled] at hk
    rw [hx, scaled_le_scaled] at below
    rw [hx, compare_scaled, compare_eq_iff_eq]
    omega
  have hy := rounds.exact exact
  have value : (y : Rat) * 2 ^ q = x := by rw [hy, compare_eq_iff_eq.1 exact]
  rw [value] at hle
  obtain ⟨is, flags, -⟩ := hle htop
  exact ⟨is, flags (by rw [exact]; nofun)⟩

theorem leastUnit_fp32 : leastUnit 0 = -149 := rfl

/-- A finite FP32 value has at most 24 bits in units between 2^−149 and 2^104. -/
theorem dec32_bounds {x : Word} {n : Bool} {m : Nat} {e : Int} (h : dec32 x = .fin n m e) : m < 2 ^ 24 ∧ -149 ≤ e ∧ e ≤ 104 := by
  rw [dec32, dec_float (by omega)] at h
  simp only [fracBits, fmtShape, leastUnit] at h
  split at h
  · cases h
  · split at h
    · split at h <;> cases h
    · split at h
      · cases h; simp only [Int.ofNat_eq_natCast]; omega
      · cases h; simp only [Int.ofNat_eq_natCast]; omega

/-! ### FRND (R266) -/

/-- R266: FRND of a finite value. -/
theorem fpRound_fin {mode : Nat} (hmode : mode < 4) {x : Word} {n : Bool} {m : Nat} {e : Int} (h : dec32 x = .fin n m e) :
    ∃ k y m' e', RoundsTo mode n (compare ((m : Rat) * 2 ^ e)) 0 k y ∧ dec32 (fpRound mode x).1 = .fin n m' e' ∧
      (m' : Rat) * 2 ^ e' = y ∧ (fpRound mode x).2 = if (fpRound mode x).1 = x then 0 else fNX := by
  obtain ⟨hm, -, he⟩ := dec32_bounds h
  obtain ⟨rounds, -⟩ := roundAt_integer hmode n m e
  have hfst : (fpRound mode x).1 = (round32 0 (.fin n (roundAt mode n m e 0).1 0)).1 := by rw [fpRound, h]
  have hsnd : (fpRound mode x).2 = if (fpRound mode x).1 = x then 0 else fNX := by rw [fpRound, h]; rfl
  have held : ∃ m' e', dec32 (fpRound mode x).1 = .fin n m' e' ∧ (m' : Rat) * 2 ^ e' = (roundAt mode n m e 0).1 := by
    rw [hfst]
    by_cases hr : (roundAt mode n m e 0).1 = 0
    · rw [hr, round32_zero]
      exact ⟨0, -149, by cases n <;> rfl, by simp⟩
    have rne := roundFloat_rounds_exact (f := 0) (mode := 0) (by omega) (by omega) false n hr 0
    rw [zpow_zero, mul_one] at rne
    rw [dec32_round32]
    have top : (codeMag (fracBits 0) (maxBits 0) : Rat) * 2 ^ leastUnit 0 = ((2 ^ 24 - 1 : Nat) : Rat) * 2 ^ (104 : Int) := by
      rw [← top_eq (by omega)]; norm_num
    by_cases hpos : 0 ≤ e
    · have value : (((roundAt mode n m e 0).1 : Nat) : Rat) = m * 2 ^ e := by
        rw [roundAt, if_pos hpos, scaled_finer m hpos, zpow_zero, mul_one]
      refine (RoundsFloat_exact (by omega) rne value hm (by rw [leastUnit_fp32]; omega) ?_).1
      rw [top, value]
      exact mul_le_mul (Nat.cast_le.2 (by omega)) (zpow_le_zpow_right₀ one_le_two he) (two_zpow_pos _).le (Nat.cast_nonneg _)
    · have small : (roundAt mode n m e 0).1 < 2 ^ 24 := by
        have hhi := (roundAt_bounds mode n m e 0).2
        have : wholeUnits m e 0 < 2 ^ 23 := by
          rw [wholeUnits_lt]
          calc (m : Rat) * 2 ^ e < ((2 ^ 24 : Nat) : Rat) * 2 ^ e := scaled_lt_scaled.2 hm
            _ ≤ ((2 ^ 23 : Nat) : Rat) * 2 ^ (0 : Int) := by
              rw [two_pow_scaled, two_pow_scaled]
              exact zpow_le_zpow_right₀ one_le_two (by omega)
        omega
      refine (RoundsFloat_exact (by omega) rne (b := 0) (by simp) small (by rw [leastUnit_fp32]; omega) ?_).1
      rw [top]
      exact (Nat.cast_le.2 (show (roundAt mode n m e 0).1 ≤ 2 ^ 24 - 1 by omega)).trans
        (le_mul_of_one_le_right (Nat.cast_nonneg _) (one_le_zpow₀ one_le_two (by omega)))
  obtain ⟨m', e', hd, hv⟩ := held
  exact ⟨_, _, m', e', rounds, hd, hv, hsnd⟩

end Sys2Proof.Machine
end

section
/-! SUPPORT. Quotients and roots rounded once (R57, R148): a floor with a mark of what it cuts off compares as the exact value does with
every multiple of half the unit of the result. -/

namespace Sys2Proof.Machine

/-! ### Floors -/

/-- The floor `r` of an inverse of a rising function, with a bit for what it cuts off, compares with the naturals as the value itself
does. -/
theorem compare_floor {F : Nat → Nat} (hF : StrictMono F) {a r : Nat} (below : F r ≤ a) (above : a < F (r + 1)) (n : Nat) :
    compare a (F n) = compare (2 * r + if decide (F r ≠ a) then 1 else 0) (2 * n) := by
  have bit : (if decide (F r ≠ a) then 1 else 0) ≤ 1 := by split <;> omega
  rcases lt_trichotomy n r with h | rfl | h
  · rw [compare_gt_iff_gt.2 ((hF h).trans_le below), eq_comm, compare_gt_iff_gt]
    omega
  · by_cases he : F n = a
    · rw [compare_eq_iff_eq.2 he.symm, eq_comm, compare_eq_iff_eq]
      simp [he]
    · rw [compare_gt_iff_gt.2 (lt_of_le_of_ne below he), eq_comm, compare_gt_iff_gt]
      simp [he]
  · rw [compare_lt_iff_lt.2 (above.trans_le (hF.monotone h)), eq_comm, compare_lt_iff_lt]
    omega

/-- A value whose comparison with every multiple of 2^e is that of a floor of at least 25 bits with its mark is rounded as the floor with
its mark is. -/
theorem sticky_rounds {mode : Nat} (hmode : mode < 4) (neg : Bool) {q : Nat} {inexact : Bool} {e : Int} (hq : 2 ^ 24 ≤ q)
    {cmp : Rat → Ordering} (h : ∀ n : Nat, cmp (n * 2 ^ e) = compare (2 * q + if inexact then 1 else 0) (2 * n)) :
    RoundsFloat 0 mode false neg cmp
      ((round32 mode (sticky neg q inexact e)).1.toNat, (round32 mode (sticky neg q inexact e)).2) := by
  have large : 2 ^ 25 ≤ 2 * q + if inexact then 1 else 0 := by omega
  refine round32_rounds hmode neg (by omega) fun j r hr => ?_
  have log : 25 ≤ Nat.log2 (2 * q + if inexact then 1 else 0) := (Nat.le_log2 (by omega)).2 large
  have her : e ≤ r := by
    simp only [ownUnit, Int.ofNat_eq_natCast] at hr
    omega
  rw [scaled_finer j her, h, compare_scaled_coarser _ _ (show e - 1 ≤ e by omega), show (e - (e - 1)).toNat = 1 by omega, pow_one,
    Nat.mul_comm _ 2]

theorem compare_mul_pos {x y c : Rat} (hc : 0 < c) : compare (x * c) (y * c) = compare x y := by
  rcases lt_trichotomy x y with h | h | h
  · rw [compare_lt_iff_lt.2 h, compare_lt_iff_lt]; exact mul_lt_mul_of_pos_right h hc
  · rw [compare_eq_iff_eq.2 h, compare_eq_iff_eq, h]
  · rw [compare_gt_iff_gt.2 h, compare_gt_iff_gt]; exact mul_lt_mul_of_pos_right h hc

theorem compare_natCast (a b : Nat) : compare (a : Rat) b = compare a b := by
  simpa using compare_scaled a b 0

/-- Comparing two values that are naturals times one positive number. -/
theorem compare_of_scaled {x y c : Rat} {a b : Nat} (hc : 0 < c) (hx : x = a * c) (hy : y = b * c) : compare x y = compare a b := by
  rw [hx, hy, compare_mul_pos hc, compare_natCast]

/-! ### Quotients -/

theorem strictMono_mul_right {d : Nat} (hd : 0 < d) : StrictMono fun n : Nat => n * d := fun _ _ h => Nat.mul_lt_mul_of_pos_right h hd

theorem compare_quotient (a : Nat) {d : Nat} (hd : 0 < d) (n : Nat) :
    compare a (n * d) = compare (2 * (a / d) + if decide (a % d ≠ 0) then 1 else 0) (2 * n) := by
  have hdiv := Nat.div_add_mod' a d
  have := compare_floor (strictMono_mul_right hd) (Nat.div_mul_le_self a d) (Nat.lt_mul_of_div_lt (Nat.lt_succ_self _) hd) n
  rw [this]
  congr 4
  rw [decide_eq_decide]
  omega

/-- A quotient of two magnitudes, rounded from the floor of a quotient with 24 bits and more. -/
theorem quotient_rounds {mode : Nat} (hmode : mode < 4) (neg : Bool) {a d : Nat} (hd : 0 < d) {e : Int} (hq : 2 ^ 24 ≤ a / d) {v : Rat}
    (hv : v = a / d * 2 ^ e) : RoundsFloat 0 mode false neg (compare v)
      ((round32 mode (sticky neg (a / d) (decide (a % d ≠ 0)) e)).1.toNat, (round32 mode (sticky neg (a / d) (decide (a % d ≠ 0)) e)).2) := by
  refine sticky_rounds hmode neg hq fun n => ?_
  have hd' : (0 : Rat) < d := Nat.cast_pos.2 hd
  rw [← compare_quotient a hd]
  refine compare_of_scaled (c := 2 ^ e / d) (div_pos (two_zpow_pos e) hd') ?_ ?_
  · rw [hv]; ring
  · push_cast; field_simp

theorem abs_rat_fin (n : Bool) (m : Nat) (e : Int) : |(Val.fin n m e).rat| = m * 2 ^ e := by
  rw [rat_fin, abs_mul, abs_of_pos (two_zpow_pos e)]
  cases n <;> simp [signed]

/-- R57: FRCP of a value that is no zero. -/
theorem fpRcp_rounds {mode : Nat} (hmode : mode < 4) {x : Word} {n : Bool} {m : Nat} {e : Int} (h : dec32 x = .fin n m e) (hm : m ≠ 0) :
    RoundsFloat 0 mode false n (compare (1 / |(dec32 x).rat|)) ((fpRcp mode x).1.toNat, (fpRcp mode x).2) := by
  obtain ⟨hlt, -, -⟩ := dec32_bounds h
  have heq : fpRcp mode x = round32 mode (sticky n (2 ^ 64 / m) (decide (2 ^ 64 % m ≠ 0)) (-64 - e)) := by
    rw [fpRcp, h]; exact if_neg hm
  have hq : 2 ^ 24 ≤ 2 ^ 64 / m := (Nat.le_div_iff_mul_le (Nat.pos_of_ne_zero hm)).2 (by omega)
  have hm' : (m : Rat) ≠ 0 := Nat.cast_ne_zero.2 hm
  rw [heq]
  refine quotient_rounds hmode n (Nat.pos_of_ne_zero hm) hq ?_
  rw [h, abs_rat_fin, sub_eq_add_neg, zpow_add₀ two_ne_zero, zpow_neg _ e]
  have := (two_zpow_pos e).ne'
  push_cast
  norm_num
  field_simp

/-- R148: a quotient of two FP32 words. -/
theorem div32_divides (x y : Word) : DividesTo x y (div32 x y) := by
  unfold DividesTo
  refine ⟨fun h => ?_, fun n m ha hb => ?_, fun n m k e ha hb => ?_, fun n m e k ha hb => ?_, fun n m e k j f ha hb hj => ⟨fun hm => ?_, fun hm => ?_⟩⟩
  · unfold div32
    split
    · rfl
    · rfl
    all_goals simp_all
  · simp only [div32, ha, hb]; rfl
  · simp only [div32, ha, hb, round32_inf]
  · simp only [div32, ha, hb, round32_zero]
  · subst hm
    simp only [div32, ha, hb, Nat.zero_mul, Nat.zero_div, Nat.zero_mod, sticky]
    exact round32_zero _ _ _
  · obtain ⟨hjlt, -, -⟩ := dec32_bounds hb
    have hlog := Nat.lt_log2_self (n := j)
    have hq : 2 ^ 24 ≤ m * 2 ^ (64 + Nat.log2 j) / j := by
      rw [Nat.le_div_iff_mul_le (Nat.pos_of_ne_zero hj)]
      calc 2 ^ 24 * j ≤ 2 ^ 24 * 2 ^ (Nat.log2 j + 1) := Nat.mul_le_mul_left _ hlog.le
        _ ≤ 1 * 2 ^ (64 + Nat.log2 j) := by
          rw [← pow_add, one_mul]
          exact Nat.pow_le_pow_right two_pos (by omega)
        _ ≤ m * 2 ^ (64 + Nat.log2 j) := Nat.mul_le_mul_right _ (Nat.one_le_iff_ne_zero.2 hm)
    simp only [div32, ha, hb]
    refine quotient_rounds (by omega) _ (Nat.pos_of_ne_zero hj) hq ?_
    rw [abs_div, abs_rat_fin, abs_rat_fin]
    have hj' : (j : Rat) ≠ 0 := Nat.cast_ne_zero.2 hj
    push_cast
    rw [zpow_sub₀ two_ne_zero, zpow_sub₀ two_ne_zero, ← zpow_natCast]
    simp only [Int.ofNat_eq_natCast]
    push_cast
    have := (two_zpow_pos f).ne'
    have := (two_zpow_pos (64 + (j.log2 : Int))).ne'
    field_simp

/-! ### Roots -/

/-- The integer square root, its bits from `b` down. -/
theorem isqrtFrom_spec (n : Nat) : ∀ b r : Nat, r * r ≤ n → n < (r + 2 ^ b) * (r + 2 ^ b) →
    isqrtFrom n b r * isqrtFrom n b r ≤ n ∧ n < (isqrtFrom n b r + 1) * (isqrtFrom n b r + 1)
  | 0, r, lo, hi => ⟨lo, hi⟩
  | b + 1, r, lo, hi => by
    simp only [isqrtFrom]
    split
    · exact isqrtFrom_spec n b _ ‹_› (by rw [Nat.add_assoc, ← Nat.two_mul, ← pow_succ']; exact hi)
    · exact isqrtFrom_spec n b r lo (not_le.1 ‹_›)

theorem isqrt_spec (n : Nat) : isqrt n * isqrt n ≤ n ∧ n < (isqrt n + 1) * (isqrt n + 1) := by
  refine isqrtFrom_spec n _ 0 (Nat.zero_le n) ?_
  rw [zero_add, ← pow_add]
  exact Nat.lt_log2_self.trans_le (Nat.pow_le_pow_right two_pos (by omega))

theorem le_isqrt {k n : Nat} (h : k * k ≤ n) : k ≤ isqrt n := by
  by_contra hlt
  have := (isqrt_spec n).2
  have := Nat.mul_le_mul (Nat.succ_le_of_lt (not_le.1 hlt)) (Nat.succ_le_of_lt (not_le.1 hlt))
  simp only [Nat.succ_eq_add_one] at this
  omega

theorem strictMono_square {d : Nat} (hd : 0 < d) : StrictMono fun n : Nat => n * n * d :=
  fun _ _ h => Nat.mul_lt_mul_of_pos_right (Nat.mul_self_lt_mul_self h) hd

/-- A root rounded from a floor of 24 bits and more: of v, which is a / d in units of 2^(2e). -/
theorem root_rounds {mode : Nat} (hmode : mode < 4) {a d : Nat} (hd : 0 < d) {e : Int} (hq : 2 ^ 24 ≤ isqrt (a / d)) {v : Rat}
    (hv : v = a / d * (2 ^ e * 2 ^ e)) : RoundsFloat 0 mode false false (fun z => compare v (z * z))
      ((round32 mode (sticky false (isqrt (a / d)) (decide (isqrt (a / d) * isqrt (a / d) * d ≠ a)) e)).1.toNat,
        (round32 mode (sticky false (isqrt (a / d)) (decide (isqrt (a / d) * isqrt (a / d) * d ≠ a)) e)).2) := by
  refine sticky_rounds hmode false hq fun n => ?_
  have hd' : (0 : Rat) < d := Nat.cast_pos.2 hd
  obtain ⟨below, above⟩ := isqrt_spec (a / d)
  rw [← compare_floor (strictMono_square hd) ((Nat.le_div_iff_mul_le hd).1 below) ((Nat.div_lt_iff_lt_mul hd).1 above)]
  refine compare_of_scaled (c := 2 ^ e * 2 ^ e / d) (div_pos (mul_pos (two_zpow_pos e) (two_zpow_pos e)) hd') ?_ ?_
  · rw [hv]; ring
  · push_cast; field_simp

/-- A magnitude in units of an even power of two. -/
theorem even_units (m : Nat) (e : Int) :
    let n := if decide (e % 2 = 1) then 2 * m else m
    let h := (if decide (e % 2 = 1) then e - 1 else e) / 2
    (m : Rat) * 2 ^ e = n * (2 ^ h * 2 ^ h) := by
  intro n h
  rw [← zpow_add₀ two_ne_zero]
  by_cases ho : e % 2 = 1
  · have hn : n = 2 * m := if_pos (decide_eq_true ho)
    have hh : h = (e - 1) / 2 := by simp only [h, decide_eq_true ho, if_true]
    rw [hn, show e = h + h + 1 by omega, zpow_add_one₀ two_ne_zero]
    push_cast; ring
  · have hn : n = m := if_neg (by simp [ho])
    have hh : h = e / 2 := by simp only [h, decide_eq_false ho, Bool.false_eq_true, if_false]
    rw [hn, show e = h + h by omega]

theorem fpSqrt_fin (mode : Nat) {x : Word} {m : Nat} {e : Int} (h : dec32 x = .fin false m e) (hm : m ≠ 0) :
    fpSqrt mode x =
      let n := (if decide (e % 2 = 1) then 2 * m else m) * 2 ^ 64
      round32 mode (sticky false (isqrt n) (decide (isqrt n * isqrt n ≠ n)) ((if decide (e % 2 = 1) then e - 1 else e) / 2 - 32)) := by
  unfold fpSqrt
  simp only [h, hm, if_false, Bool.false_eq_true]

/-- R57: FSQRT of a positive value. -/
theorem fpSqrt_rounds {mode : Nat} (hmode : mode < 4) {x : Word} {m : Nat} {e : Int} (h : dec32 x = .fin false m e) (hm : m ≠ 0) :
    RoundsFloat 0 mode false false (fun z => compare (dec32 x).rat (z * z)) ((fpSqrt mode x).1.toNat, (fpSqrt mode x).2) := by
  have units := even_units m e
  obtain ⟨n, hn⟩ : ∃ n, n = if decide (e % 2 = 1) then 2 * m else m := ⟨_, rfl⟩
  obtain ⟨k, hk⟩ : ∃ k, k = (if decide (e % 2 = 1) then e - 1 else e) / 2 := ⟨_, rfl⟩
  dsimp only at units
  rw [← hn, ← hk] at units
  have heq : fpSqrt mode x = round32 mode (sticky false (isqrt (n * 2 ^ 64))
      (decide (isqrt (n * 2 ^ 64) * isqrt (n * 2 ^ 64) ≠ n * 2 ^ 64)) (k - 32)) := by
    rw [hn, hk]; exact fpSqrt_fin mode h hm
  have hpos : 1 ≤ n := by rw [hn]; split <;> omega
  rw [heq]
  have := root_rounds (a := n * 2 ^ 64) (e := k - 32) (v := (dec32 x).rat) hmode one_pos
  rw [Nat.div_one, Nat.mul_one] at this
  refine this (le_isqrt (by omega)) ?_
  rw [h, rat_fin]
  show (m : Rat) * 2 ^ e = _
  rw [units, zpow_sub₀ two_ne_zero]
  push_cast
  norm_num
  ring

/-- R57: FRSQ of a positive value. -/
theorem fpRsq_rounds {mode : Nat} (hmode : mode < 4) {x : Word} {m : Nat} {e : Int} (h : dec32 x = .fin false m e) (hm : m ≠ 0) :
    RoundsFloat 0 mode false false (fun z => compare (1 / (dec32 x).rat) (z * z)) ((fpRsq mode x).1.toNat, (fpRsq mode x).2) := by
  obtain ⟨hlt, -, -⟩ := dec32_bounds h
  have units := even_units m e
  obtain ⟨n, hn⟩ : ∃ n, n = if decide (e % 2 = 1) then 2 * m else m := ⟨_, rfl⟩
  obtain ⟨k, hk⟩ : ∃ k, k = (if decide (e % 2 = 1) then e - 1 else e) / 2 := ⟨_, rfl⟩
  dsimp only at units
  rw [← hn, ← hk] at units
  have heq : fpRsq mode x = round32 mode (sticky false (isqrt (2 ^ 120 / n))
      (decide (isqrt (2 ^ 120 / n) * isqrt (2 ^ 120 / n) * n ≠ 2 ^ 120)) (-60 - k)) := by
    rw [hn, hk, fpRsq, h]; exact if_neg hm
  have hpos : 0 < n := by rw [hn]; split <;> omega
  have hnlt : n < 2 ^ 25 := by rw [hn]; split <;> omega
  have hn' : (n : Rat) ≠ 0 := Nat.cast_ne_zero.2 hpos.ne'
  rw [heq]
  refine root_rounds hmode hpos (le_isqrt ((Nat.le_div_iff_mul_le hpos).2 (by omega))) ?_
  rw [h, rat_fin]
  show 1 / ((m : Rat) * 2 ^ e) = _
  rw [units, zpow_sub₀ two_ne_zero]
  have := (two_zpow_pos k).ne'
  push_cast
  norm_num
  field_simp
  norm_num

end Sys2Proof.Machine
end

section
/-! SUPPORT. FEXP2 and FLOG2 on their tables (R55, R56), CVTP (R257), and what the special operands give. -/

namespace Sys2Proof.Machine

/-! ### FEXP2 (R55) -/

theorem floorAt_eq (neg : Bool) (m : Nat) (e k : Int) : floorAt neg m e k = ⌊(Val.fin neg m e).rat * 2 ^ k⌋ := by
  rw [rat_fin, mul_assoc, ← zpow_add₀ two_ne_zero]
  unfold floorAt
  dsimp only
  split
  · obtain ⟨n, hn⟩ := Int.eq_ofNat_of_zero_le ‹0 ≤ e + k›
    rw [hn, zpow_natCast, Int.toNat_natCast, ← Int.floor_intCast (R := Rat) (signed neg m * 2 ^ n)]
    push_cast; rfl
  · obtain ⟨n, hn⟩ := Int.eq_ofNat_of_zero_le (show 0 ≤ -(e + k) by omega)
    rw [hn, show e + k = -(n : Int) by omega, zpow_neg, zpow_natCast, Int.toNat_natCast, ← div_eq_mul_inv]
    have := Rat.floor_intCast_div_natCast (signed neg m) (2 ^ n)
    push_cast at this
    exact this.symm

theorem expT_nonneg (i : Nat) : 0 ≤ expT.getD i 0 := by
  have : ∀ t ∈ expT, 0 ≤ t := by decide
  rcases lt_or_ge i expT.length with h | h
  · rw [List.getD_eq_getElem _ _ h]; exact this _ (List.getElem_mem h)
  · rw [List.getD_eq_default _ _ h]

/-- The polynomial of R55 times the table's entry, of the fraction `f` in units of 2^−32. -/
def expMant (f : Int) : Int :=
  let q := f % 2 ^ 26 * 2 ^ 8
  let p := expC.getD 1 0 + expC.getD 2 0 * q / 2 ^ 40
  let p := expC.getD 0 0 + p * q / 2 ^ 40
  let p := 2 ^ 40 + p * q / 2 ^ 40
  expT.getD (f / 2 ^ 26).toNat 0 * p / 2 ^ 40

theorem expMant_nonneg (f : Int) : 0 ≤ expMant f := by
  have h0 : 0 ≤ expC.getD 0 0 := by decide
  have h1 : 0 ≤ expC.getD 1 0 := by decide
  have h2 : 0 ≤ expC.getD 2 0 := by decide
  have hq : 0 ≤ f % 2 ^ 26 * 2 ^ 8 := mul_nonneg (Int.emod_nonneg _ (by decide)) (by decide)
  have term : ∀ {a p : Int}, 0 ≤ a → 0 ≤ p → 0 ≤ a + p * (f % 2 ^ 26 * 2 ^ 8) / 2 ^ 40 := fun ha hp =>
    add_nonneg ha (Int.ediv_nonneg (mul_nonneg hp hq) (by decide))
  exact Int.ediv_nonneg (mul_nonneg (expT_nonneg _) (term (by decide) (term h0 (term h1 h2)))) (by decide)

theorem fpExp2_fin (mode : Nat) {x : Word} {neg : Bool} {m : Nat} {e : Int} (h : dec32 x = .fin neg m e) : fpExp2 mode x =
    let n := floorAt neg m e 0
    if 128 ≤ n then round32 mode (.fin false 1 128) else if n < -150 then round32 mode (.fin false 1 (-1000))
    else
      let r := round32 mode (.fin false (expMant (floorAt neg m e 32 - n * 2 ^ 32)).toNat (n - 40))
      (r.1, r.2 ||| if decide (n * 2 ^ 200 = floorAt neg m e 200) then fNone else fNX) := by
  simp only [fpExp2, h]
  rfl

theorem round32_huge {mode : Nat} (hmode : mode < 4) :
    round32 mode (.fin false 1 128) = (if mode = 0 ∨ mode = 3 then 0x7F800000#32 else 0x7F7FFFFF#32, fOF ||| fNX) := by
  interval_cases mode <;> decide

theorem round32_minute {mode : Nat} (hmode : mode < 4) :
    round32 mode (.fin false 1 (-1000)) = (if mode = 3 then 1 else 0, fUF ||| fNX) := by
  interval_cases mode <;> decide +kernel

/-- R55: FEXP2 of a finite value. -/
theorem fpExp2_rounds {mode : Nat} (hmode : mode < 4) {w : Word} {neg : Bool} {m : Nat} {e : Int} (h : dec32 w = .fin neg m e) :
    let x := dec32 w; let n := x.rat.floor
    (128 ≤ x.rat → fpExp2 mode w = (if mode = 0 ∨ mode = 3 then 0x7F800000#32 else 0x7F7FFFFF#32, fOF ||| fNX)) ∧
    (x.rat < -150 → fpExp2 mode w = (if mode = 3 then 1 else 0, fUF ||| fNX)) ∧
    (-150 ≤ x.rat → x.rat < 128 →
      let y := expMant ((x.rat - n) * 2 ^ 32).floor
      let r := round32 mode (.fin false y.toNat (n - 40))
      0 ≤ y ∧ fpExp2 mode w = (r.1, r.2 ||| if (n : Rat) = x.rat then 0 else fNX)) := by
  intro x n
  obtain ⟨-, hlo, -⟩ := dec32_bounds h
  have hx : (Val.fin neg m e).rat = x.rat := by rw [← h]
  have h0 : floorAt neg m e 0 = n := by rw [floorAt_eq, zpow_zero, mul_one, hx]; rfl
  have h32 : floorAt neg m e 32 - n * 2 ^ 32 = ((x.rat - n) * 2 ^ 32).floor := by
    rw [floorAt_eq, hx]
    show _ = ⌊(x.rat - n) * 2 ^ 32⌋
    rw [← Int.floor_sub_intCast, sub_mul]
    push_cast
    rfl
  have h200 : decide (n * 2 ^ 200 = floorAt neg m e 200) = true ↔ (n : Rat) = x.rat := by
    obtain ⟨j, hj⟩ := Int.eq_ofNat_of_zero_le (show 0 ≤ e + 200 by omega)
    have whole : x.rat * 2 ^ (200 : Int) = ((signed neg m * 2 ^ j : Int) : Rat) := by
      rw [← hx, rat_fin, mul_assoc, ← zpow_add₀ two_ne_zero, hj]
      push_cast
      rw [zpow_natCast]
    rw [decide_eq_true_iff, floorAt_eq, hx, whole, Int.floor_intCast, ← Int.cast_inj (α := Rat), ← whole]
    push_cast
    exact mul_left_inj' (by positivity)
  have hfloor : n = ⌊x.rat⌋ := rfl
  rw [fpExp2_fin mode h]
  dsimp only
  rw [h0, h32]
  refine ⟨fun hb => ?_, fun hb => ?_, fun hb hb' => ⟨expMant_nonneg _, ?_⟩⟩
  · rw [if_pos (by rw [hfloor, Int.le_floor]; exact_mod_cast hb), round32_huge hmode]
  · have : n < -150 := by rw [hfloor, Int.floor_lt]; exact_mod_cast hb
    rw [if_neg (by omega), if_pos this, round32_minute hmode]
  · have hlow : -150 ≤ n := by rw [hfloor, Int.le_floor]; exact_mod_cast hb
    have hhigh : n < 128 := by rw [hfloor, Int.floor_lt]; exact_mod_cast hb'
    rw [if_neg (by omega), if_neg (by omega)]
    by_cases hint : (n : Rat) = x.rat
    · rw [if_pos (h200.2 hint), if_pos hint]; rfl
    · rw [if_neg (mt h200.1 hint), if_neg hint]

/-! ### FLOG2 (R56) -/

/-- The sum of R56 for an exponent and a mantissa's 23 bits. -/
def logSum (ex : Int) (mm : Nat) : Int :=
  let i := mm / 2 ^ 17
  let w := Int.ofNat (mm % 2 ^ 17) * 2 ^ 39 * logG.getD i 0 / 2 ^ 62
  let z := logK.getD 4 0 + logK.getD 5 0 * w / 2 ^ 62
  let z := logK.getD 3 0 + z * w / 2 ^ 62
  let z := logK.getD 2 0 + z * w / 2 ^ 62
  let z := logK.getD 1 0 + z * w / 2 ^ 62
  let z := logK.getD 0 0 + z * w / 2 ^ 62
  ex * 2 ^ 62 + logL.getD i 0 + z * w / 2 ^ 62

theorem fpLog2_fin (mode : Nat) {x : Word} {m : Nat} {e : Int} (h : dec32 x = .fin false m e) (hm : m ≠ 0) : fpLog2 mode x =
    ((round32 mode (ofInt (logSum (e + Int.ofNat m.log2) ((m - 2 ^ m.log2) * 2 ^ 23 / 2 ^ m.log2)) (-62) false)).1,
      if m = 2 ^ m.log2 then fNone else fNX) := by
  simp only [fpLog2, h, hm, if_false, Bool.false_eq_true]
  rfl

theorem round32_ofInt (mode : Nat) (y e : Int) : round32 mode (ofInt y e false) = round32 mode (.fin (decide (y < 0)) y.natAbs e) := by
  by_cases hy : y = 0
  · subst hy
    exact (round32_zero mode false 0).trans (round32_zero mode false e).symm
  · rw [ofInt, if_neg hy]

/-- R56: FLOG2 of a positive value. -/
theorem fpLog2_rounds (mode : Nat) {w : Word} {m : Nat} {e : Int} (h : dec32 w = .fin false m e) (hm : m ≠ 0) :
    ∃ (ex : Int) (mm : Nat), (dec32 w).rat = (1 + mm / 2 ^ 23) * (2 : Rat) ^ ex ∧ mm < 2 ^ 23 ∧
      fpLog2 mode w = ((round32 mode (.fin (decide (logSum ex mm < 0)) (logSum ex mm).natAbs (-62))).1, if mm = 0 then 0 else fNX) := by
  obtain ⟨hlt, -, -⟩ := dec32_bounds h
  have hlog := Nat.log2_self_le hm
  have hl : m.log2 ≤ 23 := by
    have := (Nat.log2_lt hm).2 hlt
    omega
  obtain ⟨k, hk⟩ : ∃ k, m.log2 + k = 23 := ⟨23 - m.log2, by omega⟩
  have hmm : (m - 2 ^ m.log2) * 2 ^ 23 / 2 ^ m.log2 = (m - 2 ^ m.log2) * 2 ^ k := by
    rw [← hk, pow_add, Nat.mul_left_comm, Nat.mul_div_cancel_left _ (Nat.two_pow_pos _)]
  have hmlt : m < 2 ^ (m.log2 + 1) := Nat.lt_log2_self
  refine ⟨e + Int.ofNat m.log2, (m - 2 ^ m.log2) * 2 ^ k, ?_, ?_, ?_⟩
  · rw [h, rat_fin, zpow_add₀ two_ne_zero]
    have pow23 : (2 : Rat) ^ 23 = 2 ^ m.log2 * 2 ^ k := by rw [← pow_add, hk]
    show (m : Rat) * 2 ^ e = _
    rw [pow23, Int.ofNat_eq_natCast, zpow_natCast]
    push_cast [hlog]
    have : (2 : Rat) ^ m.log2 ≠ 0 := by positivity
    field_simp
    ring
  · calc (m - 2 ^ m.log2) * 2 ^ k < 2 ^ m.log2 * 2 ^ k := Nat.mul_lt_mul_of_pos_right (by rw [pow_succ] at hmlt; omega) (Nat.two_pow_pos _)
      _ = 2 ^ 23 := by rw [← pow_add, hk]
  · rw [fpLog2_fin mode h hm, hmm, round32_ofInt]
    have : (m - 2 ^ m.log2) * 2 ^ k = 0 ↔ m = 2 ^ m.log2 := by
      rw [Nat.mul_eq_zero, or_iff_left (Nat.two_pow_pos k).ne']; omega
    simp only [this]
    rfl

/-! ### Words of infinities -/

theorem word_of_dec32_inf {x : Word} {n : Bool} (h : dec32 x = .inf n) : x = if n then 0xFF800000#32 else 0x7F800000#32 := by
  obtain ⟨neg, c, hx, ⟨-, m, e, hd, -⟩ | ⟨rfl, hd⟩ | ⟨-, -, hd⟩⟩ := dec32_cases x <;> rw [h] at hd <;> cases hd
  apply BitVec.eq_of_toNat_eq
  rw [hx]
  cases n <;> rfl

/-! ### CVTP (R257) -/

theorem testBit_field (x a n j : Nat) : (x / 2 ^ a % 2 ^ n).testBit j = (decide (j < n) && x.testBit (a + j)) := by
  rw [Nat.testBit_mod_two_pow, Nat.testBit_div_two_pow, Nat.add_comm]

/-- One element replaced: its own bits are the new ones, every other bit stands. -/
theorem getLsbD_putElement {f i : Nat} {d : Word} {y : Nat} (hy : y < 2 ^ fmtBits f) {j : Nat} (hj : j < 32) :
    (putElement f i d y).getLsbD j =
      if fmtBits f * i ≤ j ∧ j < fmtBits f * (i + 1) then y.testBit (j - fmtBits f * i) else d.getLsbD j := by
  have high : fmtBits f ≤ j - fmtBits f * i → y.testBit (j - fmtBits f * i) = false := fun h =>
    Nat.testBit_lt_two_pow (hy.trans_le (Nat.pow_le_pow_right two_pos h))
  simp only [putElement, BitVec.getLsbD_or, BitVec.getLsbD_and, BitVec.getLsbD_not, BitVec.getLsbD_ofNat, Nat.testBit_mul_two_pow,
    Nat.testBit_two_pow_sub_one, hj, decide_true, Bool.true_and, Nat.mul_add_one]
  by_cases h1 : fmtBits f * i ≤ j
  · by_cases h2 : j - fmtBits f * i < fmtBits f
    · rw [if_pos ⟨h1, by omega⟩]; simp [h1, h2]
    · rw [if_neg (by omega), high (by omega)]; simp [h2]
  · rw [if_neg (by omega)]; simp [h1]

/-- CVTP's word: two neighbouring elements are replaced, and the other bits stand. -/
theorem putElement_pair {f i : Nat} {d : Word} {y z : Nat} (hy : y < 2 ^ fmtBits f) (hz : z < 2 ^ fmtBits f)
    (hi : fmtBits f * (i + 2) ≤ 32) : let n := fmtBits f; let w := putElement f (i + 1) (putElement f i d y) z
    w.toNat / 2 ^ (n * i) % 2 ^ n = y ∧ w.toNat / 2 ^ (n * (i + 1)) % 2 ^ n = z ∧
    ∀ j, (j < n * i ∨ n * (i + 2) ≤ j) → w.getLsbD j = d.getLsbD j := by
  intro n w
  have bit : ∀ j, j < 32 → w.getLsbD j = if n * (i + 1) ≤ j ∧ j < n * (i + 2) then z.testBit (j - n * (i + 1))
      else if n * i ≤ j ∧ j < n * (i + 1) then y.testBit (j - n * i) else d.getLsbD j := fun j hj => by
    rw [getLsbD_putElement hz hj, getLsbD_putElement hy hj]
  have hn : fmtBits f = n := rfl
  rw [hn] at hy hz hi
  clear_value n w
  have next : n * (i + 1) = n * i + n := Nat.mul_add_one n i
  have last : n * (i + 2) = n * i + n + n := by rw [← next, ← Nat.mul_add_one]
  rw [last] at hi bit ⊢
  rw [next] at bit ⊢
  refine ⟨Nat.eq_of_testBit_eq fun j => ?_, Nat.eq_of_testBit_eq fun j => ?_, fun j hj => ?_⟩
  · rw [testBit_field]
    by_cases h : j < n
    · rw [← BitVec.getLsbD, bit _ (by omega), if_neg (by omega), if_pos (by omega), Nat.add_sub_cancel_left]; simp [h]
    · rw [Nat.testBit_lt_two_pow (hy.trans_le (Nat.pow_le_pow_right two_pos (not_lt.1 h)))]; simp [h]
  · rw [testBit_field]
    by_cases h : j < n
    · rw [← BitVec.getLsbD, bit _ (by omega), if_pos (by omega), Nat.add_sub_cancel_left]; simp [h]
    · rw [Nat.testBit_lt_two_pow (hz.trans_le (Nat.pow_le_pow_right two_pos (not_lt.1 h)))]; simp [h]
  · by_cases h : j < 32
    · rw [bit j h, if_neg (by omega), if_neg (by omega)]
    · rw [BitVec.getLsbD_of_ge _ _ (by omega), BitVec.getLsbD_of_ge _ _ (by omega)]

/-! ### Special operands -/

theorem mode_lt (c : Ctx) (u : Thread) : c.mode u < 4 := (c.source u).fpmode.isLt

theorem fpRound_nan (mode : Nat) {x : Word} (h : dec32 x = .nan) : fpRound mode x = (0x7FC00000#32, 0) := by rw [fpRound, h]; rfl

theorem fpRound_inf (mode : Nat) {x : Word} {n : Bool} (h : dec32 x = .inf n) : fpRound mode x = (x, 0) := by rw [fpRound, h]; rfl

theorem fpExp2_special (mode : Nat) (x : Word) : (dec32 x = .nan → fpExp2 mode x = (0x7FC00000#32, 0)) ∧
    (dec32 x = .inf false → fpExp2 mode x = (0x7F800000#32, 0)) ∧ (dec32 x = .inf true → fpExp2 mode x = (0, 0)) := by
  refine ⟨fun h => by rw [fpExp2, h]; rfl, fun h => ?_, fun h => by rw [fpExp2, h]; rfl⟩
  rw [fpExp2, h, word_of_dec32_inf h]; rfl

theorem fpLog2_special (mode : Nat) (x : Word) : (dec32 x = .nan → fpLog2 mode x = (0x7FC00000#32, 0)) ∧
    (dec32 x = .inf true → fpLog2 mode x = (0x7FC00000#32, fNV)) ∧ (dec32 x = .inf false → fpLog2 mode x = (0x7F800000#32, 0)) ∧
    (∀ n e, dec32 x = .fin n 0 e → fpLog2 mode x = (0xFF800000#32, fDZ)) ∧
    (∀ m e, dec32 x = .fin true m e → m ≠ 0 → fpLog2 mode x = (0x7FC00000#32, fNV)) := by
  refine ⟨fun h => by rw [fpLog2, h]; rfl, fun h => by rw [fpLog2, h]; rfl, fun h => ?_, fun n e h => by rw [fpLog2, h]; rfl,
    fun m e h hm => by simp only [fpLog2, h, hm, if_false, if_true]; rfl⟩
  rw [fpLog2, h, word_of_dec32_inf h]; rfl

/-- R57: FRCP, FRSQ and FSQRT of NaNs, zeros, infinities and negative values. -/
theorem roots_special (mode : Nat) (x : Word) : let a := dec32 x
    let nan := (0x7FC00000#32, fNone); let bad := (0x7FC00000#32, fNV)
    (a = .nan → fpRcp mode x = nan ∧ fpRsq mode x = nan ∧ fpSqrt mode x = nan) ∧
    (x = 0#32 → fpRcp mode x = (0x7F800000#32, fDZ) ∧ fpRsq mode x = (0x7F800000#32, fDZ) ∧ fpSqrt mode x = (0, 0)) ∧
    (x = 0x80000000#32 → fpRcp mode x = (0xFF800000#32, fDZ) ∧ fpRsq mode x = (0xFF800000#32, fDZ) ∧
      fpSqrt mode x = (0x80000000#32, 0)) ∧
    (a = .inf false → fpRcp mode x = (0, 0) ∧ fpRsq mode x = (0, 0) ∧ fpSqrt mode x = (0x7F800000#32, 0)) ∧
    (a = .inf true → fpRcp mode x = (0x80000000#32, 0) ∧ fpRsq mode x = bad ∧ fpSqrt mode x = bad) ∧
    (∀ m e, a = .fin true m e → m ≠ 0 → fpRsq mode x = bad ∧ fpSqrt mode x = bad) := by
  refine ⟨fun h => ?_, fun h => ?_, fun h => ?_, fun h => ?_, fun h => ?_, fun m e h hm => ?_⟩
  · simp only [fpRcp, fpRsq, fpSqrt, h]; exact ⟨rfl, rfl, rfl⟩
  · subst h; exact ⟨rfl, rfl, rfl⟩
  · subst h; exact ⟨rfl, rfl, rfl⟩
  · simp only [fpRcp, fpRsq, fpSqrt, h]
    rw [word_of_dec32_inf h]; exact ⟨rfl, rfl, rfl⟩
  · simp only [fpRcp, fpRsq, fpSqrt, h]; exact ⟨rfl, rfl, rfl⟩
  · simp only [fpRsq, fpSqrt, h, hm, if_false, if_true]; exact ⟨rfl, rfl⟩

/-! ### The tables (R55, R56) -/

/-- Each table entry is the integer nearest to its value times its power of two. -/
theorem tables_nearest : ∀ i, i < 64 → (2 * expT.getD i 0 - 1) ^ 64 < 2 ^ (2624 + i) ∧ 2 ^ (2624 + i) < (2 * expT.getD i 0 + 1) ^ 64 ∧
    (2 * logG.getD i 0 - 1) * (64 + i) < 2 ^ 69 ∧ 2 ^ 69 < (2 * logG.getD i 0 + 1) * (64 + i) := by
  decide +kernel

/-! ### Conversions (R51, R318) -/

theorem convert_float {df : Nat} (h : df < 6) (mode : Nat) (sat : Bool) (v : Val) : convert df mode sat v = roundFloat df mode sat v := by
  interval_cases df <;> rfl

/-- R51: conversion to an integer format. -/
theorem convert_int_rounds {mode : Nat} (hmode : mode < 4) (sat : Bool) (v : Val) {df w : Nat} {lo hi : Int}
    (h : (df, w, lo, hi) ∈ intFormats) : let r := convert df mode sat v
      let code := fun (i : Int) => (BitVec.ofInt w i).toNat
      (v = .nan → r = (0, fNV)) ∧ (v = .inf true → r = (code lo, fSAT)) ∧ (v = .inf false → r = (code hi, fSAT)) ∧
      ∀ neg m e, v = .fin neg m e → ∃ k y : Nat, RoundsTo mode neg (compare (m * (2 : Rat) ^ e)) 0 k y ∧
        let i : Int := if neg then -y else y
        r = (code (max lo (min i hi)),
          (if (k : Rat) = m * (2 : Rat) ^ e then 0 else fNX) ||| if i < lo ∨ hi < i then fSAT else 0) := by
  obtain ⟨hlo, hhi, heq⟩ := convert_int h mode sat v
  intro r code
  refine ⟨fun hv => ?_, fun hv => ?_, fun hv => ?_, fun neg m e hv => ?_⟩
  · subst hv
    refine heq.trans ?_
    simp [roundInt]
  · subst hv; exact heq
  · subst hv; exact heq
  · subst hv
    obtain ⟨k, y, rounds, hr⟩ := roundInt_fin hmode (hlo.trans hhi) neg m e
    refine ⟨k, y, rounds, ?_⟩
    show convert df mode sat _ = _
    rw [heq, hr]

theorem convert_e8m0_zero (mode : Nat) (sat neg : Bool) (e : Int) : convert 6 mode sat (.fin neg 0 e) = (0, fUF ||| fNX) := rfl

theorem convert_e8m0_neg (mode : Nat) (sat : Bool) {m : Nat} (hm : m ≠ 0) (e : Int) :
    convert 6 mode sat (.fin true m e) = (0, fNV) := if_neg hm

end Sys2Proof.Machine

namespace Sys2Proof.Proofs

open Machine

/-- Settles O12: FRND, the special functions, CVT and CVTP as lane results, each by what its function makes of a NaN, an infinity, a zero
and a finite value. -/
theorem floatUnary : Obligations.FloatUnary := by
  unfold Obligations.FloatUnary
  refine ⟨fun mode sat v hmode => ⟨fun df hdf => convert_float hdf mode sat v, fun df w lo hi hd => convert_int_rounds hmode sat v hd,
    fun h => by subst h; rfl, fun h => by subst h; rfl, fun h => by subst h; rfl, fun neg m e h => ?_⟩, tables_nearest,
    fun s c g hi r f h => ⟨⟨_, ⟨_, rfl, fpLane_effect hi r.d _⟩, fun u => ?_⟩, ⟨_, ⟨_, rfl, fpLane_effect hi f.d _⟩, fun u => ?_⟩,
    ⟨_, ⟨_, rfl, fpLane_effect hi f.d _⟩, fun u => ?_⟩, ⟨_, _, _, ⟨_, rfl, fpLane_effect hi f.d _⟩, ⟨_, rfl, fpLane_effect hi f.d _⟩,
    ⟨_, rfl, fpLane_effect hi f.d _⟩, fun u => ?_⟩, ⟨_, _, ⟨_, rfl, fpLane_effect hi h.d _⟩, ⟨_, rfl, fpLane_effect hi h.d _⟩,
    fun u => ?_⟩⟩⟩
  · subst h
    refine ⟨fun hm => ?_, fun hm hn => ?_, fun hm hn => ?_⟩
    · subst hm
      exact convert_e8m0_zero mode sat neg e
    · subst hn
      exact convert_e8m0_neg mode sat hm e
    · subst hn
      exact roundE8m0_pos hmode hm e
  · exact ⟨fpRound_nan _, fun n => fpRound_inf _, fun n m e hmode hx => fpRound_fin hmode hx⟩
  · obtain ⟨nan, pos, neg⟩ := fpExp2_special (c.mode u) (c.val u f.a)
    refine ⟨rfl, nan, pos, neg, fun hn hinf => ?_⟩
    rcases hx : dec32 (c.val u f.a) with _ | b | ⟨n, m, e⟩
    · exact absurd hx hn
    · exact absurd hx (hinf b)
    · have := fpExp2_rounds (mode_lt c u) hx
      rw [hx] at this
      exact this
  · obtain ⟨nan, neg, pos, zero, less⟩ := fpLog2_special (c.mode u) (c.val u f.a)
    exact ⟨nan, neg, pos, zero, less, fun m e hx hm => fpLog2_rounds (c.mode u) hx hm⟩
  · obtain ⟨nan, pzero, nzero, pinf, ninf, neg⟩ := roots_special (c.mode u) (c.val u f.a)
    exact ⟨nan, pzero, nzero, pinf, ninf, neg, fun n m e hx hm => fpRcp_rounds (mode_lt c u) hx hm, fun m e hx hm =>
      ⟨fpRsq_rounds (mode_lt c u) hx hm, fpSqrt_rounds (mode_lt c u) hx hm⟩⟩
  · exact ⟨rfl, rfl, putElement_pair⟩

end Sys2Proof.Proofs
end

section
/-! SUPPORT. Exact block sums (R60, R146, R276), the rounding of one into an accumulator, and MMF (R275, R276). -/

namespace Sys2Proof.Machine

/-! ### Exact sums -/

/-- Values whose sum is no number: a NaN among them, or both infinities. -/
def SumInvalid (ps : List Val) : Prop := .nan ∈ ps ∨ (.inf true ∈ ps ∧ .inf false ∈ ps)

theorem exactSum_of_invalid {ps : List Val} (h : SumInvalid ps) : ExactSum ps .nan where
  invalid _ := rfl
  infinite hn n hi ho := by
    obtain h | ⟨ht, hf⟩ := h
    · exact absurd h hn
    · cases n <;> exact absurd ‹_› ho
  finite hn hi := by
    obtain h | ⟨ht, -⟩ := h
    · exact absurd h hn
    · exact absurd ht (hi true)

theorem exactSum_of_infinite {ps : List Val} (hn : .nan ∉ ps) {n : Bool} (hi : .inf n ∈ ps) (ho : .inf (!n) ∉ ps) :
    ExactSum ps (.inf n) where
  invalid h := by
    obtain h | ⟨ht, hf⟩ := h
    · exact absurd h hn
    · cases n <;> exact absurd ‹_› ho
  infinite _ n' hi' ho' := by
    by_cases e : n' = n
    · rw [e]
    · rw [show n' = !n by cases n <;> cases n' <;> simp_all] at hi'
      exact absurd hi' ho
  finite _ h := absurd hi (h n)

theorem exactSum_of_finite {ps : List Val} (hn : .nan ∉ ps) (hi : ∀ n, .inf n ∉ ps) {n : Bool} {m : Nat} {e : Int}
    (hz : m = 0 → n = false) (hr : (Val.fin n m e).rat = (ps.map Val.rat).sum) : ExactSum ps (.fin n m e) where
  invalid h := by
    obtain h | ⟨ht, -⟩ := h
    · exact absurd h hn
    · exact absurd ht (hi true)
  infinite _ n' h := absurd h (hi n')
  finite _ _ := ⟨n, m, e, rfl, hz, hr⟩

/-- What a sum is: a NaN, an infinity, or a finite value. -/
theorem exactSum_cases {ps : List Val} {v : Val} (h : ExactSum ps v) : (SumInvalid ps ∧ v = .nan) ∨
    (.nan ∉ ps ∧ ∃ n, .inf n ∈ ps ∧ .inf (!n) ∉ ps ∧ v = .inf n) ∨
    (.nan ∉ ps ∧ (∀ n, .inf n ∉ ps) ∧ ∃ n m e, v = .fin n m e ∧ (m = 0 → n = false) ∧ v.rat = (ps.map Val.rat).sum) := by
  by_cases hinv : SumInvalid ps
  · exact .inl ⟨hinv, h.invalid hinv⟩
  obtain ⟨hn, hboth⟩ := not_or.1 hinv
  by_cases hi : ∃ n, Val.inf n ∈ ps
  · obtain ⟨n, hi⟩ := hi
    have ho : Val.inf (!n) ∉ ps := fun ho => hboth (by cases n <;> exact ⟨‹_›, ‹_›⟩)
    exact .inr (.inl ⟨hn, n, hi, ho, h.infinite hn n hi ho⟩)
  · have hi := not_exists.1 hi
    exact .inr (.inr ⟨hn, hi, h.finite hn hi⟩)

theorem exactSum_nan_iff {ps : List Val} {v : Val} (h : ExactSum ps v) : v = .nan ↔ SumInvalid ps := by
  refine ⟨fun hv => ?_, h.invalid⟩
  obtain ⟨hinv, -⟩ | ⟨-, n, -, -, e⟩ | ⟨-, -, n, m, k, e, -⟩ := exactSum_cases h
  · exact hinv
  · rw [hv] at e; cases e
  · rw [hv] at e; cases e

/-- One more value is added to an exact sum. -/
theorem exactSum_concat {ps : List Val} {v : Val} (h : ExactSum ps v) (p : Val) : ExactSum (ps ++ [p]) (v.add 0 p) := by
  obtain ⟨hinv, rfl⟩ | ⟨hn, n, hi, ho, rfl⟩ | ⟨hn, hi, n, m, e, rfl, hz, hr⟩ := exactSum_cases h
  · refine exactSum_of_invalid ?_
    obtain h | ⟨ht, hf⟩ := hinv
    · exact .inl (List.mem_append_left _ h)
    · exact .inr ⟨List.mem_append_left _ ht, List.mem_append_left _ hf⟩
  · cases p with
    | nan => exact exactSum_of_invalid (.inl (by simp))
    | inf n' =>
      by_cases hs : n = n'
      · subst hs
        rw [add_inf_same]
        exact exactSum_of_infinite (by simp [hn]) (List.mem_append_left _ hi) (by simp [ho])
      · rw [show n' = !n by cases n <;> cases n' <;> simp_all, add_inf_opposite]
        refine exactSum_of_invalid (.inr ?_)
        cases n <;> simp [hi]
    | fin n' m' e' => exact exactSum_of_infinite (by simp [hn]) (List.mem_append_left _ hi) (by simp [ho])
  · cases p with
    | nan => exact exactSum_of_invalid (.inl (by simp))
    | inf n' => exact exactSum_of_infinite (by simp [hn]) (by simp) (by simp [hi])
    | fin n' m' e' =>
      obtain ⟨k, j, z, hadd, hrat, hzero⟩ := add_fin 0 n n' m m' e e'
      rw [hadd] at hrat ⊢
      refine exactSum_of_finite (by simp [hn]) (by simp [hi]) (fun hk => ?_) ?_
      · rw [hzero hk]
        split
        · exact hz (And.left ‹_›)
        · rfl
      · rw [hrat, hr, List.map_append, List.sum_append]
        simp

theorem exactSum_foldl (ps : List Val) : ExactSum ps (ps.foldl (Val.add 0) (.fin false 0 0)) := by
  induction ps using List.reverseRecOn with
  | nil => exact exactSum_of_finite (by simp) (by simp) (fun _ => rfl) (by simp [signed])
  | append_singleton ps p ih =>
    rw [List.foldl_append]
    exact exactSum_concat ih p

/-! ### Block sums -/

/-- The step of a block sum. -/
def dotStep (a : Val × Flags) (z : Val × Val) : Val × Flags :=
  (a.1.add 0 (z.1.mul z.2), a.2 ||| madeNan (z.1.mul z.2) [z.1, z.2] ||| madeNan (a.1.add 0 (z.1.mul z.2)) [a.1, z.1.mul z.2])

theorem dotVals_eq (xs ys : List Val) : dotVals xs ys = (xs.zip ys).foldl dotStep (.fin false 0 0, fNone) := rfl

theorem dotStep_foldl_fst (zs : List (Val × Val)) (a : Val × Flags) :
    (zs.foldl dotStep a).1 = (zs.map fun z => z.1.mul z.2).foldl (Val.add 0) a.1 := by
  induction zs generalizing a with
  | nil => rfl
  | cons z zs ih => exact ih _

theorem zero_or_flags (x : Flags) : 0 ||| x = x := BitVec.zero_or

theorem madeNan_or (v : Val) (xs : List Val) : fNV ||| madeNan v xs = fNV := by
  unfold madeNan
  split
  · exact BitVec.or_self
  · exact BitVec.or_zero

/-- The flags of one step: none where the sum is a number so far. -/
theorem dotStep_number {a : Val × Flags} {z : Val × Val} (h : (dotStep a z).1 ≠ .nan) :
    a.1 ≠ .nan ∧ (a.2 = 0 → (dotStep a z).2 = 0) := by
  have ha : a.1 ≠ .nan := fun e => h (by show a.1.add 0 _ = _; rw [e, add_nan_left])
  have hp : z.1.mul z.2 ≠ .nan := fun e => h (by show a.1.add 0 _ = _; rw [e, add_nan_right])
  refine ⟨ha, fun h0 => ?_⟩
  show a.2 ||| madeNan _ _ ||| madeNan (dotStep a z).1 _ = 0
  rw [h0, madeNan_of_ne hp, madeNan_of_ne h]
  rfl

/-- The flags of one step: NV where the sum is a NaN and no operand was one. -/
theorem dotStep_nan {a : Val × Flags} {z : Val × Val} (h : (dotStep a z).1 = .nan) (hz : z.1 ≠ .nan ∧ z.2 ≠ .nan)
    (ha : a.1 ≠ .nan → a.2 = 0) (hn : a.1 = .nan → a.2 = fNV) : (dotStep a z).2 = fNV := by
  show a.2 ||| madeNan _ _ ||| madeNan (dotStep a z).1 _ = _
  by_cases hs : a.1 = .nan
  · rw [hn hs, madeNan_or, madeNan_or]
  rw [ha hs, zero_or_flags]
  by_cases hp : z.1.mul z.2 = .nan
  · rw [hp, madeNan_invalid (by simp [Ne.symm hz.1, Ne.symm hz.2]), madeNan_or]
  · rw [madeNan_of_ne hp, zero_or_flags, h, madeNan_invalid (by simp [Ne.symm hs, Ne.symm hp])]

/-- The flags of a block sum: none but where it is a NaN, and then NV where no operand was one (R52, log 18). -/
theorem dotStep_foldl_snd (zs : List (Val × Val)) :
    ((zs.foldl dotStep (.fin false 0 0, fNone)).1 ≠ .nan → (zs.foldl dotStep (.fin false 0 0, fNone)).2 = 0) ∧
    ((zs.foldl dotStep (.fin false 0 0, fNone)).1 = .nan → (∀ z ∈ zs, z.1 ≠ .nan ∧ z.2 ≠ .nan) →
      (zs.foldl dotStep (.fin false 0 0, fNone)).2 = fNV) := by
  induction zs using List.reverseRecOn with
  | nil => exact ⟨fun _ => rfl, nofun⟩
  | append_singleton zs z ih =>
    rw [List.foldl_append]
    refine ⟨fun h => ?_, fun h hz => ?_⟩
    · obtain ⟨ha, h0⟩ := dotStep_number h
      exact h0 (ih.1 ha)
    · exact dotStep_nan h (hz z (by simp)) ih.1 fun e => ih.2 e fun y hy => hz y (by simp [hy])

/-! ### Block sums of two rows of elements -/

theorem dotVals_fst (n : Nat) (x y : Nat → Val) :
    ExactSum ((List.range n).map fun j => (x j).mul (y j)) (dotVals ((List.range n).map x) ((List.range n).map y)).1 := by
  rw [dotVals_eq, dotStep_foldl_fst, List.zip_map', List.map_map]
  exact exactSum_foldl _

theorem dotVals_number {n : Nat} {x y : Nat → Val} (h : (dotVals ((List.range n).map x) ((List.range n).map y)).1 ≠ .nan) :
    (dotVals ((List.range n).map x) ((List.range n).map y)).2 = 0 :=
  (dotStep_foldl_snd _).1 h

theorem dotVals_nan {n : Nat} {x y : Nat → Val} (h : (dotVals ((List.range n).map x) ((List.range n).map y)).1 = .nan)
    (hx : ∀ j, j < n → x j ≠ .nan ∧ y j ≠ .nan) : (dotVals ((List.range n).map x) ((List.range n).map y)).2 = fNV := by
  refine (dotStep_foldl_snd _).2 h fun z hz => ?_
  rw [List.zip_map'] at hz
  obtain ⟨j, hj, rfl⟩ := List.mem_map.1 hz
  exact hx j (List.mem_range.1 hj)

/-! ### A block sum added into an accumulator (R60, R276) -/

theorem accBlock_nan {acc : Word} {sum : Val × Flags} {ea eb : Nat} (h : ea = 255 ∨ eb = 255 ∨ sum.1 = .nan) :
    accBlock acc sum ea eb = (0x7FC00000#32, sum.2) := if_pos h

theorem accBlock_number {acc : Word} {sum : Val × Flags} {ea eb : Nat} (ha : ea ≠ 255) (hb : eb ≠ 255) (hs : sum.1 ≠ .nan) :
    accBlock acc sum ea eb = let r := (dec32 acc).add 0 (sum.1.scale (Int.ofNat ea + Int.ofNat eb - 254))
      ((round32 0 r).1, (round32 0 r).2 ||| madeNan r [dec32 acc]) := by
  rw [show Int.ofNat ea + Int.ofNat eb - 254 = Int.ofNat ea - 127 + (Int.ofNat eb - 127) by ring]
  exact if_neg (by simp [ha, hb, hs])

theorem scale_rat (n : Bool) (m : Nat) (e k : Int) : ((Val.fin n m e).scale k).rat = (Val.fin n m e).rat * 2 ^ k := by
  simp only [Val.scale, rat_fin, zpow_add₀ (two_ne_zero' Rat)]
  ring

theorem or_zero_flags (x : Flags) : x ||| 0 = x := BitVec.or_zero

/-- The rounded sum of an accumulator that is a number and a value that leaves one. -/
theorem rounded_flags {r : Val} (h : r ≠ .nan) (xs : List Val) : ((round32 0 r).1, (round32 0 r).2 ||| madeNan r xs) = round32 0 r := by
  rw [madeNan_of_ne h, or_zero_flags]

/-- What an infinite value adds to an accumulator. -/
theorem accumulate_inf (acc : Word) (n : Bool) : let r := (dec32 acc).add 0 (.inf n)
    (dec32 acc = .inf (!n) → ((round32 0 r).1, (round32 0 r).2 ||| madeNan r [dec32 acc]) = (0x7FC00000#32, fNV)) ∧
    (dec32 acc ≠ .nan → dec32 acc ≠ .inf (!n) → r = .inf n) := by
  refine ⟨fun h => ?_, fun hn ho => ?_⟩
  · rw [h, show (Val.inf !n).add 0 (.inf n) = .nan by cases n <;> rfl, madeNan_invalid (by simp)]
    rfl
  · cases hd : dec32 acc with
    | nan => exact absurd hd hn
    | inf n' =>
      rw [hd] at ho
      rw [show n' = n by cases n <;> cases n' <;> simp_all, add_inf_same]
    | fin n' m' e' => rfl

/-- What a finite value adds to a finite one: their sum, where a zero sum with a positive zero is +0. -/
theorem accumulate_fin (n n' : Bool) (m m' : Nat) (e e' : Int) (hz : m' = 0 → n' = false) : ∃ z k j,
    (Val.fin n m e).add 0 (.fin n' m' e') = .fin z k j ∧ (k = 0 → z = false) ∧
    (Val.fin z k j).rat = (Val.fin n m e).rat + (Val.fin n' m' e').rat := by
  obtain ⟨k, j, z, h, hr, hzero⟩ := add_fin 0 n n' m m' e e'
  refine ⟨z, k, j, h, fun hk => ?_, h ▸ hr⟩
  rw [hzero hk]
  split
  case isTrue hc =>
    obtain ⟨-, hm, hn⟩ := hc
    rw [hn, hz hm]
  case isFalse => rfl

/-- One C element of MMF (R60, R276): the old one plus the exact block sum times its scales, rounded once. -/
theorem accBlock_adds (x y : Nat → Val) (acc : Word) (ea eb : Nat) :
    let ps := (List.range 32).map fun j => (x j).mul (y j)
    let w := accBlock acc (dotVals ((List.range 32).map x) ((List.range 32).map y)) ea eb
    (ea = 255 ∨ eb = 255 ∨ SumInvalid ps → w.1 = 0x7FC00000#32 ∧ (¬ SumInvalid ps → w.2 = 0) ∧
      (SumInvalid ps → (∀ j, j < 32 → x j ≠ .nan ∧ y j ≠ .nan) → w.2 = fNV)) ∧
    (ea ≠ 255 → eb ≠ 255 → ¬ SumInvalid ps →
      (dec32 acc = .nan → w = (0x7FC00000#32, 0)) ∧
      (∀ n, .inf n ∈ ps → (dec32 acc = .inf (!n) → w = (0x7FC00000#32, fNV)) ∧
        (dec32 acc ≠ .nan → dec32 acc ≠ .inf (!n) → dec32 w.1 = .inf n ∧ w.2 = 0)) ∧
      ((∀ n, .inf n ∉ ps) → (∀ n, dec32 acc = .inf n → w = (acc, 0)) ∧
        ∀ n m e, dec32 acc = .fin n m e → ∃ n' m' e', w = round32 0 (.fin n' m' e') ∧ (m' = 0 → n' = false) ∧
          (Val.fin n' m' e').rat = (dec32 acc).rat + (ps.map Val.rat).sum * (2 : Rat) ^ (Int.ofNat ea + Int.ofNat eb - 254))) := by
  intro ps w
  have hsum := dotVals_fst 32 x y
  have hnan := exactSum_nan_iff hsum
  refine ⟨fun h => ?_, fun ha hb hv => ?_⟩
  · rw [← hnan] at h ⊢
    rw [show w = _ from accBlock_nan h]
    exact ⟨rfl, dotVals_number, dotVals_nan⟩
  have hw := accBlock_number (acc := acc) ha hb (mt hnan.1 hv)
  change w = _ at hw
  generalize dotVals ((List.range 32).map x) ((List.range 32).map y) = sum at hsum hw
  refine ⟨fun hacc => ?_, fun n hi => ?_, fun hi => ⟨fun n hacc => ?_, fun n m e hacc => ?_⟩⟩
  · rw [hw, hacc]
    simp only [add_nan_left, round32_nan, madeNan_of_mem (List.mem_singleton_self Val.nan), or_zero_flags]
  · rw [hsum.infinite (fun h => hv (.inl h)) n hi fun ho => hv (.inr (by cases n <;> exact ⟨‹_›, ‹_›⟩))] at hw
    obtain ⟨hop, hinf⟩ := accumulate_inf acc n
    refine ⟨fun h => hw.trans (hop h), fun h ho => ?_⟩
    have hr := hinf h ho
    simp only [Val.scale, hr] at hw
    rw [rounded_flags (show Val.inf n ≠ .nan from nofun)] at hw
    rw [hw, dec32_round32_inf, round32_inf]
    exact ⟨rfl, rfl⟩
  · obtain ⟨n', m', e', hs, -, -⟩ := hsum.finite (fun h => hv (.inl h)) hi
    rw [hs, hacc] at hw
    rw [hw, word_of_dec32_inf hacc]
    show ((round32 0 (.inf n)).1, (round32 0 (.inf n)).2 ||| madeNan (.inf n) _) = _
    rw [rounded_flags (show Val.inf n ≠ .nan from nofun), round32_inf]
  · obtain ⟨n', m', e', hs, hz, hr⟩ := hsum.finite (fun h => hv (.inl h)) hi
    rw [hs, hacc] at hw
    obtain ⟨z, k, j, hadd, hzero, hrat⟩ := accumulate_fin n n' m m' e (e' + (Int.ofNat ea + Int.ofNat eb - 254)) hz
    refine ⟨z, k, j, ?_, hzero, ?_⟩
    · simp only [Val.scale, hadd] at hw
      rw [hw, rounded_flags (show Val.fin z k j ≠ .nan from nofun)]
    · have hsc := scale_rat n' m' e' (Int.ofNat ea + Int.ofNat eb - 254)
      rw [← hs, hr, hs] at hsc
      rw [hrat, hacc, ← hsc]
      rfl

/-! ### Integer block sums (R60, R276) -/

/-- Integers as values. -/
def IsInt (v : Val) (i : Int) : Prop := ∃ n m, v = .fin n m 0 ∧ signed n m = i

theorem ofInt_isInt (i : Int) (z : Bool) : IsInt (ofInt i 0 z) i := by
  unfold ofInt
  split
  case isTrue h => exact ⟨z, 0, rfl, by cases z <;> simp [signed, h]⟩
  case isFalse h =>
    refine ⟨_, _, rfl, ?_⟩
    by_cases hi : i < 0
    · simp only [hi, decide_true, signed, if_true]
      exact (by omega : -(i.natAbs : Int) = i)
    · simp only [hi, decide_false, signed, Bool.false_eq_true, if_false]
      exact (by omega : (i.natAbs : Int) = i)

theorem add_isInt {v w : Val} {i j : Int} (hv : IsInt v i) (hw : IsInt w j) : IsInt (v.add 0 w) (i + j) := by
  obtain ⟨n, m, rfl, rfl⟩ := hv
  obtain ⟨n', m', rfl, rfl⟩ := hw
  have h := ofInt_isInt (signed n m + signed n' m') (if m = 0 ∧ m' = 0 ∧ n = n' then n else zeroSign 0)
  simpa only [Val.add, le_refl, if_true, sub_self, Int.toNat_zero, pow_zero, Nat.mul_one] using h

theorem mul_isInt {v w : Val} {i j : Int} (hv : IsInt v i) (hw : IsInt w j) : IsInt (v.mul w) (i * j) := by
  obtain ⟨n, m, rfl, rfl⟩ := hv
  obtain ⟨n', m', rfl, rfl⟩ := hw
  exact ⟨n != n', m * m', rfl, by cases n <;> cases n' <;> simp [signed]⟩

theorem dotVals_isInt {n : Nat} {x y : Nat → Val} {i j : Nat → Int} (hx : ∀ k, IsInt (x k) (i k)) (hy : ∀ k, IsInt (y k) (j k)) :
    IsInt (dotVals ((List.range n).map x) ((List.range n).map y)).1 ((List.range n).map fun k => i k * j k).sum := by
  rw [dotVals_eq, dotStep_foldl_fst, List.zip_map', List.map_map]
  induction n with
  | zero => exact ⟨false, 0, rfl, rfl⟩
  | succ n ih =>
    rw [List.range_succ, List.map_append, List.map_append, List.foldl_append, List.sum_append]
    simpa using add_isInt ih (mul_isInt (hx n) (hy n))

/-- An 8-bit element, unsigned or signed. -/
theorem dec_byte (n : Bool) {x : Nat} (hx : x < 256) :
    IsInt (dec (if n then 11 else 8) x) (if n = true ∨ x < 128 then (x : Int) else x - 256) := by
  cases n with
  | true => exact ⟨false, x, rfl, by simp [signed]⟩
  | false =>
    by_cases h : x < 128
    · exact ⟨false, x, if_pos h, by simp [signed, h]⟩
    · refine ⟨true, 256 - x, if_neg h, ?_⟩
      simp only [signed, if_true, Bool.false_eq_true, false_or, h, if_false]
      exact (by omega : -((256 - x : Nat) : Int) = x - 256)

theorem accClamp_clamps (d : Word) (i : Int) : let sum := d.toInt + i
    (accClamp d i).1.toInt = max (-2 ^ 31) (min sum (2 ^ 31 - 1)) ∧
    (accClamp d i).2 = if sum < -2 ^ 31 ∨ 2 ^ 31 - 1 < sum then fSAT else 0 := by
  intro sum
  have hlow : accClamp d i = if sum < -2 ^ 31 then (0x80000000#32, fSAT) else if 2 ^ 31 - 1 < sum then (0x7FFFFFFF#32, fSAT)
    else (BitVec.ofInt 32 sum, fNone) := rfl
  rw [hlow]
  split
  case isTrue h =>
    refine ⟨?_, by rw [if_pos (.inl h)]⟩
    rw [show (0x80000000#32 : Word).toInt = -2 ^ 31 by decide]
    omega
  case isFalse h =>
    split
    case isTrue h' =>
      refine ⟨?_, by rw [if_pos (.inr h')]⟩
      rw [show (0x7FFFFFFF#32 : Word).toInt = 2 ^ 31 - 1 by decide]
      omega
    case isFalse h' =>
      refine ⟨?_, by rw [if_neg (by omega)]; rfl⟩
      rw [BitVec.toInt_ofInt, Int.bmod_eq_of_le (by omega) (by omega)]
      omega

/-- The step of the integer MMF's word (R276): a sum of integers is an integer. -/
theorem fragInt_clamps (c : Ctx) (g : Group) (tid : Nat) (f : LG) (r k : Nat) (acc : Word) {x y : Nat → Int}
    (hx : ∀ j, IsInt (c.fragElem g tid (if f.sga then 11 else 8) f.a r j) (x j))
    (hy : ∀ j, IsInt (c.fragElem g tid (if f.sgb then 11 else 8) f.b k j) (y j)) :
    c.fragInt g tid f r k acc = accClamp acc ((List.range 32).map fun j => x j * y j).sum := by
  obtain ⟨n, m, hs, hi⟩ := dotVals_isInt (n := 32) hx hy
  rw [← hi]
  show (match (dotVals _ _).1 with | .fin neg m e => accClamp acc (signed neg m * 2 ^ e.toNat) | _ => (acc, fNone)) = _
  rw [hs]
  simp

/-! ### Fragments (R275) -/

theorem fragElem_eq (c : Ctx) (g : Group) (tid : Nat) {f width : Nat} (h : fmtBits f = width) (hw : width ≠ 0) (a : Code) (r k : Nat) :
    c.fragElem g tid f a r k = dec f ((c.fragReg g tid (4 * r + k / 8) a (k % 8 / (32 / width))).toNat /
      2 ^ (width * (k % 8 % (32 / width))) % 2 ^ width) := by
  simp only [Ctx.fragElem, element, fmtPerReg, h, hw, if_false]

theorem mmf_effect {s : State} {c : Ctx} {g : Group} (h : InIssue s c g) (f : LG)
    (elem : Ctx → Group → Nat → Nat → Nat → Word → Word × Flags) : LaneEffect s (s.mmf f elem) c g [] fun u =>
      let r := u.tid % 32 / 4; let k := 2 * (u.tid % 32 % 4)
      let lo := elem c g u.tid r k (c.valAt u f.d 0); let hi := elem c g u.tid r (k + 1) (c.valAt u f.d 1)
      ((u.setRegAt f.d 0 lo.1).setRegAt f.d 1 hi.1).addFlags (lo.2 ||| hi.2) :=
  lanes_effect h _ fun u => by simp

/-! ### Elements of both operands -/

/-- The block sum of a C element is that of the elements at their places (R275). -/
theorem fragFp_eq (c : Ctx) (g : Group) (tid : Nat) {fmt width : Nat} (h : fmtBits fmt = width) (hw : width ≠ 0) (scaled : Bool) (f : LG)
    (r k : Nat) (acc : Word) :
    let elem := fun (a : Code) (r k : Nat) => (c.fragReg g tid (4 * r + k / 8) a (k % 8 / (32 / width))).toNat /
      2 ^ (width * (k % 8 % (32 / width))) % 2 ^ width
    let scale := fun (a : Code) (row : Nat) (sel : BitVec 2) => (c.fragReg g tid (4 * row) a 0).toNat / 2 ^ (8 * sel.toNat) % 256
    c.fragFp g tid fmt scaled f r k acc = accBlock acc
      (dotVals ((List.range 32).map fun j => dec fmt (elem f.a r j)) ((List.range 32).map fun j => dec fmt (elem f.b k j)))
      (if scaled then scale f.sca r f.sela else 127) (if scaled then scale f.scb k f.selb else 127) := by
  simp only [Ctx.fragFp, Ctx.fragSum, funext (fragElem_eq c g tid h hw f.a r), funext (fragElem_eq c g tid h hw f.b k)]

/-- MMF's six forms. -/
theorem exec_mmf (f : LG) (s : State) :
    let fp := fun (fmt : Nat) (scaled : Bool) =>
      (.next (s.mmf f fun c g tid r k acc => c.fragFp g tid fmt scaled f r k acc) : Out)
    exec (.mmfBf16 f) s = fp 1 false ∧ exec (.mmfF16 f) s = fp 2 false ∧ exec (.mmfE4m3 f) s = fp 3 true ∧
    exec (.mmfE5m2 f) s = fp 4 true ∧ exec (.mmfE2m1 f) s = fp 5 true ∧
    exec (.mmfS8 f) s = .next (s.mmf f fun c g tid r k acc => c.fragInt g tid f r k acc) :=
  ⟨rfl, rfl, rfl, rfl, rfl, rfl⟩

end Sys2Proof.Machine

namespace Sys2Proof.Proofs
open Machine

/-- Settles O15: a C element is one `accBlock` of the exact block sum, and an integer one is clamped. -/
theorem fragmentMultiply : Obligations.FragmentMultiply := by
  unfold Obligations.FragmentMultiply
  intro s c g h f effect reg elem scale block
  have hfp : ∀ (fmt width : Nat) (scaled : Bool), fmtBits fmt = width → width ≠ 0 →
      block fmt width scaled fun tid r k acc => c.fragFp g tid fmt scaled f r k acc := by
    intro fmt width scaled hb hw tid r k acc
    beta_reduce
    rw [fragFp_eq c g tid hb hw]
    exact accBlock_adds _ _ acc _ _
  have hint : ∀ (n : Bool) (tid : Nat) (a : Code) (r j : Nat), IsInt (c.fragElem g tid (if n then 11 else 8) a r j)
      (if n = true ∨ elem 8 tid a r j < 128 then (elem 8 tid a r j : Int) else elem 8 tid a r j - 256) := by
    intro n tid a r j
    rw [fragElem_eq c g tid (by cases n <;> rfl : fmtBits _ = 8) (by decide)]
    exact dec_byte n (Nat.mod_lt _ (by decide))
  have hgives : ∀ elem : Ctx → Group → Nat → Nat → Nat → Word → Word × Flags, effect (s.mmf f elem) (elem c g) := mmf_effect h f
  have hmm : ∀ (fmt : Nat) (scaled : Bool), effect (s.mmf f fun c g tid r k acc => c.fragFp g tid fmt scaled f r k acc)
      fun tid r k acc => c.fragFp g tid fmt scaled f r k acc := fun fmt scaled => hgives _
  obtain ⟨e1, e2, e3, e4, e5, e6⟩ := exec_mmf f s
  let fp := fun (fmt : Nat) (scaled : Bool) (tid r k : Nat) (acc : Word) => c.fragFp g tid fmt scaled f r k acc
  refine ⟨fp 1 false, fp 2 false, fp 3 true, fp 4 true, fp 5 true, fun tid r k acc => c.fragInt g tid f r k acc, ?_⟩
  -- What the obligation names by `let` stays opaque from here on: unfolding it in every clause is costly.
  clear_value block effect
  refine ⟨⟨_, e1, hmm 1 false⟩, hfp 1 16 false rfl (by decide),
    ⟨_, e2, hmm 2 false⟩, hfp 2 16 false rfl (by decide), ⟨_, e3, hmm 3 true⟩, hfp 3 8 true rfl (by decide),
    ⟨_, e4, hmm 4 true⟩, hfp 4 8 true rfl (by decide), ⟨_, e5, hmm 5 true⟩, hfp 5 4 true rfl (by decide), ⟨_, e6, hgives _⟩, ?_⟩
  intro tid r k acc
  show (c.fragInt g tid f r k acc).1.toInt = _ ∧ (c.fragInt g tid f r k acc).2 = _
  rw [fragInt_clamps c g tid f r k acc (hint f.sga tid f.a r) (hint f.sgb tid f.b k)]
  exact accClamp_clamps acc _

end Sys2Proof.Proofs
end

section
/-! SUPPORT. How an engine command takes its turn and how it ends (R122, R147, R320). -/

namespace Sys2Proof.Machine

/-! ### A command whose turn has come -/

theorem engNow_eq {s : State} {e : EngCmd} (hf : s.engs.find? (fun x => decide (x.id = e.id)) = some e) (ht : s.engTurn e = true)
    (hr : ∀ c ∈ s.columns, c.2.remap = none) (hb : s.behind e.guid e.tid e.id = false)
    (hs : e.fin.ctr ≠ 0 → s.served e.fin.ctrPa = true) (hq : s.roomFor e.core = true) :
    s.engNow e.id = some (e, s.group e.guid) := by
  have counted : (decide (e.fin.ctr = 0) || s.served e.fin.ctrPa) = true := by
    by_cases h : e.fin.ctr = 0 <;> simp [h, hs]
  simp only [State.engNow, hf]
  rw [ht, hb, noRemap_of hr, counted, hq]
  rfl

/-! ### Its writes -/

theorem writes_write {s : State} (h : MemOk s) (k : Nat) (bs : List Byte) : Writes s (s.write k bs) k bs :=
  ⟨rfl, fun j => byte_write h k j bs⟩

theorem engWrite_ok {s : State} {e : EngCmd} {g : Group} {a k : Nat} {bs : List Byte} (hg : s.group e.guid = some g)
    (hk : s.padCheck g a bs.length = .ok k) : s.engWrite e a bs = s.write k bs := by
  simp only [State.engWrite, hg, hk]

theorem unmark_of_not_mem {s : State} {m : NetMark} (h : m ∉ s.netBad) : s.unmark m = s :=
  if_neg fun hm => h (marked_iff.1 hm)

/-- Where no unit is bad, a signal-add is the counter's addition. -/
theorem signalAdd_eq {s : State} (hb : s.badUnits = []) {core tenant k : Nat} (hk : k < Config.peerBase) (gid tid : Word) (va : Nat) :
    s.signalAdd core tenant k gid tid va =
      (s.write k (leBytes 8 (min (s.num k 8 + 1) (2 ^ 64 - 1)))).dropLine (clusterOf core) k 8 := by
  have good : ¬ s.badAt k 8 = true := by simp [State.badAt, hb]
  have here : ¬ Config.peerBase ≤ k := by omega
  rw [State.signalAdd, if_neg good, State.counterAdd, State.devWrite, if_neg here, State.devNum, State.devRead, if_neg here]
  rfl

/-! ### Its end -/

theorem finishEng_finishes {s : State} {e : EngCmd} (h : MemOk s) (hn : NetMark.item e.id ∉ s.netBad) (outcome : Nat) (flags : Flags) :
    Finishes s (s.finishEng e outcome flags) e outcome flags where
  quiet hst hctr := by
    rw [State.finishEng, hst, hctr]
    exact unmark_of_not_mem hn
  status g k hst hctr hg hk := by
    refine ⟨_, writes_write h k _, ?_⟩
    rw [State.finishEng, hst, hctr]
    have hw : s.engWrite e e.fin.stat (leBytes 4 (flags.toNat + outcome * 2 ^ 8)) = _ :=
      engWrite_ok hg ((length_leBytes 4 _).symm ▸ hk)
    simp only [if_true, hw]
    exact unmark_of_not_mem hn
  counter hst hctr hb hk := by
    refine ⟨_, writes_write h _ _, ?_⟩
    have unmarked : s.marked (.item e.id) = false := Bool.eq_false_iff.2 (mt marked_iff.1 hn)
    rw [State.finishEng, hst]
    simp only [Bool.false_eq_true, if_false, if_neg hctr, unmarked, signalAdd_eq hb hk]
    rw [unmark_of_not_mem (by exact hn)]
    rfl

/-! ### Changes of its group -/

theorem onGroup_oneGroup {s : State} {k : Nat} {g : Group} (hg : s.group k = some g) (f : Group → Group) :
    OneGroup s (s.onGroup k f) k (f g) where
  rest := onGroup_rest s k f
  group := by rw [group_onGroup, if_pos rfl, hg]; rfl
  others j hj := by rw [group_onGroup, if_neg hj]

theorem memOk_onGroup {s : State} (h : MemOk s) (k : Nat) (f : Group → Group) : MemOk (s.onGroup k f) :=
  memOk_of_eq (congrArg State.mem (onGroup_rest s k f)) (congrArg State.noisy (onGroup_rest s k f)) h

theorem netBad_onGroup (s : State) (k : Nat) (f : Group → Group) : (s.onGroup k f).netBad = s.netBad :=
  (congrArg State.netBad (onGroup_rest s k f)).trans rfl

end Sys2Proof.Machine
end

section
/-! SUPPORT. The elements of MX: operands by their offset (R45, R48), and block after block along K (R60). -/

namespace Sys2Proof.Machine

/-! ### Elements of packed arrays (R45) -/

theorem elemOf_half {f : Nat} (h : fmtBits f = 16) (b : Nat → Byte) (i : Nat) :
    elemOf f b i = (b (2 * i)).toNat + 256 * (b (2 * i + 1)).toNat := by
  simp only [elemOf, h, show ¬ (16 = 4) by decide, if_false, show List.range (16 / 8) = [0, 1] from rfl, List.map_cons, List.map_nil,
    leNat, Nat.mul_zero, Nat.add_zero, show 16 / 8 = 2 from rfl, Nat.mul_comm i 2]

theorem elemOf_byte {f : Nat} (h : fmtBits f = 8) (b : Nat → Byte) (i : Nat) : elemOf f b i = (b i).toNat := by
  simp only [elemOf, h, show ¬ (8 = 4) by decide, if_false, show List.range (8 / 8) = [0] from rfl, List.map_cons, List.map_nil,
    leNat, Nat.mul_zero, Nat.add_zero, show 8 / 8 = 1 from rfl, Nat.mul_one]

theorem elemOf_nibble {f : Nat} (h : fmtBits f = 4) (b : Nat → Byte) (i : Nat) :
    elemOf f b i = (b (i / 2)).toNat / 16 ^ (i % 2) % 16 := by
  simp only [elemOf, h, if_true]
  obtain hi | hi := Nat.mod_two_eq_zero_or_one i <;> simp [hi]

theorem foldl_toNat {α : Type} (t : α → Bool) (l : List α) (n : Nat) :
    l.foldl (fun n i => n + (t i).toNat) n = n + (l.filter t).length := by
  induction l generalizing n with
  | nil => rfl
  | cons a l ih =>
    rw [List.foldl_cons, ih, List.filter_cons]
    cases t a
    · simp
    · simp; omega

/-- A magnitude of a CB2 index with its sign (R48). -/
theorem cb2Val_eq (tbl : Nat → Nat) {w : Nat} (hw : w < 65536) (e : Nat) :
    let m := 2 * (tbl (w / 256) / 4 ^ e % 4) + 1 - w % 2
    let minus := if e < 7 then w.testBit (1 + e) else decide (((List.range 7).filter fun j => w.testBit (1 + j)).length % 2 = 1)
    cb2Val tbl w e = .fin (decide (m ≠ 0) && minus) m (-1) := by
  have entry : bits (tbl (w / 256 % 256)) (2 * e + 1) (2 * e) = tbl (w / 256) / 4 ^ e % 4 := by
    rw [Nat.mod_eq_of_lt (by omega), bits, Nat.pow_mul, show 2 * e + 1 + 1 - 2 * e = 2 by omega]
    rfl
  simp only [cb2Val, bit_eq_testBit, foldl_toNat, Nat.zero_add, entry]

/-- An element of an MX operand. -/
theorem mxElem_eq (f : Nat) (n : Bool) (tbl : Nat → Nat) (b : Nat → Byte) (k line e : Nat) :
    mxElem f n tbl b k line e = mxOperand f n tbl b k line e := by
  by_cases h6 : f = 6
  · subst h6
    have hw := (b (2 * (line * k / 8 + e / 8))).isLt
    have hw' := (b (2 * (line * k / 8 + e / 8) + 1)).isLt
    have h := cb2Val_eq tbl (show (b (2 * (line * k / 8 + e / 8))).toNat + 256 * (b (2 * (line * k / 8 + e / 8) + 1)).toNat < 65536 by
      omega) (e % 8)
    simp only [mxElem, if_true, Nat.mul_comm _ 2, h]
    rfl
  · rw [mxElem, if_neg h6]
    match f with
    | 0 => rw [mxFmt, elemOf_half rfl]; rfl
    | 1 => rw [mxFmt, elemOf_half rfl]; rfl
    | 2 => rw [mxFmt, elemOf_byte rfl]; rfl
    | 3 => rw [mxFmt, elemOf_byte rfl]; rfl
    | 4 => rw [mxFmt, elemOf_nibble rfl]; rfl
    | 5 => exact congrArg (dec (if n then 11 else 8)) (elemOf_byte (by cases n <;> rfl) b _)
    | 6 => exact absurd rfl h6
    | f + 7 => exact congrArg (dec (if n then 11 else 8)) (elemOf_byte (by cases n <;> rfl) b _)

/-! ### Block after block (R60) -/

/-- A dot product of two lists is an exact sum; it has a flag only where it is a NaN. -/
theorem exactSum_dotVals (xs ys : List Val) : ExactSum ((xs.zip ys).map fun z => z.1.mul z.2) (dotVals xs ys).1 := by
  rw [dotVals_eq, dotStep_foldl_fst]
  exact exactSum_foldl _

theorem dotVals_flags {xs ys : List Val} (h : (dotVals xs ys).1 ≠ .nan) : (dotVals xs ys).2 = 0 :=
  (dotStep_foldl_snd _).1 h

/-- The elements of a block of 32 along K. -/
def blockElems (p : MxBlk) (k : Nat) : List Nat := (upFrom (32 * k) 32).filter fun e => decide (e < p.k)

theorem map_blockElems {α : Type} (p : MxBlk) (k : Nat) (f : Nat → α) :
    (blockElems p k).map f = ((List.range 32).filter fun j => decide (32 * k + j < p.k)).map fun j => f (32 * k + j) := by
  rw [blockElems, upFrom, List.filter_map, List.map_map]
  rfl

/-- The step of an MX element: a block's sum. -/
def mxBlockSum (p : MxBlk) (rd : MxRead) (r c k : Nat) : Val × Flags :=
  dotVals ((blockElems p k).map (mxElem p.af p.sga rd.tbl rd.a p.k r)) ((blockElems p k).map (mxElem p.bf p.sgb rd.tbl rd.b p.k c))

/-- An MX element and its flags after the first `n` blocks. -/
def mxAfter (p : MxBlk) (rd : MxRead) (r c : Nat) (old : Word) (n : Nat) : Word × Flags :=
  (List.range n).foldl (fun a k =>
    ((accBlock a.1 (mxBlockSum p rd r c k) (rd.sa r k) (rd.sb c k)).1,
      a.2 ||| (accBlock a.1 (mxBlockSum p rd r c k) (rd.sa r k) (rd.sb c k)).2)) (if p.zero then 0 else old, fNone)

theorem mxAfter_succ (p : MxBlk) (rd : MxRead) (r c : Nat) (old : Word) (n : Nat) : mxAfter p rd r c old (n + 1) =
    let a := mxAfter p rd r c old n
    let w := accBlock a.1 (mxBlockSum p rd r c n) (rd.sa r n) (rd.sb c n)
    (w.1, a.2 ||| w.2) := by
  simp only [mxAfter, List.range_succ, List.foldl_append, List.foldl_cons, List.foldl_nil]

theorem mxBlockSum_exact (p : MxBlk) (rd : MxRead) (r c k : Nat) :
    ExactSum (((List.range 32).filter fun j => decide (32 * k + j < p.k)).map fun j =>
      (mxOperand p.af p.sga rd.tbl rd.a p.k r (32 * k + j)).mul (mxOperand p.bf p.sgb rd.tbl rd.b p.k c (32 * k + j)))
      (mxBlockSum p rd r c k).1 := by
  have h := exactSum_dotVals ((blockElems p k).map (mxElem p.af p.sga rd.tbl rd.a p.k r))
    ((blockElems p k).map (mxElem p.bf p.sgb rd.tbl rd.b p.k c))
  rw [List.zip_map', List.map_map, map_blockElems] at h
  simp only [Function.comp, mxElem_eq] at h
  exact h

theorem madeNan_single (r x : Val) : madeNan r [x] = if r = .nan ∧ x ≠ .nan then fNV else 0 := by
  simp [madeNan, fNone]

/-- What one block adds to an element. -/
theorem accBlock_step (acc : Word) (fl : Flags) {sum : Val × Flags} (hs : sum.1 ≠ .nan → sum.2 = 0) (ca cb : Nat) :
    let w := accBlock acc sum ca cb
    let next := (dec32 acc).add 0 (sum.1.scale (Int.ofNat ca + Int.ofNat cb - 254))
    (ca = 0xFF ∨ cb = 0xFF ∨ sum.1 = .nan → w.1 = 0x7FC00000#32 ∧ (sum.1 ≠ .nan → fl ||| w.2 = fl)) ∧
    (ca ≠ 0xFF → cb ≠ 0xFF → sum.1 ≠ .nan → w.1 = rne next ∧ fl ||| w.2 = fl ||| (round32 0 next).2 |||
      if next = .nan ∧ dec32 acc ≠ .nan then fNV else 0) := by
  refine ⟨fun h => ?_, fun ha hb h => ?_⟩
  · rw [accBlock_nan h]
    exact ⟨rfl, fun hn => by rw [hs hn]; exact or_zero_flags fl⟩
  · rw [accBlock_number ha hb h]
    refine ⟨rfl, ?_⟩
    rw [← madeNan_single]
    exact (BitVec.or_assoc ..).symm

theorem mxAcc_element (s : State) (e : EngCmd) (g : Group) (p : MxBlk) (stage : List (Nat × List Byte)) (r c : Nat) (old : Word) :
    MxElement s e.core g p (beatByte stage) r c old (mxAcc p (s.mxRead e g p stage) r c old) := by
  have scale : ∀ f addr line k, (if mxScaled f = true then (s.byte (keyOf e.core addr + (line * p.blocks + k))).toNat else 0x7F) =
      if f ∈ [2, 3, 4, 6] then (s.byte (keyOf e.core addr + (line * p.blocks + k))).toNat else 0x7F := by
    intro f addr line k
    simp [mxScaled]
  refine ⟨fun k => (mxAfter p (s.mxRead e g p stage) r c old k).1, fun k => (mxAfter p (s.mxRead e g p stage) r c old k).2, rfl, rfl,
    rfl, fun k _ => ⟨_, mxBlockSum_exact p (s.mxRead e g p stage) r c k, ?_⟩⟩
  beta_reduce
  rw [mxAfter_succ]
  have h := accBlock_step (mxAfter p (s.mxRead e g p stage) r c old k).1 (mxAfter p (s.mxRead e g p stage) r c old k).2
    (sum := mxBlockSum p (s.mxRead e g p stage) r c k) dotVals_flags ((s.mxRead e g p stage).sa r k) ((s.mxRead e g p stage).sb c k)
  rw [show (s.mxRead e g p stage).sa r k = _ from scale p.af p.sca r k,
    show (s.mxRead e g p stage).sb c k = _ from scale p.bf p.scb c k] at h ⊢
  exact h

end Sys2Proof.Machine
end

section
/-! SUPPORT. The rows of ATTN and ATTN.MERGE (R62, R146, R149). -/

namespace Sys2Proof.Machine

/-! ### The greatest score -/

/-- The running maximum of a row's scores. -/
def maxScore (ss : List Word) : Word := ss.foldl (fun m s => if m = negInf32 then s else fpMax m s) negInf32

theorem maxScore_concat (ss : List Word) (w : Word) :
    maxScore (ss ++ [w]) = if maxScore ss = negInf32 then w else fpMax (maxScore ss) w := by
  rw [maxScore, List.foldl_append]
  rfl

theorem dec32_negInf : dec32 negInf32 = .inf true := rfl

theorem ne_negInf_of_nan {x : Word} (h : dec32 x = .nan) : x ≠ negInf32 := by
  rintro rfl
  rw [dec32_negInf] at h
  cases h

theorem fpKey_signed (neg : Bool) {c : Nat} (hc : c < 2 ^ 31) :
    fpKey (signBits 0 neg + c) = if neg then -Int.ofNat c - 1 else Int.ofNat c := by
  cases neg
  · rw [show signBits 0 false = 0 from rfl, zero_add, fpKey, if_pos hc]; rfl
  · rw [show signBits 0 true = 2 ^ 31 from rfl, fpKey, if_neg (by omega), Nat.add_sub_cancel_left]; rfl

theorem fpKey_negInf : fpKey negInf32.toNat = -0x7F800001 := by decide

theorem negInf_key_le {x : Word} (h : dec32 x ≠ .nan) : fpKey negInf32.toNat ≤ fpKey x.toNat := by
  have bound : ∀ (neg : Bool) (c : Nat), c ≤ 0x7F800000 → fpKey negInf32.toNat ≤ fpKey (signBits 0 neg + c) := fun neg c hc => by
    rw [fpKey_negInf, fpKey_signed neg (by omega)]
    cases neg <;> simp only [Bool.false_eq_true, if_true, if_false, Int.ofNat_eq_natCast] <;> omega
  obtain ⟨neg, c, hx, ⟨hc, -⟩ | ⟨rfl, -⟩ | ⟨-, -, hd⟩⟩ := dec32_cases x
  · simp only [maxBits] at hc
    rw [hx]
    exact bound neg c (by omega)
  · rw [hx]
    exact bound neg _ (le_refl _)
  · exact absurd hd h

theorem maxScore_nan {ss : List Word} (h : ∃ w ∈ ss, dec32 w = .nan) : dec32 (maxScore ss) = .nan := by
  induction ss using List.reverseRecOn with
  | nil => simp at h
  | append_singleton ss w ih =>
    rw [maxScore_concat]
    have nan : ∀ m, dec32 m = .nan ∨ dec32 w = .nan → dec32 (fpMax m w) = .nan := fun m hm => by
      rw [fpMax_nan hm]
      rfl
    obtain ⟨x, hx, hd⟩ := h
    obtain hx | hx := List.mem_append.1 hx
    · have hm := ih ⟨x, hx, hd⟩
      rw [if_neg (ne_negInf_of_nan hm)]
      exact nan _ (.inl hm)
    · obtain rfl := List.mem_singleton.1 hx
      split
      · exact hd
      · exact nan _ (.inr hd)

/-- Where no score is a NaN, the maximum is one of them, and no key is above its own. -/
theorem maxScore_greatest {ss : List Word} (h : ∀ w ∈ ss, dec32 w ≠ .nan) :
    (ss = [] ∨ maxScore ss ∈ ss) ∧ ∀ w ∈ ss, fpKey w.toNat ≤ fpKey (maxScore ss).toNat := by
  induction ss using List.reverseRecOn with
  | nil => exact ⟨.inl rfl, nofun⟩
  | append_singleton ss w ih =>
    obtain ⟨hmem, hle⟩ := ih fun x hx => h x (List.mem_append_left _ hx)
    have hw : dec32 w ≠ .nan := h w (by simp)
    rw [maxScore_concat]
    by_cases hm : maxScore ss = negInf32
    · rw [if_pos hm]
      refine ⟨.inr (by simp), fun x hx => ?_⟩
      obtain hx | hx := List.mem_append.1 hx
      · exact (hle x hx).trans (hm ▸ negInf_key_le hw)
      · rw [List.mem_singleton.1 hx]
    · have hmem : maxScore ss ∈ ss := hmem.resolve_left fun e => hm (by rw [e]; rfl)
      rw [if_neg hm, fpMax_of_ne (h _ (List.mem_append_left _ hmem)) hw]
      split
      case isTrue hlt =>
        refine ⟨.inr (by simp), fun x hx => ?_⟩
        obtain hx | hx := List.mem_append.1 hx
        · exact (hle x hx).trans hlt.le
        · rw [List.mem_singleton.1 hx]
      case isFalse hge =>
        refine ⟨.inr (List.mem_append_left _ hmem), fun x hx => ?_⟩
        obtain hx | hx := List.mem_append.1 hx
        · exact hle x hx
        · rw [List.mem_singleton.1 hx]
          omega

/-! ### A row from its weights -/

/-- The sum of a row's weights. -/
def weightSum (ps : List Val) : Val := ps.foldl (Val.add 0) (.fin false 0 0)

/-- The weighted sums of a row's values. -/
def weighted (ps : List Val) (vs : List (List Val)) (d : Nat) : List Val :=
  (List.range d).map fun c => (dotVals ps (vs.map fun v => v.getD c (.fin false 0 0))).1

theorem weighted_exact {ps : List Val} {kvs : List (List Val × List Val)} {d c : Nat} {v : Val}
    (h : (weighted ps (kvs.map (·.2)) d)[c]? = some v) :
    ExactSum ((ps.zip kvs).map fun z => z.1.mul (z.2.2.getD c (.fin false 0 0))) v := by
  rw [weighted, List.getElem?_map] at h
  obtain ⟨c', hc, rfl⟩ := Option.map_eq_some_iff.1 h
  obtain ⟨_, hcc⟩ := List.getElem?_eq_some_iff.1 hc
  rw [List.getElem_range] at hcc
  subst hcc
  have hs := exactSum_dotVals ps ((kvs.map (·.2)).map fun v => v.getD c (.fin false 0 0))
  simpa only [List.map_map, List.zip_map_right, Function.comp_def, Prod.map, id_eq] using hs

theorem weighRow_m (st : RowState64) (mn : Word) (ps : List Val) (vs : List (List Val)) (d : Nat) :
    (weighRow st mn ps vs d).1.m = mn := by
  unfold weighRow
  split <;> rfl

theorem weighRow_first {st : RowState64} (h : st.m = negInf32) (mn : Word) (ps : List Val) (vs : List (List Val)) (d : Nat) :
    (weighRow st mn ps vs d).1.l = rne (weightSum ps) ∧ (weighRow st mn ps vs d).1.o = (weighted ps vs d).map rne := by
  rw [weighRow, if_pos h]
  refine ⟨rfl, ?_⟩
  simp only [weighted, List.map_map]
  rfl

theorem weighRow_next {st : RowState64} (h : st.m ≠ negInf32) (mn : Word) (ps : List Val) (vs : List (List Val)) (d : Nat) :
    let a := fexp2 (rneSub st.m mn)
    (weighRow st mn ps vs d).1.l = rne ((dec32 (rneMul st.l a)).add 0 (weightSum ps)) ∧
    (weighRow st mn ps vs d).1.o = (st.o.zip (weighted ps vs d)).map fun z => rne ((dec32 (rneMul z.1 a)).add 0 z.2) := by
  rw [weighRow, if_neg h]
  refine ⟨rfl, ?_⟩
  simp only [weighted, List.zip_map_right, List.map_map]
  rfl

/-! ### A step on one row (R146) -/

/-- A row's scores. -/
def rowScores (scale : Word) (q : List Val) (kvs : List (List Val × List Val)) : List Word := kvs.map fun kv => (score scale q kv.1).1

/-- The maximum that a row goes on with. -/
def nextMax (m mb : Word) : Word := if m = negInf32 then mb else fpMax m mb

/-- The weights of a row's keys as values. -/
def rowWeights (ss : List Word) (mn : Word) : List Val := ss.map fun w => dec 1 (weight w mn).1

/-- The row that a step makes before it looks for NaNs. -/
def steppedRow (scale : Word) (q : List Val) (kvs : List (List Val × List Val)) (d : Nat) (st : RowState64) : RowState64 :=
  let mn := nextMax st.m (maxScore (rowScores scale q kvs))
  (weighRow st mn (rowWeights (rowScores scale q kvs) mn) (kvs.map (·.2)) d).1

theorem rowScores_eq (scale : Word) (q : List Val) (kvs : List (List Val × List Val)) :
    (kvs.map fun kv => score scale q kv.1).map (·.1) = rowScores scale q kvs := List.map_map

theorem rowWeights_eq (scale : Word) (q : List Val) (kvs : List (List Val × List Val)) (mn : Word) :
    ((kvs.map fun kv => score scale q kv.1).map fun s => weight s.1 mn).map (fun w => dec 1 w.1) =
      rowWeights (rowScores scale q kvs) mn := by
  simp only [rowWeights, rowScores, List.map_map]
  rfl

theorem any_map_of_eq {α β : Type} (f : α → β) (t : β → Bool) (l : List α) : (l.any fun a => t (f a)) = (l.map f).any t :=
  List.any_map.symm

/-- A step on a row with unmasked keys, part by part. -/
theorem attnRow_parts {kvs : List (List Val × List Val)} (h : kvs ≠ []) (scale : Word) (q : List Val) (d : Nat) (st : RowState64) :
    let ss := kvs.map fun kv => score scale q kv.1
    let mn := nextMax st.m (maxScore (ss.map (·.1)))
    let ws := ss.map fun s => weight s.1 mn
    let r := weighRow st mn (ws.map fun w => dec 1 w.1) (kvs.map (·.2)) d
    let fl := r.2 ||| orFlags ss ||| orFlags ws
    attnRow scale q kvs d st = (if isNan32 mn || isNan32 r.1.l || r.1.o.any isNan32 || (ss.any fun s => isNan32 s.1) ||
      (ws.any fun w => decide (dec 1 w.1 = .nan)) || fl.getLsbD 0 then RowState64.allNan d else r.1, fl) := by
  have he : ¬ kvs.isEmpty = true := by simpa using h
  rw [attnRow, if_neg he]
  rfl

/-- A step on a row with unmasked keys: the new row, or canonical NaNs where the step meets a NaN. -/
theorem attnRow_keys {kvs : List (List Val × List Val)} (h : kvs ≠ []) (scale : Word) (q : List Val) (d : Nat) (st : RowState64) :
    let r := steppedRow scale q kvs d st
    let ss := rowScores scale q kvs
    let mn := nextMax st.m (maxScore ss)
    (attnRow scale q kvs d st).1 = if dec32 mn = .nan ∨ dec32 r.l = .nan ∨ (∃ w ∈ r.o, dec32 w = .nan) ∨
      (∃ w ∈ ss, dec32 w = .nan) ∨ .nan ∈ rowWeights ss mn ∨ (attnRow scale q kvs d st).2.getLsbD 0 = true
      then RowState64.allNan d else r := by
  intro r ss mn
  have parts := attnRow_parts h scale q d st
  simp only [any_map_of_eq Prod.fst isNan32, any_map_of_eq (fun w : Nat × Flags => dec 1 w.1) (fun v => decide (v = .nan)),
    rowScores_eq, rowWeights_eq] at parts
  rw [parts]
  refine if_congr ?_ rfl rfl
  simp only [Bool.or_eq_true, List.any_eq_true, isNan32, decide_eq_true_eq, or_assoc, exists_eq_right]
  rfl

/-! ### The statement of a step -/

/-- Scores and weights key by key. -/
theorem rowScores_get {kvs : List (List Val × List Val)} {j : Nat} {kv : List Val × List Val} (h : kvs[j]? = some kv) (scale : Word)
    (q : List Val) (mn : Word) : ∃ x w, ExactSum ((q.zip kv.1).map fun z => z.1.mul z.2) x ∧ w = rne ((dec32 scale).mul x) ∧
      (rowScores scale q kvs)[j]? = some w ∧ (rowWeights (rowScores scale q kvs) mn)[j]? =
        some (dec 1 (roundFloat 1 0 false (dec32 (fexp2 (rneSub w mn)))).1) := by
  refine ⟨_, _, exactSum_dotVals q kv.1, rfl, ?_, ?_⟩
  · rw [rowScores, List.getElem?_map, h]
    rfl
  · rw [rowWeights, rowScores, List.getElem?_map, List.getElem?_map, h]
    rfl

/-- No −0 is the maximum beside a +0. -/
theorem maxScore_zero {ss : List Word} (h : ∀ w ∈ ss, dec32 w ≠ .nan) (hm : maxScore ss = 0x80000000#32) : 0#32 ∉ ss := by
  intro hz
  have := (maxScore_greatest h).2 _ hz
  rw [hm] at this
  exact absurd this (by decide)

/-- The columns of a stepped row, or any where the old row had not as many. -/
def steppedCols (d : Nat) (st r : RowState64) : List Word :=
  if st.m = negInf32 ∨ st.o.length = d then r.o else List.replicate d 0

theorem steppedRow_lengths (scale : Word) (q : List Val) (kvs : List (List Val × List Val)) {d : Nat} {st : RowState64}
    (h : st.m = negInf32 ∨ st.o.length = d) : (steppedRow scale q kvs d st).o.length = d := by
  by_cases hm : st.m = negInf32
  · rw [steppedRow, (weighRow_first hm _ _ _ _).2]
    simp [weighted]
  · have hl := h.resolve_left hm
    rw [steppedRow, (weighRow_next hm _ _ _ _).2]
    simp [weighted, hl]

theorem steppedCols_nan {d : Nat} {st r : RowState64} (h : ∃ w ∈ steppedCols d st r, dec32 w = .nan) : ∃ w ∈ r.o, dec32 w = .nan := by
  obtain ⟨w, hw, hd⟩ := h
  unfold steppedCols at hw
  split at hw
  case isTrue => exact ⟨w, hw, hd⟩
  case isFalse =>
    rw [List.eq_of_mem_replicate hw] at hd
    cases hd

theorem attnRow_steps (scale : Word) (q : List Val) (kvs : List (List Val × List Val)) (d : Nat) (st : RowState64) :
    AttnRow scale q kvs d st (attnRow scale q kvs d st) := by
  refine ⟨fun h => by rw [h]; rfl, fun h => ?_⟩
  have keys := attnRow_keys h scale q d st
  generalize attnRow scale q kvs d st = result at keys ⊢
  have hne : rowScores scale q kvs ≠ [] := by simpa [rowScores] using h
  refine ⟨rowScores scale q kvs, rowWeights (rowScores scale q kvs) (nextMax st.m (maxScore (rowScores scale q kvs))),
    maxScore (rowScores scale q kvs), nextMax st.m (maxScore (rowScores scale q kvs)), (steppedRow scale q kvs d st).l,
    steppedCols d st (steppedRow scale q kvs d st), _, _, by simp [rowScores], by simp [rowWeights, rowScores], ?_, ?_,
    fun j kv hj => rowScores_get hj scale q _, maxScore_nan, fun hn => ⟨(maxScore_greatest hn).1.resolve_left hne, fun w hw =>
      not_less_of_fpKey (hn w hw) (hn _ ((maxScore_greatest hn).1.resolve_left hne)) ((maxScore_greatest hn).2 w hw), maxScore_zero hn⟩,
    fun hm => if_pos hm, fun hm => ?_, exactSum_foldl _, fun c v => weighted_exact (d := d), ?_, ?_, ?_, ?_⟩
  · unfold steppedCols
    split
    case isTrue hl => exact steppedRow_lengths scale q kvs hl
    case isFalse => simp
  · simp [weighted]
  · rw [nextMax, if_neg (show ¬ st.m = negInf32 from hm)]
    exact fpMax_greatest _ _
  · intro hm
    have hr := weighRow_first hm (nextMax st.m (maxScore (rowScores scale q kvs)))
      (rowWeights (rowScores scale q kvs) (nextMax st.m (maxScore (rowScores scale q kvs)))) (kvs.map (·.2)) d
    rw [steppedCols, if_pos (.inl hm)]
    exact hr
  · intro hm hl
    have hr := weighRow_next hm (nextMax st.m (maxScore (rowScores scale q kvs)))
      (rowWeights (rowScores scale q kvs) (nextMax st.m (maxScore (rowScores scale q kvs)))) (kvs.map (·.2)) d
    rw [steppedCols, if_pos (.inr hl)]
    exact hr
  · intro hmeets
    exact keys.trans (if_pos (hmeets.imp_right (Or.imp_right (Or.imp_left steppedCols_nan))))
  · intro hl hmeets
    have hm : (steppedRow scale q kvs d st).m = nextMax st.m (maxScore (rowScores scale q kvs)) := weighRow_m ..
    rw [steppedCols, if_pos (.inr hl)] at hmeets ⊢
    rw [← hm]
    exact keys.trans (if_neg hmeets)

/-! ### The merge of two rows (R62) -/

theorem mergeRow_first {p1 : RowState64} (h : p1.m = negInf32) (p2 : RowState64) : (mergeRow p1 p2).1 = p2 := by
  rw [mergeRow, if_pos h]

theorem mergeRow_second {p1 p2 : RowState64} (h1 : p1.m ≠ negInf32) (h2 : p2.m = negInf32) : (mergeRow p1 p2).1 = p1 := by
  rw [mergeRow, if_neg h1, if_pos h2]

/-- Neither partial is the identity. -/
theorem mergeRow_both {p1 p2 : RowState64} (h1 : p1.m ≠ negInf32) (h2 : p2.m ≠ negInf32) :
    let m := fpMax p1.m p2.m
    let s1 := fexp2 (rneSub p1.m m)
    let s2 := fexp2 (rneSub p2.m m)
    let both := fun (x y : Word) => rne ((dec32 (rneMul x s1)).add 0 (dec32 (rneMul y s2)))
    (mergeRow p1 p2).1 = { m := m, l := both p1.l p2.l, o := (p1.o.zip p2.o).map fun z => both z.1 z.2 } := by
  rw [mergeRow, if_neg h1, if_neg h2]
  simp only [List.map_map]
  rfl

/-- A partial that is the identity gives the other. -/
theorem mergeRow_parts (p1 p2 : RowState64) : (mergeRow p1 p2).1 =
    if p1.m = 0xFF800000#32 then p2 else if p2.m = 0xFF800000#32 then p1 else (mergeRow p1 p2).1 := by
  split
  case isTrue h => exact mergeRow_first h p2
  case isFalse h1 =>
    split
    case isTrue h2 => exact mergeRow_second h1 h2
    case isFalse => rfl

theorem mergeRow_merged (p1 p2 : RowState64) : MergedRow p1 p2 (mergeRow p1 p2).1 := by
  refine ⟨fun h => mergeRow_first h p2, fun h1 h2 => mergeRow_second h1 h2, fun h1 h2 => ?_⟩
  rw [mergeRow_both h1 h2]
  exact ⟨fpMax_greatest _ _, rfl, rfl⟩

theorem length_mergeRow {p1 p2 : RowState64} {d : Nat} (h1 : p1.o.length = d) (h2 : p2.o.length = d) :
    (mergeRow p1 p2).1.o.length = d := by
  rw [mergeRow_parts]
  split
  case isTrue => exact h2
  case isFalse n1 =>
    split
    case isTrue => exact h1
    case isFalse n2 =>
      rw [mergeRow_both n1 n2]
      simp [h1, h2]

/-! ### Records (R148) -/

theorem length_readRow (s : State) (k d : Nat) : (s.readRow k d).o.length = d := by simp [State.readRow]

theorem length_rowBytes (r : RowState64) : r.bytes.length = 8 + 4 * r.o.length := by
  simp [RowState64.bytes, length_leBytes]
  omega

theorem bytes_parts (r : RowState64) : r.bytes = leBytes 4 r.m.toNat ++ leBytes 4 r.l.toNat ++ r.o.flatMap fun w => leBytes 4 w.toNat := by
  simp [RowState64.bytes]

theorem length_flatMap_range {α : Type} {f : Nat → List α} {n len : Nat} (h : ∀ i, i < n → (f i).length = len) :
    ((List.range n).flatMap f).length = n * len := by
  rw [List.length_flatMap, List.map_congr_left (g := fun _ => len) fun i hi => h i (List.mem_range.1 hi)]
  simp

/-- Pieces of one length, one after another: the piece at an index. -/
theorem flatMap_range_piece {α : Type} {f : Nat → List α} {n len : Nat} (h : ∀ i, i < n → (f i).length = len) {r : Nat} (hr : r < n) :
    (((List.range n).flatMap f).drop (r * len)).take len = f r := by
  induction n with
  | zero => omega
  | succ n ih =>
    have hlen := length_flatMap_range fun i hi => h i (Nat.lt_succ_of_lt hi)
    rw [List.range_succ, List.flatMap_append, List.flatMap_singleton]
    by_cases hn : r = n
    · subst hn
      rw [← hlen, List.drop_left, List.take_of_length_le (h r (Nat.lt_succ_self r)).le]
    · have hle : r * len + len ≤ ((List.range n).flatMap f).length := by
        rw [hlen, ← Nat.succ_mul]
        exact Nat.mul_le_mul_right len (by omega)
      rw [List.drop_append_of_le_length (by omega), List.take_append_of_le_length (by rw [List.length_drop]; omega)]
      exact ih (fun i hi => h i (Nat.lt_succ_of_lt hi)) (by omega)

/-! ### The rows of a tile (R142) -/

theorem length_tileRow (g : Group) (acc d r : Nat) : (g.tileRow acc d r).o.length = d := by simp [Group.tileRow]

theorem tileRow_get (g : Group) (acc d r : Nat) : (g.tileRow acc d r).m = (g.tile acc).m.getD r 0xFF800000#32 ∧
    (g.tileRow acc d r).l = (g.tile acc).l.getD r 0 ∧ (g.tileRow acc d r).o.length = d ∧
    ∀ c, c < d → (g.tileRow acc d r).o[c]? = some ((g.tile (acc + c / 64)).o.getD (64 * r + c % 64) 0) := by
  refine ⟨rfl, rfl, length_tileRow g acc d r, fun c hc => ?_⟩
  rw [Group.tileRow, List.getElem?_map, List.getElem?_range hc]
  rfl

theorem attnVals_get (f d : Nat) (b : Nat → Byte) (row : Nat) {c : Nat} (hc : c < d) : let i := row * d + c
    (attnVals f d b row)[c]? = some (if f < 2 then dec (f + 1) ((b (2 * i)).toNat + 256 * (b (2 * i + 1)).toNat)
      else dec 3 (b i).toNat) := by
  rw [attnVals, List.getElem?_map, List.getElem?_range hc]
  match f with
  | 0 => exact congrArg (fun x => some (dec 1 x)) (elemOf_half rfl b _)
  | 1 => exact congrArg (fun x => some (dec 2 x)) (elemOf_half rfl b _)
  | f + 2 => exact congrArg (fun x => some (dec 3 x)) (elemOf_byte rfl b _)

/-! ### The bytes of a drain (R61, R148, R282) -/

theorem packBits_lt (w : Nat) (ys : List Nat) : packBits w ys < 2 ^ (ys.length * w) := by
  induction ys with
  | nil => simp [packBits]
  | cons y ys ih =>
    rw [packBits, List.length_cons, Nat.succ_mul, Nat.add_comm, Nat.pow_add, Nat.mul_comm (2 ^ (ys.length * w))]
    exact Nat.lt_of_lt_of_le (Nat.add_lt_add_left (Nat.mod_lt _ (Nat.two_pow_pos w)) _)
      (by rw [← Nat.mul_succ]; exact Nat.mul_le_mul_left _ ih)

theorem packBits_get (w : Nat) {ys : List Nat} {c y : Nat} (h : ys[c]? = some y) : packBits w ys / 2 ^ (w * c) % 2 ^ w = y % 2 ^ w := by
  induction ys generalizing c with
  | nil => simp at h
  | cons x ys ih =>
    cases c with
    | zero =>
      obtain rfl : x = y := by simpa using h
      rw [packBits, Nat.mul_zero, Nat.pow_zero, Nat.div_one, Nat.add_mul_mod_self_left, Nat.mod_mod]
    | succ c =>
      rw [packBits, Nat.mul_succ, Nat.add_comm (w * c), Nat.pow_add, ← Nat.div_div_eq_div_mul,
        Nat.add_mul_div_left _ _ (Nat.two_pow_pos w), Nat.div_eq_of_lt (Nat.mod_lt _ (Nat.two_pow_pos w)), Nat.zero_add]
      exact ih (by simpa using h)

/-! ### The elements of a drain -/

/-- The number that a drain scales an element by. -/
def DrainBlk.scaled (p : DrainBlk) (x : Word) : Nat := (convert p.ofmt p.rnd p.sat (dec32 (rneMul x (rneMul p.sa p.sb)))).1

/-- A product tile's element. -/
theorem drainOut_product (p : DrainBlk) {t0 : Tile} (h : t0.attention = false) (t : Tile) (r c : Nat) :
    (drainOut p (rneMul p.sa p.sb) t0 t r c).1 = p.scaled (t.o.getD (64 * r + c % 64) 0) := by
  simp only [drainOut, drainElem, h, Bool.false_and, Bool.not_false, Bool.false_eq_true, if_false, if_true]
  rfl

/-- An attention tile's element of a row without weight. -/
theorem drainOut_zero (p : DrainBlk) {t0 : Tile} (h : t0.attention = true) {r : Nat} (hl : ∃ s e, dec32 (t0.l.getD r 0) = .fin s 0 e)
    (t : Tile) (c : Nat) : (drainOut p (rneMul p.sa p.sb) t0 t r c).1 = 0 := by
  obtain ⟨s, e, hl⟩ := hl
  simp only [drainOut, h, hl, Bool.true_and, decide_true, if_true]

/-- An attention tile's element of another row: the quotient of its element by the weight. -/
theorem drainOut_quotient (p : DrainBlk) {t0 : Tile} (h : t0.attention = true) {r : Nat} (hl : ¬ ∃ s e, dec32 (t0.l.getD r 0) = .fin s 0 e)
    (t : Tile) (c : Nat) : (drainOut p (rneMul p.sa p.sb) t0 t r c).1 =
      p.scaled (div32 (t.o.getD (64 * r + c % 64) 0) (t0.l.getD r 0)).1 := by
  have weight : ∀ s m e, dec32 (t0.l.getD r 0) = .fin s m e → m ≠ 0 := fun s m e hd hm => hl ⟨s, e, hm ▸ hd⟩
  cases hd : dec32 (t0.l.getD r 0) with
  | nan =>
    simp only [drainOut, drainElem, h, hd, Bool.true_and, Bool.not_true, Bool.false_eq_true, if_false]
    rfl
  | inf n =>
    simp only [drainOut, drainElem, h, hd, Bool.true_and, Bool.not_true, Bool.false_eq_true, if_false]
    rfl
  | fin s m e =>
    simp only [drainOut, drainElem, h, hd, Bool.true_and, Bool.not_true, Bool.false_eq_true, if_false, weight s m e hd, decide_false]
    rfl

/-! ### The rows of a drain -/

/-- The codes of an output row. -/
def drainRow (p : DrainBlk) (g : Group) (r : Nat) : List Nat :=
  (List.range p.w).map fun c => (drainOut p (rneMul p.sa p.sb) (g.tile p.acc) (g.tile (p.acc + c / 64)) r c).1

theorem drainData_records {p : DrainBlk} (h : p.mode = 1) (g : Group) :
    (drainData p g).1 = (List.range 64).flatMap fun r => (g.tileRow p.acc p.w r).bytes := by
  rw [drainData, if_pos h]

theorem drainData_rows {p : DrainBlk} (h : p.mode ≠ 1) (g : Group) :
    (drainData p g).1 = (List.range 64).flatMap fun r =>
      leBytes ((p.w * fmtBits p.ofmt + 7) / 8) (packBits (fmtBits p.ofmt) (drainRow p g r)) := by
  rw [drainData, if_neg h]
  simp only [List.flatMap_map, DrainBlk.rowBytes, h, if_false, drainRow, List.map_map]
  rfl

/-- A row's codes are its number's fields. -/
theorem drainRow_number (p : DrainBlk) (g : Group) (r : Nat) :
    let row := leNat (leBytes ((p.w * fmtBits p.ofmt + 7) / 8) (packBits (fmtBits p.ofmt) (drainRow p g r)))
    row < 2 ^ (p.w * fmtBits p.ofmt) ∧ ∀ c, c < p.w → row / 2 ^ (fmtBits p.ofmt * c) % 2 ^ fmtBits p.ofmt =
      (drainOut p (rneMul p.sa p.sb) (g.tile p.acc) (g.tile (p.acc + c / 64)) r c).1 % 2 ^ fmtBits p.ofmt := by
  have hlt := packBits_lt (fmtBits p.ofmt) (drainRow p g r)
  rw [drainRow, List.length_map, List.length_range, ← drainRow] at hlt
  have fits : packBits (fmtBits p.ofmt) (drainRow p g r) < 256 ^ ((p.w * fmtBits p.ofmt + 7) / 8) := by
    refine Nat.lt_of_lt_of_le hlt ?_
    rw [show 256 = 2 ^ 8 from rfl, ← Nat.pow_mul]
    exact Nat.pow_le_pow_right (by decide) (by omega)
  rw [leNat_leBytes fits]
  refine ⟨hlt, fun c hc => packBits_get _ ?_⟩
  rw [drainRow, List.getElem?_map, List.getElem?_range hc]
  rfl

theorem drainData_drains (p : DrainBlk) (g : Group) : Drains p g (drainData p g).1 := by
  refine ⟨fun h => ?_, fun h => ?_⟩
  · have len : ∀ r, r < 64 → (g.tileRow p.acc p.w r).bytes.length = 8 + 4 * p.w := fun r _ => by
      rw [length_rowBytes, length_tileRow]
    rw [drainData_records h]
    refine ⟨length_flatMap_range len, fun r hr => (flatMap_range_piece len hr).trans ?_⟩
    rw [bytes_parts, Group.tileRow, List.flatMap_map]
    rfl
  · have len : ∀ r, r < 64 → (leBytes ((p.w * fmtBits p.ofmt + 7) / 8) (packBits (fmtBits p.ofmt) (drainRow p g r))).length =
        (p.w * fmtBits p.ofmt + 7) / 8 := fun r _ => length_leBytes ..
    rw [drainData_rows h]
    refine ⟨length_flatMap_range len, fun r hr => ?_⟩
    obtain ⟨hlt, hcode⟩ := drainRow_number p g r
    rw [← flatMap_range_piece len hr] at hlt hcode
    refine ⟨hlt, fun c hc => ⟨fun ha => ?_, fun ha => ⟨fun hz => ?_, fun hz => ⟨_, div32_divides _ _, ?_⟩⟩⟩⟩
    · exact (hcode c hc).trans (congrArg (· % _) (drainOut_product p ha _ r c))
    · refine (hcode c hc).trans ?_
      rw [drainOut_zero p ha hz]
      exact Nat.zero_mod _
    · exact (hcode c hc).trans (congrArg (· % _) (drainOut_quotient p ha hz _ c))

end Sys2Proof.Machine
end

section
/-! SUPPORT. What each engine command does as it completes (R280, R147, R149, R282, R250). -/

namespace Sys2Proof.Machine

/-! ### Flags of many elements -/

theorem orFlags_concat {α : Type} (l : List (α × Flags)) (x : α × Flags) : orFlags (l ++ [x]) = orFlags l ||| x.2 := by
  rw [orFlags, List.foldl_append]
  rfl

theorem orFlags_bit {α : Type} (l : List (α × Flags)) (b : Nat) : (orFlags l).getLsbD b = true ↔ ∃ x ∈ l, x.2.getLsbD b = true := by
  induction l using List.reverseRecOn with
  | nil => simp [orFlags, fNone]
  | append_singleton l x ih =>
    rw [orFlags_concat, BitVec.getLsbD_or, Bool.or_eq_true, ih]
    simp [or_and_right, exists_or]

theorem exists_cell {t : Nat → Nat → Prop} : (∃ i, i < 4096 ∧ t (i / 64) (i % 64)) ↔ ∃ r c, r < 64 ∧ c < 64 ∧ t r c := by
  constructor
  · rintro ⟨i, hi, h⟩
    exact ⟨i / 64, i % 64, by omega, by omega, h⟩
  · rintro ⟨r, c, hr, hc, h⟩
    refine ⟨64 * r + c, by omega, ?_⟩
    rwa [show (64 * r + c) / 64 = r by omega, show (64 * r + c) % 64 = c by omega]

/-! ### MX (R280) -/

section Turn

variable {s : State} {e : EngCmd} {g : Group}

theorem exec_mx {p : MxBlk} {stage : List (Nat × List Byte)} {bad : Bool} (hnow : s.engNow e.id = some (e, some g))
    (hop : e.op = .mx p (some stage) bad) : exec (.mxComplete e.id) s = .next (s.runMx e g p stage bad) := by
  show execMxComplete e.id s = _
  simp only [execMxComplete, hnow, hop]

/-- A command that changes its tile ends. -/
theorem setTile_finishes (hm : MemOk s) (hn : NetMark.item e.id ∉ s.netBad) (hg : s.group e.guid = some g) (i : Nat) (o : List Word)
    (outcome : Nat) (fl : Flags) :
    let m := s.setTile e.guid i ((g.tile i).product o)
    OneGroup s m e.guid { g with tiles := g.tiles.set i { g.tile i with o := o, attention := false } } ∧
    Finishes m (m.finishEng e outcome fl) e outcome fl :=
  ⟨onGroup_oneGroup hg _, finishEng_finishes (memOk_onGroup hm _ _) ((netBad_onGroup ..).symm ▸ hn) outcome fl⟩

theorem runMx_lost (h : e.lost = true) (p : MxBlk) (stage : List (Nat × List Byte)) (bad : Bool) : s.runMx e g p stage bad =
    (s.setTile e.guid p.acc ((g.tile p.acc).product (List.replicate 4096 0x7FC00000#32))).finishEng e 1 fNone := if_pos h

theorem runMx_bad (h : e.lost = false) {p : MxBlk} {bad : Bool} (hb : (bad && p.bsrc) = true) (stage : List (Nat × List Byte)) :
    s.runMx e g p stage bad =
      (s.setTile e.guid p.acc ((g.tile p.acc).product ((List.range 4096).map (Config.freeWord e.id)))).finishEng e 2 fNone := by
  simp only [State.runMx, h, hb, Bool.false_eq_true, if_false, if_true]

/-- The elements that an MX makes, with their flags, in order. -/
def mxCells (s : State) (e : EngCmd) (g : Group) (p : MxBlk) (stage : List (Nat × List Byte)) : List (Word × Flags) :=
  (List.range 4096).map fun i => mxAcc p (s.mxRead e g p stage) (i / 64) (i % 64) ((g.tile p.acc).oAt i)

theorem runMx_good (h : e.lost = false) {p : MxBlk} {bad : Bool} (hb : (bad && p.bsrc) = false) (stage : List (Nat × List Byte)) :
    s.runMx e g p stage bad = (s.setTile e.guid p.acc ((g.tile p.acc).product ((mxCells s e g p stage).map (·.1)))).finishEng e 0
      (orFlags (mxCells s e g p stage)) := by
  simp only [State.runMx, h, hb, Bool.false_eq_true, if_false]
  rfl

theorem mxCells_flags (p : MxBlk) (stage : List (Nat × List Byte)) (b : Nat) :
    (orFlags (mxCells s e g p stage)).getLsbD b = true ↔ ∃ r c, r < 64 ∧ c < 64 ∧
      (mxAcc p (s.mxRead e g p stage) r c ((g.tile p.acc).oAt (64 * r + c))).2.getLsbD b = true := by
  rw [orFlags_bit, ← exists_cell]
  simp only [mxCells, List.mem_map, List.mem_range, exists_exists_and_eq_and, Nat.div_add_mod]

theorem mxCells_get (p : MxBlk) (stage : List (Nat × List Byte)) {r c : Nat} (hr : r < 64) (hc : c < 64) :
    ((mxCells s e g p stage).map (·.1))[64 * r + c]? =
      some (mxAcc p (s.mxRead e g p stage) r c ((g.tile p.acc).oAt (64 * r + c))).1 := by
  rw [mxCells, List.map_map, List.getElem?_map, List.getElem?_range (by omega)]
  simp only [Option.map_some, Function.comp, show (64 * r + c) / 64 = r by omega, show (64 * r + c) % 64 = c by omega]

/-- MX on its tile: what each of its outcomes makes. -/
theorem mx_completes (hnow : s.engNow e.id = some (e, some g)) (hm : MemOk s) (hn : NetMark.item e.id ∉ s.netBad)
    (hg : s.group e.guid = some g) {p : MxBlk} {stage : List (Nat × List Byte)} {bad : Bool} (hop : e.op = .mx p (some stage) bad) :
    ∃ t m o fl outcome, exec (.mxComplete e.id) s = .next t ∧
      OneGroup s m e.guid { g with tiles := g.tiles.set p.acc { g.tile p.acc with o := o, attention := false } } ∧
      Finishes m t e outcome fl ∧ o.length = 4096 ∧
      (e.lost = true → o = List.replicate 4096 0x7FC00000#32 ∧ outcome = 1 ∧ fl = 0) ∧
      (e.lost = false → p.bsrc = true → bad = true → outcome = 2 ∧ fl = 0) ∧
      (e.lost = false → (p.bsrc = false ∨ bad = false) → outcome = 0 ∧
        (∀ b, fl.getLsbD b = true ↔ ∃ r c, r < 64 ∧ c < 64 ∧
          (mxAcc p (s.mxRead e g p stage) r c ((g.tile p.acc).oAt (64 * r + c))).2.getLsbD b = true) ∧
        ∀ r c, r < 64 → c < 64 → o[64 * r + c]? =
          some (mxAcc p (s.mxRead e g p stage) r c ((g.tile p.acc).oAt (64 * r + c))).1) := by
  have run := exec_mx hnow hop
  cases hl : e.lost with
  | true =>
    rw [runMx_lost hl] at run
    obtain ⟨hone, hfin⟩ := setTile_finishes hm hn hg p.acc (List.replicate 4096 0x7FC00000#32) 1 fNone
    exact ⟨_, _, _, _, _, run, hone, hfin, List.length_replicate, fun _ => ⟨rfl, rfl, rfl⟩, nofun, nofun⟩
  | false =>
    cases hb : bad && p.bsrc with
    | true =>
      rw [runMx_bad hl hb] at run
      obtain ⟨hone, hfin⟩ := setTile_finishes hm hn hg p.acc ((List.range 4096).map (Config.freeWord e.id)) 2 fNone
      refine ⟨_, _, _, _, _, run, hone, hfin, by rw [List.length_map, List.length_range], nofun, fun _ _ _ => ⟨rfl, rfl⟩, fun _ h => ?_⟩
      obtain ⟨h1, h2⟩ := Bool.and_eq_true_iff.1 hb
      simp [h1, h2] at h
    | false =>
      rw [runMx_good hl hb] at run
      obtain ⟨hone, hfin⟩ := setTile_finishes hm hn hg p.acc ((mxCells s e g p stage).map (·.1)) 0 (orFlags (mxCells s e g p stage))
      refine ⟨_, _, _, _, _, run, hone, hfin, by rw [List.length_map, mxCells, List.length_map, List.length_range], nofun,
        fun _ h1 h2 => ?_, fun _ _ => ⟨rfl, mxCells_flags p stage, fun r c => mxCells_get p stage⟩⟩
      rw [h1, h2] at hb
      cases hb

end Turn

/-! ### ATTN (R147) -/

theorem onlyGroups_putRows (s : State) (guid acc d : Nat) (rows : List RowState64) : OnlyGroups s (s.putRows guid acc d rows) :=
  List.foldlRecOn (motive := OnlyGroups s) _ _ (.refl s) fun _ ht _ _ => ht.trans (onlyGroups_onGroup _ guid _)

/-- An engine command that changed groups alone ends. -/
theorem finishes_after_groups {s t : State} (h : OnlyGroups s t) {e : EngCmd} (hm : MemOk s) (hn : NetMark.item e.id ∉ s.netBad)
    (outcome : Nat) (fl : Flags) : Finishes t (t.finishEng e outcome fl) e outcome fl := by
  have hmem : t.mem = s.mem := (congrArg State.mem h.rest).trans rfl
  have hnoisy : t.noisy = s.noisy := (congrArg State.noisy h.rest).trans rfl
  have hnet : t.netBad = s.netBad := (congrArg State.netBad h.rest).trans rfl
  exact finishEng_finishes (memOk_of_eq hmem hnoisy hm) (hnet ▸ hn) outcome fl

section Turn

variable {s : State} {e : EngCmd} {g : Group}

theorem takesDone_of (h : ∀ x ∈ s.takes, ∀ v i, x.dest ≠ .attn e.id v i) : s.takesDone e.id = true := by
  refine List.all_eq_true.2 fun x hx => ?_
  cases hd : x.dest with
  | attn c v i => exact decide_eq_true fun hc => h x hx v i (hc ▸ hd)
  | _ => rfl

theorem exec_attnStep {p : AttnBlk} {ks vs : List (Nat × List Byte)} {bad : Bool} (hnow : s.engNow e.id = some (e, some g))
    (hop : e.op = .attn p ks vs bad) (ht : s.takesDone e.id = true) :
    exec (.attnStepComplete e.id) s = .next (s.runAttn e g p ks vs bad) := by
  show execAttnStepComplete e.id s = _
  simp only [execAttnStepComplete, hnow, hop, ht, if_true]

/-- A row of an ATTN step: a query's row is stepped on with its unmasked keys, any other stands. -/
def attnStepRow (s : State) (e : EngCmd) (g : Group) (p : AttnBlk) (ks vs : List (Nat × List Byte)) (r : Nat) : RowState64 × Flags :=
  let pad := fun (addr i : Nat) => s.byte (keyOf e.core addr + i)
  let st := if p.init then RowState64.identity p.d else g.tileRow p.acc p.d r
  if p.qn ≤ r then (st, fNone) else
    attnRow p.scale (attnVals p.qf p.d (pad p.qaddr) r) (((List.range 64).filter (p.unmasked r)).map fun j =>
      (attnVals p.kf p.d (if p.ksel then beatByte ks else pad p.kaddr) j,
        attnVals p.vf p.d (if p.vsel then beatByte vs else pad p.vaddr) j)) p.d st

theorem attnStepRow_fst (p : AttnBlk) (ks vs : List (Nat × List Byte)) (r : Nat) : (attnStepRow s e g p ks vs r).1 =
    let pad := fun (addr i : Nat) => s.byte (keyOf e.core addr + i)
    let st := if p.init then RowState64.identity p.d else g.tileRow p.acc p.d r
    if p.qn ≤ r then st else
      (attnRow p.scale (attnVals p.qf p.d (pad p.qaddr) r) (((List.range 64).filter (p.unmasked r)).map fun j =>
        (attnVals p.kf p.d (if p.ksel then beatByte ks else pad p.kaddr) j,
          attnVals p.vf p.d (if p.vsel then beatByte vs else pad p.vaddr) j)) p.d st).1 := by
  rw [attnStepRow, apply_ite Prod.fst]

theorem beatByte_found {beats : List (Nat × List Byte)} {i k : Nat} {bs : List Byte}
    (h : beats.find? (fun b => decide (b.1 = i / 512)) = some (k, bs)) : beatByte beats i = bs.getD (i % 512) 0 := by
  rw [beatByte, h]

theorem runAttn_nan (h : e.lost = true ∨ bad = true) (p : AttnBlk) (ks vs : List (Nat × List Byte)) : s.runAttn e g p ks vs bad =
    (s.putRows e.guid p.acc p.d (List.replicate 64 (RowState64.allNan p.d))).finishEng e (if e.lost then 1 else 2) fNone :=
  if_pos (Bool.or_eq_true_iff.2 h)

theorem runAttn_good (hl : e.lost = false) (p : AttnBlk) (ks vs : List (Nat × List Byte)) : s.runAttn e g p ks vs false =
    (s.putRows e.guid p.acc p.d (((List.range 64).map (attnStepRow s e g p ks vs)).map (·.1))).finishEng e 0
      (orFlags ((List.range 64).map (attnStepRow s e g p ks vs))) :=
  if_neg (by simp [hl])

theorem unmasked_eq (p : AttnBlk) (r : Nat) : p.unmasked r = fun j => decide (j < p.klen ∧
    (p.causal = true → p.kbase + j ≤ p.qbase + r) ∧ (p.win ≠ 0 → p.qbase + r < p.kbase + j + p.win)) := by
  funext j
  rw [AttnBlk.unmasked, Bool.eq_iff_iff]
  cases p.causal <;> by_cases h : p.win = 0 <;> simp [h, and_assoc]

theorem attn_completes (hnow : s.engNow e.id = some (e, some g)) (hm : MemOk s) (hn : NetMark.item e.id ∉ s.netBad)
    {p : AttnBlk} {ks vs : List (Nat × List Byte)} {bad : Bool} (hop : e.op = .attn p ks vs bad)
    (ht : ∀ x ∈ s.takes, ∀ v i, x.dest ≠ .attn e.id v i) :
    ∃ t rows fl outcome, exec (.attnStepComplete e.id) s = .next t ∧ rows.length = 64 ∧
      Finishes (s.putRows e.guid p.acc p.d rows) t e outcome fl ∧
      (e.lost = true ∨ bad = true → rows = List.replicate 64 (RowState64.allNan p.d) ∧ fl = 0 ∧
        outcome = if e.lost then 1 else 2) ∧
      (e.lost = false → bad = false → outcome = 0 ∧ ∀ r, r < 64 → rows[r]? = some (attnStepRow s e g p ks vs r).1) := by
  have run := exec_attnStep hnow hop (takesDone_of ht)
  have fin := fun rows => finishes_after_groups (onlyGroups_putRows s e.guid p.acc p.d rows) hm hn
  by_cases h : e.lost = true ∨ bad = true
  · rw [runAttn_nan h] at run
    refine ⟨_, _, _, _, run, List.length_replicate, fin _ _ _, fun _ => ⟨rfl, rfl, rfl⟩, fun hl hb => ?_⟩
    simp [hl, hb] at h
  · obtain ⟨hl, hb⟩ := not_or.1 h
    have hl : e.lost = false := Bool.eq_false_iff.2 hl
    obtain rfl : bad = false := Bool.eq_false_iff.2 hb
    rw [runAttn_good hl] at run
    refine ⟨_, _, _, _, run, by simp, fin _ _ _, fun hc => absurd hc h, fun _ _ => ⟨rfl, fun r hr => ?_⟩⟩
    rw [List.map_map, List.getElem?_map, List.getElem?_range hr]
    rfl

/-! ### ATTN.MERGE (R149) -/

theorem exec_attnMerge {p : MergeBlk} {og : Option Group} (hnow : s.engNow e.id = some (e, og)) (hop : e.op = .merge p) :
    exec (.attnMergeComplete e.id) s = .next (s.runMerge e p) := by
  show execAttnMergeComplete e.id s = _
  simp only [execAttnMergeComplete, hnow, hop]

/-- The records that a merge makes. -/
def mergedRow (s : State) (e : EngCmd) (p : MergeBlk) (r : Nat) : RowState64 :=
  if e.lost then RowState64.allNan p.d
  else (mergeRow (s.readRow (keyOf e.core p.a1 + r * (8 + 4 * p.d)) p.d) (s.readRow (keyOf e.core p.a2 + r * (8 + 4 * p.d)) p.d)).1

theorem mergedRow_eq (p : MergeBlk) (r : Nat) : mergedRow s e p r =
    let row := fun a => s.readRow (keyOf e.core a + r * (8 + 4 * p.d)) p.d
    if e.lost then RowState64.allNan p.d
    else if (row p.a1).m = 0xFF800000#32 then row p.a2
    else if (row p.a2).m = 0xFF800000#32 then row p.a1
    else (mergeRow (row p.a1) (row p.a2)).1 := by
  rw [mergedRow, mergeRow_parts]

theorem length_mergedRow (p : MergeBlk) (r : Nat) : (mergedRow s e p r).bytes.length = 8 + 4 * p.d := by
  rw [length_rowBytes, mergedRow]
  split
  · simp [RowState64.allNan]
  · rw [length_mergeRow (length_readRow ..) (length_readRow ..)]

/-- The flags of a merge. -/
def mergeFlags (s : State) (e : EngCmd) (p : MergeBlk) : Flags :=
  if e.lost then fNone
  else orFlags ((List.range p.qn).map fun r =>
    mergeRow (s.readRow (keyOf e.core p.a1 + r * (8 + 4 * p.d)) p.d) (s.readRow (keyOf e.core p.a2 + r * (8 + 4 * p.d)) p.d))

theorem replicate_flatMap {α β : Type} (n : Nat) (x : α) (f : α → List β) :
    (List.replicate n x).flatMap f = (List.range n).flatMap fun _ => f x := by
  rw [show List.replicate n x = (List.range n).map fun _ => x by rw [List.map_const', List.length_range], List.flatMap_map]

theorem runMerge_eq (p : MergeBlk) : s.runMerge e p =
    (s.engWrite e p.aout ((List.range p.qn).flatMap fun r => (mergedRow s e p r).bytes)).finishEng e (if e.lost then 1 else 0)
      (mergeFlags s e p) := by
  cases hl : e.lost with
  | true => simp only [State.runMerge, mergedRow, mergeFlags, hl, if_true, replicate_flatMap]
  | false =>
    simp only [State.runMerge, mergedRow, mergeFlags, hl, Bool.false_eq_true, if_false, List.flatMap_map]

theorem merge_completes {og : Option Group} (hnow : s.engNow e.id = some (e, og)) (hm : MemOk s) (hn : NetMark.item e.id ∉ s.netBad)
    (hg : s.group e.guid = some g) {p : MergeBlk} (hop : e.op = .merge p) {k : Nat} (hk : s.padCheck g p.aout p.len = .ok k) :
    ∃ t m fl, exec (.attnMergeComplete e.id) s = .next t ∧
      Writes s m k ((List.range p.qn).flatMap fun r => (mergedRow s e p r).bytes) ∧
      Finishes m t e (if e.lost then 1 else 0) fl ∧
      ((List.range p.qn).flatMap fun r => (mergedRow s e p r).bytes).length = p.len := by
  have len : ((List.range p.qn).flatMap fun r => (mergedRow s e p r).bytes).length = p.len :=
    length_flatMap_range fun r _ => length_mergedRow p r
  have run := runMerge_eq (s := s) (e := e) p
  rw [engWrite_ok hg (len.symm ▸ hk)] at run
  exact ⟨_, _, _, (exec_attnMerge hnow hop).trans (congrArg _ run), writes_write hm k _,
    finishEng_finishes (memOk_write hm k _) hn _ _, len⟩

end Turn

/-! ### MXDRAIN (R282) -/

/-- One byte of a drain or a copy written at its place; its line leaves the cluster's cache. -/
def placeByte (core tenant : Nat) (s : State) (x : Nat × Byte) : State := (s.devWrite tenant x.1 [x.2]).dropLine (clusterOf core) x.1 1

/-- Placing bytes is writing them and dropping lines. -/
theorem placeByte_foldl (core tenant : Nat) {l : List (Nat × Byte)} (hp : ∀ x ∈ l, x.1 < Config.peerBase) (s : State)
    (c : List CLine) : ∃ c', l.foldl (placeByte core tenant) { s with clines := c } =
      { l.foldl (State.writeAt tenant) s with clines := c' } := by
  induction l generalizing s c with
  | nil => exact ⟨c, rfl⟩
  | cons x l ih =>
    obtain ⟨hx, hp⟩ := List.forall_mem_cons.1 hp
    have wr : ∀ t : State, t.devWrite tenant x.1 [x.2] = t.write x.1 [x.2] := fun t => if_neg (Nat.not_le.2 hx)
    rw [List.foldl_cons, List.foldl_cons, placeByte, State.writeAt, wr, wr]
    exact ih hp (s.write x.1 [x.2]) _

/-- Bytes placed one after another where no unit is bad. -/
theorem writePlaces_run {s : State} (hm : MemOk s) (hb : s.badUnits = []) (core tenant a : Nat) {n : Nat}
    {bs : List Byte} (hn : bs.length = n) (ha : a + n ≤ Config.peerBase) : let t := s.writePlaces core tenant (upFrom a n) bs
    t = { s with mem := t.mem, clines := t.clines } ∧
    ∀ k, t.byte k = if a ≤ k ∧ k < a + n then bs.getD (k - a) 0 else s.byte k := by
  subst hn
  have low : ∀ p ∈ upFrom a bs.length, p < Config.peerBase := fun p hp => by
    have := mem_upFrom.1 hp
    omega
  have w := (writesAt_foldl tenant (length_upFrom a bs.length) (nodup_upFrom ..) low hm).writes
  obtain ⟨c, hc⟩ := placeByte_foldl core tenant (l := (upFrom a bs.length).zip bs)
    (fun x hx => low x.1 (List.of_mem_zip hx).1) s s.clines
  obtain ⟨rest, bytes⟩ := w
  have eq : s.writePlaces core tenant (upFrom a bs.length) bs =
      { ((upFrom a bs.length).zip bs).foldl (State.writeAt tenant) s with clines := c } := by
    rw [State.writePlaces]
    change (fun t : State => { t with badUnits := t.badUnits.filter fun u => !((upFrom (u * 64) 64).all (upFrom a bs.length).contains) })
      (((upFrom a bs.length).zip bs).foldl (placeByte core tenant) s) = _
    rw [show ((upFrom a bs.length).zip bs).foldl (placeByte core tenant) s = _ from hc, rest]
    simp only [hb, List.filter_nil]
  intro t
  refine ⟨?_, fun k => ?_⟩
  · rw [show t = _ from eq, rest]
  · rw [show t = _ from eq]
    exact bytes k

section Turn

variable {s : State} {e : EngCmd} {g : Group}

theorem setOp_eq {m : State} (h : m.engs = s.engs) (id : Nat) (op : EngOp) :
    m.setOp id op = { m with engs := s.engs.map fun x => if x.id = id then { x with op := op } else x } := by
  rw [State.setOp, h]

/-- A drain as it stands after a landing. -/
def drainNext (p : DrainBlk) (bytes : List Byte) (fl : Flags) (pause : Option Word) (owed : List Chunk) (outcome : Nat) : EngOp :=
  .drain p true [(0, bytes)] owed outcome fl pause

theorem drainBegin_some (p : DrainBlk) (g : Group) (begun : Bool) (data : List (Nat × List Byte)) (fl : Flags) :
    drainBegin p (some g) begun data fl =
      (if begun then (data.head?.map (·.2)).getD [] else (drainData p g).1, if begun then fl else (drainData p g).2) := by
  cases begun <;> rfl

theorem exec_drainLanding {p : DrainBlk} {begun : Bool} {data : List (Nat × List Byte)} {owed : List Chunk} {outcome : Nat} {fl : Flags}
    {ch : Chunk} (hnow : s.engNow e.id = some (e, some g)) (hop : e.op = .drain p begun data owed outcome fl none)
    (hch : owed.find? (fun x => decide (x.num = ch.num)) = some ch) : exec (.mxdrainChunkLanding e.id ch.num) s = .next
      (s.landDrain e ch (if begun then (data.head?.map (·.2)).getD [] else (drainData p g).1) owed outcome
        (drainNext p (if begun then (data.head?.map (·.2)).getD [] else (drainData p g).1) (if begun then fl else (drainData p g).2))
        p.osp) := by
  show execMxdrainChunkLanding e.id ch.num s = _
  simp only [execMxdrainChunkLanding, hnow, hop, hch, Option.isNone_some, Bool.and_false, Bool.false_eq_true, if_false, drainBegin_some]
  rfl

variable {ch : Chunk} {bytes : List Byte} {owed : List Chunk} {outcome : Nat} {op : Option Word → List Chunk → Nat → EngOp} {osp : Bool}

theorem landDrain_dead (h : ch.dead = true) : s.landDrain e ch bytes owed outcome op osp =
    s.setOp e.id (op none (owed.filter fun x => decide (x.num ≠ ch.num)) (max outcome 1)) := if_pos h

theorem landDrain_pad (h : ch.dead = false) : s.landDrain e ch bytes owed outcome op true =
    (s.write ch.addr ((bytes.drop ch.off).take ch.len)).setOp e.id (op none (owed.filter fun x => decide (x.num ≠ ch.num)) outcome) := by
  simp only [State.landDrain, h, Bool.false_eq_true, if_false, if_true]

theorem landDrain_waits (h : ch.dead = false) (hs : s.engServed e.core e.tenant ch.addr ch.len 1 = false) :
    s.landDrain e ch bytes owed outcome op false = s := by
  simp only [State.landDrain, h, hs, Bool.false_eq_true, if_false, Bool.not_false, if_true]

theorem landDrain_dram (h : ch.dead = false) (hs : s.engServed e.core e.tenant ch.addr ch.len 1 = true)
    (hn : NetMark.item e.id ∉ s.netBad) (hb : s.badUnits = []) {ps : List Nat} (hx : s.xlateRun e.core e.tenant ch.addr ch.len 1 = .ok ps) :
    s.landDrain e ch bytes owed outcome op false = (s.writePlaces e.core e.tenant ps ((bytes.drop ch.off).take ch.len)).setOp e.id
      (op none (owed.filter fun x => decide (x.num ≠ ch.num)) outcome) := by
  have unmarked : s.marked (.item e.id) = false := Bool.eq_false_iff.2 (mt marked_iff.1 hn)
  have whole : s.partlyBad ps = false := by simp [State.partlyBad, hb]
  simp only [State.landDrain, h, hs, unmarked, hx, whole, Bool.false_eq_true, if_false, Bool.not_true]

theorem exec_mxdrainComplete {p : DrainBlk} {begun : Bool} {data : List (Nat × List Byte)} {fl : Flags} {og : Option Group}
    (hnow : s.engNow e.id = some (e, og)) (hop : e.op = .drain p begun data [] outcome fl none) :
    exec (.mxdrainComplete e.id) s = .next (s.finishEng e outcome fl) := by
  show execMxdrainComplete e.id s = _
  simp only [execMxdrainComplete, hnow, hop]

end Turn

/-! ### CBLOAD (R250) -/

theorem numbersOf_get (n : Nat) {k i : Nat} (hi : i < k) (bs : List Byte) :
    (numbersOf n k bs)[i]? = some (leNat ((bs.drop (n * i)).take n)) := by
  induction k generalizing i bs with
  | zero => omega
  | succ k ih =>
    cases i with
    | zero => rfl
    | succ i =>
      rw [numbersOf, List.getElem?_cons_succ, ih (by omega), List.drop_drop, Nat.mul_succ, Nat.add_comm]

/-- An entry of the table is two bytes, the lower first. -/
theorem cb2Of_get {bs : List Byte} {i : Nat} (hi : i < 256) {lo hi' : Byte} (hlo : bs[2 * i]? = some lo) (hhi : bs[2 * i + 1]? = some hi') :
    (cb2Of bs)[i]? = some (hi' ++ lo) := by
  have two : (bs.drop (2 * i)).take 2 = [lo, hi'] := by
    obtain ⟨h1, rfl⟩ := List.getElem?_eq_some_iff.1 hlo
    obtain ⟨h2, rfl⟩ := List.getElem?_eq_some_iff.1 hhi
    rw [List.drop_eq_getElem_cons h1, List.drop_eq_getElem_cons h2]
    rfl
  rw [cb2Of, List.getElem?_map, numbersOf_get 2 hi, two]
  refine congrArg some (BitVec.eq_of_toNat_eq ?_)
  have h1 := lo.isLt
  have h2 := hi'.isLt
  rw [BitVec.toNat_ofNat, BitVec.toNat_append, Nat.shiftLeft_eq, leNat, leNat, leNat, Nat.mul_comm hi'.toNat,
    ← Nat.two_pow_add_eq_or_of_lt h1]
  omega

/-- The entry of an engine's data error (R103). -/
def engineError (core tenant : Nat) (gid tid : Word) (addr access : Nat) : FaultEntry :=
  { FaultEntry.blank with kind := 3, cause := 0x21, tenant := tenant, core := core, access := access, gid := gid, tid := tid,
                          addr := addr }

theorem countError_rest (s : State) (f : FaultEntry) : s.countError f = { s with columns := (s.countError f).columns } := by
  unfold State.countError
  split
  case isTrue => rfl
  case isFalse =>
    split
    case h_1 =>
      split
      case isTrue => exact countErrorAt_rest s _
      case isFalse => rfl
    case h_2 => rfl

/-- A data error adds its entry to the queue of its core's die, and changes no group. -/
theorem dataError_dieQ (s : State) (core tenant : Nat) (gid tid : Word) (addr access : Nat) : ∃ x : FaultEntry,
    (s.dataError core tenant gid tid addr access).dieQ = s.dieQ ++ [(dieOfEntry core, x)] ∧ x.kind = 3 ∧ x.cause = 0x21 ∧
    ∀ k, (s.dataError core tenant gid tid addr access).group k = s.group k := by
  have rest : s.dataError core tenant gid tid addr access = _ :=
    countError_rest (s.place_ (dieOfEntry core) (engineError core tenant gid tid addr access)) (engineError core tenant gid tid addr access)
  rw [rest]
  exact ⟨_, rfl, rfl, rfl, fun _ => rfl⟩

section Turn

variable {s : State} {e : EngCmd} {g : Group} {a : Nat} {ks : List Nat} {og : Option Group}

/-- A table installed by a command that ends. -/
def State.install (s : State) (e : EngCmd) (tbl : List (BitVec 16)) : State :=
  ((s.onGroup e.guid fun g => { g with cb2 := tbl }).dropEng e.id).unmark (.item e.id)

theorem exec_cbload_waits (hnow : s.engNow e.id = some (e, og)) (hop : e.op = .cbload a ks) (hs : s.servedAll ks = false) :
    exec (.cbloadInstall e.id) s = .next s := by
  show execCbloadInstall e.id s = _
  simp only [execCbloadInstall, hnow, hop, hs, Bool.not_false, if_true]

theorem exec_cbload_good (hnow : s.engNow e.id = some (e, og)) (hop : e.op = .cbload a ks) (hl : e.lost = false)
    (hs : s.servedAll ks = true) (hn : NetMark.item e.id ∉ s.netBad) (hk : ∀ k ∈ ks, s.badAt k 1 = false ∧ k < Config.peerBase) :
    exec (.cbloadInstall e.id) s = .next (s.install e (cb2Of (ks.map s.byte))) := by
  have unmarked : s.marked (.item e.id) = false := Bool.eq_false_iff.2 (mt marked_iff.1 hn)
  have none_bad : ks.findIdx? (fun k => s.badAt k 1) = none := List.findIdx?_eq_none_iff.2 fun k h => (hk k h).1
  show execCbloadInstall e.id s = _
  simp only [execCbloadInstall, hnow, hop, hs, hl, none_bad, unmarked, Bool.not_true, Bool.false_eq_true, if_false,
    askRun_eq s e.tenant fun k h => (hk k h).2, devReads_eq s fun k h => (hk k h).2]
  rfl

theorem exec_cbload_bad (hnow : s.engNow e.id = some (e, og)) (hop : e.op = .cbload a ks) (hl : e.lost = false)
    (hs : s.servedAll ks = true) (hk : ∃ k ∈ ks, s.badAt k 1 = true) : ∃ addr, exec (.cbloadInstall e.id) s =
      .next ((s.dataError e.core e.tenant (BitVec.ofNat 32 e.gid) 0xFFFFFFFF#32 addr 0).install e []) := by
  obtain ⟨i, hi⟩ : ∃ i, ks.findIdx? (fun k => s.badAt k 1) = some i := by
    refine Option.ne_none_iff_exists'.1 fun h => ?_
    obtain ⟨k, hk, hb⟩ := hk
    rw [List.findIdx?_eq_none_iff.1 h k hk] at hb
    cases hb
  refine ⟨a + i, ?_⟩
  show execCbloadInstall e.id s = _
  simp only [execCbloadInstall, hnow, hop, hs, hl, hi, Bool.not_true, Bool.false_eq_true, if_false]
  rfl

theorem install_group (hg : s.group e.guid = some g) (tbl : List (BitVec 16)) :
    (s.install e tbl).group e.guid = some { g with cb2 := tbl } := by
  rw [State.install, unmark_eq]
  exact (onGroup_oneGroup hg fun g => { g with cb2 := tbl }).group

theorem install_dieQ (tbl : List (BitVec 16)) : (s.install e tbl).dieQ = s.dieQ := by
  rw [State.install, unmark_eq]
  exact (congrArg State.dieQ (onGroup_rest s e.guid _)).trans rfl

theorem cbload_installs (hnow : s.engNow e.id = some (e, og)) (hop : e.op = .cbload a ks) (hl : e.lost = false)
    (hn : NetMark.item e.id ∉ s.netBad) (hg : s.group e.guid = some g) :
    (s.servedAll ks = false → exec (.cbloadInstall e.id) s = .next s) ∧
    ((∀ k ∈ ks, s.badAt k 1 = false ∧ k < Config.peerBase) → s.servedAll ks = true → ks.length = 512 → ∃ t tbl m,
      exec (.cbloadInstall e.id) s = .next t ∧ OneGroup s m e.guid { g with cb2 := tbl } ∧
      t = { m with engs := s.engs.filter fun x => decide (x.id ≠ e.id) } ∧
      ∀ i, i < 256 → tbl[i]? = some (s.byte (ks.getD (2 * i + 1) 0) ++ s.byte (ks.getD (2 * i) 0))) ∧
    ((∃ k ∈ ks, s.badAt k 1 = true) → s.servedAll ks = true → ∃ t, exec (.cbloadInstall e.id) s = .next t ∧
      (t.group e.guid).map (·.cb2) = some [] ∧ t.dieQ.length = s.dieQ.length + 1 ∧
      t.dieQ.getLast?.map (fun x => (x.1, x.2.kind, x.2.cause)) = some (dieOfEntry e.core, 3, 0x21)) := by
  refine ⟨exec_cbload_waits hnow hop, fun hk hs h512 => ?_, fun hk hs => ?_⟩
  · have one := onGroup_oneGroup hg fun g => { g with cb2 := cb2Of (ks.map s.byte) }
    refine ⟨_, _, _, exec_cbload_good hnow hop hl hs hn hk, one, ?_, fun i hi => ?_⟩
    · rw [State.install, unmark_of_not_mem (by rw [State.dropEng]; exact (netBad_onGroup ..).symm ▸ hn), State.dropEng, one.rest]
    · have get : ∀ j, j < 512 → (ks.map s.byte)[j]? = some (s.byte (ks.getD j 0)) := fun j hj => by
        rw [List.getElem?_map, List.getD_eq_getElem?_getD, List.getElem?_eq_getElem (by omega)]
        rfl
      exact cb2Of_get hi (get _ (by omega)) (get _ (by omega))
  · obtain ⟨addr, run⟩ := exec_cbload_bad hnow hop hl hs hk
    obtain ⟨x, hq, hkind, hcause, hgr⟩ := dataError_dieQ s e.core e.tenant (BitVec.ofNat 32 e.gid) 0xFFFFFFFF#32 addr 0
    refine ⟨_, run, ?_, ?_, ?_⟩
    · rw [install_group ((hgr _).trans hg)]
      rfl
    · rw [install_dieQ, hq]
      simp
    · rw [install_dieQ, hq]
      simp [hkind, hcause]

end Turn

/-! ### Landings of a drain -/

section Turn

variable {s : State} {e : EngCmd} {g : Group}

theorem drain_lands (hnow : s.engNow e.id = some (e, some g)) (hm : MemOk s) (hn : NetMark.item e.id ∉ s.netBad) {p : DrainBlk}
    {begun : Bool} {data : List (Nat × List Byte)} {owed : List Chunk} {outcome : Nat} {fl : Flags} {ch : Chunk}
    (hop : e.op = .drain p begun data owed outcome fl none) (hch : owed.find? (fun x => decide (x.num = ch.num)) = some ch) :
    let bytes := if begun then (data.head?.map (·.2)).getD [] else (drainData p g).1
    let fl' := if begun then fl else (drainData p g).2
    let goesOn := fun (m : State) (o : Nat) => exec (.mxdrainChunkLanding e.id ch.num) s = .next { m with
      engs := s.engs.map fun x => if x.id = e.id then { x with
        op := .drain p true [(0, bytes)] (owed.filter fun y => decide (y.num ≠ ch.num)) o fl' none } else x }
    (ch.dead = true → goesOn s (max outcome 1)) ∧
    (ch.dead = false → p.osp = true → ∃ m, Writes s m ch.addr ((bytes.drop ch.off).take ch.len) ∧ goesOn m outcome) ∧
    (ch.dead = false → p.osp = false → s.engServed e.core e.tenant ch.addr ch.len 1 = false →
      exec (.mxdrainChunkLanding e.id ch.num) s = .next s) ∧
    ∀ a, ch.dead = false → p.osp = false → s.engServed e.core e.tenant ch.addr ch.len 1 = true → s.badUnits = [] →
      s.xlateRun e.core e.tenant ch.addr ch.len 1 = .ok ((List.range ch.len).map (a + ·)) → a + ch.len ≤ Config.peerBase →
      let bs := (bytes.drop ch.off).take ch.len
      bs.length = ch.len → ∃ m, m = { s with mem := m.mem, clines := m.clines } ∧ goesOn m outcome ∧
        ∀ k, m.byte k = if a ≤ k ∧ k < a + ch.len then bs.getD (k - a) 0 else s.byte k := by
  intro bytes fl' goesOn
  have run := exec_drainLanding hnow hop hch
  refine ⟨fun hd => ?_, fun hd ho => ⟨_, writes_write hm ch.addr _, ?_⟩, fun hd ho hs => ?_, ?_⟩
  · exact run.trans (congrArg _ (landDrain_dead hd))
  · rw [ho] at run
    exact run.trans (congrArg _ (landDrain_pad hd))
  · rw [ho] at run
    exact run.trans (congrArg _ (landDrain_waits hd hs))
  · intro a hd ho hs hb hx ha bs hbs
    rw [ho] at run
    obtain ⟨rest, byte⟩ := writePlaces_run hm hb e.core e.tenant a hbs ha
    have engs : (s.writePlaces e.core e.tenant (upFrom a ch.len) bs).engs = s.engs := (congrArg State.engs rest).trans rfl
    exact ⟨_, rest, run.trans (congrArg _ ((landDrain_dram hd hs hn hb hx).trans (setOp_eq engs _ _))), byte⟩

end Turn

end Sys2Proof.Machine

namespace Sys2Proof.Proofs
open Machine

/-- Settles O45: each command's completion cites what it makes of its tile, records, bytes or table, and how it ends. -/
theorem engineCommandsComplete : Obligations.EngineCommandsComplete := by
  unfold Obligations.EngineCommandsComplete
  intro s e g hfind hturn hremap hbehind hserved hn hroom hg hm
  have hnow : s.engNow e.id = some (e, some g) := hg ▸ engNow_eq hfind hturn hremap hbehind hserved hroom
  refine ⟨fun p stage bad hop => mx_completes hnow hm hn hg hop, fun p ks vs bad hop htakes => ?_, fun p k hop hk => ?_,
    fun p begun data owed outcome fl ch hop hch => drain_lands hnow hm hn hop hch,
    fun p begun data outcome fl hop => ⟨_, exec_mxdrainComplete hnow hop, finishEng_finishes hm hn outcome fl⟩,
    fun p stage bad _ r c old => mxAcc_element s e g p stage r c old, fun p => drainData_drains p g, tileRow_get g,
    attnRow_steps, mergeRow_merged, fun f d b row c hc => attnVals_get f d b row hc, fun beats i k bs hb => ?_,
    fun a ks hop hl => cbload_installs hnow hop hl hn hg⟩
  · obtain ⟨t, rows, fl, outcome, run, hlen, hfin, hnan, hgood⟩ := attn_completes hnow hm hn hop htakes
    refine ⟨t, rows, fl, outcome, run, hlen, hfin, hnan, fun hl hb => ⟨(hgood hl hb).1, fun r hr => ?_⟩⟩
    rw [(hgood hl hb).2 r hr, attnStepRow_fst, unmasked_eq]
  · obtain ⟨t, m, fl, run, hw, hfin, hlen⟩ := merge_completes hnow hm hn hg hop hk
    refine ⟨t, m, _, fl, run, hw, hfin, hlen, ?_⟩
    simp only [mergedRow_eq]
  · exact beatByte_found hb

end Sys2Proof.Proofs
end

section
/-! SUPPORT. A run of scratchpad bytes of which only the later ones lie in a spill area (R71, R129). -/

namespace Sys2Proof.Machine.SpillBehind

/-- A launch of one thread. -/
def launch : Launch :=
  { rec_ := { entry := 0, lo := 0, hi := 1, tvt := 0, rgns := 0, threads := 1, regs8 := 1, gang := 1, rows := 0, acc := 0,
              cls := 0, tenant := 0, nrgn := 1, pthr := 0, nuni := 0, rowh := 0, uimg := 0, done := 0, reserved := false },
    uimg := [], regions := [], seen := [0], ended := [], done := false, hidden := [] }

/-- A Live region of one page in bank 8. -/
def region : Region := Region.fresh 0x80000 4096 2 24 false

/-- A group of the launch on core 0 that holds it. -/
def group : Group := Group.start 0 0 0 1 launch none [(0, 0, 1)] [region]

/-- A synchronisation group of its thread, whose spill area of 80 bytes begins 64 bytes into the region. -/
def sync : SyncGroup :=
  { cap := 1, spill := 0x80040, owner := 0, members := [⟨0, 0, 0, 0, .counted⟩], nextSeq := 1, gen := 0, opened := none,
    arrivals := [], held := [], nowSet := [0], prevSet := [] }

def state : State :=
  { State.reset with ready := true, groups := [(0, group)], launches := [(1, launch)],
                     cores := [(0, { Core.reset with lit := 0x1FF, sync := [(0, ⟨1, some sync⟩)] })] }

/-- HCREATE takes such a spill area. -/
theorem spillOk : group.spillOk 0x80040 1 = true := by decide

theorem eq_region {q : Region} (h : some q ∈ group.regions) : q = region :=
  Option.some.inj ((by decide : ∀ x ∈ group.regions, x.isSome = true → x = some region) _ h rfl)

/-- The check of 128 bytes from the region's start names the spill area's first byte. -/
theorem padCheck_run : state.padCheck group 0x80000 128 = .bounds 0x80040 := by decide

end Sys2Proof.Machine.SpillBehind

namespace Sys2Proof.Proofs

open Machine

/-- Refutes O30: of a run that meets a spill area the statement names the first address, but R71 asks for the first failing one, and
the model names that.  The two differ where the run begins in front of the spill area. -/
theorem not_scratchpadBounds : ¬ Obligations.ScratchpadBounds := by
  unfold Obligations.ScratchpadBounds
  intro h
  obtain ⟨-, inside⟩ := h SpillBehind.state SpillBehind.group 0x80000 128
  obtain ⟨-, -, checked⟩ := inside (by decide)
  obtain ⟨-, spill, -⟩ := checked SpillBehind.region (by decide) (fun q hq _ _ => SpillBehind.eq_region hq) (by decide) (by decide)
  have named := spill (by decide) (by decide)
  rw [SpillBehind.padCheck_run] at named
  exact absurd named (by decide)

end Sys2Proof.Proofs
end

section
/-! SUPPORT. What the scratchpad forms do to the memory, the thread and the cluster's cache in one lane (R71, R113, R120, R241, R243,
R256, R273, R300, R308). -/

namespace Sys2Proof.Machine

/-! ### Writes and acquires -/

theorem acting_write {s : State} {tid : Nat} {c : Ctx} {g : Group} {u : Thread} (h : Acting s tid c g u) (k : Nat)
    (bs : List Byte) : Acting (s.write k bs) tid c g u := ⟨h.cur, h.group, h.thread⟩

/-- What the acquire of a scope leaves where it is asked for: the copies of other clusters. -/
def Acquires (s : State) (core : Nat) (sc : BitVec 2) (asked : Prop) (t : State) : Prop :=
  (asked ∧ 2 ≤ sc.toNat → t = { s with clines := s.clines.filter fun l => decide (l.cluster ≠ core / 24) }) ∧
  (¬ asked ∨ sc.toNat < 2 → t = s)

theorem acquires_acquire (s : State) (core : Nat) (sc : BitVec 2) : Acquires s core sc True (s.acquire core sc.toNat) := by
  unfold State.acquire
  exact ⟨fun ⟨_, wide⟩ => if_pos wide, fun narrow => if_neg (by simpa using narrow)⟩

theorem acquires_ite (s : State) (core : Nat) (sc : BitVec 2) {asked : Prop} [Decidable asked] :
    Acquires s core sc asked (if asked then s.acquire core sc.toNat else s) := by
  by_cases h : asked
  · simpa [h] using acquires_acquire s core sc
  · exact ⟨fun a => absurd a.1 h, fun _ => if_neg h⟩

/-- ORD's codes 1 and 3 acquire (R104). -/
theorem ord_odd_iff (ord : BitVec 2) : ord.toNat % 2 = 1 ↔ ord = 1#2 ∨ ord = 3#2 := by
  revert ord; decide

theorem acquires_ordAcq (s : State) (core : Nat) (sc ord : BitVec 2) :
    Acquires s core sc (ord = 1#2 ∨ ord = 3#2) (if ordAcq ord then s.acquire core sc.toNat else s) := by
  simp only [ordAcq, decide_eq_true_eq, ord_odd_iff]
  exact acquires_ite s core sc

/-! ### Widths and results of atomics -/

theorem optBytes_eq (opt : BitVec 5) : optBytes opt.toNat = if opt = 1#5 ∨ opt = 10#5 then 8 else 4 := by
  revert opt; decide

theorem casBytes_eq (opt : BitVec 5) : casBytes opt.toNat = if opt = 1#5 then 8 else 4 := by
  revert opt; decide

theorem setSized_eq (u : Thread) (w old : Nat) (d : Code) : u.setSized (w == 8) d (BitVec.ofNat 64 old) =
    if w = 8 then u.setPair d (BitVec.ofNat 64 old) else u.setReg d (BitVec.ofNat 32 old) := by
  simp [Thread.setSized]

theorem casArgs_fst (c : Ctx) (u : Thread) (w : Nat) (b : Code) : (c.casArgs u w b).1 = c.sized u w b := by
  unfold Ctx.casArgs Ctx.sized; split <;> rfl

theorem casArgs_snd (c : Ctx) (u : Thread) (w : Nat) (b : Code) : (c.casArgs u w b).2.toNat =
    if w = 8 then (c.valAt u b 3 ++ c.valAt u b 2).toNat else (c.valAt u b 1).toNat := by
  unfold Ctx.casArgs
  split
  · rfl
  · exact BitVec.toNat_setWidth_of_le (by decide)

/-- The memory after ATOM or RED in one lane (R243, R300). -/
def State.atomWritten (s : State) (c : Ctx) (u : Thread) (x : LX) (w k : Nat) : State :=
  s.write k (leBytes w (atomFn x.opt.toNat (s.num k w) (c.sized u w x.b).toNat))

/-- One lane of ATOM (R243). -/
def State.atomLane (s : State) (c : Ctx) (g : Group) (u : Thread) (x : LX) (w k : Nat) : State :=
  let t := (s.atomWritten c u x w k).onThread c.guid u.tid fun v => v.setSized (w == 8) x.d (BitVec.ofNat 64 (s.num k w))
  if ordAcq x.ord then t.acquire g.core x.sc.toNat else t

/-- The memory after ACAS in one lane: its new value where the old one is the comparand (R241). -/
def State.casWritten (s : State) (c : Ctx) (u : Thread) (x : LX) (w k : Nat) : State :=
  if s.num k w = (c.casArgs u w x.b).1.toNat then s.write k (leBytes w (c.casArgs u w x.b).2.toNat) else s

/-- One lane of ACAS (R241). -/
def State.casLane (s : State) (c : Ctx) (g : Group) (u : Thread) (x : LX) (w k : Nat) : State :=
  let t := (s.casWritten c u x w k).onThread c.guid u.tid fun v => v.setSized (w == 8) x.d (BitVec.ofNat 64 (s.num k w))
  if ordAcq x.ord then t.acquire g.core x.sc.toNat else t

theorem acting_casWritten {s : State} {tid : Nat} {c : Ctx} {g : Group} {u : Thread} (h : Acting s tid c g u) (x : LX)
    (w k : Nat) : Acting (s.casWritten c u x w k) tid c g u := by
  unfold State.casWritten
  split
  · exact acting_write h k _
  · exact h

/-! ### Counters -/

theorem devNum_eq (s : State) {k : Nat} (h : k < Config.peerBase) (n : Nat) : s.devNum k n = s.num k n := by
  rw [State.devNum, State.devRead, if_neg (by omega), State.num]

theorem counterAdd_eq (s : State) {k : Nat} (h : k < Config.peerBase) (core tenant v : Nat) : s.counterAdd core tenant k v =
    (s.write k (leBytes 8 (min (s.num k 8 + v) (2 ^ 64 - 1)))).dropLine (clusterOf core) k 8 := by
  rw [State.counterAdd, devNum_eq s h, State.devWrite, if_neg (by omega), counterSum]

/-- The copies of a cluster's cache that a met CTWAIT leaves: at device or system scope none, else those of other lines. -/
theorem ctwaitMet_eq (s : State) (core sc k : Nat) : s.ctwaitMet core sc k =
    { s with
      clines := s.clines.filter fun l =>
        decide (l.cluster ≠ core / 24 ∨ (sc < 2 ∧ (k + 8 ≤ l.line * 128 ∨ l.line * 128 + 128 ≤ k))) } := by
  have cluster : clusterOf core = core / 24 := rfl
  by_cases wide : 2 ≤ sc
  · simp only [State.ctwaitMet, State.acquire, if_pos wide, State.dropCluster, State.dropLine, List.filter_filter, cluster]
    congr 1
    refine List.filter_congr fun l _ => ?_
    by_cases same : l.cluster = core / 24 <;> simp [same, show ¬ sc < 2 by omega]
  · simp only [State.ctwaitMet, State.acquire, if_neg wide, State.dropLine, cluster]
    congr 1
    refine List.filter_congr fun l _ => ?_
    have line : overlaps k 8 (l.line * Config.clineBytes) Config.clineBytes =
        !decide (k + 8 ≤ l.line * 128 ∨ l.line * 128 + 128 ≤ k) := by
      have size : Config.clineBytes = 128 := rfl
      rw [Bool.eq_iff_iff]
      simp only [overlaps, size, Bool.and_eq_true, decide_eq_true_eq, Bool.not_eq_true', decide_eq_false_iff_not]
      omega
    by_cases same : l.cluster = core / 24 <;> simp [same, line, show sc < 2 by omega]

/-! ### The forms, lane by lane -/

section Lane

variable {s : State} {c : Ctx} {g : Group} (h : InIssue s c g)
include h

theorem lds_form (f : LAms) : PadForm (.lds f) s c g (fun u => (c.val u f.a).toNat) (tyBytes f.ty.toNat) true
    (fun a c g u k b => ∃ m, OneThread a m c u (u.setLoad f.ty.toNat f.v (a.bytes k (tyBytes f.ty.toNat))) ∧
      Acquires m g.core f.sc (f.ord = 1#2 ∨ f.ord = 3#2) b) :=
  padAccess_form h _ (fun c t => (c.val t f.a).toNat) _ _ _ _ (fun s tid c g u k ha => by
    refine ⟨_, oneThread_effect ha (fun v => v.setLoad f.ty.toNat f.v (s.bytes k (tyBytes f.ty.toNat))) (by simp), ?_⟩
    simp only [← ord_odd_iff]
    exact acquires_ite _ g.core f.sc) rfl

theorem sts_form (f : LAms) : PadForm (.sts f) s c g (fun u => (c.val u f.a).toNat) (tyBytes f.ty.toNat) false
    (fun a c _ u k b => MemOk a → Writes a b k (c.storeBytes u f.ty.toNat f.v)) :=
  padAccess_form h _ (fun c t => (c.val t f.a).toNat) _ _ _ _ (fun _ _ _ _ _ k _ hm => writes_write hm k _) rfl

theorem atom_form (x : LX) (hx : x.space = true) (w : Nat) (hw : optBytes x.opt.toNat = w) :
    PadForm (.atom x) s c g (fun u => (c.val u x.a).toNat) w false
    (fun a c g u k b => MemOk a → ∃ m n, Writes a m k (leBytes w (atomFn x.opt.toNat (a.num k w) (c.sized u w x.b).toNat)) ∧
      OneThread m n c u (if w = 8 then u.setPair x.d (BitVec.ofNat 64 (a.num k w)) else u.setReg x.d (BitVec.ofNat 32 (a.num k w))) ∧
      Acquires n g.core x.sc (x.ord = 1#2 ∨ x.ord = 3#2) b) :=
  padAccess_form h _ (fun c t => (c.val t x.a).toNat) _ _ (fun s c g t k => s.atomLane c g t x w k) _
    (fun s tid c g u k ha hm => by
      refine ⟨s.atomWritten c u x w k, _, writes_write hm k _, ?_, acquires_ordAcq _ g.core x.sc x.ord⟩
      rw [← setSized_eq]
      exact oneThread_effect (acting_write ha k _) (fun v => v.setSized (w == 8) x.d (BitVec.ofNat 64 (s.num k w))) (by simp))
    (by subst hw; simp only [exec, execAtom, if_pos hx]; rfl)

theorem red_form (x : LX) (hx : x.space = true) (w : Nat) (hw : optBytes x.opt.toNat = w) :
    PadForm (.red x) s c g (fun u => (c.val u x.a).toNat) w false
    (fun a c g u k b => MemOk a → ∃ m, Writes a m k (leBytes w (atomFn x.opt.toNat (a.num k w) (c.sized u w x.b).toNat)) ∧
      Acquires m g.core x.sc (x.ord = 1#2 ∨ x.ord = 3#2) b) :=
  padAccess_form h _ (fun c t => (c.val t x.a).toNat) _ _
    (fun s c g t k => let m := s.atomWritten c t x w k; if ordAcq x.ord then m.acquire g.core x.sc.toNat else m) _
    (fun _ _ _ g _ k _ hm => ⟨_, writes_write hm k _, acquires_ordAcq _ g.core x.sc x.ord⟩)
    (by subst hw; simp only [exec, execRed, if_pos hx]; rfl)

theorem acas_form (x : LX) (hx : x.space = true) (w : Nat) (hw : casBytes x.opt.toNat = w) :
    PadForm (.acas x) s c g (fun u => (c.val u x.a).toNat) w false
    (fun a c g u k b => MemOk a → ∃ m n,
      (a.num k w = (c.sized u w x.b).toNat → Writes a m k (leBytes w
        (if w = 8 then (c.valAt u x.b 3 ++ c.valAt u x.b 2).toNat else (c.valAt u x.b 1).toNat))) ∧
      (a.num k w ≠ (c.sized u w x.b).toNat → m = a) ∧
      OneThread m n c u (if w = 8 then u.setPair x.d (BitVec.ofNat 64 (a.num k w)) else u.setReg x.d (BitVec.ofNat 32 (a.num k w))) ∧
      Acquires n g.core x.sc (x.ord = 1#2 ∨ x.ord = 3#2) b) :=
  padAccess_form h _ (fun c t => (c.val t x.a).toNat) _ _ (fun s c g t k => s.casLane c g t x w k) _
    (fun s tid c g u k ha hm => by
      refine ⟨s.casWritten c u x w k, _, fun equal => ?_, fun differs => ?_, ?_, acquires_ordAcq _ g.core x.sc x.ord⟩
      · rw [State.casWritten, casArgs_fst, if_pos equal, ← casArgs_snd]
        exact writes_write hm k _
      · rw [State.casWritten, casArgs_fst, if_neg differs]
      · rw [← setSized_eq]
        exact oneThread_effect (acting_casWritten ha x w k) (fun v => v.setSized (w == 8) x.d (BitVec.ofNat 64 (s.num k w)))
          (by simp))
    (by subst hw; simp only [exec, execAcas, if_pos hx]; rfl)

theorem ctadd_form (q : LAt) (hq : q.space = true) : PadForm (.ctadd q) s c g (fun u => (c.val u q.a).toNat) 8 false
    (fun a c _ u k b => MemOk a → k < Config.peerBase → ∃ m,
      Writes a m k (leBytes 8 (min (a.num k 8 + (c.val u q.v).toNat) (2 ^ 64 - 1))) ∧ ∃ ls, b = { m with clines := ls }) :=
  padAccess_form h _ (fun c t => (c.val t q.a).toNat) _ _
    (fun s c g t k => s.counterAdd g.core g.rec_.tenant k (c.val t q.v).toNat) _
    (fun _ _ _ _ _ k _ hm hk => ⟨_, writes_write hm k _, _, counterAdd_eq _ hk _ _ _⟩)
    (by simp only [exec, execCtadd, if_pos hq])

theorem ctread_form (q : LAt) (hq : q.space = true) : PadForm (.ctread q) s c g (fun u => (c.val u q.a).toNat) 8 true
    (fun a c g u k b => ∃ m, OneThread a m c u (u.setPair q.v (BitVec.ofNat 64 (a.num k 8))) ∧ Acquires m g.core q.sc True b) :=
  padAccess_form h _ (fun c t => (c.val t q.a).toNat) _ _ _ _ (fun s _ _ g _ k ha =>
    ⟨_, oneThread_effect ha (fun v => v.setPair q.v (BitVec.ofNat 64 (s.num k 8))) (by simp), acquires_acquire _ g.core q.sc⟩)
    (by simp only [exec, execCtread, if_pos hq])

theorem ctwait_form (q : LAt) (hq : q.space = true) : PadForm (.ctwait q) s c g (fun u => (c.val u q.a).toNat) 8 true
    (fun a c g u k b => k < Config.peerBase →
      ((c.pair u q.v).toNat ≤ a.num k 8 → b =
        { a with
          clines := a.clines.filter fun l => decide (l.cluster ≠ g.core / 24 ∨
            (q.sc.toNat < 2 ∧ (k + 8 ≤ l.line * 128 ∨ l.line * 128 + 128 ≤ k))) }) ∧
      (a.num k 8 < (c.pair u q.v).toNat →
        b = a.await u.tid (.counter k (c.val u q.a).toNat (c.pair u q.v) q.sc.toNat))) :=
  padAccess_form h _ (fun c t => (c.val t q.a).toNat) _ _ (fun s c g t k => s.ctwaitLane c g t q k) _
    (fun s _ c g u k _ hk => by
      simp only [State.ctwaitLane, devNum_eq s hk, Ctx.ctAddr, if_pos hq, ctwaitMet_eq]
      exact ⟨fun met => if_pos met, fun unmet => if_neg (by omega)⟩)
    (by simp only [exec, execCtwait, if_pos hq])

end Lane

end Sys2Proof.Machine

namespace Sys2Proof.Proofs

open Machine

/-- Settles O31: each form is `padAccess` with what it does in one lane. -/
theorem scratchpadAccesses : Obligations.ScratchpadAccesses := by
  unfold Obligations.ScratchpadAccesses
  intro s c g h _ f x q
  exact ⟨lds_form h f, sts_form h f, fun hx => ⟨atom_form h x hx _ (optBytes_eq x.opt), red_form h x hx _ (optBytes_eq x.opt),
    acas_form h x hx _ (casBytes_eq x.opt)⟩, fun hq => ⟨ctadd_form h q hq, ctread_form h q hq, ctwait_form h q hq⟩⟩

end Sys2Proof.Proofs
end

section
/-! SUPPORT. The hamper: a fold that keeps the better of two runs ends at the best of a list, and what makes a page usable (R67). -/

namespace Sys2Proof.Machine

/-! ### The best run (R67) -/

/-- A run that no run of a list betters: it brings in fewer empty banks than each, or as many and starts no higher. -/
def BestRun (rs : List Region) (p : Nat) (l : List Nat) (a : Nat) : Prop :=
  a ∈ l ∧ ∀ b ∈ l, emptyBanksOf rs a p < emptyBanksOf rs b p ∨ emptyBanksOf rs a p = emptyBanksOf rs b p ∧ a ≤ b

theorem foldl_betterRun_some (rs : List Region) (p : Nat) {l : List Nat} {b : Nat} (h : (b :: l).Pairwise (· < ·)) :
    ∃ a, l.foldl (betterRun rs p) (some b) = some a ∧ BestRun rs p (b :: l) a := by
  induction l generalizing b with
  | nil => exact ⟨b, rfl, by simp, by simp⟩
  | cons x l ih =>
    obtain ⟨hb, hx⟩ := List.pairwise_cons.1 h
    have hbx : b < x := hb x (by simp)
    rw [List.foldl_cons, betterRun]
    split
    · next better =>
      obtain ⟨a, ha, hmem, hbest⟩ := ih hx
      exact ⟨a, ha, List.mem_cons_of_mem _ hmem, List.forall_mem_cons.2 ⟨by have := hbest x (by simp); omega, hbest⟩⟩
    · next worse =>
      obtain ⟨a, ha, hmem, hbest⟩ := ih (h.sublist (List.Sublist.cons_cons b (List.sublist_cons_self x l)))
      obtain ⟨best_b, best_l⟩ := List.forall_mem_cons.1 hbest
      have hmem : a ∈ b :: x :: l := List.mem_cons.2 ((List.mem_cons.1 hmem).imp_right (List.mem_cons_of_mem x))
      exact ⟨a, ha, hmem, List.forall_mem_cons.2 ⟨best_b, List.forall_mem_cons.2 ⟨by omega, best_l⟩⟩⟩

theorem foldl_betterRun (rs : List Region) (p : Nat) {l : List Nat} (h : l.Pairwise (· < ·)) :
    (l.foldl (betterRun rs p) none = none ↔ l = []) ∧ ∀ a, l.foldl (betterRun rs p) none = some a → BestRun rs p l a := by
  cases l with
  | nil => simp
  | cons x l =>
    obtain ⟨a, ha, best⟩ := foldl_betterRun_some rs p h
    rw [List.foldl_cons, betterRun, ha]
    exact ⟨by simp, fun b hb => by cases hb; exact best⟩

/-! ### Where the hamper places a region (R67) -/

/-- The pages at which a region of a rank may start. -/
def hamperStarts (k : Nat) : List Nat := if k = 7 then List.range 128 else upFrom 128 896

theorem pairwise_hamperStarts (k : Nat) : (hamperStarts k).Pairwise (· < ·) := by
  unfold hamperStarts upFrom
  split
  · exact List.pairwise_lt_range
  · exact List.pairwise_map.2 (List.pairwise_lt_range.imp fun h => by omega)

theorem place_spec (s : State) (core k size : Nat) (own : List Region) :
    let ok := fun a => usableRun (s.core core) (s.coreRegions core) own k a (size / 4096) = true
    (s.place core own k size = none ↔ ∀ a ∈ hamperStarts k, ¬ ok a) ∧
    ∀ base, s.place core own k size = some base → ∃ a, base = a * 4096 ∧
      BestRun (s.coreRegions core) (size / 4096) ((hamperStarts k).filter fun a => decide (ok a)) a := by
  intro ok
  have placed : s.place core own k size = (((hamperStarts k).filter fun a => decide (ok a)).foldl
      (betterRun (s.coreRegions core) (size / 4096)) none).map (· * 4096) := by
    simp only [ok, Bool.decide_eq_true]; rfl
  obtain ⟨none_iff, best⟩ := foldl_betterRun (s.coreRegions core) (size / 4096)
    ((pairwise_hamperStarts k).filter fun a => decide (ok a))
  rw [placed]
  refine ⟨by simp [none_iff, List.filter_eq_nil_iff], fun base hbase => ?_⟩
  obtain ⟨a, ha, rfl⟩ := Option.map_eq_some_iff.1 hbase
  exact ⟨a, rfl, best a ha⟩

theorem usablePage_spec {c : Core} {rs own : List Region} {k page : Nat} (h : usablePage c rs own k page = true) :
    c.lit.getLsbD (page / 16) = true ∧ page / 16 ∉ c.chosen ∧ (k = 7 ↔ page / 16 < 8) ∧ page / 16 < 64 ∧
      ∀ r ∈ rs, r.reserves (page / 16) = true → ¬ r.covers (page * 4096) = true := by
  simp only [usablePage, Bool.and_eq_true] at h
  obtain ⟨⟨⟨⟨⟨pool, lit⟩, chosen⟩, free⟩, -⟩, -⟩ := h
  have pool : (k = 7 ↔ page / 16 < 8) ∧ page / 16 < 64 := by
    by_cases hk : k = 7
    · have low : page / 16 < 8 := of_decide_eq_true (by rwa [if_pos hk] at pool)
      omega
    · rw [if_neg hk, Bool.and_eq_true] at pool
      have low : 8 ≤ page / 16 := of_decide_eq_true pool.1
      have high : page / 16 < 64 := of_decide_eq_true pool.2
      omega
  have chosen : page / pagesPerBank ∉ c.chosen := by simpa using chosen
  refine ⟨lit, chosen, pool.1, pool.2, fun r hr reserved covered => ?_⟩
  rw [Bool.not_eq_true', List.any_eq_false] at free
  exact free r hr (by rw [Bool.and_eq_true]; exact ⟨covered, reserved⟩)

theorem usablePage_of_usableRun {c : Core} {rs own : List Region} {k page p i : Nat} (h : usableRun c rs own k page p = true)
    (hi : i < p) : usablePage c rs own k (page + i) = true :=
  List.all_eq_true.1 h i (List.mem_range.2 hi)

end Sys2Proof.Machine

namespace Sys2Proof.Proofs

open Machine

/-- Settles O35: the hamper's fold ends at the best of the usable runs, every page of which is usable. -/
theorem regionPlacement : Obligations.RegionPlacement := by
  unfold Obligations.RegionPlacement
  intro s core k size own starts ok cost
  obtain ⟨none_iff, best⟩ := place_spec s core k size own
  refine ⟨none_iff, fun base hbase => ?_⟩
  obtain ⟨a, rfl, ha, hbest⟩ := best base hbase
  obtain ⟨hstart, hok⟩ := List.mem_filter.1 ha
  have hok : ok a := of_decide_eq_true hok
  exact ⟨a, hstart, rfl, hok, fun b hb okb => hbest b (List.mem_filter.2 ⟨hb, decide_eq_true okb⟩),
    fun i hi => usablePage_spec (usablePage_of_usableRun hok hi)⟩

end Sys2Proof.Proofs
end

section
/-! SUPPORT. A group away whose paused copy owes a chunk to a page that RFREE frees (R69, R140, R171). -/

namespace Sys2Proof.Machine.CopyAway

/-- A launch of one thread. -/
def launch : Launch :=
  { rec_ := { entry := 0, lo := 0, hi := 1, tvt := 0, rgns := 0, threads := 1, regs8 := 1, gang := 1, rows := 0, acc := 0,
              cls := 0, tenant := 0, nrgn := 1, pthr := 0, nuni := 0, rowh := 0, uimg := 0, done := 0, reserved := false },
    uimg := [], regions := [], seen := [0], ended := [], done := false, hidden := [] }

/-- A Live region of rank 7, the first page of bank 0. -/
def region : Region := Region.fresh 0 4096 7 24 false

/-- A group of the launch on core 0 that holds it. -/
def group : Group := Group.start 0 0 0 1 launch none [(0, 0, 1)] [region]

/-- Its one thread, whose registers are zero. -/
def thread : Thread := Thread.start 0 8 0 ⟨0, 0, 0⟩

/-- The thread's packet under way. -/
def issue : Ctx := Ctx.start 0 0 0 [0] ⟨0, 0, 0⟩ [] false

/-- A paused copy to the scratchpad of core 0 that owes the one byte at local address 0. -/
def copy : Copy :=
  { id := 5, core := 0, guid := 3, tid := 0, tenant := 0, gid := 0, dims := [], saddr := 0x1000, daddr := 0, ctr := 0,
    ssp := false, dsp := true, csp := false, sfmt := 8, dfmt := 8, rnd := 0, sat := false,
    owed := [{ num := 0, off := 0, addr := padKey 0 0, len := 1, dead := false, srcGone := false, void := false }],
    batch := none, outcome := 0, flags := 0, paused := some 0, kept := [] }

/-- Its group, away from core 0, for which a region of the same page is held.  The hamper places no two regions so; the statement
asks nothing of the groups away. -/
def saved : Saved :=
  { guid := 3, group := group, carried := [], bytes := 0, home := some 0, held := [region], copies := [copy] }

def state : State :=
  { State.reset with ready := true, groups := [(0, group)], saved := [saved], launches := [(1, launch)], cur := some issue }

theorem inIssue : InIssue state issue group := ⟨rfl, rfl⟩

theorem acting : Acting state 0 issue group thread := ⟨rfl, rfl, by decide⟩

/-- RFREE of the region at the address in v0. -/
def free : LRfree := { p := 0, a := 0 }

theorem ownRegion : group.ownRegion (issue.val thread free.a).toNat = some (0, region) := by decide

/-- Which of the chunks that groups away are owed are dead. -/
def deadChunks (saved : List Saved) : List Bool := saved.flatMap fun v => v.copies.flatMap fun x => x.owed.map (·.dead)

theorem deadChunks_state : deadChunks state.saved = [false] := by decide

theorem deadChunks_rfree : (match exec (.rfree free) state with | .next t => deadChunks t.saved | _ => []) = [true] := by decide

end Sys2Proof.Machine.CopyAway

namespace Sys2Proof.Proofs

open Machine

/-- Refutes O36: where no copy, engine command or take is pending, no synchronisation group has its home on the core, and no thread
waits, the statement lets RFREE change groups alone.  The copies of a group away are none of these, and the model ends the landings
that they owe to a freed page of a held region (R69, R140). -/
theorem not_regionInstructions : ¬ Obligations.RegionInstructions := by
  unfold Obligations.RegionInstructions
  intro h
  obtain ⟨-, frees, -⟩ := h
  obtain ⟨t, ht, order⟩ := frees CopyAway.free CopyAway.state CopyAway.issue CopyAway.group CopyAway.inIssue
  have dead : CopyAway.deadChunks t.saved = [true] := by
    have := CopyAway.deadChunks_rfree
    rwa [ht] at this
  cases order with
  | next tid rest s m t hp hrest =>
    cases hrest
    obtain ⟨-, owned⟩ := hp CopyAway.issue CopyAway.group CopyAway.thread CopyAway.acting
    obtain ⟨f, -, rfl, alone⟩ := owned 0 CopyAway.region CopyAway.ownRegion
    obtain ⟨groups, -⟩ := alone rfl rfl rfl rfl (by decide)
    rw [State.onThread_saved, groups] at dead
    exact absurd (CopyAway.deadChunks_state.symm.trans dead) (by decide)

end Sys2Proof.Proofs
end

section
/-! What every step keeps, whatever state it begins in: memory in canonical form, and the budget in force within its bounds (R102,
R103, R179, R181). Each function of the model has one lemma, in the order of the model, that says it of the state the function
leaves; a step's is their composition. -/

namespace Sys2Proof.Machine

/-- What every step keeps, said of the three parts of a state on which it rests, so that a change of any other part keeps it by
definition. -/
structure KeptParts (s : State) (mem : List Host.Cell) (noisy : SMap FrameBase) (budget : Nat) : Prop where
  mem : MemOk s → risingFrom 0 noisy = true ∧ Memory.wf noisy mem
  budget : BudgetOk s → 1800 ≤ budget ∧ budget ≤ 3000

/-- `t` keeps the form of memory and the bounds of the budget that `s` has. -/
abbrev Kept (s t : State) : Prop := KeptParts s t.mem t.noisy t.budget

/-- Where the outcome is a state, that state keeps what `s` has. -/
def Keeps (s : State) (o : Out) : Prop := ∀ t, o = .next t → Kept s t

variable {σ s t : State}

theorem Keeps.next (h : Kept s t) : Keeps s (.next t) := by
  intro u hu; cases hu; exact h

theorem Keeps.fault (r : Fault) : Keeps s (.fault r) := nofun

theorem Keeps.refused (r : Refusal) : Keeps s (.refused r) := nofun

theorem Keeps.andThen {o : Out} {f : State → Out} (ho : Keeps s o) (hf : ∀ t, Kept s t → Keeps s (f t)) :
    Keeps s (andThen o f) := by
  cases o with
  | next t => exact hf t (ho t rfl)
  | fault r => exact .fault r
  | refused r => exact .refused r

theorem Keeps.ite {c : Prop} [Decidable c] {a b : Out} (ha : Keeps s a) (hb : Keeps s b) : Keeps s (if c then a else b) := by
  split <;> assumption

theorem Kept.refl (s : State) : Kept s s := ⟨id, id⟩

theorem Kept.ite {c : Prop} [Decidable c] {a b : State} (ha : Kept s a) (hb : Kept s b) : Kept s (if c then a else b) := by
  split <;> assumption

theorem Kept.ite_fst {α : Type} {c : Prop} [Decidable c] {p q : State × α} (hp : Kept s p.1) (hq : Kept s q.1) :
    Kept s (if c then p else q).1 := by
  split <;> assumption

theorem Kept.foldl {α : Type} {f : State → α → State} {l : List α} (h : Kept s t) (hf : ∀ t a, Kept s t → Kept s (f t a)) :
    Kept s (l.foldl f t) := by
  induction l generalizing t with
  | nil => exact h
  | cons a l ih => exact ih (hf t a h)

theorem Kept.memDrop (hs : Kept σ s) (lo hi : Nat) : Kept σ { s with mem := Machine.memDrop s.mem lo hi } :=
  ⟨fun h => ⟨(hs.mem h).1, memDrop_wf (hs.mem h).2 lo hi⟩, hs.budget⟩

theorem Kept.withBudget (hs : Kept σ s) {w : Nat} (hw : 1800 ≤ w ∧ w ≤ 3000) : Kept σ { s with budget := w } :=
  ⟨hs.mem, fun _ => hw⟩

/-! The parts of a state on which neither memory nor the budget rests. -/

theorem Kept.withCur (hs : Kept σ s) (x : Option Ctx) : Kept σ { s with cur := x } := hs

theorem Kept.withPackets (hs : Kept σ s) (x : List Ctx) : Kept σ { s with packets := x } := hs

theorem Kept.withHmsgs (hs : Kept σ s) (x : List HMsg) : Kept σ { s with hmsgs := x } := hs

theorem Kept.withDones (hs : Kept σ s) (x : List DoneWait) : Kept σ { s with dones := x } := hs

theorem Kept.withLaunches (hs : Kept σ s) (x : SMap Launch) : Kept σ { s with launches := x } := hs

theorem Kept.withRanges (hs : Kept σ s) (x : List Range) : Kept σ { s with ranges := x } := hs

theorem Kept.withTasks (hs : Kept σ s) (x : List TaskRec) : Kept σ { s with tasks := x } := hs

theorem Kept.withCopies (hs : Kept σ s) (x : List Copy) : Kept σ { s with copies := x } := hs

theorem Kept.withClines (hs : Kept σ s) (x : List CLine) : Kept σ { s with clines := x } := hs

theorem Kept.withAccesses (hs : Kept σ s) (x : List Access) : Kept σ { s with accesses := x } := hs

theorem Kept.withTakes (hs : Kept σ s) (x : List Take) : Kept σ { s with takes := x } := hs

theorem Kept.withKvs (hs : Kept σ s) (x : List KvCmd) : Kept σ { s with kvs := x } := hs

theorem Kept.withDieQ (hs : Kept σ s) (x : List (Nat × FaultEntry)) : Kept σ { s with dieQ := x } := hs

theorem Kept.withSaved (hs : Kept σ s) (x : List Saved) : Kept σ { s with saved := x } := hs

theorem Kept.withEvents (hs : Kept σ s) (x : List (Nat × Nat × Nat)) : Kept σ { s with events := x } := hs

theorem Kept.withServedAt (hs : Kept σ s) (x : Nat) : Kept σ { s with servedAt := x } := hs

theorem Kept.withInputs (hs : Kept σ s) (x : List Input) : Kept σ { s with inputs := x } := hs

theorem Kept.write (hs : Kept σ s) (k : Nat) (bs : List Byte) : Kept σ (s.write k bs) :=
  ⟨fun h => memOk_write (s := s) (hs.mem h) k bs, hs.budget⟩

theorem Kept.setCore (hs : Kept σ s) (c : Nat) (x : Core) : Kept σ (s.setCore c x) := hs

theorem Kept.setColumn (hs : Kept σ s) (c : Nat) (x : Column) : Kept σ (s.setColumn c x) := hs

theorem Kept.setTenant (hs : Kept σ s) (t : Nat) (x : Tenant) : Kept σ (s.setTenant t x) := hs

theorem Kept.bump (hs : Kept σ s) : Kept σ s.bump := hs

theorem Kept.setGroup (hs : Kept σ s) (g : Nat) (x : Group) : Kept σ (s.setGroup g x) := hs

theorem Kept.onGroup (hs : Kept σ s) (g : Nat) (f : Group → Group) : Kept σ (s.onGroup g f) := by
  unfold State.onGroup
  split
  · exact hs.setGroup _ _
  · exact hs

theorem Kept.onThread (hs : Kept σ s) (g tid : Nat) (f : Thread → Thread) : Kept σ (s.onThread g tid f) := hs.onGroup _ _

theorem Kept.sendPeer (hs : Kept σ s) (tenant k : Nat) (op : PeerOp) : Kept σ (s.sendPeer tenant k op) := hs

theorem Kept.askRun (hs : Kept σ s) (tenant : Nat) (ps : List Nat) : Kept σ (s.askRun tenant ps) :=
  hs.foldl fun _ _ ht => ht.sendPeer _ _ _

theorem Kept.devWrite (hs : Kept σ s) (tenant k : Nat) (bs : List Byte) : Kept σ (s.devWrite tenant k bs) :=
  (hs.sendPeer _ _ _).ite (hs.write _ _)

theorem Kept.cleanUnits (hs : Kept σ s) (k n : Nat) : Kept σ (s.cleanUnits k n) := hs

theorem Kept.countErrorAt (hs : Kept σ s) (pa : Nat) : Kept σ (s.countErrorAt pa) := hs.ite (hs.setColumn _ _)

theorem Kept.countError (hs : Kept σ s) (e : FaultEntry) : Kept σ (s.countError e) := by
  refine hs.ite ?_
  split
  · exact (hs.countErrorAt _).ite hs
  · exact hs

theorem Kept.uncounted (ht : Kept σ t) (s : State) : Kept σ (s.uncounted t) := ht

theorem Kept.unmark (hs : Kept σ s) (m : NetMark) : Kept σ (s.unmark m) := Kept.ite hs hs

theorem Kept.place_ (hs : Kept σ s) (die : Nat) (e : FaultEntry) : Kept σ (s.place_ die e) := hs

theorem Kept.addFault (hs : Kept σ s) (e : FaultEntry) : Kept σ (s.addFault e) := (hs.place_ _ _).countError _

theorem Kept.postFault (hs : Kept σ s) (die : Nat) (e : FaultEntry) : Kept σ (s.postFault die e) := (hs.place_ _ _).ite hs

theorem Kept.placeHeld (hs : Kept σ s) :
    Kept σ s.placeHeld := Kept.foldl (t := { s with heldFaults := [] }) hs fun _ _ ht => ht.postFault _ _

theorem Kept.dataError (hs : Kept σ s) (core tenant : Nat) (gid tid : Word) (addr access : Nat) :
    Kept σ (s.dataError core tenant gid tid addr access) := hs.addFault _

theorem Kept.zeroPad (hs : Kept σ s) (core a n : Nat) : Kept σ (s.zeroPad core a n) := hs.memDrop _ _

theorem Kept.arrive (hs : Kept σ s) (g tid : Nat) (p : Point) : Kept σ (s.arrive g tid p) := hs.onGroup _ _

theorem Kept.wake (hs : Kept σ s) (g tid : Nat) (p : Point) : Kept σ (s.wake g tid p) := hs.onGroup _ _

theorem Kept.wakeTrap (hs : Kept σ s) (g tid : Nat) (issue : Point) (code : Byte) (tval : Dword) (handler : Nat)
    (word : Option Nat := none) :
    Kept σ (s.wakeTrap g tid issue code tval handler word) := (hs.wake _ _ _).onThread _ _ _

theorem Kept.dropLine (hs : Kept σ s) (cluster k n : Nat) : Kept σ (s.dropLine cluster k n) := hs

theorem Kept.dropCluster (hs : Kept σ s) (cluster : Nat) : Kept σ (s.dropCluster cluster) := hs

theorem Kept.acquire (hs : Kept σ s) (core sc : Nat) : Kept σ (s.acquire core sc) := (hs.dropCluster _).ite hs

theorem Kept.counterAdd (hs : Kept σ s) (core tenant k v : Nat) : Kept σ (s.counterAdd core tenant k v) :=
  (hs.devWrite _ _ _).dropLine _ _ _

theorem Kept.signalAdd (hs : Kept σ s) (core tenant k : Nat) (gid tid : Word) (va : Nat) :
    Kept σ (s.signalAdd core tenant k gid tid va) := (hs.dataError _ _ _ _ _ _).ite (hs.counterAdd _ _ _ _)

theorem Kept.dueNow (hs : Kept σ s) (g tid : Nat) (code : Byte) (tval : Dword) (handler : Nat) :
    Kept σ (s.dueNow g tid code tval handler) := by
  unfold State.dueNow
  split
  · exact hs
  · split
    · exact hs
    · exact hs.wakeTrap _ _ _ _ _ _ _
    · exact hs.wakeTrap _ _ _ _ _ _ _
    · exact hs.onThread _ _ _
    · exact hs

theorem Kept.trapWaiters (hs : Kept σ s) (k n : Nat) (code : Byte) (handler : Nat) : Kept σ (s.trapWaiters k n code handler) :=
  hs.foldl fun _ _ ht => (ht.wakeTrap _ _ _ _ _ _ _).ite ht

theorem Kept.reported (hs : Kept σ s) (g tid : Nat) (ticket : Option Nat) : Kept σ (s.reported g tid ticket) := by
  unfold State.reported
  split
  · exact hs
  · exact hs.onThread _ _ _

theorem Kept.goOn (hs : Kept σ s) (g tid : Nat) (next : Point) : Kept σ (s.goOn g tid next) := by
  unfold State.goOn
  split
  · split
    · exact (hs.wakeTrap _ _ _ _ _ _ _).reported _ _ _
    · exact (hs.bump.withHmsgs _).onThread _ _ _
  · exact hs.onThread _ _ _
  · exact hs.wake _ _ _

theorem Kept.onMember (hs : Kept σ s) (g tid : Nat) (f : Thread → Thread) : Kept σ (s.onMember g tid f) := hs.onThread _ _ _

theorem Kept.loseMember (hs : Kept σ s) (m : Member) (hv : Word) (code : Byte) (tval : Dword) (handler : Nat) :
    Kept σ (s.loseMember m hv code tval handler) := by
  unfold State.loseMember
  split
  · exact ((hs.withHmsgs _).wakeTrap _ _ _ _ _ _ _).reported _ _ _
  · split
    · exact hs
    · refine hs.ite ?_
      split
      · exact (hs.wakeTrap _ _ _ _ _ _ _).reported _ _ _
      · exact hs.onMember _ _ _

theorem Kept.loseSpills (hs : Kept σ s) (core a n : Nat) (code : Byte) (handler : Nat) :
    Kept σ (s.loseSpills core a n code handler) := by
  refine hs.foldl fun t ⟨i, slot⟩ ht => ?_
  dsimp only
  split
  · exact ht
  · exact Kept.ite ((ht.setCore _ _).foldl fun _ _ hu => hu.loseMember _ _ _ _ _) ht

theorem Kept.killRun (hs : Kept σ s) (k n : Nat) : Kept σ (s.killRun k n) := hs

theorem Kept.freeRun (hs : Kept σ s) (core : Nat) (r : Region) : Kept σ (s.freeRun core r) :=
  hs.foldl fun _ _ ht => ((ht.killRun _ _).loseSpills _ _ _ _ _).trapWaiters _ _ _ _

theorem Kept.doneLater (hs : Kept σ s) (tenant addr : Nat) : Kept σ (s.doneLater tenant addr) := hs

theorem Kept.doneSignal (hs : Kept σ s) (tenant addr : Nat) : Kept σ (s.doneSignal tenant addr) := by
  have later := hs.doneLater tenant addr
  have entry : ∀ e, Kept σ (if s.dieRoom 0 then s.addFault e else s.doneLater tenant addr) := fun e => (hs.addFault e).ite later
  unfold State.doneSignal
  refine Kept.ite later ?_
  split
  · exact Kept.ite (entry _) (hs.counterAdd _ _ _ _)
  · exact entry _
  · exact entry _
  · exact ((hs.addFault _).withDones _).ite later

theorem Kept.launchCheck (hs : Kept σ s) (l : Nat) : Kept σ (s.launchCheck l) := by
  unfold State.launchCheck
  split
  · exact hs
  · next x _ =>
    have done := hs.withLaunches (mset s.launches l { x with done := true })
    exact hs.ite (done.ite (done.doneSignal _ _))

theorem Kept.endGroup (hs : Kept σ s) (g : Nat) : Kept σ (s.endGroup g) := by
  unfold State.endGroup
  split
  · exact hs
  · dsimp only
    split
    all_goals
      apply Kept.launchCheck
      refine hs.foldl fun t r ht => ?_
      split
      · exact ht.freeRun _ _
      · exact ht

theorem Kept.sendGone (hs : Kept σ s) (g tid : Nat) (t : Thread) : Kept σ (s.sendGone g tid t) :=
  hs.foldl fun _ _ hu => hu.ite (hu.bump.withHmsgs _)

theorem Kept.exitNow (hs : Kept σ s) (g tid : Nat) : Kept σ (s.exitNow g tid) := by
  unfold State.exitNow
  split
  · exact hs
  · next t _ =>
    have gone := fun f => (hs.onGroup g f).sendGone g tid t
    dsimp only
    split
    · exact Kept.ite (gone _) ((gone _).endGroup _)
    · exact gone _

theorem Kept.exitThread (hs : Kept σ s) (g tid : Nat) : Kept σ (s.exitThread g tid) := by
  unfold State.exitThread
  split
  · exact hs
  · exact ((hs.onGroup _ _).onThread _ _ _).ite (hs.exitNow _ _)

theorem Kept.onCur (hs : Kept σ s) (f : Ctx → Ctx) : Kept σ (s.onCur f) := hs

theorem Kept.issue (hs : Kept σ s) {f : Ctx → Group → State} (hf : ∀ c g, Kept σ (f c g)) : Kept σ (s.issue f) := by
  unfold State.issue
  split
  · exact hs
  · split
    · exact hs
    · exact hf _ _

theorem Kept.leave (hs : Kept σ s) (tid : Nat) : Kept σ (s.leave tid) := hs.onCur _

theorem Kept.startWalk (hs : Kept σ s) (g tid : Nat) (x : Group) (va access : Nat) (at_ : Point) (sharers : List Nat := [tid]) :
    Kept σ (s.startWalk g tid x va access at_ sharers) := hs.bump

theorem Kept.parkWalk (hs : Kept σ s) (g tid : Nat) (x : Group) (va access : Nat) (at_ : Point) :
    Kept σ (s.parkWalk g tid x va access at_) :=
  (hs.startWalk _ _ _ _ _ _ _).onGroup _ _

theorem Kept.keepDue (hs : Kept σ s) (g tid word : Nat) (code : Byte) (tval : Dword) (tmask : Word) (handler : Nat) :
    Kept σ (s.keepDue g tid word code tval tmask handler) := hs.onThread _ _ _

theorem Kept.fatalTrap (hs : Kept σ s) (g tid : Nat) (x : Group) (p : Point) (code : Byte) (tval : Dword) (access pcause : Nat) :
    Kept σ (s.fatalTrap g tid x p code tval access pcause) := ((hs.addFault _).exitThread _ _).ite (hs.onGroup _ _)

theorem Kept.debugStop (hs : Kept σ s) (g tid : Nat) (x : Group) (p : Point) (pkt : Nat) : Kept σ (s.debugStop g tid x p pkt) :=
  (((hs.addFault _).wake _ _ _).onGroup _ _).ite (hs.onGroup _ _)

theorem Kept.tryTrap (hs : Kept σ s) (g tid : Nat) (p : Point) (word : Nat) (code : Byte) (tval : Dword) (tmask : Word)
    (handler : Nat) :
    Kept σ (s.tryTrap g tid p word code tval tmask handler) := by
  unfold State.tryTrap
  split
  · exact hs
  · split
    · exact hs
    · refine Kept.ite (hs.debugStop _ _ _ _ _) (Kept.ite (hs.fatalTrap _ _ _ _ _ _ _ _) ?_)
      split
      · exact hs.parkWalk _ _ _ _ _ _
      · exact hs.onGroup _ _
      · exact hs.fatalTrap _ _ _ _ _ _ _ _
      · exact Kept.ite ((hs.onThread _ _ _).fatalTrap _ _ _ _ _ _ _ _) (((hs.onThread _ _ _).onThread _ _ _).arrive _ _ _)

theorem Kept.takeTrap (hs : Kept σ s) (g tid : Nat) (p : Point) (word : Nat) (code : Byte) (tval : Dword) (tmask : Word)
    (handler : Nat) :
    Kept σ (s.takeTrap g tid p word code tval tmask handler) :=
  (hs.tryTrap _ _ _ _ _ _ _ _).keepDue _ _ _ _ _ _ _

theorem Kept.returnTrap (hs : Kept σ s) (g tid : Nat) (l : TrapLevel) : Kept σ (s.returnTrap g tid l) :=
  (hs.onThread _ _ _).arrive _ _ _

theorem Kept.raise (hs : Kept σ s) (tid : Nat) (code : Byte) (tval : Dword) (tmask : Word) (handler : Nat) (ticket : Option Nat) :
    Kept σ (s.raise tid code tval tmask handler ticket) :=
  hs.issue fun _ _ => (hs.onCur _).ite (((hs.takeTrap _ _ _ _ _ _ _ _).reported _ _ _).leave _)

theorem Kept.retry (hs : Kept σ s) (tid : Nat) (w : Wait) : Kept σ (s.retry tid w) :=
  hs.issue fun _ _ => (hs.onCur _).ite ((hs.onGroup _ _).leave _)

theorem Kept.missing (hs : Kept σ s) (tid va access : Nat) (sharers : List Nat := [tid]) :
    Kept σ (s.missing tid va access sharers) := hs.onCur _

theorem Kept.await (hs : Kept σ s) (tid : Nat) (w : Wait) : Kept σ (s.await tid w) :=
  hs.issue fun _ _ => (hs.onCur _).ite ((hs.onGroup _ _).leave _)

theorem Kept.moveTo (hs : Kept σ s) (tid : Nat) (p : Point) : Kept σ (s.moveTo tid p) :=
  hs.issue fun _ _ => (hs.onThread _ _ _).onCur _

theorem Kept.eachActive (hs : Kept σ s) {f : State → Ctx → Group → Thread → State} (hf : ∀ t c g u, Kept σ t → Kept σ (f t c g u)) :
    Kept σ (s.eachActive f) :=
  hs.issue fun _ _ => hs.foldl fun t _ ht => ht.issue fun c g => by
    split
    · exact hf t c g _ ht
    · exact ht

theorem Kept.lanes (hs : Kept σ s) (f : Ctx → Group → Thread → Thread) : Kept σ (s.lanes f) := hs.issue fun _ _ => hs.setGroup _ _

theorem Kept.latchResults (hs : Kept σ s) (f : Ctx → Group → Thread → Word) :
    Kept σ (s.latchResults f) := hs.issue fun _ _ => hs.onCur _

theorem Kept.alu (hs : Kept σ s) (k : Bool) (d : Code) (f : Ctx → Group → Thread → Word) : Kept σ (s.alu k d f) :=
  (hs.latchResults _).lanes _

theorem Kept.aluLA (hs : Kept σ s) (f : LA) (op : Word → Word → Word) : Kept σ (s.aluLA f op) := hs.alu _ _ _

theorem Kept.aluLA3 (hs : Kept σ s) (f : LA) (op : Word → Word → Word → Word) : Kept σ (s.aluLA3 f op) := hs.alu _ _ _

theorem Kept.aluLA1 (hs : Kept σ s) (f : LA1) (op : Word → Word) : Kept σ (s.aluLA1 f op) := hs.alu _ _ _

theorem Kept.fpAlu (hs : Kept σ s) (k : Bool) (d : Code) (f : Ctx → Group → Thread → Word × Flags) : Kept σ (s.fpAlu k d f) :=
  (hs.latchResults _).lanes _

theorem Kept.fpLane (hs : Kept σ s) (d : Code) (f : Ctx → Group → Thread → Word × Flags) : Kept σ (s.fpLane d f) := hs.lanes _

theorem Kept.packedLA (hs : Kept σ s) (f : LA) (op : Nat → Nat → Nat → Nat → Nat × Flags) : Kept σ (s.packedLA f op) :=
  hs.fpAlu _ _ _

theorem keeps_execQxch (hs : Kept σ s) (f : LI) : Keeps σ (execQxch f s) := .next (hs.lanes _)

theorem keeps_execXlane (hs : Kept σ s) (f : LXlane) : Keeps σ (execXlane f s) := .next (hs.lanes _)

theorem keeps_execWvote (hs : Kept σ s) (f : LAw) : Keeps σ (execWvote f s) := .next (hs.lanes _)

theorem Kept.mmf (hs : Kept σ s) (f : LG) (elem : Ctx → Group → Nat → Nat → Nat → Word → Word × Flags) : Kept σ (s.mmf f elem) :=
  hs.lanes _

theorem keeps_execMmfBf16 (hs : Kept σ s) (f : LG) : Keeps σ (execMmfBf16 f s) := .next (hs.mmf _ _)

theorem keeps_execMmfF16 (hs : Kept σ s) (f : LG) : Keeps σ (execMmfF16 f s) := .next (hs.mmf _ _)

theorem keeps_execMmfE4m3 (hs : Kept σ s) (f : LG) : Keeps σ (execMmfE4m3 f s) := .next (hs.mmf _ _)

theorem keeps_execMmfE5m2 (hs : Kept σ s) (f : LG) : Keeps σ (execMmfE5m2 f s) := .next (hs.mmf _ _)

theorem keeps_execMmfE2m1 (hs : Kept σ s) (f : LG) : Keeps σ (execMmfE2m1 f s) := .next (hs.mmf _ _)

theorem keeps_execMmfS8 (hs : Kept σ s) (f : LG) : Keeps σ (execMmfS8 f s) := .next (hs.mmf _ _)

theorem Kept.illegal (hs : Kept σ s) (c : Ctx) (tid : Nat) : Kept σ (s.illegal c tid) := hs.raise _ _ _ _ _ _

theorem keeps_execNop (hs : Kept σ s) : Keeps σ (execNop s) := .next hs

theorem keeps_execExit (hs : Kept σ s) : Keeps σ (execExit s) :=
  .next <| hs.eachActive fun _ _ _ _ ht => (ht.await _ _).ite ((ht.exitThread _ _).leave _)

theorem keeps_execYield (hs : Kept σ s) : Keeps σ (execYield s) := .next (hs.onCur _)

theorem keeps_execTrap (hs : Kept σ s) (imm : BitVec 16) : Keeps σ (execTrap imm s) :=
  .next <| hs.eachActive fun _ _ _ _ ht => ht.raise _ _ _ _ _ _

theorem keeps_execBkpt (hs : Kept σ s) (imm : BitVec 16) : Keeps σ (execBkpt imm s) :=
  .next <| hs.eachActive fun _ _ _ _ ht => ht.raise _ _ _ _ _ _

theorem keeps_execXret (hs : Kept σ s) : Keeps σ (execXret s) :=
  .next <| hs.eachActive fun _ _ _ _ ht => by
    split
    · exact ht.illegal _ _
    · exact ((ht.returnTrap _ _ _).leave _).onCur _

theorem keeps_execEvwait (hs : Kept σ s) (ev : BitVec 4) : Keeps σ (execEvwait ev s) :=
  .next <| hs.eachActive fun _ _ _ _ ht => (ht.onThread _ _ _).ite (ht.await _ _)

theorem keeps_execSysr (hs : Kept σ s) (f : LAy) : Keeps σ (execSysr f s) := .next (hs.lanes _)

theorem keeps_execSysw (hs : Kept σ s) (f : LAy) : Keeps σ (execSysw f s) :=
  .next <| hs.eachActive fun _ _ _ _ ht => (ht.illegal _ _).ite (ht.onThread _ _ _)

theorem Kept.goPkt (hs : Kept σ s) (tid : Nat) (p : Int) (prio : BitVec 8) : Kept σ (s.goPkt tid p prio) :=
  (hs.moveTo _ _).ite (hs.raise _ _ _ _ _ _)

theorem Kept.branchLane (hs : Kept σ s) (c : Ctx) (t : Thread) (f : LB) : Kept σ (s.branchLane c t f) :=
  (hs.goPkt _ _ _).ite (hs.moveTo _ _)

theorem keeps_execBra (hs : Kept σ s) (f : LB) : Keeps σ (execBra f s) :=
  .next <| hs.eachActive fun _ _ _ _ ht => ht.branchLane _ _ _

theorem keeps_execBru (hs : Kept σ s) (f : LB) : Keeps σ (execBru f s) :=
  .next <| hs.eachActive fun _ _ _ _ ht => ht.goPkt _ _ _

theorem keeps_execCall (hs : Kept σ s) (f : LB) : Keeps σ (execCall f s) :=
  .next <| hs.eachActive fun _ _ _ _ ht => ((ht.onThread _ _ _).branchLane _ _ _).ite (ht.branchLane _ _ _)

theorem keeps_execBrx (hs : Kept σ s) (f : LAx) : Keeps σ (execBrx f s) :=
  .next <| hs.eachActive fun _ _ _ _ ht => (ht.raise _ _ _ _ _ _).ite ((ht.raise _ _ _ _ _ _).ite (ht.moveTo _ _))

theorem keeps_execRet (hs : Kept σ s) : Keeps σ (execRet s) :=
  .next <| hs.eachActive fun _ _ _ _ ht => (ht.illegal _ _).ite ((ht.raise _ _ _ _ _ _).ite (ht.moveTo _ _))

theorem Kept.putRegion (hs : Kept σ s) (guid i : Nat) (r : Region) (core : Nat) : Kept σ (s.putRegion guid i r core) :=
  (hs.zeroPad _ _ _).onGroup _ _

theorem Kept.rallocLane (hs : Kept σ s) (c : Ctx) (g : Group) (t : Thread) (f : LRalloc) : Kept σ (s.rallocLane c g t f) := by
  refine (hs.raise _ _ _ _ _ _).ite ((hs.raise _ _ _ _ _ _).ite ?_)
  split
  · exact hs.onThread _ _ _
  · exact (hs.putRegion _ _ _ _).onThread _ _ _

theorem keeps_execRalloc (hs : Kept σ s) (f : LRalloc) : Keeps σ (execRalloc f s) :=
  .next <| hs.eachActive fun _ _ _ _ ht => ht.rallocLane _ _ _ _

theorem Kept.rfreeLane (hs : Kept σ s) (c : Ctx) (g : Group) (t : Thread) (f : LRfree) : Kept σ (s.rfreeLane c g t f) := by
  unfold State.rfreeLane
  split
  · exact hs.onThread _ _ _
  · exact ((hs.onGroup _ _).freeRun _ _).onThread _ _ _

theorem keeps_execRfree (hs : Kept σ s) (f : LRfree) : Keeps σ (execRfree f s) :=
  .next <| hs.eachActive fun _ _ _ _ ht => ht.rfreeLane _ _ _ _

theorem Kept.rrankLane (hs : Kept σ s) (c : Ctx) (g : Group) (t : Thread) (f : LRrank) : Kept σ (s.rrankLane c g t f) := by
  unfold State.rrankLane
  split
  · exact hs.onThread _ _ _
  · exact ((hs.onGroup _ _).ite hs).onThread _ _ _

theorem keeps_execRrank (hs : Kept σ s) (f : LRrank) : Keeps σ (execRrank f s) :=
  .next <| hs.eachActive fun _ _ _ _ ht => ht.rrankLane _ _ _ _

theorem keeps_execRstat (hs : Kept σ s) (f : LDA) : Keeps σ (execRstat f s) := .next (hs.lanes _)

theorem Kept.claimLane (hs : Kept σ s) (c : Ctx) (g : Group) (t : Thread) (f : LDA) : Kept σ (s.claimLane c g t f) := by
  unfold State.claimLane
  dsimp only
  split
  · exact hs.onThread _ _ _
  · exact (hs.onThread _ _ _).ite (((hs.onGroup _ _).onThread _ _ _).ite (hs.onThread _ _ _))

theorem keeps_execRstatClaim (hs : Kept σ s) (f : LDA) : Keeps σ (execRstatClaim f s) :=
  .next <| hs.eachActive fun _ _ _ _ ht => ht.claimLane _ _ _ _

theorem Kept.sealCopies (hs : Kept σ s) (g tid : Nat) (n : Word) : Kept σ (s.sealCopies g tid n) := hs

theorem Kept.csealLane (hs : Kept σ s) (c : Ctx) (t : Thread) (d : Code) : Kept σ (s.csealLane c t d) :=
  (hs.retry _ _).ite ((hs.sealCopies _ _ _).onThread _ _ _)

theorem keeps_execCseal (hs : Kept σ s) (d : Code) : Keeps σ (execCseal d s) :=
  .next <| hs.eachActive fun _ _ _ _ ht => ht.csealLane _ _ _

theorem Kept.batchesMet (hs : Kept σ s) (core : Nat) : Kept σ (s.batchesMet core) := hs.dropCluster _

theorem Kept.cwaitLane (hs : Kept σ s) (c : Ctx) (g : Group) (t : Thread) (a : Code) : Kept σ (s.cwaitLane c g t a) :=
  (hs.batchesMet _).ite (hs.await _ _)

theorem keeps_execCwait (hs : Kept σ s) (a : Code) : Keeps σ (execCwait a s) :=
  .next <| hs.eachActive fun _ _ _ _ ht => ht.cwaitLane _ _ _ _

theorem keeps_execCstat (hs : Kept σ s) (f : LDA) : Keeps σ (execCstat f s) := .next (hs.lanes _)

theorem Kept.recordError (hs : Kept σ s) (core tenant : Nat) (gid tid : Word) (bad : Option Nat) :
    Kept σ (s.recordError core tenant gid tid bad) := by
  unfold State.recordError
  split
  · exact hs
  · exact ((hs.postFault _ _).countError _).unmark _

theorem Kept.trimRanges (hs : Kept σ s) : Kept σ s.trimRanges := hs

theorem Kept.addLaunch (hs : Kept σ s) (l : Launch) (cluster : Nat) (owner task : Option Nat) :
    Kept σ (s.addLaunch l cluster owner task) :=
  ((hs.bump.withLaunches _).withRanges _).trimRanges.launchCheck _

theorem Kept.rejectEntry (hs : Kept σ s) (tenant core : Nat) (gid tid : Word) (va : Nat) :
    Kept σ (s.rejectEntry tenant core gid tid va) := hs.addFault _

theorem Kept.ackSignal (hs : Kept σ s) (core tenant : Nat) (gid tid : Nat) (ack : Option Nat) :
    Kept σ (s.ackSignal core tenant gid tid ack) := by
  unfold State.ackSignal
  split
  · exact hs
  · split
    · exact hs.signalAdd _ _ _ _ _ _
    · exact hs.dataError _ _ _ _ _ _
    · exact hs.postFault _ _

theorem keeps_execLaunchQueueAccept (hs : Kept σ s) (tenant : Nat) : Keeps σ (execLaunchQueueAccept tenant s) := by
  refine .next ?_
  split
  · exact hs
  · split
    · exact hs
    · refine hs.ite ?_
      split
      · exact ((hs.setTenant _ _).addLaunch _ _ _ _).ackSignal _ _ _ _ _
      · exact ((((hs.setTenant _ _).rejectEntry _ _ _ _ _).recordError _ _ _ _ _).ackSignal _ _ _ _ _).ite hs

theorem keeps_execTaskRecordPlacement (hs : Kept σ s) (sender receiver : Nat) :
    Keeps σ (execTaskRecordPlacement sender receiver s) := by
  refine .next ?_
  split
  · exact hs
  · next q _ =>
    have taken := hs.withTasks (s.tasks.erase q)
    refine hs.ite ?_
    dsimp only
    split
    · exact ((taken.addLaunch _ _ _ _).ite (taken.addLaunch _ _ _ _)).ackSignal _ _ _ _ _
    · exact (((taken.rejectEntry _ _ _ _ _).recordError _ _ _ _ _).ackSignal _ _ _ _ _).ite hs

theorem Kept.firstOnCore (hs : Kept σ s) (core launch : Nat) : Kept σ (s.firstOnCore core launch) := by
  unfold State.firstOnCore
  split
  · exact hs
  · exact hs.ite ((hs.setCore _ _).withLaunches _)

theorem Kept.startGroup (hs : Kept σ s) (core launch gid : Nat) (gang : Option Nat) :
    Kept σ (s.startGroup core launch gid gang) := by
  unfold State.startGroup
  split
  · exact hs
  · split
    · exact hs
    · exact (((hs.firstOnCore _ _).dropCluster _).foldl fun _ _ ht => ht.zeroPad _ _ _).bump.setGroup _ _

theorem Kept.setRange (hs : Kept σ s) (r q : Range) : Kept σ (s.setRange r q) := hs.trimRanges

theorem keeps_execGroupStart (hs : Kept σ s) (core : Nat) : Keeps σ (execGroupStart core s) := by
  refine .next (hs.ite ?_)
  split
  · exact hs
  · exact (hs.startGroup _ _ _ _).setRange _ _

theorem Kept.serveFrom (hs : Kept σ s) (core cluster launch : Nat) : Kept σ (s.serveFrom core cluster launch) := by
  unfold State.serveFrom
  split
  · exact hs
  · exact ((hs.setRange _ _).withRanges _).setCore _ _

theorem Kept.request (hs : Kept σ s) (core : Nat) (ok : Range → Bool) : Kept σ (s.request core ok) := by
  unfold State.request
  split
  · exact hs.serveFrom _ _ _
  · exact hs

theorem Kept.askOnce (ht : Kept σ t) (s : State) (core : Nat) : Kept σ (s.askOnce t core) := ht.ite ht

theorem Kept.takeFrom (hs : Kept σ s) (guid tid : Nat) (d : Code) (p : Pred) (got : Option Range) :
    Kept σ (s.takeFrom guid tid d p got) := by
  unfold State.takeFrom
  cases got with
  | some r => exact (hs.setRange _ _).onThread _ _ _
  | none => exact hs.onThread _ _ _

theorem Kept.takeLocal (hs : Kept σ s) (guid tid : Nat) (g : Group) (d : Code) (p : Pred) : Kept σ (s.takeLocal guid tid g d p) :=
  hs.takeFrom _ _ _ _ _

theorem Kept.serveGrange (hs : Kept σ s) (guid : Nat) (g : Group) (tid : Nat) (d : Code) (p : Pred) (next : Point) :
    Kept σ (s.serveGrange guid g tid d p next) := by
  unfold State.serveGrange
  have given := (hs.request g.core fun r =>
    decide (r.launch = g.launch) && (s.clustersOf g.rec_.tenant).contains r.cluster).setCore
  exact ((hs.takeFrom _ _ _ _ _).ite (((given _ _).withServedAt _).takeFrom _ _ _ _ _)).goOn _ _ _

theorem keeps_execCoreRequest (hs : Kept σ s) (core : Nat) : Keeps σ (execCoreRequest core s) := by
  refine .next ?_
  split
  · exact hs.serveGrange _ _ _ _ _ _
  · exact hs.ite (Kept.askOnce (hs.request _ _) s core)

theorem Kept.startGang (hs : Kept σ s) (r : Range) (l : Launch) (c : Nat) : Kept σ (s.startGang r l c) :=
  (hs.foldl fun _ _ ht => ht.startGroup _ _ _ _).setRange _ _

theorem keeps_execGangStart (hs : Kept σ s) (cluster : Nat) : Keeps σ (execGangStart cluster s) := by
  refine .next ?_
  split
  · exact hs
  · split
    · exact hs
    · exact hs.startGang _ _ _

theorem Kept.setMoves (hs : Kept σ s) (ms : List (Nat × Nat)) : Kept σ (s.setMoves ms) := hs.foldl fun _ _ ht => ht.onGroup _ _

theorem keeps_execGangMigration (hs : Kept σ s) (cluster : Nat) : Keeps σ (execGangMigration cluster s) := by
  refine .next ?_
  split
  · exact hs
  · refine hs.ite ?_
    dsimp only
    split
    · exact hs
    · exact hs.setMoves _

theorem Kept.stopGroup (hs : Kept σ s) (guid : Nat) : Kept σ (s.stopGroup guid) := by
  unfold State.stopGroup
  split
  · exact hs
  · exact hs

theorem keeps_execClassPreemption (hs : Kept σ s) (launch : Nat) : Keeps σ (execClassPreemption launch s) := by
  refine .next ?_
  split
  · exact hs
  · refine hs.ite ?_
    split
    · exact hs
    · exact (hs.stopGroup _).ite hs

theorem Kept.freeRanges (hs : Kept σ s) (core : Nat) : Kept σ (s.freeRanges core) := hs

theorem keeps_execGrangeRead (hs : Kept σ s) (f : LGrange) : Keeps σ (execGrangeRead f s) :=
  .next <| hs.eachActive fun _ _ _ _ ht => ht.onThread _ _ _

theorem Kept.grangeLane (hs : Kept σ s) (c : Ctx) (g : Group) (t : Thread) (f : LGrange) : Kept σ (s.grangeLane c g t f) :=
  (hs.await _ _).ite (hs.takeLocal _ _ _ _ _)

theorem keeps_execGrangeTake (hs : Kept σ s) (f : LGrange) : Keeps σ (execGrangeTake f s) :=
  .next <| hs.eachActive fun _ _ _ _ ht => (ht.illegal _ _).ite (ht.grangeLane _ _ _ _)

theorem Kept.enqueue (hs : Kept σ s) (c : Ctx) (g : Group) (u : Thread) (f : LEq) (va : Nat) (r : LaunchRec) (ack : Option Nat) :
    Kept σ (s.enqueue c g u f va r ack) := by
  have put := fun t b (ht : Kept σ t) => Kept.onThread ht c.guid u.tid fun x => x.setPred f.pd b
  unfold State.enqueue
  split
  · split
    · exact put _ _ hs
    · exact (put _ _ hs).ite (put _ _ (hs.bump.setTenant _ _))
  · exact (put _ _ hs).ite (put _ _ (hs.bump.withTasks _))

theorem Kept.enqLane (hs : Kept σ s) (c : Ctx) (g : Group) (t : Thread) (f : LEq) : Kept σ (s.enqLane c g t f) := by
  refine (hs.raise _ _ _ _ _ _).ite ((hs.raise _ _ _ _ _ _).ite ((hs.raise _ _ _ _ _ _).ite ?_))
  split
  · exact hs.missing _ _ _ _
  · exact hs.raise _ _ _ _ _ _
  · exact hs.enqueue _ _ _ _ _ _ _

theorem keeps_execEnq (hs : Kept σ s) (f : LEq) : Keeps σ (execEnq f s) :=
  .next <| hs.eachActive fun _ _ _ _ ht => ht.enqLane _ _ _ _

theorem Kept.engEach {α : Type} (hs : Kept σ s) {check : State → Ctx → Group → Thread → EngRes α}
    {act : State → Ctx → Group → Thread → α → State} (ha : ∀ t c g u x, Kept σ t → Kept σ (act t c g u x)) :
    Kept σ (s.engEach check act) :=
  hs.issue fun _ _ => hs.eachActive fun t c g u ht => by
    split
    · exact ha t c g u _ ht
    · exact ht.raise _ _ _ _ _ _
    · exact ht.missing _ _ _ _
    · exact ht.retry _ _

theorem keeps_execCpy (hs : Kept σ s) (f : LE) : Keeps σ (execCpy f s) := .next <| hs.engEach fun _ _ _ _ _ ht => ht

theorem Kept.endCopy (hs : Kept σ s) (c : Copy) : Kept σ (s.endCopy c) := (hs.withCopies _).onMember _ _ _

theorem Kept.putCopy (hs : Kept σ s) (c : Copy) : Kept σ (s.putCopy c) := (hs.endCopy _).ite hs

theorem Kept.writePlaces (hs : Kept σ s) (core tenant : Nat) (ps : List Nat) (bs : List Byte) :
    Kept σ (s.writePlaces core tenant ps bs) :=
  Kept.foldl hs fun _ _ ht => (ht.devWrite _ _ _).dropLine _ _ _

theorem Kept.dueTrap (hs : Kept σ s) (guid tid : Nat) (code : Byte) (va access : Nat) :
    Kept σ (s.dueTrap guid tid code va access) := by
  unfold State.dueTrap
  split
  · exact hs.dueNow _ _ _ _ _
  · exact hs.onMember _ _ _

theorem Kept.copyError (hs : Kept σ s) (c : Copy) (va access : Nat) : Kept σ (s.copyError c va access) :=
  (hs.dataError _ _ _ _ _ _).endCopy _

theorem Kept.copyFault (hs : Kept σ s) (c : Copy) (f : FaultSort) (va access : Nat) : Kept σ (s.copyFault c f va access) := by
  unfold State.copyFault
  split
  · exact hs.addFault _
  · exact (hs.dueTrap _ _ _ _ _).endCopy _
  · exact hs.copyError _ _ _

theorem Kept.deliverChunk (hs : Kept σ s) (c : Copy) (ch : Chunk) (l : Landing) : Kept σ (s.deliverChunk c ch l) := by
  have written := hs.writePlaces c.core c.tenant l.places l.bytes
  unfold State.deliverChunk
  dsimp only
  split
  · exact written.putCopy _
  · exact ((written.dataError _ _ _ _ _ _).endCopy _).ite (((written.counterAdd _ _ _ _).putCopy _).ite (written.putCopy _))

theorem Kept.landChunk (hs : Kept σ s) (c : Copy) (ch : Chunk) : Kept σ (s.landChunk c ch) := by
  unfold State.landChunk
  split
  · exact (hs.putCopy _).ite (hs.putCopy _)
  · split
    · split
      · exact hs.copyFault _ _ _ _
      · exact hs.copyError _ _ _
      · exact hs.putCopy _
    · split
      · exact hs.copyFault _ _ _ _
      · exact hs.copyError _ _ _
      · exact hs.deliverChunk _ _ _

theorem keeps_execCopyChunkLanding (hs : Kept σ s) (id chunk : Nat) : Keeps σ (execCopyChunkLanding id chunk s) := by
  refine .next ?_
  split
  · exact hs
  · split
    · exact hs
    · exact hs.ite ((((hs.copyError _ _ _).uncounted _).unmark _).ite ((hs.askRun _ _).landChunk _ _))

theorem keeps_execIadd (hs : Kept σ s) (f : LA) : Keeps σ (execIadd f s) := .next (hs.aluLA _ _)

theorem keeps_execIsub (hs : Kept σ s) (f : LA) : Keeps σ (execIsub f s) := .next (hs.aluLA _ _)

theorem keeps_execImul (hs : Kept σ s) (f : LA) : Keeps σ (execImul f s) := .next (hs.aluLA _ _)

theorem keeps_execImulhS32 (hs : Kept σ s) (f : LA) : Keeps σ (execImulhS32 f s) := .next (hs.aluLA _ _)

theorem keeps_execImulhN32 (hs : Kept σ s) (f : LA) : Keeps σ (execImulhN32 f s) := .next (hs.aluLA _ _)

theorem keeps_execImad (hs : Kept σ s) (f : LA) : Keeps σ (execImad f s) := .next (hs.aluLA3 _ _)

theorem keeps_execIminS32 (hs : Kept σ s) (f : LA) : Keeps σ (execIminS32 f s) := .next (hs.aluLA _ _)

theorem keeps_execIminN32 (hs : Kept σ s) (f : LA) : Keeps σ (execIminN32 f s) := .next (hs.aluLA _ _)

theorem keeps_execImaxS32 (hs : Kept σ s) (f : LA) : Keeps σ (execImaxS32 f s) := .next (hs.aluLA _ _)

theorem keeps_execImaxN32 (hs : Kept σ s) (f : LA) : Keeps σ (execImaxN32 f s) := .next (hs.aluLA _ _)

theorem keeps_execIabs (hs : Kept σ s) (f : LA1) : Keeps σ (execIabs f s) := .next (hs.aluLA1 _ _)

theorem keeps_execIcmp (hs : Kept σ s) (f : LAc) : Keeps σ (execIcmp f s) := .next (hs.lanes _)

theorem keeps_execLea (hs : Kept σ s) (f : LA) : Keeps σ (execLea f s) := .next (hs.lanes _)

theorem keeps_execSel (hs : Kept σ s) (f : LAs) : Keeps σ (execSel f s) := .next (hs.alu _ _ _)

theorem keeps_execMov (hs : Kept σ s) (f : LMov) : Keeps σ (execMov f s) := .next (hs.alu _ _ _)

theorem keeps_execAnd (hs : Kept σ s) (f : LA) : Keeps σ (execAnd f s) := .next (hs.aluLA _ _)

theorem keeps_execOr (hs : Kept σ s) (f : LA) : Keeps σ (execOr f s) := .next (hs.aluLA _ _)

theorem keeps_execXor (hs : Kept σ s) (f : LA) : Keeps σ (execXor f s) := .next (hs.aluLA _ _)

theorem keeps_execShl (hs : Kept σ s) (f : LA) : Keeps σ (execShl f s) := .next (hs.aluLA _ _)

theorem keeps_execShr (hs : Kept σ s) (f : LA) : Keeps σ (execShr f s) := .next (hs.aluLA _ _)

theorem keeps_execSar (hs : Kept σ s) (f : LA) : Keeps σ (execSar f s) := .next (hs.aluLA _ _)

theorem keeps_execBfx (hs : Kept σ s) (f : LA) : Keeps σ (execBfx f s) := .next (hs.aluLA _ _)

theorem keeps_execBfi (hs : Kept σ s) (f : LA) : Keeps σ (execBfi f s) := .next (hs.aluLA3 _ _)

theorem keeps_execPopc (hs : Kept σ s) (f : LA1) : Keeps σ (execPopc f s) := .next (hs.aluLA1 _ _)

theorem keeps_execClz (hs : Kept σ s) (f : LA1) : Keeps σ (execClz f s) := .next (hs.aluLA1 _ _)

theorem keeps_execBrev (hs : Kept σ s) (f : LA1) : Keeps σ (execBrev f s) := .next (hs.aluLA1 _ _)

theorem keeps_execPlop (hs : Kept σ s) (f : LAq) : Keeps σ (execPlop f s) := .next (hs.lanes _)

theorem keeps_execMovi (hs : Kept σ s) (f : LIw) : Keeps σ (execMovi f s) := .next (hs.alu _ _ _)

theorem keeps_execMovl (hs : Kept σ s) (f : LMovl) : Keeps σ (execMovl f s) := .next (hs.alu _ _ _)

theorem Kept.failLane (hs : Kept σ s) (mask : Word) (access tid : Nat) (l : Lane) : Kept σ (s.failLane mask access tid l) := by
  cases l with
  | ok => exact hs
  | trap => exact hs.raise _ _ _ _ _ _
  | miss => exact hs.missing _ _ _ _
  | pending => exact hs.retry _ _

theorem Kept.failLanes (hs : Kept σ s) (ls : List (Nat × Lane)) (access : Nat) : Kept σ (s.failLanes ls access) :=
  hs.foldl fun _ _ ht => ht.failLane _ _ _ _

theorem Kept.okLanes (hs : Kept σ s) (ls : List (Nat × Lane)) {f : State → Ctx → Group → Thread → Nat → State}
    (hf : ∀ t c g u k, Kept σ t → Kept σ (f t c g u k)) : Kept σ (s.okLanes ls f) := by
  refine hs.foldl fun t ⟨tid, l⟩ ht => ?_
  cases l with
  | ok k =>
    refine ht.issue fun c g => ?_
    split
    · exact hf t c g _ k ht
    · exact ht
  | trap => exact ht
  | miss => exact ht
  | pending => exact ht

theorem Kept.padAccess (hs : Kept σ s) (addr : Ctx → Thread → Nat) (w : Nat) (waits : Bool)
    {f : State → Ctx → Group → Thread → Nat → State} (hf : ∀ t c g u k, Kept σ t → Kept σ (f t c g u k)) :
    Kept σ (s.padAccess addr w waits f) :=
  hs.issue fun _ _ => (hs.okLanes _ hf).failLanes _ _

theorem Kept.addAccess (hs : Kept σ s) (c : Ctx) (g : Group) (kind : AccKind) (lanes : List LaneAcc) :
    Kept σ (s.addAccess c g kind lanes) := hs.ite hs.bump

theorem Kept.checkedAccess (hs : Kept σ s) (kind : AccKind) (addr : Ctx → Group → Thread → Nat) (check : Group → Nat → Lane)
    (access : Nat)
    (mk : Ctx → Thread → Dword × Dword × List Byte) : Kept σ (s.checkedAccess kind addr check access mk) :=
  hs.issue fun _ _ => (hs.addAccess _ _ _ _).failLanes _ _

theorem Kept.dramAccess (hs : Kept σ s) (kind : AccKind) (addr : Ctx → Group → Thread → Nat) (w access : Nat)
    (mk : Ctx → Thread → Dword × Dword × List Byte) :
    Kept σ (s.dramAccess kind addr w access mk) := hs.checkedAccess _ _ _ _ _

theorem Kept.atomicAccess (hs : Kept σ s) (kind : AccKind) (addr : Ctx → Group → Thread → Nat) (w : Nat)
    (mk : Ctx → Thread → Dword × Dword × List Byte) :
    Kept σ (s.atomicAccess kind addr w mk) := hs.checkedAccess _ _ _ _ _

theorem keeps_execLd (hs : Kept σ s) (f : LAm) : Keeps σ (execLd f s) := .next (hs.dramAccess _ _ _ _ _)

theorem keeps_execSt (hs : Kept σ s) (f : LAm) : Keeps σ (execSt f s) := .next (hs.dramAccess _ _ _ _ _)

theorem keeps_execLds (hs : Kept σ s) (f : LAms) : Keeps σ (execLds f s) :=
  .next <| hs.padAccess _ _ _ fun _ _ _ _ _ ht => ((ht.onThread _ _ _).acquire _ _).ite (ht.onThread _ _ _)

theorem keeps_execSts (hs : Kept σ s) (f : LAms) : Keeps σ (execSts f s) :=
  .next <| hs.padAccess _ _ _ fun _ _ _ _ _ ht => ht.write _ _

theorem keeps_execSld (hs : Kept σ s) (f : LAu) : Keeps σ (execSld f s) := by
  refine .next <| hs.issue fun c g => ?_
  dsimp only
  split
  · exact hs.addAccess _ _ _ _
  · split
    · exact hs
    · exact hs.missing _ _ _ _
  · exact hs.foldl fun _ _ ht => ht.failLane _ _ _ _

theorem keeps_execAtom (hs : Kept σ s) (f : LX) : Keeps σ (execAtom f s) := by
  refine .next <| Kept.ite (hs.padAccess _ _ _ fun t c g u k ht => ?_) (hs.atomicAccess _ _ _ _)
  have done := fun bs f => (ht.write k bs).onThread c.guid u.tid f
  exact ((done _ _).acquire _ _).ite (done _ _)

theorem keeps_execAcas (hs : Kept σ s) (f : LX) : Keeps σ (execAcas f s) := by
  refine .next <| Kept.ite (hs.padAccess _ _ _ fun t c g u k ht => ?_) (hs.atomicAccess _ _ _ _)
  have done := fun (p : Prop) [Decidable p] bs f => ((ht.write k bs).ite (c := p) ht).onThread c.guid u.tid f
  exact ((done _ _ _).acquire _ _).ite (done _ _ _)

theorem keeps_execRed (hs : Kept σ s) (f : LX) : Keeps σ (execRed f s) :=
  .next <| Kept.ite (hs.padAccess _ _ _ fun _ _ _ _ _ ht => ((ht.write _ _).acquire _ _).ite (ht.write _ _)) (hs.atomicAccess _ _ _ _)

theorem keeps_execFence (hs : Kept σ s) (f : LAf) : Keeps σ (execFence f s) := by
  refine .next <| hs.eachActive fun t c g u ht => ?_
  have acquired := Kept.ite (c := f.kind.toNat = 1) ht (ht.acquire g.core f.sc.toNat)
  exact (acquired.await _ _).ite acquired

theorem keeps_execPromote (hs : Kept σ s) (f : LAp) : Keeps σ (execPromote f s) :=
  .next <| hs.issue fun _ _ => (hs.foldl fun _ _ ht => ht.addAccess _ _ _ _).failLanes _ _

theorem keeps_execCtadd (hs : Kept σ s) (f : LAt) : Keeps σ (execCtadd f s) :=
  .next <| Kept.ite (hs.padAccess _ _ _ fun _ _ _ _ _ ht => ht.counterAdd _ _ _ _) (hs.atomicAccess _ _ _ _)

theorem Kept.ctwaitMet (hs : Kept σ s) (core sc k : Nat) : Kept σ (s.ctwaitMet core sc k) := (hs.acquire _ _).dropLine _ _ _

theorem Kept.ctwaitLane (hs : Kept σ s) (c : Ctx) (g : Group) (t : Thread) (f : LAt) (k : Nat) : Kept σ (s.ctwaitLane c g t f k) :=
  (hs.ctwaitMet _ _ _).ite (hs.await _ _)

theorem keeps_execCtwait (hs : Kept σ s) (f : LAt) : Keeps σ (execCtwait f s) :=
  .next <| Kept.ite (hs.padAccess _ _ _ fun _ _ _ _ _ ht => ht.ctwaitLane _ _ _ _ _) <| hs.issue fun _ _ =>
    (hs.okLanes _ fun _ _ _ _ _ ht => (ht.raise _ _ _ _ _ _).ite ((ht.raise _ _ _ _ _ _).ite (ht.ctwaitLane _ _ _ _ _))).failLanes _ _

theorem keeps_execCtread (hs : Kept σ s) (f : LAt) : Keeps σ (execCtread f s) :=
  .next <| Kept.ite (hs.padAccess _ _ _ fun _ _ _ _ _ ht => (ht.onThread _ _ _).acquire _ _) (hs.dramAccess _ _ _ _ _)

theorem Kept.fatalAt (hs : Kept σ s) (g tid : Nat) (code : Byte) (va access : Nat) : Kept σ (s.fatalAt g tid code va access) := by
  unfold State.fatalAt
  split
  · exact hs.ite ((hs.dueNow _ _ _ _ _).ite ((hs.fatalTrap _ _ _ _ _ _ _ _).keepDue _ _ _ _ _ _ _))
  · exact hs

theorem Kept.addLine (hs : Kept σ s) (x : CLine) : Kept σ (s.addLine x) := by
  unfold State.addLine
  dsimp only
  split
  · exact (hs.withClines _).ite (hs.withClines _)
  · exact hs

theorem Kept.cachedRead (hs : Kept σ s) (cluster k n : Nat) : Kept σ (s.cachedRead cluster k n).1 := by
  unfold State.cachedRead
  split
  · exact hs
  · dsimp only
    split
    · exact hs
    · exact hs.addLine _

theorem Kept.updateLines (hs : Kept σ s) (cluster k : Nat) (bs : List Byte) : Kept σ (s.updateLines cluster k bs) := hs

theorem Kept.ask (hs : Kept σ s) (a : Access) (l : LaneAcc) (op : PeerOp) : Kept σ (s.ask a l op) := (hs.sendPeer _ _ _).ite hs

theorem Kept.hide (hs : Kept σ s) (launch k n : Nat) : Kept σ (s.hide launch k n) := by
  unfold State.hide
  split
  · exact hs
  · exact hs

theorem Kept.performStore (hs : Kept σ s) (a : Access) (l : LaneAcc) : Kept σ (s.performStore a l) :=
  (hs.dataError _ _ _ _ _ _).ite ((hs.devWrite _ _ _).ite (((hs.hide _ _ _).devWrite _ _ _).updateLines _ _ _))

theorem Kept.rmw (hs : Kept σ s) (a : Access) (l : LaneAcc) (w : Nat) (f : Nat → Nat) (op : PeerOp) (reply : List Byte) :
    Kept σ (s.rmw a l w f op reply).2 := by
  unfold State.rmw
  dsimp only
  split
  · exact hs.ask _ _ _
  · exact ((hs.hide _ _ _).devWrite _ _ _).dropLine _ _ _

theorem Kept.performLane (hs : Kept σ s) (a : Access) (l : LaneAcc) (reply : List Byte) : Kept σ (s.performLane a l reply) := by
  have fatal := fun access => hs.fatalAt a.guid l.tid 0x21 l.va access
  have done {u : State} (hu : Kept σ u) (f : Thread → Thread) (q : Bool) (sc : Nat) :
      Kept σ (if q then (u.onThread a.guid l.tid f).acquire a.core sc else u.onThread a.guid l.tid f) :=
    ((hu.onThread _ _ _).acquire _ _).ite (hu.onThread _ _ _)
  unfold State.performLane
  split
  · refine (fatal _).ite ?_
    cases l.peer
    · exact done (Kept.ite_fst (p := (_, _)) (hs.dropLine _ _ _) (hs.cachedRead _ _ _)) _ _ _
    · exact done (hs.ask _ _ _) _ _ _
  · exact hs
  · exact hs.performStore _ _
  · next red _ =>
    refine Kept.ite ((hs.dataError _ _ _ _ _ _).ite (fatal _)) ?_
    dsimp only
    cases red
    · exact done (hs.rmw _ _ _ _ _ _) _ _ _
    · exact ((hs.rmw _ _ _ _ _ _).acquire _ _).ite (hs.rmw _ _ _ _ _ _)
  · refine (fatal _).ite (done ?_ _ _ _)
    exact (hs.ask _ _ _).ite ((hs.rmw _ _ _ _ _ _).ite (hs.dropLine _ _ _))
  · exact (fatal _).ite (hs.rmw _ _ _ _ _ _)
  · exact (fatal _).ite ((((hs.ask _ _ _).onThread _ _ _).dropLine _ _ _).acquire _ _)
  · exact (fatal _).ite ((((hs.ask _ _ _).onThread _ _ _).dropLine _ _ _).acquire _ _)

theorem Kept.performSload (hs : Kept σ s) (a : Access) (d : Nat) (l : LaneAcc) (reply : List Byte) :
    Kept σ (s.performSload a d l reply) := by
  unfold State.performSload
  refine Kept.ite (hs.foldl fun _ _ ht => ht.fatalAt _ _ _ _ _) ?_
  cases l.peer
  · exact (hs.cachedRead _ _ _).onGroup _ _
  · exact (hs.ask _ _ _).onGroup _ _

theorem Kept.performOne (hs : Kept σ s) (a : Access) (l : LaneAcc) (reply : Option (List Byte)) :
    Kept σ (s.performOne a l reply) := by
  unfold State.performOne
  split
  · exact hs.performLane _ _ _
  · exact (hs.fatalAt _ _ _ _ _).ite (hs.performLane _ _ _)

theorem Kept.perform (hs : Kept σ s) (a : Access) (replies : List (Option (List Byte))) : Kept σ (s.perform a replies) := by
  unfold State.perform
  have done {u : State} (hu : Kept σ u) : Kept σ (if a.netBad then s.uncounted u else u) := (hu.uncounted s).ite hu
  refine done ?_
  split
  · split
    · exact hs.foldl fun _ _ ht => ht.fatalAt _ _ _ _ _
    · exact hs.performSload _ _ _ _
  · exact hs.foldl fun _ _ ht => ht.performOne _ _ _

theorem keeps_execMemoryAccessComplete (hs : Kept σ s) (id : Nat) (replies : List (Option (List Byte))) :
    Keeps σ (execMemoryAccessComplete id replies s) := by
  unfold execMemoryAccessComplete
  split
  · exact .next hs
  · split
    · exact .fault _
    · split
      · exact .next (hs.perform _ _)
      · exact .next hs

theorem Kept.sloadsNow (hs : Kept σ s) (from_ : Nat) : Kept σ (s.sloadsNow from_) := by
  refine hs.foldl fun t a ht => ?_
  split
  · refine ((ht.withAccesses _).foldl fun _ _ hu => hu.raise _ _ _ _ _ _).ite (ht.perform _ _)
  · exact ht

theorem keeps_execPromoteArrival (hs : Kept σ s) (id : Nat) : Keeps σ (execPromoteArrival id s) := .next hs

theorem Kept.setSlotOf (hs : Kept σ s) (guid i : Nat) (r : RowSlot) : Kept σ (s.setSlotOf guid i r) := hs.onGroup _ _

theorem Kept.unqueue (hs : Kept σ s) (core guid i : Nat) : Kept σ (s.unqueue core guid i) := hs.setColumn _ _

theorem Kept.trapRowWaiters (hs : Kept σ s) (guid i va : Nat) (reason : Option Nat) : Kept σ (s.trapRowWaiters guid i va reason) :=
  hs.foldl fun _ _ ht => (ht.wakeTrap _ _ _ _ _ _ _).ite ht

theorem Kept.closeSlot (hs : Kept σ s) (core guid i reason : Nat) (r : RowSlot) : Kept σ (s.closeSlot core guid i reason r) :=
  ((hs.setSlotOf _ _ _).unqueue _ _ _).trapRowWaiters _ _ _ _

theorem Kept.closeRows (hs : Kept σ s) (core reason : Nat) (test : Nat → Nat → RowSlot → Bool) :
    Kept σ (s.closeRows core reason test) :=
  Kept.setColumn (hs.foldl fun _ _ ht => ht.closeSlot _ _ _ _ _) _ _

theorem keeps_execRopen (hs : Kept σ s) (f : LRopen) : Keeps σ (execRopen f s) :=
  .next <| hs.engEach fun _ _ _ _ _ ht => (ht.setSlotOf _ _ _).setColumn _ _

theorem Kept.freeSlotOf (hs : Kept σ s) (core guid i : Nat) (r : RowSlot) : Kept σ (s.freeSlotOf core guid i r) :=
  hs.ite (((hs.setSlotOf _ _ _).unqueue _ _ _).trapRowWaiters _ _ _ _)

theorem keeps_execRclose (hs : Kept σ s) (slot : BitVec 3) : Keeps σ (execRclose slot s) :=
  .next <| hs.engEach fun _ _ _ _ _ ht => ht.freeSlotOf _ _ _ _

theorem keeps_execRpoll (hs : Kept σ s) (f : LRpoll) : Keeps σ (execRpoll f s) :=
  .next <| hs.engEach fun _ _ _ _ _ ht => ht.onThread _ _ _

theorem Kept.acceptTake (hs : Kept σ s) (core guid tid i : Nat) (r : RowSlot) (dest : TakeDest) :
    Kept σ (s.acceptTake core guid tid i r dest) := by
  unfold State.acceptTake
  split
  · exact hs
  · cases dest with
    | staging => exact (hs.bump.withTakes _).onGroup _ _
    | pad => exact hs
    | attn => exact hs

theorem keeps_execRtake (hs : Kept σ s) (f : LRtake) : Keeps σ (execRtake f s) := by
  refine .next <| hs.engEach fun t c g u act ht => ?_
  cases act with
  | granted => exact (ht.onThread _ _ _).onThread _ _ _
  | busy => exact ht.onThread _ _ _
  | accept => exact (ht.acceptTake _ _ _ _ _ _).onThread _ _ _

theorem Kept.endTake (hs : Kept σ s) (t : Take) : Kept σ (s.endTake t) := by
  have ended : ∀ takes engs, Kept σ { s with takes := takes, engs := engs } := fun _ _ => hs
  unfold State.endTake
  dsimp only
  split
  · exact (ended _ s.engs).onMember _ _ _
  · exact hs
  · exact (ended _ _).onGroup _ _

theorem Kept.deliverBeat (hs : Kept σ s) (t : Take) (bs : List Byte) (good : Bool) : Kept σ (s.deliverBeat t bs good) := by
  unfold State.deliverBeat
  split
  · exact hs
  · exact hs.ite (hs.foldl fun _ _ hu => hu.ite (hu.write _ _))
  · exact hs

theorem Kept.beatAs (hs : Kept σ s) (t : Take) (good : Bool) : Kept σ (s.beatAs t good) := by
  have delivered := fun bs => hs.deliverBeat t bs good
  have ends {u : State} (hu : Kept σ u) (p : Prop) [Decidable p] (x : Take) (l : List Take) :
      Kept σ (if p then u.endTake x else { u with takes := l }) := (hu.endTake x).ite hu
  exact ends ((delivered _).ite (((delivered _).dataError _ _ _ _ _ _).closeRows _ _ _)) _ _ _

theorem Kept.beat (hs : Kept σ s) (t : Take) : Kept σ (s.beat t) :=
  (((hs.beatAs _ _).uncounted s).unmark _).ite (hs.beatAs _ _)

theorem keeps_execRtakeBeat (hs : Kept σ s) (id : Nat) : Keeps σ (execRtakeBeat id s) := by
  refine .next ?_
  split
  · exact hs
  · exact (hs.beat _).ite hs

theorem keeps_execRowActivation (hs : Kept σ s) (column : Nat) : Keeps σ (execRowActivation column s) := by
  refine .next ?_
  split
  · exact hs
  · dsimp only
    split
    · exact (hs.unqueue _ _ _).setSlotOf _ _ _
    · exact ((hs.unqueue _ _ _).setSlotOf _ _ _).setColumn _ _

theorem Kept.acceptParked (hs : Kept σ s) (guid i : Nat) (w : Nat × Nat × Wait × Point) : Kept σ (s.acceptParked guid i w) := by
  unfold State.acceptParked
  dsimp only
  split
  · refine hs.ite ?_
    split
    · exact (((hs.acceptTake _ _ _ _ _ _).wake _ _ _).onThread _ _ _).ite (hs.onThread _ _ _)
    · exact hs.wake _ _ _
  · exact (hs.wake _ _ _).ite hs
  · exact hs

theorem keeps_execRowReady (hs : Kept σ s) (group slot : Nat) : Keeps σ (execRowReady group slot s) := by
  refine .next ?_
  split
  · exact hs
  · exact Kept.ite ((hs.setSlotOf _ _ _).foldl fun _ _ ht => ht.acceptParked _ _ _) hs

theorem Kept.setRefresh (hs : Kept σ s) (col b : Nat) (r : Option RefreshState) : Kept σ (s.setRefresh col b r) := hs.setColumn _ _

theorem keeps_execRefreshDue (hs : Kept σ s) (column bank : Nat) : Keeps σ (execRefreshDue column bank s) := by
  refine .next (hs.ite ?_)
  split
  · exact hs.setRefresh _ _ _
  · exact hs.setRefresh _ _ _

theorem keeps_execRefreshGraceEnd (hs : Kept σ s) (column bank : Nat) : Keeps σ (execRefreshGraceEnd column bank s) :=
  .next <| hs.ite ((hs.closeRows _ _ _).ite ((hs.closeRows _ _ _).setRefresh _ _ _))

theorem keeps_execRefreshEnd (hs : Kept σ s) (column bank : Nat) : Keeps σ (execRefreshEnd column bank s) := by
  refine .next ?_
  split
  · exact (hs.setRefresh _ _ _).ite hs
  · exact hs

theorem keeps_execOpenLimitReached (hs : Kept σ s) (group slot : Nat) : Keeps σ (execOpenLimitReached group slot s) := by
  refine .next ?_
  split
  · exact hs
  · split
    · exact hs
    · exact (hs.closeRows _ _ _).ite hs

theorem Kept.startEng (hs : Kept σ s) (c : Ctx) (g : Group) (t : Thread) (op : EngOp) (fin : Finish) :
    Kept σ (s.startEng c g t op fin) := hs.bump

theorem Kept.dropEng (hs : Kept σ s) (id : Nat) : Kept σ (s.dropEng id) := hs

theorem Kept.engWrite (hs : Kept σ s) (e : EngCmd) (addr : Nat) (bs : List Byte) : Kept σ (s.engWrite e addr bs) := by
  unfold State.engWrite
  split
  · exact hs
  · split
    · exact hs.write _ _
    · exact hs

theorem Kept.finishEng (hs : Kept σ s) (e : EngCmd) (outcome : Nat) (flags : Flags) : Kept σ (s.finishEng e outcome flags) := by
  have status := (hs.engWrite e e.fin.stat (leBytes 4 (flags.toNat + outcome * 2 ^ 8))).ite (c := e.fin.staten = true) hs
  exact ((status.ite (((status.dataError _ _ _ _ _ _).uncounted _).ite (status.signalAdd _ _ _ _ _ _))).dropEng _).unmark _

theorem Kept.setTile (hs : Kept σ s) (guid i : Nat) (t : Tile) : Kept σ (s.setTile guid i t) := hs.onGroup _ _

theorem keeps_execMx (hs : Kept σ s) (f : LE) : Keeps σ (execMx f s) := by
  refine .next <| hs.engEach fun t c g u ⟨n, pa, use⟩ ht => ?_
  cases use with
  | unused => exact ht.startEng _ _ _ _ _
  | read => exact ht.startEng _ _ _ _ _
  | refill => exact (ht.startEng _ _ _ _ _).acceptTake _ _ _ _ _ _

theorem Kept.runMx (hs : Kept σ s) (e : EngCmd) (g : Group) (p : MxBlk) (stage : List (Nat × List Byte)) (bad : Bool) :
    Kept σ (s.runMx e g p stage bad) :=
  ((hs.setTile _ _ _).finishEng _ _ _).ite (((hs.setTile _ _ _).finishEng _ _ _).ite ((hs.setTile _ _ _).finishEng _ _ _))

theorem keeps_execMxComplete (hs : Kept σ s) (id : Nat) : Keeps σ (execMxComplete id s) := by
  refine .next ?_
  split
  · exact hs
  · split
    · exact hs.runMx _ _ _ _ _
    · exact hs.finishEng _ _ _
    · exact hs

theorem keeps_execAttn (hs : Kept σ s) (f : LE) : Keeps σ (execAttn f s) := by
  refine .next <| hs.engEach fun t c g u x ht => (ht.startEng _ _ _ _ _).foldl fun m k hm => ?_
  dsimp only
  split
  · exact hm.acceptTake _ _ _ _ _ _
  · exact hm

theorem Kept.putRows (hs : Kept σ s) (guid acc d : Nat) (rows : List RowState64) : Kept σ (s.putRows guid acc d rows) :=
  hs.foldl fun _ _ ht => ht.onGroup _ _

theorem Kept.runAttn (hs : Kept σ s) (e : EngCmd) (g : Group) (p : AttnBlk) (ks vs : List (Nat × List Byte)) (bad : Bool) :
    Kept σ (s.runAttn e g p ks vs bad) := ((hs.putRows _ _ _ _).finishEng _ _ _).ite ((hs.putRows _ _ _ _).finishEng _ _ _)

theorem keeps_execAttnStepComplete (hs : Kept σ s) (id : Nat) : Keeps σ (execAttnStepComplete id s) := by
  refine .next ?_
  split
  · exact hs
  · split
    · exact (hs.runAttn _ _ _ _ _ _).ite hs
    · exact (hs.finishEng _ _ _).ite hs
    · exact hs

theorem keeps_execAttnMerge (hs : Kept σ s) (f : LE) : Keeps σ (execAttnMerge f s) :=
  .next <| hs.engEach fun _ _ _ _ _ ht => ht.startEng _ _ _ _ _

theorem Kept.runMerge (hs : Kept σ s) (e : EngCmd) (p : MergeBlk) : Kept σ (s.runMerge e p) :=
  ((hs.engWrite _ _ _).finishEng _ _ _).ite ((hs.engWrite _ _ _).finishEng _ _ _)

theorem keeps_execAttnMergeComplete (hs : Kept σ s) (id : Nat) : Keeps σ (execAttnMergeComplete id s) := by
  refine .next ?_
  split
  · exact hs
  · split
    · exact hs.runMerge _ _
    · exact hs

theorem keeps_execMxdrain (hs : Kept σ s) (f : LE) : Keeps σ (execMxdrain f s) :=
  .next <| hs.engEach fun _ _ _ _ _ ht => ht.startEng _ _ _ _ _

theorem Kept.setOp (hs : Kept σ s) (id : Nat) (op : EngOp) : Kept σ (s.setOp id op) := hs

theorem Kept.drainFault (hs : Kept σ s) (e : EngCmd) (f : FaultSort) (va : Nat) (op : Option Word → List Chunk → Nat → EngOp)
    (owed : List Chunk) (outcome : Nat) : Kept σ (s.drainFault e f va op owed outcome) := by
  cases f with
  | replayable => exact (hs.addFault _).setOp _ _
  | fatal => exact (hs.dueTrap _ _ _ _ _).setOp _ _
  | error => exact (hs.dataError _ _ _ _ _ _).setOp _ _

theorem Kept.landDrain (hs : Kept σ s) (e : EngCmd) (ch : Chunk) (bytes : List Byte) (owed : List Chunk) (outcome : Nat)
    (op : Option Word → List Chunk → Nat → EngOp) (osp : Bool) : Kept σ (s.landDrain e ch bytes owed outcome op osp) := by
  refine (hs.setOp _ _).ite (((hs.write _ _).setOp _ _).ite (hs.ite ((((hs.drainFault _ _ _ _ _ _).uncounted s).unmark _).ite ?_)))
  split
  · exact hs.drainFault _ _ _ _ _ _
  · exact ((hs.dataError _ _ _ _ _ _).setOp _ _).ite ((hs.writePlaces _ _ _ _).setOp _ _)

theorem keeps_execMxdrainChunkLanding (hs : Kept σ s) (id chunk : Nat) : Keeps σ (execMxdrainChunkLanding id chunk s) := by
  refine .next ?_
  split
  · exact hs
  · split
    · split
      · exact hs
      · exact (hs.setOp _ _).ite (hs.landDrain _ _ _ _ _ _ _)
    · exact hs

theorem keeps_execMxdrainComplete (hs : Kept σ s) (id : Nat) : Keeps σ (execMxdrainComplete id s) := by
  refine .next ?_
  split
  · exact hs
  · split
    · exact hs.finishEng _ _ _
    · exact hs

theorem keeps_execCbload (hs : Kept σ s) (f : LCbload) : Keeps σ (execCbload f s) :=
  .next <| hs.engEach fun _ _ _ _ _ ht => ht.startEng _ _ _ _ _

theorem keeps_execCbloadInstall (hs : Kept σ s) (id : Nat) : Keeps σ (execCbloadInstall id s) := by
  refine .next ?_
  split
  · exact hs
  · split
    · refine hs.ite (Kept.ite (((hs.onGroup _ _).dropEng _).unmark _) ?_)
      dsimp only
      split
      · exact (((hs.dataError _ _ _ _ _ _).onGroup _ _).dropEng _).unmark _
      · exact Kept.ite (((((hs.dataError _ _ _ _ _ _).uncounted s).onGroup _ _).dropEng _).unmark _)
          ((((hs.askRun _ _).onGroup _ _).dropEng _).unmark _)
    · exact hs

theorem Kept.enrol (hs : Kept σ s) (t : KvTable) : Kept σ (s.enrol t) := Kept.ite hs (Kept.ite hs hs)

theorem Kept.kvWrite (hs : Kept σ s) (core tenant : Nat) (ws : KvWrites) : Kept σ (s.kvWrite core tenant ws) :=
  hs.foldl fun _ _ ht => (ht.devWrite _ _ _).dropLine _ _ _

theorem Kept.kvReturn (hs : Kept σ s) (q : KvCmd) (r : KvResult) : Kept σ (s.kvReturn q r) := by
  have done := fun f => (hs.onMember q.guid q.tid f).acquire q.core 2
  unfold State.kvReturn
  dsimp only
  split
  · exact ((done _).goOn _ _ _).ite ((done _).onThread _ _ _)
  · exact done _

theorem Kept.dropKv (hs : Kept σ s) (id : Nat) : Kept σ (s.dropKv id) := hs

theorem Kept.kvTrap (hs : Kept σ s) (q : KvCmd) (code : Byte) (va access : Nat) : Kept σ (s.kvTrap q code va access) := by
  have dropped := hs.dropKv q.id
  unfold State.kvTrap
  split
  · exact dropped
  · split
    · exact dropped.wakeTrap _ _ _ _ _ _ _
    · exact dropped

theorem Kept.kvStop (hs : Kept σ s) (q : KvCmd) (e : KvStop) : Kept σ (s.kvStop q e) := by
  unfold State.kvStop
  split
  · exact hs.kvTrap _ _ _ _
  · exact hs
  · exact hs.kvTrap _ _ _ _
  · exact hs.kvTrap _ _ _ _
  · exact hs.addFault _

theorem keeps_execKvTableAction (hs : Kept σ s) (id : Nat) : Keeps σ (execKvTableAction id s) := by
  refine .next ?_
  split
  · exact hs
  · refine hs.ite (((hs.kvTrap _ _ _ _).unmark _).ite ?_)
    split
    · exact hs.kvStop _ _
    · exact (((hs.enrol _).kvWrite _ _ _).kvReturn _ _).dropKv _

theorem Kept.kvIssue (hs : Kept σ s) (form : KvForm) (f : LEk) : Kept σ (s.kvIssue form f) :=
  hs.engEach fun _ _ _ _ _ ht => (ht.bump.withKvs _).await _ _

theorem keeps_execKvfind (hs : Kept σ s) (f : LEk) : Keeps σ (execKvfind f s) := .next (hs.kvIssue _ _)

theorem keeps_execKvins (hs : Kept σ s) (f : LEk) : Keeps σ (execKvins f s) := .next (hs.kvIssue _ _)

theorem keeps_execKvinsSeal (hs : Kept σ s) (f : LEk) : Keeps σ (execKvinsSeal f s) := .next (hs.kvIssue _ _)

theorem keeps_execKvdel (hs : Kept σ s) (f : LEk) : Keeps σ (execKvdel f s) := .next (hs.kvIssue _ _)

theorem keeps_execKvpfx (hs : Kept σ s) (f : LEk) : Keeps σ (execKvpfx f s) := .next (hs.kvIssue _ _)

theorem keeps_execKvpfxIns (hs : Kept σ s) (f : LEk) : Keeps σ (execKvpfxIns f s) := .next (hs.kvIssue _ _)

theorem keeps_execKvpfxDel (hs : Kept σ s) (f : LEk) : Keeps σ (execKvpfxDel f s) := .next (hs.kvIssue _ _)

theorem Kept.rambleRead (hs : Kept σ s) (e : Enrolled) (t : KvTable) (x : KvEntry) : Kept σ (s.rambleRead e t x) := by
  have keep : ∀ l, Kept σ { s with enrolled := l } := fun _ => hs
  unfold State.rambleRead
  dsimp only
  split
  · exact ((keep _).postFault _ _).countError _
  · exact hs
  · exact hs
  · exact hs

theorem Kept.rambleAct (hs : Kept σ s) (x : KvEntry) (r : RamblerRead) : Kept σ (s.rambleAct x r) := (hs.write _ _).ite hs

theorem Kept.nextTurn (hs : Kept σ s) (e : Enrolled) (n : Nat) : Kept σ (s.nextTurn e n) := hs

theorem keeps_execRamblerCheck (hs : Kept σ s) (die : Nat) : Keeps σ (execRamblerCheck die s) := by
  refine .next ?_
  split
  · exact hs
  · dsimp only
    split
    · exact hs
    · exact hs.nextTurn _ _
    · exact (hs.rambleRead _ _ _).ite (hs.nextTurn _ _)
    · exact (hs.rambleAct _ _).nextTurn _ _

theorem Kept.onTenant (hs : Kept σ s) (q : Nat) (f : Tenant → Tenant) : Kept σ (s.onTenant q f) := by
  unfold State.onTenant
  split
  · exact hs.setTenant _ _
  · exact hs

theorem Kept.complete (hs : Kept σ s) (q status : Nat) : Kept σ (s.complete q status) := by
  unfold State.complete
  split
  · exact hs
  · exact ((hs.write _ _).write _ _).setTenant _ _

theorem Kept.cmdWaits (hs : Kept σ s) (q : Nat) (w : CmdWait) : Kept σ (s.cmdWaits q w) := hs.onTenant _ _

theorem Kept.command (hs : Kept σ s) (q op : Nat) (hv : Bool) {act : State → State} (ha : Kept σ (act s)) :
    Kept σ (s.command q op hv act) := by
  unfold State.command
  split
  · exact hs
  · exact hs.ite ((hs.complete _ _).ite ((hs.complete _ _).ite ((hs.complete _ _).ite ha)))

theorem Kept.answerUnknown (hs : Kept σ s) (q : Nat) : Kept σ (s.answerUnknown q) := by
  unfold State.answerUnknown
  split
  · exact hs
  · exact (hs.complete _ _).ite ((hs.complete _ _).ite hs)

theorem keeps_execDoorbellWrite (hs : Kept σ s) (tenant tail : Nat) : Keeps σ (execDoorbellWrite tenant tail s) :=
  .next (hs.onTenant _ _)

theorem keeps_execLaunchCommand (hs : Kept σ s) (q addr : Nat) : Keeps σ (execLaunchCommand q addr s) := by
  refine .next <| hs.command _ _ _ <| hs.ite ?_
  split
  · exact (hs.recordError _ _ _ _ _).complete _ _
  · exact (hs.addLaunch _ _ _ _).complete _ _

theorem Kept.setClock (hs : Kept σ s) (p : Nat × Nat) : Kept σ (s.setClock p) := Kept.ite hs hs

theorem Kept.cutBack (hs : Kept σ s) (watts : Nat) : Kept σ (s.cutBack watts) :=
  (hs.foldl fun _ _ ht => ht.ite (ht.setColumn _ _)).foldl fun _ _ ht => ht.ite (ht.setClock _)

theorem keeps_execBudgetCommand (hs : Kept σ s) (q watts : Nat) : Keeps σ (execBudgetCommand q watts s) := by
  refine .next <| hs.command _ _ _ ?_
  split
  · exact hs.complete _ _
  · next h =>
    have hw : 1800 ≤ watts ∧ watts ≤ 3000 := by omega
    exact ((hs.withBudget hw).complete _ _).ite ((((hs.cutBack _).ite hs).withBudget hw).cmdWaits _ _)

theorem keeps_execBudgetCommandComplete (hs : Kept σ s) (draw : Nat) : Keeps σ (execBudgetCommandComplete draw s) := by
  have drawn : Kept σ { s with draw := draw } := hs
  exact .next <| (drawn.foldl fun _ _ ht => ht.complete _ _).ite (hs.ite drawn)

theorem Kept.clearFaultQueue (hs : Kept σ s) (c : TenantCfg) : Kept σ (s.clearFaultQueue c) := hs.write _ _

theorem keeps_execTenantCreate (hs : Kept σ s) (q id : Nat) (cfg : TenantCfg) : Keeps σ (execTenantCreate q id cfg s) :=
  .next <| hs.command _ _ _ <| hs.ite ((hs.complete _ _).ite (((hs.complete _ _).clearFaultQueue _).setTenant _ _))

theorem keeps_execTenantChange (hs : Kept σ s) (q id : Nat) (cfg : TenantCfg) : Keeps σ (execTenantChange q id cfg s) :=
  .next <| hs.command _ _ _ <| hs.ite ((hs.complete _ _).ite (((hs.complete _ _).clearFaultQueue _).onTenant _ _))

theorem Kept.endTenant (hs : Kept σ s) (id : Nat) : Kept σ (s.endTenant id) := hs

theorem keeps_execTenantDisable (hs : Kept σ s) (q id : Nat) : Keeps σ (execTenantDisable q id s) :=
  .next <| hs.command _ _ _ <| hs.ite ((hs.complete _ _).ite ((hs.complete _ _).endTenant _))

theorem Kept.setEntry2 (hs : Kept σ s) (id gpa : Nat) (e : Dword) : Kept σ (s.setEntry2 id gpa e) := hs.onTenant _ _

theorem Kept.dropTlb (hs : Kept σ s) (tenant : Nat) (p : TlbEntry → Bool) : Kept σ (s.dropTlb tenant p) := hs

theorem Kept.endMapping (hs : Kept σ s) (id gpa : Nat) : Kept σ (s.endMapping id gpa) :=
  ((hs.dropTlb _ _).closeRows _ _ _).ite (hs.dropTlb _ _)

theorem Kept.endEnrolments (hs : Kept σ s) (id : Nat) : Kept σ (s.endEnrolments id) := hs

theorem Kept.awaitDrain (ht : Kept σ t) (s : State) (q tenant : Nat) (hit : Nat → Nat → Nat → Bool) :
    Kept σ (s.awaitDrain q tenant hit t) :=
  ht.cmdWaits _ _

theorem keeps_execMapCommand (hs : Kept σ s) (q id gpa : Nat) (entry : Dword) : Keeps σ (execMapCommand q id gpa entry s) :=
  .next <| hs.command _ _ _ <| hs.ite <| (hs.complete _ _).ite <| (hs.complete _ _).ite <|
    (hs.ite (((hs.endMapping _ _).setEntry2 _ _ _).endEnrolments _)).awaitDrain s _ _ _

theorem keeps_execTranslationDrainComplete (hs : Kept σ s) (q : Nat) : Keeps σ (execTranslationDrainComplete q s) := by
  refine .next ?_
  split
  · exact hs.ite (hs.complete _ _)
  · exact hs

theorem keeps_execInvalidateRange (hs : Kept σ s) (q lo hi : Nat) : Keeps σ (execInvalidateRange q lo hi s) :=
  .next <| hs.command _ _ _ ((hs.dropTlb _ _).awaitDrain s _ _ _)

theorem keeps_execInvalidateAll (hs : Kept σ s) (q : Nat) : Keeps σ (execInvalidateAll q s) :=
  .next <| hs.command _ _ _ ((hs.dropTlb _ _).awaitDrain s _ _ _)

theorem keeps_execZeroCommand (hs : Kept σ s) (q id gpa : Nat) (entry : Dword) : Keeps σ (execZeroCommand q id gpa entry s) :=
  .next <| hs.command _ _ _ <| hs.ite <| (hs.complete _ _).ite <| (hs.complete _ _).ite <|
    (((hs.endMapping _ _).setEntry2 _ _ _).cmdWaits _ _).endEnrolments _

/-- A frame dropped from memory while what its unlisted bytes stand for is set or forgotten. -/
theorem Kept.dropFrame (hs : Kept σ s) (p : Nat) {noisy : SMap FrameBase}
    (hr : risingFrom 0 s.noisy = true → risingFrom 0 noisy = true)
    (hn : risingFrom 0 s.noisy = true → ∀ q, q ≠ p → mget noisy q = mget s.noisy q) :
    Kept σ { s with mem := Machine.memDrop s.mem (p * Config.frameBytes) ((p + 1) * Config.frameBytes), noisy := noisy } where
  mem h := ⟨hr (hs.mem h).1, memDrop_frame_wf (hs.mem h).2 p (hn (hs.mem h).1)⟩
  budget := hs.budget

theorem mget_mdel_other {m : SMap α} (hr : risingFrom 0 m = true) {p q : Nat} (hq : q ≠ p) : mget (mdel m p) q = mget m q := by
  rw [mget_mdel hr, if_neg hq]

theorem Kept.zeroFrame (hs : Kept σ s) (p : Nat) : Kept σ (s.zeroFrame p) :=
  hs.dropFrame p (fun hr => risingFrom_mdel hr p) fun hr _ hq => mget_mdel_other hr hq

theorem keeps_execZeroFillComplete (hs : Kept σ s) (q : Nat) : Keeps σ (execZeroFillComplete q s) := by
  refine .next ?_
  split
  · exact ((hs.zeroFrame _).setEntry2 _ _ _).complete _ _
  · exact hs

theorem Kept.setBase_dropped (hs : Kept σ s) (p : Nat) (f : FrameBase) :
    Kept σ (State.setBase { s with mem := Machine.memDrop s.mem (p * Config.frameBytes) ((p + 1) * Config.frameBytes) } p f) := by
  refine hs.dropFrame p (fun hr => ?_) fun hr q hq => ?_
  · split
    · exact risingFrom_mdel hr p
    · exact risingFrom_mset hr (Nat.zero_le p) f
  · split
    · exact mget_mdel_other hr hq
    · exact mget_mset_other _ _ _ _ hq

theorem Kept.rekey (hs : Kept σ s) (p : Nat) (old new : BitVec 512) : Kept σ (s.rekey p old new) :=
  (hs.setBase_dropped p _).foldl fun _ _ ht => ht.write _ _

theorem keeps_execKeyCommand (hs : Kept σ s) (q slot : Nat) (key : BitVec 512) (lo hi : Nat) :
    Keeps σ (execKeyCommand q slot key lo hi s) :=
  .next <| hs.command _ _ _ <| hs.ite <| (hs.complete _ _).ite <| by
    refine Kept.complete (Kept.foldl ?_ fun _ _ ht => ht.ite (ht.rekey _ _ _)) _ _
    exact hs

theorem Kept.query (hs : Kept σ s) (q item : Nat) (result : State → Tenant → List Byte) : Kept σ (s.query q item result) := by
  unfold State.query
  split
  · exact hs
  · exact hs.ite (hs.command _ _ _ ((hs.complete _ _).ite ((hs.write _ _).complete _ _)))

theorem keeps_execQueryBudget (hs : Kept σ s) (q : Nat) : Keeps σ (execQueryBudget q s) := .next (hs.query _ _ _)

theorem keeps_execQueryCapacity (hs : Kept σ s) (q : Nat) : Keeps σ (execQueryCapacity q s) := .next (hs.query _ _ _)

theorem keeps_execQueryTemperatures (hs : Kept σ s) (q : Nat) : Keeps σ (execQueryTemperatures q s) := .next (hs.query _ _ _)

theorem keeps_execQueryBankMaps (hs : Kept σ s) (q : Nat) : Keeps σ (execQueryBankMaps q s) := .next (hs.query _ _ _)

theorem keeps_execQueryCounters (hs : Kept σ s) (q : Nat) : Keeps σ (execQueryCounters q s) := .next (hs.query _ _ _)

theorem Kept.startRemap (hs : Kept σ s) (q col : Nat) (op : RemapOp) : Kept σ (s.startRemap q col op) :=
  (Kept.setColumn (hs.closeRows _ _ _) _ _).cmdWaits _ _

theorem keeps_execRemapCompleteRetirement (hs : Kept σ s) (q column bank : Nat) :
    Keeps σ (execRemapCompleteRetirement q column bank s) :=
  .next <| hs.command _ _ _ <| (hs.complete _ _).ite <| hs.ite <| (hs.complete _ _).ite (hs.startRemap _ _ _)

theorem keeps_execRemapReadmit (hs : Kept σ s) (q column bank : Nat) : Keeps σ (execRemapReadmit q column bank s) :=
  .next <| hs.command _ _ _ <| (hs.complete _ _).ite <| hs.ite <| (hs.complete _ _).ite (hs.startRemap _ _ _)

theorem Kept.undefFrame (hs : Kept σ s) (p : Nat) : Kept σ (s.undefFrame p) := by
  refine hs.dropFrame p (noisy := if (some s.nextId).isNone ∧ s.framePair p = s.framePair p then mdel (mdel s.noisy p) p
    else mset (mdel s.noisy p) p _) (fun hr => ?_) fun hr q hq => ?_
  · split
    · exact risingFrom_mdel (risingFrom_mdel hr p) p
    · exact risingFrom_mset (risingFrom_mdel hr p) (Nat.zero_le p) _
  · split
    · exact (mget_mdel_other (risingFrom_mdel hr p) hq).trans (mget_mdel_other hr hq)
    · exact (mget_mset_other _ _ _ _ hq).trans (mget_mdel_other hr hq)

theorem Kept.undefFrames (hs : Kept σ s) (p : Nat) : Kept σ (s.undefFrames p) := hs.foldl fun _ _ ht => ht.undefFrame _

theorem keeps_execRemappingStepComplete (hs : Kept σ s) (column : Nat) : Keeps σ (execRemappingStepComplete column s) := by
  refine .next ?_
  split
  · exact hs
  · next op _ _ =>
    cases op with
    | retire => exact (hs.setColumn _ _).complete _ _
    | readmit => exact ((hs.setColumn _ _).undefFrames _).complete _ _

theorem Kept.kvAgain (hs : Kept σ s) (k : KvCmd) : Kept σ (s.kvAgain k) := by
  unfold State.kvAgain
  dsimp only
  split
  · exact (hs.kvTrap _ _ _ _).ite (hs.withKvs _)
  · exact hs.kvStop _ _
  · exact hs

theorem Kept.answerSaved (hs : Kept σ s) (c : Copy) (abort : Bool) : Kept σ (s.answerSaved c abort) := by
  exact ((hs.withSaved _).endCopy _).ite (hs.withSaved _)

theorem Kept.answerCommand (hs : Kept σ s) {q : Nat} {token : Word} {abort : Bool} {u : State}
    (h : s.answerCommand q token abort = some u) :
    Kept σ u := by
  unfold State.answerCommand at h
  split at h
  · injection h with h
    subst h
    exact (hs.endCopy _).ite (hs.withCopies _)
  split at h
  · injection h with h
    subst h
    exact hs.answerSaved _ _
  split at h
  · split at h
    · injection h with h
      subst h
      exact hs.setOp _ _
    · cases h
  split at h
  · injection h with h
    subst h
    exact (hs.kvTrap _ _ _ _).ite (hs.kvAgain _)
  split at h
  · injection h with h
    subst h
    refine Kept.ite ?_ (Kept.doneSignal ?_ _ _) <;> exact hs
  · cases h

theorem Kept.answerThread (hs : Kept σ s) (guid tid : Nat) (p : Point) (va access : Nat) (abort : Bool) :
    Kept σ (s.answerThread guid tid p va access abort) := ((hs.wakeTrap _ _ _ _ _ _).ite (hs.goOn _ _ _)).ite (hs.onMember _ _ _)

theorem Kept.answerFault (hs : Kept σ s) (q : Nat) (token : Word) (abort : Bool) : Kept σ (s.answerFault q token abort) := by
  unfold State.answerFault
  split
  · split
    · next h => exact (hs.answerCommand h).complete _ _
    · exact hs.complete _ _
  · exact (hs.foldl fun _ _ ht => ht.answerThread _ _ _ _ _ _).complete _ _

theorem keeps_execFaultReplay (hs : Kept σ s) (q : Nat) (token : Word) : Keeps σ (execFaultReplay q token s) :=
  .next <| hs.command _ _ _ (hs.answerFault _ _ _)

theorem keeps_execFaultAbort (hs : Kept σ s) (q : Nat) (token : Word) : Keeps σ (execFaultAbort q token s) :=
  .next <| hs.command _ _ _ (hs.answerFault _ _ _)

theorem keeps_execPreemptCommand (hs : Kept σ s) (q group : Nat) : Keeps σ (execPreemptCommand q group s) := by
  refine .next <| hs.command _ _ _ ?_
  split
  · exact hs.complete _ _
  · exact (hs.complete _ _).ite ((hs.complete _ _).ite ((hs.stopGroup _).cmdWaits _ _))

theorem Kept.capacityEvent (hs : Kept σ s) (core : Nat) : Kept σ (s.capacityEvent core) := hs

theorem Kept.failBank (hs : Kept σ s) (p : Nat × Nat) : Kept σ (s.failBank p) := (hs.setColumn _ _).ite hs

theorem keeps_execPowerOnReset (hs : Kept σ s) (lit : Nat) (failed : List (Nat × Nat)) :
    Keeps σ (execPowerOnReset lit failed s) := by
  refine .next <| hs.ite <| Kept.foldl ?_ fun _ _ ht => ht.failBank _
  have up := hs.withBudget (w := 1800) (by decide)
  exact Kept.ite (Kept.foldl up fun _ _ ht => ht.capacityEvent _) up

theorem Kept.outsideError (hs : Kept σ s) (tenant va access : Nat) (ps : List Nat) :
    Kept σ (s.outsideError tenant va access ps) := by
  refine Kept.unmark ?_ _
  split
  · exact (hs.postFault _ _).countErrorAt _
  · exact hs.postFault _ _

theorem Kept.outsideWrite (hs : Kept σ s) (tenant va : Nat) (ps : List Nat) (bs : List Byte) :
    Kept σ (s.outsideWrite tenant va ps bs) := by
  refine (hs.outsideError _ _ _ _).ite ?_
  exact hs.foldl fun _ _ ht => ht.devWrite _ _ _

theorem Kept.reply (hs : Kept σ s) (dest : ReplyTo) (bytes : Option (List Byte)) : Kept σ (s.reply dest bytes) := hs

theorem Kept.outsideRead (hs : Kept σ s) (dest : ReplyTo) (tenant va : Nat) (ps : List Nat) :
    Kept σ (s.outsideRead dest tenant va ps) :=
  ((hs.outsideError _ _ _ _).reply _ _).ite ((hs.askRun _ _).reply _ _)

theorem Kept.hostFault (hs : Kept σ s) (q va n access : Nat) : Kept σ (s.hostFault q va n access) := by
  unfold State.hostFault
  split
  · exact hs.outsideError _ _ _ _
  · exact hs.postFault _ _

theorem keeps_execHostAccess (hs : Kept σ s) (tenant : Option Nat) (va : Nat) (write : Option (List Byte)) (len : Nat) :
    Keeps σ (execHostAccess tenant va write len s) := by
  refine .next <| hs.ite ?_
  split
  · exact hs.outsideWrite _ _ _ _
  · exact hs.outsideRead _ _ _ _
  · exact (hs.hostFault _ _ _ _).ite ((hs.hostFault _ _ _ _).reply _ _)

theorem Kept.dropPacket (hs : Kept σ s) (tenant : Nat) : Kept σ (s.dropPacket tenant) := hs.onTenant _ _

theorem keeps_execFabricLaunchPacket (hs : Kept σ s) (source : FabricSource) (record : BitVec 512) :
    Keeps σ (execFabricLaunchPacket source record s) := by
  refine .next ?_
  dsimp only
  split
  · exact hs
  · refine (hs.dropPacket _).ite ?_
    split
    · exact hs.addLaunch _ _ _ _
    · exact (hs.dropPacket _).postFault _ _

theorem Kept.peerAccess (hs : Kept σ s) (tenant peer gpa : Nat) (op : PeerOp) : Kept σ (s.peerAccess tenant peer gpa op) := by
  unfold State.peerAccess
  split
  · split
    · exact (hs.outsideWrite _ _ _ _).reply _ _
    · exact hs.reply _ _
  · split
    · exact hs.outsideRead _ _ _ _
    · exact hs.reply _ _
  · dsimp only
    split
    · exact hs.reply _ _
    · exact ((hs.outsideError _ _ _ _).reply _ _).ite ((hs.outsideWrite _ _ _ _).reply _ _)

theorem keeps_execFabricPeerAccess (hs : Kept σ s) (tenant peer gpa : Nat) (op : PeerOp) :
    Keeps σ (execFabricPeerAccess tenant peer gpa op s) := .next ((hs.peerAccess _ _ _ _).ite hs)

theorem keeps_execFlitReceive (hs : Kept σ s) (port : Nat) (crcOk : Bool) (tag : Byte) (body : FlitBody) :
    Keeps σ (execFlitReceive port crcOk tag body s) := by
  refine .next (hs.ite ?_)
  split
  · exact hs
  · exact hs

theorem keeps_execRdmaWrite (hs : Kept σ s) (tenant gpa : Nat) (data : List Byte) : Keeps σ (execRdmaWrite tenant gpa data s) := by
  refine .next ?_
  split
  · exact hs.outsideWrite _ _ _ _
  · exact hs

theorem keeps_execRdmaRead (hs : Kept σ s) (tenant gpa len : Nat) : Keeps σ (execRdmaRead tenant gpa len s) := by
  refine .next (hs.ite ?_)
  split
  · exact hs.outsideRead _ _ _ _
  · exact hs.reply _ _

theorem keeps_execRdmaSend (hs : Kept σ s) (port : Nat) (data : List Byte) : Keeps σ (execRdmaSend port data s) := .next (hs.ite hs)

theorem Kept.thermalClose (hs : Kept σ s) (col : Nat) (old : Column) : Kept σ (s.thermalClose col old) := hs.closeRows _ _ _

theorem Kept.heatCore (hs : Kept σ s) (core : Nat) : Kept σ (s.heatCore core) :=
  (hs.ite (Kept.freeRanges (hs.setCore _ _) _)).ite ((hs.setCore _ _).ite hs)

theorem Kept.pendRetirement (hs : Kept σ s) (col bank : Nat) (temporary : Bool) : Kept σ (s.pendRetirement col bank temporary) :=
  hs.ite ((hs.setColumn _ _).withEvents _)

theorem Kept.pendHot (hs : Kept σ s) (col : Nat) : Kept σ (s.pendHot col) := hs.foldl fun _ _ ht => ht.pendRetirement _ _ _

theorem Kept.changeMode (hs : Kept σ s) (col b : Nat) (old : Column) : Kept σ (s.changeMode col b old) := hs.ite (hs.setColumn _ _)

theorem Kept.sampleColumn (hs : Kept σ s) (col : Nat) (ts : List Nat) : Kept σ (s.sampleColumn col ts) := by
  have sampled := hs.setColumn col ((s.column col).sample s.stime ts)
  have closed := fun l => Kept.thermalClose (sampled.foldl (l := l) fun _ b ht => ht.changeMode col b (s.column col)) col (s.column col)
  exact ((Kept.setColumn (closed _) _ _).heatCore _).pendHot _

theorem keeps_execThermalSample (hs : Kept σ s) (temps : List (Nat × List Nat)) : Keeps σ (execThermalSample temps s) :=
  .next <| hs.ite <| (hs.foldl fun _ _ ht => ht.sampleColumn _ _).foldl fun _ _ ht => ht.sampleColumn _ _

theorem keeps_execRepairRetirementPending (hs : Kept σ s) (column bank : Nat) :
    Keeps σ (execRepairRetirementPending column bank s) := .next ((hs.pendRetirement _ _ _).ite hs)

theorem keeps_execPlannedReduction (hs : Kept σ s) (core banks notice : Nat) : Keeps σ (execPlannedReduction core banks notice s) :=
  .next <| hs.ite <| Kept.capacityEvent (hs.setCore _ _) _

theorem Kept.loseRegion (hs : Kept σ s) (core : Nat) (bs : List Nat) (r : Region) : Kept σ (s.loseRegion core bs r) :=
  hs.ite <| ((hs.foldl fun _ _ ht => ht.killRun _ _).foldl fun _ _ ht => ht.loseSpills _ _ _ _ _).foldl fun _ _ ht => ht.trapWaiters _ _ _ _

theorem Kept.darkenRegions (hs : Kept σ s) (core : Nat) (bs : List Nat) : Kept σ (s.darkenRegions core bs) := hs

theorem Kept.darken (hs : Kept σ s) (core : Nat) (bs : List Nat) : Kept σ (s.darken core bs) :=
  Kept.foldl (Kept.darkenRegions (hs.setCore _ _) _ _) fun _ _ ht => ht.loseRegion _ _ _

theorem keeps_execLossPoint (hs : Kept σ s) (core : Nat) : Keeps σ (execLossPoint core s) := .next (hs.ite (hs.darken _ _))

theorem keeps_execThermalEmergency (hs : Kept σ s) (core banks : Nat) : Keeps σ (execThermalEmergency core banks s) :=
  .next (hs.ite (hs.darken _ _))

theorem keeps_execRelight (hs : Kept σ s) (core banks : Nat) : Keeps σ (execRelight core banks s) :=
  .next (hs.ite ((hs.setCore _ _).capacityEvent _))

theorem Kept.setCap (hs : Kept σ s) (p : Nat × Nat) : Kept σ (s.setCap p) := (hs.setColumn _ _).ite hs

theorem keeps_execParasolCapAndClockTrade (hs : Kept σ s) (caps clocks : List (Nat × Nat)) :
    Keeps σ (execParasolCapAndClockTrade caps clocks s) :=
  .next <| (hs.foldl fun _ _ ht => ht.setCap _).foldl fun _ _ ht => ht.setClock _

theorem Kept.cancelCopies (hs : Kept σ s) (g : Group) : Kept σ (s.cancelCopies g) := hs.foldl fun _ _ ht => ht.endCopy _

theorem Kept.saveGroup (hs : Kept σ s) (guid : Nat) : Kept σ (s.saveGroup guid) := by
  unfold State.saveGroup
  split
  · exact hs
  · next g _ =>
    have quiet := ((hs.cancelCopies g).closeRows g.core 3 fun k _ _ => decide (k = guid)).acquire g.core 2
    have saved : ∀ groups saved copies walks, Kept σ { ((s.cancelCopies g).closeRows g.core 3 fun k _ _ => decide (k = guid)).acquire
      g.core 2 with groups := groups, saved := saved, copies := copies, walks := walks } := fun _ _ _ _ => quiet
    exact (saved _ _ _ _).onTenant _ _

theorem Kept.callOff (hs : Kept σ s) (guid : Nat) : Kept σ (s.callOff guid) := hs.foldl fun _ _ ht => ht.onGroup _ _

theorem keeps_execPreemption (hs : Kept σ s) (group : Nat) : Keeps σ (execPreemption group s) := by
  refine .next ?_
  split
  · exact hs
  · exact hs.ite ((hs.callOff _).ite (hs.foldl fun _ _ ht => ht.saveGroup _))

theorem Kept.restore (hs : Kept σ s) (v : Saved) (core : Nat) : Kept σ (s.restore v core) := by
  unfold State.restore
  split
  · exact hs
  · refine Kept.onTenant ?_ _ _
    exact ((hs.firstOnCore _ _).dropCluster _).foldl fun _ _ ht => ht.write _ _

theorem Kept.recheckWaiter (hs : Kept σ s) (guid : Nat) (w : Nat × Nat × Nat × Point × Nat) : Kept σ (s.recheckWaiter guid w) := by
  obtain ⟨k, tid, j, p, i⟩ := w
  unfold State.recheckWaiter
  cases s.group guid
  · exact hs
  · refine hs.ite ?_
    split
    · exact hs
    · exact hs.wakeTrap _ _ _ _ _ _ _
    · exact hs.wakeTrap _ _ _ _ _ _ _

theorem Kept.damaged (hs : Kept σ s) (v : Saved) : Kept σ (s.damaged v) := by
  refine Kept.launchCheck (Kept.onTenant ?_ _ _) _
  exact ((hs.addFault _).foldl fun _ _ ht => ht.sendGone _ _ _).foldl fun _ _ ht => ht.freeRun _ _

theorem keeps_execResumption (hs : Kept σ s) (saved core : Nat) (crcOk : Bool) : Keeps σ (execResumption saved core crcOk s) :=
  .next <| hs.ite <| Kept.ite
    ((hs.foldl fun _ _ ht => ht.restore _ _).foldl fun _ _ ht => ht.foldl fun _ _ hu => hu.recheckWaiter _ _)
    (hs.ite (hs.foldl fun _ _ ht => ht.damaged _))

theorem keeps_execHangReport (hs : Kept σ s) (group : Nat) : Keeps σ (execHangReport group s) := by
  refine .next ?_
  split
  · exact hs
  · split
    · exact hs
    · exact (hs.postFault _ _).onGroup _ _

theorem Kept.dropWalk (hs : Kept σ s) (w : Walk) : Kept σ (s.dropWalk w) := hs

theorem Kept.leavePacket (hs : Kept σ s) (w : Walk) : Kept σ (s.leavePacket w) := hs

theorem Kept.walkFault (hs : Kept σ s) (w : Walk) : Kept σ (s.walkFault w) :=
  (((hs.addFault _).dropWalk _).leavePacket _).onGroup _ _

theorem Kept.walkTrap (hs : Kept σ s) (w : Walk) (code : Byte) (tid : Nat) : Kept σ (s.walkTrap w code tid) :=
  ((hs.wake _ _ _).dueNow _ _ _ _ _).ite (hs.takeTrap _ _ _ _ _ _ _ _)

theorem Kept.walkFatal (hs : Kept σ s) (w : Walk) (t : Thread) (code : Byte) : Kept σ (s.walkFatal w t code) :=
  ((hs.dropWalk _).wake _ _ _).ite (((hs.dropWalk _).leavePacket _).foldl fun _ _ ht => ht.walkTrap _ _ _)

theorem Kept.walkPage (hs : Kept σ s) (w : Walk) (t : Thread) (e : TlbEntry) : Kept σ (s.walkPage w t e) :=
  (((hs.dropWalk _).setCore _ _).wake _ _ _).ite ((hs.dropWalk _).setCore _ _)

theorem keeps_execTranslationWalk (hs : Kept σ s) (id : Nat) : Keeps σ (execTranslationWalk id s) := by
  refine .next ?_
  split
  · exact hs
  · refine hs.ite ?_
    split
    · exact hs.dropWalk _
    · refine (hs.dropWalk _).ite <| (((hs.walkFatal _ _ _).uncounted s).unmark _).ite ?_
      have sent := fun tenant ps => hs.askRun tenant ps
      dsimp only
      split
      · exact (sent _ _).walkPage _ _ _
      · exact (sent _ _).walkFatal _ _ _
      · exact (sent _ _).walkFatal _ _ _
      · exact ((sent _ _).walkFault _).ite hs

theorem Kept.toRing (hs : Kept σ s) (e : FaultEntry) : Kept σ (s.toRing e) := by
  unfold State.toRing
  split
  · exact hs
  · exact ((hs.write _ _).write _ _).setTenant _ _

theorem keeps_execFaultEntryTransfer (hs : Kept σ s) (die : Nat) : Keeps σ (execFaultEntryTransfer die s) := by
  refine .next ?_
  split
  · exact hs
  · exact (hs.withDieQ _).toRing _

theorem Kept.cache (hs : Kept σ s) (g : Group) (pc : Nat) (bs : List Byte) : Kept σ (s.cache g pc bs) := hs.ite (hs.setCore _ _)

theorem Kept.fetched (hs : Kept σ s) (g : Group) (pc : Nat) (bs : List Byte) : Kept σ (s.fetched g pc bs) :=
  (hs.askRun _ _).cache _ _ _

theorem Kept.gatherCore (hs : Kept σ s) (core : Nat) : Kept σ (s.gatherCore core) := hs

theorem keeps_execMergeTick (hs : Kept σ s) (core : Nat) : Keeps σ (execMergeTick core s) := .next (hs.ite hs)

theorem Kept.countGroups (hs : Kept σ s) (slot chosen : Nat) (cs : List (Nat × Group × List Entry)) :
    Kept σ (s.countGroups slot chosen cs) :=
  hs.foldl fun _ _ ht => ht.onGroup _ _

theorem Kept.occupySlot (hs : Kept σ s) (core slot : Nat) : Kept σ (s.occupySlot core slot) := hs.setCore _ _

theorem Kept.takeDue (hs : Kept σ s) (guid tid : Nat) : Kept σ (s.takeDue guid tid) := by
  unfold State.takeDue
  split
  · exact hs
  · split
    · exact hs
    · exact (hs.onThread _ _ _).takeTrap _ _ _ _ _ _ _ _

theorem Kept.beginDue (hs : Kept σ s) (guid : Nat) (b : Bundle) (due : List Nat) : Kept σ (s.beginDue guid b due) :=
  (hs.onGroup _ _).foldl fun _ _ ht => ht.takeDue _ _

theorem Kept.fetchWalks (hs : Kept σ s) (guid : Nat) (g : Group) (tids : List Nat) (va : Nat) (p : Point) :
    Kept σ (s.fetchWalks guid g tids va p) :=
  hs.foldl fun _ _ ht => ht.startWalk _ _ _ _ _ _ _

theorem Kept.begin (hs : Kept σ s) (guid : Nat) (b : Bundle) : Kept σ (s.begin guid b) := by
  unfold State.begin
  split
  · exact hs
  · split
    · exact hs
    · refine ((hs.beginDue _ _ _).occupySlot _ _).ite ?_
      have taken := fun f core slot => (hs.onGroup guid f).occupySlot core slot
      split
      · exact ((taken _ _ _).fetched _ _ _).withCur _
      · exact (hs.occupySlot _ _).fetchWalks _ _ _ _ _
      · exact ((taken _ _ _).foldl fun _ _ ht => ht.takeTrap _ _ _ _ _ _ _ _).unmark _

theorem Kept.serve (hs : Kept σ s) (slot : Nat) (c : Nat × Group × List Entry) : Kept σ (s.serve slot c) := by
  unfold State.serve
  split
  · exact hs
  · split
    · exact hs
    · exact (hs.onGroup _ _).begin _ _

theorem Kept.endHoldsOn (hs : Kept σ s) (core slot : Nat) : Kept σ (s.endHoldsOn core slot) := hs

theorem keeps_execIssueSlotSelect (hs : Kept σ s) (core slot : Nat) : Keeps σ (execIssueSlotSelect core slot s) := by
  refine .next <| hs.ite ?_
  have ready := (hs.gatherCore core).endHoldsOn core slot
  dsimp only
  split
  · exact ready
  · exact (ready.countGroups _ _ _).serve _ _

theorem Kept.markIssued (hs : Kept σ s) (c : Ctx) : Kept σ (s.markIssued c) := hs.onGroup _ _

theorem Kept.charge (hs : Kept σ s) (c : Ctx) (is : List Instr) : Kept σ (s.charge c is) :=
  ((hs.occupySlot _ _).setCore _ _).ite (hs.occupySlot _ _)

theorem Kept.yieldHolds (hs : Kept σ s) (c : Ctx) (ps : List Point) : Kept σ (s.yieldHolds c ps) := by
  unfold State.yieldHolds
  split
  · exact hs
  · exact hs.onGroup _ _

theorem Kept.beginConsumer (hs : Kept σ s) (c : Ctx) (tids : List Nat) : Kept σ (s.beginConsumer c tids) := by
  unfold State.beginConsumer
  split
  · exact hs
  · dsimp only
    split
    · exact ((hs.fetched _ _ _).onGroup _ _).withPackets _
    · exact (hs.onGroup _ _).fetchWalks _ _ _ _ _
    · exact (hs.foldl fun _ _ ht => ht.takeTrap _ _ _ _ _ _ _ _).unmark _

theorem Kept.endPacket (hs : Kept σ s) (c : Ctx) (tids : List Nat) : Kept σ (s.endPacket c tids) :=
  ((hs.onGroup _ _).yieldHolds _ _).ite (hs.onGroup _ _)

theorem Kept.afterIssue (hs : Kept σ s) : Kept σ s.afterIssue := by
  unfold State.afterIssue
  split
  · exact hs
  · next c _ =>
    have tidied := (hs.withCur none).onGroup c.guid Group.tidy
    have moved := (hs.withCur none).ite (c := c.moves.isEmpty ∧ c.after < 3) (hs.withCur none)
    refine ((tidied.yieldHolds _ _).ite tidied).ite ?_
    dsimp only
    split
    · exact hs
    · exact ((hs.withCur none).beginConsumer _ _).ite ((hs.withCur none).endPacket _ _)

theorem Kept.dropFailed (hs : Kept σ s) : Kept σ s.dropFailed := hs.onCur _

theorem Keeps.runWords {ex : Instr → State → Out} (hex : ∀ i t, Kept σ t → Keeps σ (ex i t)) (is : List (Nat × Instr))
    (hs : Kept σ s) :
    Keeps σ (runWords ex is s) := by
  induction is generalizing s with
  | nil => exact .next hs
  | cons x is ih => exact (hex _ _ (hs.onCur _)).andThen fun _ ht => ih ht.dropFailed

theorem Kept.settleSld (hs : Kept σ s) (is : List (Nat × Instr)) (n : Nat) : Kept σ (s.settleSld is n) := by
  unfold State.settleSld
  split
  · exact (hs.onCur _).sloadsNow _
  · exact hs

theorem Keeps.runChained {ex : Instr → State → Out} (hex : ∀ i t, Kept σ t → Keeps σ (ex i t)) (is : List (Nat × Instr)) (n : Nat)
    (f : Failed)
    (hs : Kept σ s) : Keeps σ (runChained ex is n s f) := by
  induction n generalizing s f with
  | zero => exact .next hs
  | succ n ih =>
    refine (Keeps.runWords hex is hs).andThen fun t ht => ?_
    have settled := (ht.settleSld is s.nextId).ite (c := t.missed.isEmpty) ht
    exact .ite (.next settled) <| .ite (.next (settled.onCur _)) <| .ite (.next ((hs.onCur _).onCur _)) (ih _ (hs.onCur _))

theorem Kept.settleChained (hs : Kept σ s) (c0 : Ctx) : Kept σ (s.settleChained c0) := by
  unfold State.settleChained
  split
  · exact hs
  · refine Kept.foldl (Kept.foldl (hs.foldl fun _ _ ht => ht.onGroup _ _) fun t w ht => ?_) fun _ _ ht =>
      (ht.takeTrap _ _ _ _ _ _ _ _).reported _ _ _
    dsimp only
    split
    · refine ht.ite ?_
      split
      · exact ht.onThread _ _ _
      · exact (ht.onThread _ _ _).onGroup _ _
    · exact ht

theorem Kept.gatherMid (hs : Kept σ s) (c : Ctx) (quad : Bool) (tids : List Nat) : Kept σ (s.gatherMid c quad tids) :=
  hs.foldl fun _ _ ht => ht.onGroup _ _

theorem Kept.suspend (hs : Kept σ s) (c : Ctx) (g : Group) (ms : List (Nat × Nat × Nat × List Nat)) :
    Kept σ (s.suspend c g ms) := by
  unfold State.suspend
  have walked := (hs.withCur none).foldl (l := ms) (f := fun s m =>
    s.startWalk c.guid m.1 g m.2.1 m.2.2.1 (c.restart (s.pointBefore c m.1).prio) m.2.2.2) fun _ _ ht => ht.startWalk _ _ _ _ _ _ _
  dsimp only
  split
  · exact walked.onGroup _ _
  · exact walked.withPackets _

theorem Kept.orSuspend (hs : Kept σ s) (c : Ctx) (g : Group) {k : State → State} (ht : Kept σ (k t)) :
    Kept σ (t.orSuspend s c g k) :=
  ht.ite (hs.suspend _ _ _)

theorem Kept.readsDone (ht : Kept σ t) (s : State) (c : Ctx) (g : Group) (is : List Instr) : Kept σ (t.readsDone s c g is) :=
  ht.ite ((ht.askRun _ _).unmark _)

theorem Keeps.makeIssue {ex : Instr → State → Out} (hex : ∀ i t, Kept σ t → Keeps σ (ex i t)) (hs : Kept σ s) (c : Ctx) (g : Group)
    (r : ReadIssue) : Keeps σ (State.makeIssue ex s c g r) := by
  unfold State.makeIssue
  split
  · exact (hex _ _ hs).andThen fun _ ht => .next <| hs.orSuspend _ _ ((((ht.readsDone s _ _ _).markIssued _).charge _ _).afterIssue)
  · exact (Keeps.runChained hex _ _ _ hs).andThen fun _ ht =>
      .next <| hs.orSuspend _ _ (((((ht.settleChained _).readsDone s _ _ _).markIssued _).charge _ _).afterIssue)

theorem Keeps.breach {ex : Instr → State → Out} (hex : ∀ i t, Kept σ t → Keeps σ (ex i t)) (hs : Kept σ s) (c : Ctx) (g : Group)
    (r : ReadIssue) (word : Nat) (code : Byte) : Keeps σ (State.breach ex s c g r word code) := by
  have cur : ∀ x, Kept σ { s with cur := x } := fun _ => hs
  exact (Keeps.runWords hex _ (cur _)).andThen fun _ _ => (Keeps.runWords hex _ (cur _)).andThen fun _ _ =>
    .next <| hs.orSuspend _ _ ((((cur _).settleChained _).markIssued _).charge _ _).afterIssue

/-- The reading of the issue stands as a variable while the issue is split, so that the kernel does not evaluate it. -/
theorem Keeps.runIssueWith {ex : Instr → State → Out} (hex : ∀ i t, Kept σ t → Keeps σ (ex i t)) (hs : Kept σ s) :
    Keeps σ (runIssueWith ex s) := by
  obtain ⟨parse, hp⟩ : ∃ f, f = Ctx.parse := ⟨_, rfl⟩
  rw [Machine.runIssueWith]
  rw [← hp]
  split
  · exact .next hs
  · split
    · exact .next hs
    · extract_lets tids
      split
      · exact .breach hex hs _ _ _ _ _
      · exact .ite (.next (((hs.gatherMid _ _ _).withCur _).onGroup _ _)) (.makeIssue hex ((hs.gatherMid _ _ _).withCur _) _ _ _)

theorem Kept.continue_ (hs : Kept σ s) (c : Ctx) : Kept σ (s.continue_ c) := hs

theorem Kept.debugOn (hs : Kept σ s) (q guid : Nat) {act : State → Group → State} (ha : ∀ g, Kept σ (act s g)) :
    Kept σ (s.debugOn q guid act) := by
  refine hs.command _ _ _ ?_
  split
  · exact hs.complete _ _
  · exact (hs.complete _ _).ite (ha _)

theorem Kept.debugHalted (hs : Kept σ s) (q guid : Nat) {act : State → Group → State} (ha : ∀ g, Kept σ (act s g)) :
    Kept σ (s.debugHalted q guid act) :=
  hs.debugOn _ _ fun g => (hs.complete _ _).ite ((ha g).ite hs)

theorem keeps_execDebugHalt (hs : Kept σ s) (q group : Nat) : Keeps σ (execDebugHalt q group s) :=
  .next <| hs.debugOn _ _ fun _ => ((hs.onGroup _ _).complete _ _).ite (hs.onGroup _ _)

theorem keeps_execDebugResume (hs : Kept σ s) (q group : Nat) : Keeps σ (execDebugResume q group s) :=
  .next <| hs.debugHalted _ _ fun _ => (hs.onGroup _ _).complete _ _

theorem Kept.stepWait (hs : Kept σ s) (q guid : Nat) (tid : Option Nat) (begun : Bool) : Kept σ (s.stepWait q guid tid begun) :=
  hs.onTenant _ _

theorem Kept.stepBundle (hs : Kept σ s) (q guid : Nat) (tid : Option Nat) (g : Group) (b : Bundle) (f : Group → Group) :
    Kept σ (s.stepBundle q guid tid g b f) := by
  unfold State.stepBundle
  split
  · exact hs.complete _ _
  · refine (hs.stepWait _ _ _ _).ite ?_
    split
    · exact (hs.stepWait _ _ _ _).fetchWalks _ _ _ _ _
    · exact ((hs.stepWait _ _ _ _).onGroup _ _).begin _ _

theorem Kept.stepGroup (hs : Kept σ s) (q guid : Nat) (g : Group) : Kept σ (s.stepGroup q guid g) := by
  unfold State.stepGroup
  dsimp only
  split
  · exact (hs.setGroup _ _).complete _ _
  · exact (hs.setGroup _ _).stepBundle _ _ _ _ _ _

theorem Kept.stepThread (hs : Kept σ s) (q guid : Nat) (g : Group) (tid : Nat) : Kept σ (s.stepThread q guid g tid) := by
  unfold State.stepThread
  split
  · exact hs.complete _ _
  · exact (hs.complete _ _).ite (hs.stepBundle _ _ _ _ _ _)

theorem Kept.tryStep (hs : Kept σ s) (q guid : Nat) (tid : Option Nat) : Kept σ (s.tryStep q guid tid) := by
  unfold State.tryStep
  split
  · exact hs.complete _ _
  · refine (hs.stepWait _ _ _ _).ite ?_
    split
    · exact hs.stepGroup _ _ _
    · exact hs.stepThread _ _ _ _

theorem Kept.pollStep (hs : Kept σ s) (q : Nat) : Kept σ (s.pollStep q) := by
  unfold State.pollStep
  split
  · exact (hs.complete _ _).ite hs
  · exact hs.tryStep _ _ _
  · exact hs

theorem keeps_execDebugSingleStep (hs : Kept σ s) (q group : Nat) : Keeps σ (execDebugSingleStep q group s) :=
  .next <| hs.debugHalted _ _ fun _ => hs.tryStep _ _ _

theorem keeps_execDebugThreadStep (hs : Kept σ s) (q group tid : Nat) : Keeps σ (execDebugThreadStep q group tid s) :=
  .next <| hs.debugHalted _ _ fun _ => hs.tryStep _ _ _

theorem Kept.setRun (hs : Kept σ s) (guid : Nat) (g : Group) (t : Thread) (v : Nat) : Kept σ (s.setRun guid g t v) := by
  unfold State.setRun
  split
  · exact hs
  · exact hs.onGroup _ _
  · exact hs
  · exact hs.onGroup _ _
  · exact hs.onGroup _ _
  · exact hs
  · exact hs.onThread _ _ _
  · exact hs.exitNow _ _
  · exact hs
  · exact hs.onThread _ _ _
  · exact (hs.exitNow _ _).onThread _ _ _

theorem Kept.writeItem (hs : Kept σ s) (guid : Nat) (g : Group) (tid : Nat) (item : CtxItem) (v : Dword) :
    Kept σ (s.writeItem guid g tid item v) := by
  unfold State.writeItem
  split
  · exact hs.setRun _ _ _ _
  · exact hs.onGroup _ _

theorem keeps_execDebugReadContext (hs : Kept σ s) (q group tid : Nat) (item : CtxItem) :
    Keeps σ (execDebugReadContext q group tid item s) := by
  refine .next <| hs.debugHalted _ _ fun g => ?_
  split
  · exact hs.complete _ _
  · refine Kept.complete ?_ _ _
    exact hs

theorem keeps_execDebugWriteContext (hs : Kept σ s) (q group tid : Nat) (item : CtxItem) (value : Dword) :
    Keeps σ (execDebugWriteContext q group tid item value s) :=
  .next <| hs.debugHalted _ _ fun _ => (hs.complete _ _).ite ((hs.writeItem _ _ _ _ _).complete _ _)

theorem keeps_execFadd (hs : Kept σ s) (f : LA) : Keeps σ (execFadd f s) := .next (hs.fpAlu _ _ _)

theorem keeps_execFmul (hs : Kept σ s) (f : LA) : Keeps σ (execFmul f s) := .next (hs.fpAlu _ _ _)

theorem keeps_execFfma (hs : Kept σ s) (f : LA) : Keeps σ (execFfma f s) := .next (hs.fpAlu _ _ _)

theorem keeps_execFmin (hs : Kept σ s) (f : LA) : Keeps σ (execFmin f s) := .next (hs.aluLA _ _)

theorem keeps_execFmax (hs : Kept σ s) (f : LA) : Keeps σ (execFmax f s) := .next (hs.aluLA _ _)

theorem keeps_execFcmp (hs : Kept σ s) (f : LAc) : Keeps σ (execFcmp f s) := .next (hs.lanes _)

theorem keeps_execFrnd (hs : Kept σ s) (f : LFrnd) : Keeps σ (execFrnd f s) := .next (hs.fpLane _ _)

theorem keeps_execFexp2 (hs : Kept σ s) (f : LA2) : Keeps σ (execFexp2 f s) := .next (hs.fpLane _ _)

theorem keeps_execFlog2 (hs : Kept σ s) (f : LA2) : Keeps σ (execFlog2 f s) := .next (hs.fpLane _ _)

theorem keeps_execFrcp (hs : Kept σ s) (f : LA2) : Keeps σ (execFrcp f s) := .next (hs.fpLane _ _)

theorem keeps_execFrsq (hs : Kept σ s) (f : LA2) : Keeps σ (execFrsq f s) := .next (hs.fpLane _ _)

theorem keeps_execFsqrt (hs : Kept σ s) (f : LA2) : Keeps σ (execFsqrt f s) := .next (hs.fpLane _ _)

theorem keeps_execCvt (hs : Kept σ s) (f : LV) : Keeps σ (execCvt f s) := .next (hs.fpLane _ _)

theorem keeps_execCvtp (hs : Kept σ s) (f : LV) : Keeps σ (execCvtp f s) := .next (hs.fpLane _ _)

theorem keeps_execPaddBf16 (hs : Kept σ s) (f : LA) : Keeps σ (execPaddBf16 f s) := .next (hs.packedLA _ _)

theorem keeps_execPaddF16 (hs : Kept σ s) (f : LA) : Keeps σ (execPaddF16 f s) := .next (hs.packedLA _ _)

theorem keeps_execPmulBf16 (hs : Kept σ s) (f : LA) : Keeps σ (execPmulBf16 f s) := .next (hs.packedLA _ _)

theorem keeps_execPmulF16 (hs : Kept σ s) (f : LA) : Keeps σ (execPmulF16 f s) := .next (hs.packedLA _ _)

theorem keeps_execPfmaBf16 (hs : Kept σ s) (f : LA) : Keeps σ (execPfmaBf16 f s) := .next (hs.packedLA _ _)

theorem keeps_execPfmaF16 (hs : Kept σ s) (f : LA) : Keeps σ (execPfmaF16 f s) := .next (hs.packedLA _ _)

theorem keeps_execDp4 (hs : Kept σ s) (f : LDp4) : Keeps σ (execDp4 f s) := .next (hs.fpAlu _ _ _)

theorem keeps_execDp8 (hs : Kept σ s) (f : LA) : Keeps σ (execDp8 f s) := .next (hs.fpAlu _ _ _)

theorem Kept.setSlot (hs : Kept σ s) (core i : Nat) (x : SyncSlot) : Kept σ (s.setSlot core i x) := hs.setCore _ _

theorem Kept.setNamed (hs : Kept σ s) (h : Word) (y : Option SyncGroup) : Kept σ (s.setNamed h y) := hs.setSlot _ _ _

theorem Kept.deliver (hs : Kept σ s) (guid tid h : Nat) (result status : Word) : Kept σ (s.deliver guid tid h result status) := by
  unfold State.deliver
  split
  · exact (hs.onMember _ _ _).dropCluster _
  · exact hs.onMember _ _ _

theorem Kept.settleGroup (hs : Kept σ s) (h : Word) (y : SyncGroup) (todo : List Arrival) : Kept σ (s.settleGroup h y todo) := by
  unfold State.settleGroup
  split
  exact (hs.setNamed _ _).foldl fun _ _ ht => ht.deliver _ _ _ _ _

theorem Kept.dissolve (hs : Kept σ s) (h : Word) (y : SyncGroup) : Kept σ (s.dissolve h y) := by
  refine (hs.setNamed h none).foldl fun t m ht => ?_
  split
  · exact ht
  · exact ((ht.deliver _ _ _ _ _).onMember _ _ _).ite ht

theorem Kept.depart (hs : Kept σ s) (h : Word) (y : SyncGroup) (m : Member) : Kept σ (s.depart h y m) :=
  (hs.dissolve _ _).ite (hs.settleGroup _ _ _)

theorem Kept.ack (hs : Kept σ s) (m : HMsg) (f : Thread → Thread) : Kept σ (s.ack m f) := by
  unfold State.ack
  split
  · split
    · exact ((hs.onThread _ _ _).goOn _ _ _).ite hs
    · exact hs
  · exact hs

theorem Kept.waitOn (hs : Kept σ s) (m : HMsg) (h : Nat) (dest : HDest) : Kept σ (s.waitOn m h dest) := hs.onThread _ _ _

theorem Kept.nack (hs : Kept σ s) (m : HMsg) (code : Byte) (tval : Dword) (which : Nat) : Kept σ (s.nack m code tval which) := by
  unfold State.nack
  split
  · split
    · exact (hs.wakeTrap _ _ _ _ _ _).ite hs
    · exact hs
  · exact hs

theorem Kept.applyCreate (hs : Kept σ s) (m : HMsg) (h : Nat) (d : Code) (pd : Pred) (spill cap : Nat) :
    Kept σ (s.applyCreate m h d pd spill cap) := by
  unfold State.applyCreate
  split
  · exact hs
  · refine (hs.nack _ _ _ _).ite ?_
    split
    · exact hs.ack _ _
    · exact (hs.setSlot _ _ _).ack _ _

theorem Kept.applyJoin (hs : Kept σ s) (m : HMsg) (h : Nat) : Kept σ (s.applyJoin m h) := by
  unfold State.applyJoin
  split
  · split
    · exact hs.nack _ _ _ _
    · exact (hs.nack _ _ _ _).ite <| (hs.nack _ _ _ _).ite <| (hs.nack _ _ _ _).ite <| (hs.nack _ _ _ _).ite <|
        hs.ite ((hs.setNamed _ _).ack _ _)
  · exact hs

theorem Kept.applyMember (hs : Kept σ s) (m : HMsg) (y : SyncGroup) (q : Member) : Kept σ (s.applyMember m y q) := by
  unfold State.applyMember
  split
  · exact (hs.depart _ _ _).ack _ _
  · have arrived := fun f h a => (hs.onThread m.guid m.tid f).settleGroup h y a
    dsimp only
    split
    · exact (arrived _ _ _).waitOn _ _ _
    · exact (arrived _ _ _).ack _ _
  · split
    · exact hs.waitOn _ _ _
    · exact hs
  · exact hs.ack _ _
  · exact (hs.dissolve _ _).ack _ _
  · exact hs.depart _ _ _
  · exact hs
  · exact hs

theorem Kept.applyMsg (hs : Kept σ s) (m : HMsg) : Kept σ (s.applyMsg m) := by
  unfold State.applyMsg
  split
  · exact hs.applyCreate _ _ _ _ _ _
  · exact hs.applyJoin _ _
  · split
    · exact hs.nack _ _ _ _
    · split
      · exact hs.nack _ _ _ _
      · exact hs.applyMember _ _ _

theorem keeps_execHMessageApply (hs : Kept σ s) (id : Nat) : Keeps σ (execHMessageApply id s) := by
  unfold execHMessageApply
  split
  · exact .next hs
  · exact .ite (.next ((hs.withHmsgs _).applyMsg _)) (.next hs)

theorem Kept.send (hs : Kept σ s) (c : Ctx) (tid home : Nat) (handle : Word) (op : HOp) (then_ : Option HDest) :
    Kept σ (s.send c tid home handle op then_) := (hs.await _ _).ite ((hs.bump.withHmsgs _).await _ _)

theorem Kept.sendBy (hs : Kept σ s) (c : Ctx) (t : Thread) (h : Nat) (op : HOp) (then_ : Option HDest) :
    Kept σ (s.sendBy c t h op then_) := (hs.raise _ _ _ _ _ _).ite (hs.send _ _ _ _ _ _)

theorem keeps_execHcreate (hs : Kept σ s) (f : LHcreate) : Keeps σ (execHcreate f s) :=
  .next <| hs.eachActive fun _ _ _ _ ht =>
    (ht.illegal _ _).ite <| (ht.raise _ _ _ _ _ _).ite <| (ht.raise _ _ _ _ _ _).ite (ht.send _ _ _ _ _ _)

theorem keeps_execHjoin (hs : Kept σ s) (f : LHb) : Keeps σ (execHjoin f s) :=
  .next <| hs.eachActive fun _ _ _ _ ht => (ht.raise _ _ _ _ _ _).ite (ht.send _ _ _ _ _ _)

theorem keeps_execHleave (hs : Kept σ s) (h : BitVec 3) : Keeps σ (execHleave h s) :=
  .next <| hs.eachActive fun _ _ _ _ ht => ht.sendBy _ _ _ _ _

theorem keeps_execHbar (hs : Kept σ s) (f : LHd) : Keeps σ (execHbar f s) :=
  .next <| hs.eachActive fun _ _ _ _ ht => ht.sendBy _ _ _ _ _

theorem keeps_execHarr (hs : Kept σ s) (f : LHarr) : Keeps σ (execHarr f s) :=
  .next <| hs.eachActive fun _ _ _ _ ht => ht.sendBy _ _ _ _ _

theorem keeps_execHwait (hs : Kept σ s) (f : LHd) : Keeps σ (execHwait f s) := by
  refine .next <| hs.eachActive fun _ _ _ _ ht => ?_
  split
  · exact ht.raise _ _ _ _ _ _
  · exact ht.sendBy _ _ _ _ _

theorem keeps_execHvote (hs : Kept σ s) (f : LHkdb) : Keeps σ (execHvote f s) :=
  .next <| hs.eachActive fun _ _ _ _ ht => ht.sendBy _ _ _ _ _

theorem keeps_execHred (hs : Kept σ s) (f : LHkdb) : Keeps σ (execHred f s) :=
  .next <| hs.eachActive fun _ _ _ _ ht => ht.sendBy _ _ _ _ _

theorem keeps_execHquery (hs : Kept σ s) (f : LHd) : Keeps σ (execHquery f s) :=
  .next <| hs.eachActive fun _ _ _ _ ht => ht.sendBy _ _ _ _ _

theorem keeps_execHqueryHdl (hs : Kept σ s) (f : LHd) : Keeps σ (execHqueryHdl f s) := .next (hs.lanes _)

theorem keeps_execHdiss (hs : Kept σ s) (h : BitVec 3) : Keeps σ (execHdiss h s) :=
  .next <| hs.eachActive fun _ _ _ _ ht => ht.sendBy _ _ _ _ _

theorem Kept.setUni (hs : Kept σ s) (d : Code) (f : Ctx → Group → Dword) : Kept σ (s.setUni d f) :=
  hs.issue fun _ _ => hs.setGroup _ _

theorem Kept.uniLA (hs : Kept σ s) (f : LAu) (op : Dword → Dword → Dword) : Kept σ (s.uniLA f op) := hs.setUni _ _

theorem keeps_execSadd (hs : Kept σ s) (f : LAu) : Keeps σ (execSadd f s) := .next (hs.uniLA _ _)

theorem keeps_execSsub (hs : Kept σ s) (f : LAu) : Keeps σ (execSsub f s) := .next (hs.uniLA _ _)

theorem keeps_execSmul (hs : Kept σ s) (f : LAu) : Keeps σ (execSmul f s) := .next (hs.uniLA _ _)

theorem keeps_execSand (hs : Kept σ s) (f : LAu) : Keeps σ (execSand f s) := .next (hs.uniLA _ _)

theorem keeps_execSor (hs : Kept σ s) (f : LAu) : Keeps σ (execSor f s) := .next (hs.uniLA _ _)

theorem keeps_execSxor (hs : Kept σ s) (f : LAu) : Keeps σ (execSxor f s) := .next (hs.uniLA _ _)

theorem keeps_execSshl (hs : Kept σ s) (f : LAu) : Keeps σ (execSshl f s) := .next (hs.uniLA _ _)

theorem keeps_execSshr (hs : Kept σ s) (f : LAu) : Keeps σ (execSshr f s) := .next (hs.uniLA _ _)

theorem keeps_execScmp (hs : Kept σ s) (f : LAuc) : Keeps σ (execScmp f s) := .next (hs.lanes _)

theorem keeps_execSmov (hs : Kept σ s) (f : LSmov) : Keeps σ (execSmov f s) := .next (hs.setUni _ _)

theorem keeps_execSmovl (hs : Kept σ s) (f : LSmovl) : Keeps σ (execSmovl f s) := .next (hs.setUni _ _)

theorem keeps_execSfirst (hs : Kept σ s) (f : LSfirst) : Keeps σ (execSfirst f s) := .next (hs.setUni _ _)

theorem Kept.pollPlace (hs : Kept σ s) (x : Group) (g tid key addr : Nat) (target : Dword) (sc : Nat) (next : Point) :
    Kept σ (s.pollPlace x g tid key addr target sc next) :=
  hs.ite ((((hs.fatalAt _ _ _ _ _).unmark _).ite hs).ite ((((hs.askRun _ _).ctwaitMet _ _ _).goOn _ _ _).ite hs))

theorem Kept.waitFault (hs : Kept σ s) (x : Group) (g tid addr : Nat) : Kept σ (s.waitFault x g tid addr) :=
  hs.ite ((hs.addFault _).onThread _ _ _)

theorem Kept.pollCounter (hs : Kept σ s) (x : Group) (g tid key addr : Nat) (target : Dword) (sc : Nat) (next : Point) :
    Kept σ (s.pollCounter x g tid key addr target sc next) := by
  refine (hs.pollPlace _ _ _ _ _ _ _ _).ite (hs.ite ?_)
  split
  · exact hs.pollPlace _ _ _ _ _ _ _ _
  · exact hs.dueNow _ _ _ _ _
  · exact hs.dueNow _ _ _ _ _
  · exact hs.waitFault _ _ _ _

theorem Kept.pollDelivery (hs : Kept σ s) (g tid : Nat) (t : Thread) (h : Nat) (dest : HDest) (issue next : Point) :
    Kept σ (s.pollDelivery g tid t h dest issue next) := by
  unfold State.pollDelivery
  split
  · exact (hs.wakeTrap _ _ _ _ _ _).reported _ _ _
  · exact ((hs.onThread _ _ _).goOn _ _ _).ite hs

theorem Kept.pollRow (hs : Kept σ s) (x : Group) (g tid slot : Nat) (issue : Point) : Kept σ (s.pollRow x g tid slot issue) := by
  unfold State.pollRow
  split
  · exact hs.ite (hs.wake _ _ _)
  · exact hs.wake _ _ _

theorem Kept.pollWait (hs : Kept σ s) (x : Group) (g : Nat) (t : Thread) (w : Wait) (issue next : Point) :
    Kept σ (s.pollWait x g t w issue next) := by
  have woken := hs.wake g t.tid issue
  cases w with
  | walk id => exact hs.ite woken
  | column pa => exact woken.ite hs
  | fault => exact hs
  | faultQueue => exact woken.ite hs
  | line key => exact hs.ite woken
  | row slot => exact hs.pollRow _ _ _ _ _
  | refill slot room => exact (hs.pollRow _ _ _ _ _).ite (woken.ite hs)
  | takeRoom js => exact woken.ite hs
  | copyRoom => exact woken.ite hs
  | oldBatch => exact hs.ite woken
  | counter key addr target sc => exact hs.pollCounter _ _ _ _ _ _ _ _
  | hAck => exact hs
  | hSend => exact hs
  | hGen h dest => exact hs.pollDelivery _ _ _ _ _ _ _
  | capacity => exact ((hs.onThread _ _ _).goOn _ _ _).ite hs
  | batches n => exact ((hs.batchesMet _).goOn _ _ _).ite hs
  | kv => exact hs
  | drained => exact ((hs.acquire _ _).goOn _ _ _).ite hs
  | grange => exact hs
  | leaving => exact hs.ite (hs.exitNow _ _)

theorem Kept.pollThread (hs : Kept σ s) (p : Nat × Nat) : Kept σ (s.pollThread p) := by
  unfold State.pollThread
  split
  · split
    · exact hs.pollWait _ _ _ _ _ _
    · exact hs
  · exact hs

theorem Kept.pollThreads (hs : Kept σ s) : Kept σ s.pollThreads := hs.foldl fun _ _ ht => ht.pollThread _

theorem Kept.retryDone (hs : Kept σ s) : Kept σ s.retryDone := by
  unfold State.retryDone
  split
  · exact hs
  · exact ((hs.withDones _).doneSignal _ _).ite hs

theorem Kept.pollPreempt (hs : Kept σ s) (q : Nat) : Kept σ (s.pollPreempt q) := by
  unfold State.pollPreempt
  split
  · split
    · exact hs.complete _ _
    · exact hs.ite (hs.complete _ _)
  · exact hs

theorem Kept.pollQueue (hs : Kept σ s) (q : Nat) : Kept σ (s.pollQueue q) := ((hs.pollPreempt _).pollStep _).answerUnknown _

theorem Kept.endLaunches (hs : Kept σ s) : Kept σ s.endLaunches := hs.foldl fun _ _ ht => ht.launchCheck _

theorem Kept.tidyAll (hs : Kept σ s) : Kept σ s.tidyAll := hs

theorem Kept.settle (hs : Kept σ s) : Kept σ s.settle :=
  (hs.placeHeld.pollThreads.endLaunches.retryDone.foldl fun _ _ ht => ht.pollQueue _).tidyAll

theorem Kept.netError (hs : Kept σ s) (m : NetMark) : Kept σ (s.netError m) := by
  unfold State.netError
  dsimp only
  split
  · exact Kept.ite hs (Kept.ite (Kept.ite hs hs) hs)
  · exact Kept.ite (Kept.ite hs hs) hs
  · exact Kept.ite hs hs

theorem exec_keeps (hs : Kept σ s) (i : Instr) : Keeps σ (exec i s) := by
  cases i with
  | nop => exact keeps_execNop hs
  | exit => exact keeps_execExit hs
  | yield => exact keeps_execYield hs
  | trap imm => exact keeps_execTrap hs imm
  | bkpt imm => exact keeps_execBkpt hs imm
  | xret => exact keeps_execXret hs
  | evwait ev => exact keeps_execEvwait hs ev
  | sysr f => exact keeps_execSysr hs f
  | sysw f => exact keeps_execSysw hs f
  | bra f => exact keeps_execBra hs f
  | bru f => exact keeps_execBru hs f
  | call f => exact keeps_execCall hs f
  | brx f => exact keeps_execBrx hs f
  | ret => exact keeps_execRet hs
  | iadd f => exact keeps_execIadd hs f
  | isub f => exact keeps_execIsub hs f
  | imul f => exact keeps_execImul hs f
  | imulhS32 f => exact keeps_execImulhS32 hs f
  | imulhN32 f => exact keeps_execImulhN32 hs f
  | imad f => exact keeps_execImad hs f
  | iminS32 f => exact keeps_execIminS32 hs f
  | iminN32 f => exact keeps_execIminN32 hs f
  | imaxS32 f => exact keeps_execImaxS32 hs f
  | imaxN32 f => exact keeps_execImaxN32 hs f
  | iabs f => exact keeps_execIabs hs f
  | icmp f => exact keeps_execIcmp hs f
  | lea f => exact keeps_execLea hs f
  | sel f => exact keeps_execSel hs f
  | mov f => exact keeps_execMov hs f
  | and f => exact keeps_execAnd hs f
  | or f => exact keeps_execOr hs f
  | xor f => exact keeps_execXor hs f
  | shl f => exact keeps_execShl hs f
  | shr f => exact keeps_execShr hs f
  | sar f => exact keeps_execSar hs f
  | bfx f => exact keeps_execBfx hs f
  | bfi f => exact keeps_execBfi hs f
  | popc f => exact keeps_execPopc hs f
  | clz f => exact keeps_execClz hs f
  | brev f => exact keeps_execBrev hs f
  | plop f => exact keeps_execPlop hs f
  | movi f => exact keeps_execMovi hs f
  | movl f => exact keeps_execMovl hs f
  | fadd f => exact keeps_execFadd hs f
  | fmul f => exact keeps_execFmul hs f
  | ffma f => exact keeps_execFfma hs f
  | fmin f => exact keeps_execFmin hs f
  | fmax f => exact keeps_execFmax hs f
  | fcmp f => exact keeps_execFcmp hs f
  | frnd f => exact keeps_execFrnd hs f
  | fexp2 f => exact keeps_execFexp2 hs f
  | flog2 f => exact keeps_execFlog2 hs f
  | frcp f => exact keeps_execFrcp hs f
  | frsq f => exact keeps_execFrsq hs f
  | fsqrt f => exact keeps_execFsqrt hs f
  | cvt f => exact keeps_execCvt hs f
  | cvtp f => exact keeps_execCvtp hs f
  | paddBf16 f => exact keeps_execPaddBf16 hs f
  | paddF16 f => exact keeps_execPaddF16 hs f
  | pmulBf16 f => exact keeps_execPmulBf16 hs f
  | pmulF16 f => exact keeps_execPmulF16 hs f
  | pfmaBf16 f => exact keeps_execPfmaBf16 hs f
  | pfmaF16 f => exact keeps_execPfmaF16 hs f
  | dp4 f => exact keeps_execDp4 hs f
  | dp8 f => exact keeps_execDp8 hs f
  | qxch f => exact keeps_execQxch hs f
  | xlane f => exact keeps_execXlane hs f
  | wvote f => exact keeps_execWvote hs f
  | mmfBf16 f => exact keeps_execMmfBf16 hs f
  | mmfF16 f => exact keeps_execMmfF16 hs f
  | mmfE4m3 f => exact keeps_execMmfE4m3 hs f
  | mmfE5m2 f => exact keeps_execMmfE5m2 hs f
  | mmfE2m1 f => exact keeps_execMmfE2m1 hs f
  | mmfS8 f => exact keeps_execMmfS8 hs f
  | sadd f => exact keeps_execSadd hs f
  | ssub f => exact keeps_execSsub hs f
  | smul f => exact keeps_execSmul hs f
  | sand f => exact keeps_execSand hs f
  | sor f => exact keeps_execSor hs f
  | sxor f => exact keeps_execSxor hs f
  | sshl f => exact keeps_execSshl hs f
  | sshr f => exact keeps_execSshr hs f
  | scmp f => exact keeps_execScmp hs f
  | smov f => exact keeps_execSmov hs f
  | smovl f => exact keeps_execSmovl hs f
  | sld f => exact keeps_execSld hs f
  | sfirst f => exact keeps_execSfirst hs f
  | ld f => exact keeps_execLd hs f
  | st f => exact keeps_execSt hs f
  | lds f => exact keeps_execLds hs f
  | sts f => exact keeps_execSts hs f
  | atom f => exact keeps_execAtom hs f
  | acas f => exact keeps_execAcas hs f
  | red f => exact keeps_execRed hs f
  | fence f => exact keeps_execFence hs f
  | promote f => exact keeps_execPromote hs f
  | ctadd f => exact keeps_execCtadd hs f
  | ctwait f => exact keeps_execCtwait hs f
  | ctread f => exact keeps_execCtread hs f
  | cseal d => exact keeps_execCseal hs d
  | cwait a => exact keeps_execCwait hs a
  | cstat f => exact keeps_execCstat hs f
  | ralloc f => exact keeps_execRalloc hs f
  | rfree f => exact keeps_execRfree hs f
  | rrank f => exact keeps_execRrank hs f
  | rstat f => exact keeps_execRstat hs f
  | rstatClaim f => exact keeps_execRstatClaim hs f
  | hcreate f => exact keeps_execHcreate hs f
  | hjoin f => exact keeps_execHjoin hs f
  | hleave h => exact keeps_execHleave hs h
  | hbar f => exact keeps_execHbar hs f
  | harr f => exact keeps_execHarr hs f
  | hwait f => exact keeps_execHwait hs f
  | hvote f => exact keeps_execHvote hs f
  | hred f => exact keeps_execHred hs f
  | hquery f => exact keeps_execHquery hs f
  | hqueryHdl f => exact keeps_execHqueryHdl hs f
  | hdiss h => exact keeps_execHdiss hs h
  | grangeRead f => exact keeps_execGrangeRead hs f
  | grangeTake f => exact keeps_execGrangeTake hs f
  | cpy f => exact keeps_execCpy hs f
  | mx f => exact keeps_execMx hs f
  | mxdrain f => exact keeps_execMxdrain hs f
  | attn f => exact keeps_execAttn hs f
  | attnMerge f => exact keeps_execAttnMerge hs f
  | cbload f => exact keeps_execCbload hs f
  | enq f => exact keeps_execEnq hs f
  | ropen f => exact keeps_execRopen hs f
  | rtake f => exact keeps_execRtake hs f
  | rclose slot => exact keeps_execRclose hs slot
  | rpoll f => exact keeps_execRpoll hs f
  | kvfind f => exact keeps_execKvfind hs f
  | kvins f => exact keeps_execKvins hs f
  | kvinsSeal f => exact keeps_execKvinsSeal hs f
  | kvdel f => exact keeps_execKvdel hs f
  | kvpfx f => exact keeps_execKvpfx hs f
  | kvpfxIns f => exact keeps_execKvpfxIns hs f
  | kvpfxDel f => exact keeps_execKvpfxDel hs f
  | kvTableAction id => exact keeps_execKvTableAction hs id
  | doorbellWrite tenant tail => exact keeps_execDoorbellWrite hs tenant tail
  | launchCommand q addr => exact keeps_execLaunchCommand hs q addr
  | budgetCommand q watts => exact keeps_execBudgetCommand hs q watts
  | budgetCommandComplete draw => exact keeps_execBudgetCommandComplete hs draw
  | tenantCreate q id cfg => exact keeps_execTenantCreate hs q id cfg
  | tenantChange q id cfg => exact keeps_execTenantChange hs q id cfg
  | tenantDisable q id => exact keeps_execTenantDisable hs q id
  | mapCommand q id gpa entry => exact keeps_execMapCommand hs q id gpa entry
  | translationDrainComplete q => exact keeps_execTranslationDrainComplete hs q
  | zeroCommand q id gpa entry => exact keeps_execZeroCommand hs q id gpa entry
  | zeroFillComplete q => exact keeps_execZeroFillComplete hs q
  | keyCommand q slot key lo hi => exact keeps_execKeyCommand hs q slot key lo hi
  | queryBudget q => exact keeps_execQueryBudget hs q
  | queryCapacity q => exact keeps_execQueryCapacity hs q
  | queryTemperatures q => exact keeps_execQueryTemperatures hs q
  | queryBankMaps q => exact keeps_execQueryBankMaps hs q
  | queryCounters q => exact keeps_execQueryCounters hs q
  | debugHalt q group => exact keeps_execDebugHalt hs q group
  | debugSingleStep q group => exact keeps_execDebugSingleStep hs q group
  | debugThreadStep q group tid => exact keeps_execDebugThreadStep hs q group tid
  | debugResume q group => exact keeps_execDebugResume hs q group
  | debugReadContext q group tid item => exact keeps_execDebugReadContext hs q group tid item
  | debugWriteContext q group tid item value => exact keeps_execDebugWriteContext hs q group tid item value
  | remapCompleteRetirement q column bank => exact keeps_execRemapCompleteRetirement hs q column bank
  | remapReadmit q column bank => exact keeps_execRemapReadmit hs q column bank
  | remappingStepComplete column => exact keeps_execRemappingStepComplete hs column
  | invalidateRange q lo hi => exact keeps_execInvalidateRange hs q lo hi
  | invalidateAll q => exact keeps_execInvalidateAll hs q
  | faultReplay q token => exact keeps_execFaultReplay hs q token
  | faultAbort q token => exact keeps_execFaultAbort hs q token
  | preemptCommand q group => exact keeps_execPreemptCommand hs q group
  | powerOnReset lit failed => exact keeps_execPowerOnReset hs lit failed
  | hostAccess tenant va write len => exact keeps_execHostAccess hs tenant va write len
  | fabricLaunchPacket source record => exact keeps_execFabricLaunchPacket hs source record
  | fabricPeerAccess tenant peer gpa op => exact keeps_execFabricPeerAccess hs tenant peer gpa op
  | flitReceive port crcOk tag body => exact keeps_execFlitReceive hs port crcOk tag body
  | rdmaWrite tenant gpa data => exact keeps_execRdmaWrite hs tenant gpa data
  | rdmaRead tenant gpa len => exact keeps_execRdmaRead hs tenant gpa len
  | rdmaSend port data => exact keeps_execRdmaSend hs port data
  | launchQueueAccept tenant => exact keeps_execLaunchQueueAccept hs tenant
  | taskRecordPlacement sender receiver => exact keeps_execTaskRecordPlacement hs sender receiver
  | groupStart core => exact keeps_execGroupStart hs core
  | coreRequest core => exact keeps_execCoreRequest hs core
  | gangStart cluster => exact keeps_execGangStart hs cluster
  | gangMigration cluster => exact keeps_execGangMigration hs cluster
  | classPreemption launch => exact keeps_execClassPreemption hs launch
  | issueSlotSelect core slot => exact keeps_execIssueSlotSelect hs core slot
  | mergeTick core => exact keeps_execMergeTick hs core
  | thermalSample temps => exact keeps_execThermalSample hs temps
  | repairRetirementPending column bank => exact keeps_execRepairRetirementPending hs column bank
  | plannedReduction core banks notice => exact keeps_execPlannedReduction hs core banks notice
  | lossPoint core => exact keeps_execLossPoint hs core
  | thermalEmergency core banks => exact keeps_execThermalEmergency hs core banks
  | relight core banks => exact keeps_execRelight hs core banks
  | preemption group => exact keeps_execPreemption hs group
  | resumption saved core crcOk => exact keeps_execResumption hs saved core crcOk
  | hangReport group => exact keeps_execHangReport hs group
  | translationWalk id => exact keeps_execTranslationWalk hs id
  | faultEntryTransfer die => exact keeps_execFaultEntryTransfer hs die
  | hMessageApply id => exact keeps_execHMessageApply hs id
  | promoteArrival id => exact keeps_execPromoteArrival hs id
  | memoryAccessComplete id replies => exact keeps_execMemoryAccessComplete hs id replies
  | copyChunkLanding id chunk => exact keeps_execCopyChunkLanding hs id chunk
  | mxComplete id => exact keeps_execMxComplete hs id
  | attnStepComplete id => exact keeps_execAttnStepComplete hs id
  | attnMergeComplete id => exact keeps_execAttnMergeComplete hs id
  | mxdrainChunkLanding id chunk => exact keeps_execMxdrainChunkLanding hs id chunk
  | mxdrainComplete id => exact keeps_execMxdrainComplete hs id
  | cbloadInstall id => exact keeps_execCbloadInstall hs id
  | rowActivation column => exact keeps_execRowActivation hs column
  | rowReady group slot => exact keeps_execRowReady hs group slot
  | rtakeBeat id => exact keeps_execRtakeBeat hs id
  | refreshDue column bank => exact keeps_execRefreshDue hs column bank
  | refreshGraceEnd column bank => exact keeps_execRefreshGraceEnd hs column bank
  | refreshEnd column bank => exact keeps_execRefreshEnd hs column bank
  | openLimitReached group slot => exact keeps_execOpenLimitReached hs group slot
  | ramblerCheck die => exact keeps_execRamblerCheck hs die
  | parasolCapAndClockTrade caps clocks => exact keeps_execParasolCapAndClockTrade hs caps clocks

theorem make_keeps (hs : Kept σ s) (m : Move) : Keeps σ (s.make m) := by
  cases m with
  | run i => exact exec_keeps hs i
  | goOn c => exact .next (hs.continue_ c)
  | tick => exact .next hs

theorem move_keeps (hs : Kept σ s) : Keeps σ s.move :=
  make_keeps (s := { s with sched := s.sched.tail }) hs _

theorem outside_keeps (hs : Kept σ s) (i : Input) : Keeps σ (s.outside i) := by
  cases i with
  | quiet => exact move_keeps hs
  | event i => exact exec_keeps hs i
  | hostMemory addr bs => exact .next (hs.write _ _)
  | badUnit u => exact .next (hs.ite hs)
  | corrected c => exact .next (hs.ite (hs.setColumn _ _))
  | netError m => exact .next (hs.netError m)
  | domain n => exact .next (Kept.ite (a := { s with domain := n }) hs hs)

theorem act_keeps (hs : Kept σ s) : Keeps σ s.act := by
  unfold State.act
  split
  · exact move_keeps hs
  · next i rest _ => exact (move_keeps hs).ite (outside_keeps (hs.withInputs rest) i)

theorem step_keeps (hs : Kept σ s) : Keeps σ (step s) := by
  refine Keeps.andThen ?_ fun _ ht => .next ht.settle
  split
  · exact Keeps.runIssueWith (fun i _ ht => exec_keeps ht i) hs
  · exact act_keeps hs
end Sys2Proof.Machine
namespace Sys2Proof.Proofs
open Machine

/-- Settles O60: every function that a step calls keeps what `Kept` says, and so do their compositions. -/
theorem stepKeepsMemoryFormAndBudget : Obligations.StepKeepsMemoryFormAndBudget := by
  unfold Obligations.StepKeepsMemoryFormAndBudget
  intro s t h
  have kept := step_keeps (Kept.refl s) t h
  exact ⟨kept.mem, kept.budget⟩

end Sys2Proof.Proofs
end

section
/-! ### One engine command per active thread -/

namespace Sys2Proof.Machine

/-- What an active thread's engine command does, given what its checks gave: `mask` is that of the issue's bounds failures. -/
def State.engDo {α : Type} (s : State) (u : Thread) (mask : Word) (act : α → State) : EngRes α → State
  | .go a => act a
  | .trap code tval h => s.raise u.tid code tval (if code = 0x10 then mask else 0) h
  | .miss va access => s.missing u.tid va access
  | .wait w => s.retry u.tid w

/-- An instruction whose active threads check and start a command each in turn completes in every issue. -/
theorem actsEach_of_engEach {α : Type} {i : Instr} {p : State → Ctx → Group → Thread → State → Prop}
    (check : State → Ctx → Group → Thread → EngRes α) (act : State → Ctx → Group → Thread → α → State)
    (e : ∀ s, exec i s = .next (s.engEach check act))
    (hp : ∀ mask s tid c g u, Acting s tid c g u → p s c g u (s.engDo u mask (act s c g u) (check s c g u))) : ActsEach i p := by
  intro s c g h
  refine ⟨_, e s, ?_⟩
  rw [State.engEach, issue_eq h]
  exact eachActive_inOrder h _ p fun a tid c' g' u ha => hp (boundsMask (check s) c g) a tid c' g' u ha

theorem grant_none {c : Ctx} {g : Group} {i : Nat} (h : g.rows.length ≤ i) : EngRes.grant c g i = .trap 0x01 c.word 0 := by
  rw [EngRes.grant, Group.slot, List.getElem?_eq_none h]

theorem grant_some {c : Ctx} {g : Group} {i : Nat} {r : RowSlot} (h : g.rows[i]? = some r) : EngRes.grant c g i = .go r := by
  rw [EngRes.grant, Group.slot, h]

/-! ### The rows of groups -/

/-- The groups keep their row slots. -/
structure SameRows (s t : State) : Prop where
  rows : ∀ k, (t.group k).map (·.rows) = (s.group k).map (·.rows)

theorem SameRows.refl (s : State) : SameRows s s := ⟨fun _ => rfl⟩

theorem SameRows.trans {s t u : State} (h : SameRows s t) (k : SameRows t u) : SameRows s u :=
  ⟨fun j => (k.rows j).trans (h.rows j)⟩

theorem SameRows.foldl {α : Type} {f : State → α → State} (h : ∀ s a, SameRows s (f s a)) (l : List α) (s : State) :
    SameRows s (l.foldl f s) :=
  List.foldlRecOn (motive := SameRows s) l f (.refl s) fun t ht a _ => ht.trans (h t a)

theorem sameRows_onGroup (s : State) (k : Nat) {f : Group → Group} (hf : ∀ g, (f g).rows = g.rows) : SameRows s (s.onGroup k f) := by
  refine ⟨fun j => ?_⟩
  rw [group_onGroup]
  split
  · next h => subst h; cases s.group j <;> simp [hf]
  · rfl

theorem sameRows_onThread (s : State) (k tid : Nat) (f : Thread → Thread) : SameRows s (s.onThread k tid f) :=
  sameRows_onGroup s k fun _ => rfl

theorem sameRows_wake (s : State) (k tid : Nat) (p : Point) : SameRows s (s.wake k tid p) := sameRows_onGroup s k fun _ => rfl

theorem sameRows_wakeTrap (s : State) (k tid : Nat) (p : Point) (code : Byte) (tval : Dword) (handler : Nat) (word : Option Nat) :
    SameRows s (s.wakeTrap k tid p code tval handler word) :=
  (sameRows_wake s k tid p).trans (sameRows_onThread ..)

theorem sameRows_trapRowWaiters (s : State) (k i va : Nat) (reason : Option Nat) :
    SameRows s (s.trapRowWaiters k i va reason) := by
  refine SameRows.foldl (fun t e => ?_) _ s
  dsimp only
  split
  · exact sameRows_wakeTrap ..
  · exact .refl t

theorem SameRows.group {s t : State} (h : SameRows s t) {k : Nat} {g : Group} (hg : s.group k = some g) :
    ∃ y, t.group k = some y ∧ y.rows = g.rows := by
  have := h.rows k
  rw [hg] at this
  exact Option.map_eq_some_iff.1 this

/-- A slot set and its request withdrawn: the group's slots, and the column. -/
theorem group_setSlotOf {s : State} {k : Nat} {g : Group} (hg : s.group k = some g) (i : Nat) (r : RowSlot) :
    (s.setSlotOf k i r).group k = some { g with rows := g.rows.set i r } := by
  rw [State.setSlotOf, group_onGroup, if_pos rfl, hg]
  rfl

theorem group_setSlotOf_other (s : State) {k j : Nat} (h : j ≠ k) (i : Nat) (r : RowSlot) :
    (s.setSlotOf k i r).group j = s.group j := by
  rw [State.setSlotOf, group_onGroup, if_neg h]

theorem onlyGroups_setSlotOf (s : State) (k i : Nat) (r : RowSlot) : OnlyGroups s (s.setSlotOf k i r) := onlyGroups_onGroup s k _

/-- A slot changed, its request withdrawn and its waiters woken. -/
theorem slotGone_effect {s : State} {k : Nat} {g : Group} (hg : s.group k = some g) (col i va : Nat) (r : RowSlot)
    (reason : Option Nat) :
    (∃ y, (((s.setSlotOf k i r).unqueue col k i).trapRowWaiters k i va reason).group k = some y ∧ y.rows = g.rows.set i r) ∧
    ((((s.setSlotOf k i r).unqueue col k i).trapRowWaiters k i va reason).column col).queue =
      (s.column col).queue.filter fun q => !(decide (q.guid = k) && decide (q.slot = i)) := by
  constructor
  · exact (sameRows_trapRowWaiters ..).group (k := k) (g := { g with rows := g.rows.set i r }) (group_setSlotOf hg i r)
  · rw [(onlyGroups_trapRowWaiters ..).column, State.unqueue, column_setColumn_self, (onlyGroups_setSlotOf s k i r).column]

/-- A slot changed and its request queued at a column. -/
theorem slotQueued_effect {s : State} {k : Nat} {g : Group} (hg : s.group k = some g) (col i : Nat) (r : RowSlot) :
    let m := s.setSlotOf k i r
    let t := m.setColumn col { m.column col with queue := (m.column col).queue ++ [⟨k, i⟩] }
    t = { s with groups := t.groups, columns := t.columns } ∧ t.group k = some { g with rows := g.rows.set i r } ∧
    (∀ j, j ≠ k → t.group j = s.group j) ∧ (∀ j, j ≠ col → t.column j = s.column j) ∧
    t.column col = { s.column col with queue := (s.column col).queue ++ [⟨k, i⟩] } := by
  have only := onlyGroups_setSlotOf s k i r
  refine ⟨?_, group_setSlotOf hg i r, fun j hj => group_setSlotOf_other s hj i r, fun j hj => ?_, ?_⟩
  · unfold State.setSlotOf State.onGroup
    split <;> rfl
  · exact (column_setColumn_other _ _ hj).trans (only.column j)
  · rw [column_setColumn_self, only.column]

/-! ### The four row instructions -/

theorem rowTval_eq (va : Nat) (slot : BitVec 3) (reason : Nat) :
    rowTval va slot.toNat reason = BitVec.ofNat 64 (va / 4096 * 4096 + slot.toNat + reason * 16) := by
  rw [rowTval, Nat.mod_eq_of_lt slot.isLt]

theorem pending_iff (r : RowSlot) : r.pending = false ↔ r.state = .free ∨ r.state = .closed := by
  cases h : r.state <;> simp [RowSlot.pending, RowSlot.holds, h]

theorem ropenCheck_eq {s : State} {f : LRopen} {c : Ctx} {g : Group} {u : Thread} {r : RowSlot} {x pa : Nat}
    (hx : (c.uni g f.u.toNat + (c.val u f.a).setWidth 64).toNat = x) (hr : g.rows[f.slot.toNat]? = some r)
    (ht : s.xlate g.core g.rec_.tenant x 3 = .ok pa) :
    s.ropenCheck f c g u =
      if Config.padBase ≤ pa ∨ columnOf pa ≠ g.core then .trap 0x31 (rowTval x f.slot.toNat r.reason) 0
      else if r.pending then .trap 0x32 (rowTval x f.slot.toNat r.reason) 0
      else .go (x, pa, r) := by
  rw [State.ropenCheck, grant_some hr]
  simp only [EngRes.andThen, hx, ht]

/-- ROPEN's address (R296). -/
theorem ropen_address (a : Dword) (b : Word) : (a + b.setWidth 64).toNat = (a.toNat + b.toNat) % 2 ^ 64 := by
  have := b.isLt
  rw [BitVec.toNat_add, BitVec.toNat_setWidth, Nat.mod_eq_of_lt (show b.toNat < 2 ^ 64 by omega)]

theorem ropen_acts (f : LRopen) : ActsEach (.ropen f) fun s c g u t => let i := f.slot.toNat
    let x := ((c.uni g f.u.toNat).toNat + (c.val u f.a).toNat) % 2 ^ 64
    let tval := fun r : RowSlot => BitVec.ofNat 64 (x / 4096 * 4096 + i + r.reason * 16)
    (g.rows.length ≤ i → t = s.raise u.tid 0x01 c.word 0 0) ∧
    ∀ r pa, g.rows[i]? = some r → s.xlate g.core g.rec_.tenant x 3 = .ok pa →
      let own : Prop := pa < Config.padBase ∧ pa / 2 ^ 21 / 384 = g.core
      (¬ own → t = s.raise u.tid 0x31 (tval r) 0 0) ∧
      (own → r.state ≠ .free → r.state ≠ .closed → t = s.raise u.tid 0x32 (tval r) 0 0) ∧
      (own → (r.state = .free ∨ r.state = .closed) →
        t = { s with groups := t.groups, columns := t.columns } ∧
        t.group c.guid = some { g with
          rows := g.rows.set i { r with state := .queued, va := x / 4096 * 4096, pa := pa / 4096 * 4096 } } ∧
        (∀ k, k ≠ c.guid → t.group k = s.group k) ∧ (∀ k, k ≠ g.core → t.column k = s.column k) ∧
        t.column g.core = { s.column g.core with queue := (s.column g.core).queue ++ [⟨c.guid, i⟩] }) := by
  refine actsEach_of_engEach _ _ (fun _ => rfl) fun mask s tid c g u ha => ⟨fun hi => ?_, fun r pa hr ht => ?_⟩
  · rw [State.ropenCheck, grant_none hi]
    rfl
  · simp only [ropenCheck_eq (ropen_address _ _) hr ht, ← rowTval_eq]
    refine ⟨fun away => ?_, fun own hf hc => ?_, fun own hs => ?_⟩
    · rw [if_pos (by simp only [columnOf, Config.frameBytes, Config.framesPerColumn]; omega)]
      rfl
    · have : r.pending = true := by
        rw [← Bool.not_eq_false, pending_iff]
        tauto
      rw [if_neg (by simp only [columnOf, Config.frameBytes, Config.framesPerColumn]; omega), if_pos this]
      rfl
    · rw [if_neg (by simp only [columnOf, Config.frameBytes, Config.framesPerColumn]; omega), if_neg (by simp [(pending_iff r).2 hs])]
      exact slotQueued_effect ha.group g.core f.slot.toNat _

theorem rclose_acts (slot : BitVec 3) : ActsEach (.rclose slot) fun s c g u t =>
    (g.rows.length ≤ slot.toNat → t = s.raise u.tid 0x01 c.word 0 0) ∧
    ∀ r, g.rows[slot.toNat]? = some r → (r.state = .free → t = s) ∧
      (r.state ≠ .free → ∃ y, t.group c.guid = some y ∧
        y.rows = g.rows.set slot.toNat { r with state := .free, reason := 0 } ∧
        (t.column g.core).queue = (s.column g.core).queue.filter fun q => ¬ (q.guid = c.guid ∧ q.slot = slot.toNat)) := by
  refine actsEach_of_engEach _ _ (fun _ => rfl) fun mask s tid c g u ha => ⟨fun hi => ?_, fun r hr => ?_⟩
  · rw [grant_none hi]
    rfl
  · rw [grant_some hr]
    refine ⟨fun hf => if_pos hf, fun hf => ?_⟩
    have freed : s.freeSlotOf g.core c.guid slot.toNat r = _ := if_neg hf
    obtain ⟨⟨y, hy, rows⟩, queue⟩ := slotGone_effect ha.group g.core slot.toNat 0 { r with state := .free, reason := 0 } none
    refine ⟨y, (congrArg (·.group c.guid) freed).trans hy, rows, (congrArg (fun t => (t.column g.core).queue) freed).trans ?_⟩
    rw [queue]
    congr 1
    funext q
    simp

theorem pollWord_toNat (s : State) (core : Nat) (r : RowSlot) : ∃ due left, due ≤ 1 ∧
    (s.pollWord core r).toNat = (r.state.num + r.reason * 16 + due * 128 + left * 2 ^ 16) % 2 ^ 32 ∧
    (r.state ≠ .opened → left = 0) ∧
    (r.state = .opened → left =
      (r.since + (s.column core).openLimit ((s.column core).bankOf r.pa) s.stime - s.stime) / 16) := by
  let c := s.column core
  refine ⟨(r.holds && c.inGrace (c.bankOf r.pa)).toNat,
    if r.state = .opened then (r.since + c.openLimit (c.bankOf r.pa) s.stime - s.stime) / 16 else 0,
    Bool.toNat_le _, ?_, fun h => if_neg h, fun h => if_pos h⟩
  rw [State.pollWord, BitVec.toNat_ofNat]
  rfl

theorem rpoll_acts (f : LRpoll) : ActsEach (.rpoll f) fun s c g u t =>
    (g.rows.length ≤ f.slot.toNat → t = s.raise u.tid 0x01 c.word 0 0) ∧
    ∀ r, g.rows[f.slot.toNat]? = some r → ∃ w, OneThread s t c u (u.setReg f.a w) ∧
      w.toNat % 8 = (match r.state with | .free => 0 | .queued => 1 | .activating => 2 | .opened => 3 | .closed => 4) ∧
      (r.reason < 8 → w.toNat / 16 % 8 = r.reason ∧ (r.state ≠ .opened → w.toNat / 2 ^ 16 = 0)) ∧
      (r.reason < 8 → r.state = .opened → w.toNat / 2 ^ 16 = (r.since + (if (s.column g.core).doubledAt
        ((s.column g.core).bankOf r.pa) s.stime then 4680 else 9360) - s.stime) / 16 % 2 ^ 16) := by
  refine actsEach_of_engEach _ _ (fun _ => rfl) fun mask s tid c g u ha => ⟨fun hi => ?_, fun r hr => ?_⟩
  · rw [grant_none hi]
    rfl
  · rw [grant_some hr]
    obtain ⟨due, left, hd, hw, closed, opened⟩ := pollWord_toNat s g.core r
    have hn : r.state.num ≤ 4 := by cases r.state <;> decide
    refine ⟨_, oneThread_effect ha _ fun v => setReg_tid v _ _, ?_, fun hr => ⟨?_, fun ho => ?_⟩, fun hr ho => ?_⟩
    · have : (s.pollWord g.core r).toNat % 8 = r.state.num := by omega
      rw [this]
      cases r.state <;> rfl
    · omega
    · have := closed ho
      omega
    · rw [Column.openLimit] at opened
      rw [← opened ho]
      omega

/-- RTAKE's checks before the state of its slot. -/
def TakeReady (f : LRtake) (s : State) (c : Ctx) (g : Group) (u : Thread) : Prop :=
  f.dest = true → ((c.val u f.a).toNat % 128 = 0 ∧ (c.val u f.a).toNat + 4096 ≤ 0x400000) ∧
    InBounds s g [((c.val u f.a).toNat, 4096)]

section
variable {s : State} {f : LRtake} {c : Ctx} {g : Group} {u : Thread} {r : RowSlot} (hr : g.rows[f.slot.toNat]? = some r)
include hr

theorem rtakeCheck_granted (h : u.grant = some f.slot.toNat) : s.rtakeCheck f c g u = .go .granted := by
  rw [State.rtakeCheck, grant_some hr]
  exact if_pos h

theorem rtakeCheck_misplaced (h : u.grant ≠ some f.slot.toNat) (hd : f.dest = true)
    (ha : ¬ ((c.val u f.a).toNat % 128 = 0 ∧ (c.val u f.a).toNat + 4096 ≤ 0x400000)) :
    s.rtakeCheck f c g u = .trap 0x10 (BitVec.ofNat 64 (c.val u f.a).toNat) 0 := by
  rw [State.rtakeCheck, grant_some hr]
  simp only [EngRes.andThen, if_neg h, if_pos hd]
  rw [State.takeDestOk, if_pos (by simp only [Config.padBytes]; omega)]

theorem rtakeCheck_outside (h : u.grant ≠ some f.slot.toNat) (hd : f.dest = true)
    (ha : (c.val u f.a).toNat % 128 = 0 ∧ (c.val u f.a).toNat + 4096 ≤ 0x400000) {b : Nat}
    (hb : s.padCheck g (c.val u f.a).toNat 4096 = .bounds b) :
    s.rtakeCheck f c g u = .trap 0x10 (BitVec.ofNat 64 b) 0 := by
  rw [State.rtakeCheck, grant_some hr]
  simp only [EngRes.andThen, if_neg h, if_pos hd]
  rw [State.takeDestOk, if_neg (by simp only [Config.padBytes]; omega), State.inBounds, State.padRun, if_neg (by decide), hb]

theorem rtakeCheck_ready (h : u.grant ≠ some f.slot.toNat) (ready : TakeReady f s c g u) :
    s.rtakeCheck f c g u =
      if r.state = .free then .trap 0x30 (rowTval 0 f.slot.toNat 0) 0
      else if r.state = .closed then .trap 0x30 (rowTval r.va f.slot.toNat r.reason) 0
      else if r.state = .opened then
        if s.takeRoom g.core 1 then .go (.accept r)
        else if f.try_ then .go .busy else .wait (.takeRoom [f.slot.toNat])
      else if f.try_ then .go .busy
      else .wait (.row f.slot.toNat (some (if f.dest then some (c.val u f.a).toNat else none))) := by
  have passes : (if f.dest then s.takeDestOk g (c.val u f.a).toNat else .go ()) = .go () := by
    split
    · next hd =>
      obtain ⟨⟨aligned, inside⟩, bounds⟩ := ready hd
      rw [State.takeDestOk, if_neg (by simp only [Config.padBytes]; omega), State.inBounds, State.padRun, if_neg (by decide)]
      have := bounds _ (List.mem_singleton_self _) (Nat.succ_pos 4095)
      split
      · next a hb => exact absurd hb (this a)
      · rfl
    · rfl
  rw [State.rtakeCheck, grant_some hr]
  simp only [EngRes.andThen, if_neg h, passes]

end

theorem takeRoom_one (s : State) (core : Nat) :
    s.takeRoom core 1 = true ↔ (s.takes.filter fun x => decide (x.core = core)).length < 16 := decide_eq_true_iff

theorem onGroup_some {s : State} {k : Nat} {g : Group} (hg : s.group k = some g) (f : Group → Group) :
    s.onGroup k f = s.setGroup k (f g) := by
  rw [State.onGroup, hg]

theorem onGroup_onGroup (s : State) (k : Nat) (f h : Group → Group) : (s.onGroup k f).onGroup k h = s.onGroup k fun g => h (f g) := by
  cases hg : s.group k with
  | none => simp [State.onGroup, hg]
  | some g =>
    rw [onGroup_some hg, onGroup_some hg, onGroup_some (g := f g) (by rw [group_setGroup, if_pos rfl])]
    simp only [State.setGroup, mset_mset]

theorem onThread_onThread (s : State) (k tid : Nat) (f h : Thread → Thread) (hf : ∀ u, (f u).tid = u.tid) :
    (s.onThread k tid f).onThread k tid h = s.onThread k tid fun u => h (f u) := by
  simp only [State.onThread, onGroup_onGroup, Group.onThread, List.map_map]
  congr 3
  funext g
  congr 2
  funext u
  by_cases hu : u.tid = tid <;> simp [hu, hf]

/-- What an accepted take is, and what its acceptance leaves: the take joins those in flight, and one to staging begins a fill. -/
theorem acceptTake_effect {s : State} {k : Nat} {g : Group} (hg : s.group k = some g) (tid i : Nat) (r : RowSlot) (dest : TakeDest) :
    ∃ x : Take, let t := s.acceptTake g.core k tid i r dest
      x.id = s.nextId ∧ x.core = g.core ∧ x.guid = k ∧ x.tid = tid ∧ x.slot = i ∧ x.va = r.va ∧ x.pa = r.pa ∧ x.beat = 0 ∧
      x.batch = none ∧ x.dest = dest ∧ x.nextAt = s.stime ∧ x.data = [] ∧ x.bad = false ∧ x.missed = [] ∧ x.outcome = 0 ∧
      (dest = .staging → x.dead = []) ∧
      t = { s with nextId := s.nextId + 1, takes := s.takes ++ [x], groups := t.groups } ∧
      ∃ staging, t.group k = some { g with staging := staging } ∧
        (dest = .staging → staging = { g.staging with take := some s.nextId, empty := false, fill := some (i, r.va) }) := by
  rw [State.acceptTake, hg]
  cases dest with
  | staging =>
    refine ⟨_, rfl, rfl, rfl, rfl, rfl, rfl, rfl, rfl, rfl, rfl, rfl, rfl, rfl, rfl, rfl, fun _ => rfl,
      onGroup_rest { s with nextId := s.nextId + 1, takes := _ } k _, _, ?_, fun _ => rfl⟩
    exact (onGroup_oneGroup (s := { s.bump with takes := _ }) hg _).group
  | _ =>
    exact ⟨_, rfl, rfl, rfl, rfl, rfl, rfl, rfl, rfl, rfl, rfl, rfl, rfl, rfl, rfl, rfl, nofun, rfl, _, hg, nofun⟩

/-- RTAKE's take accepted: what it is, and what the issue leaves. -/
theorem rtakeAccept_effect {s : State} {tid : Nat} {c : Ctx} {g : Group} {u : Thread} (ha : Acting s tid c g u) (f : LRtake)
    (r : RowSlot) :
    let i := f.slot.toNat
    let t := (s.acceptTake g.core c.guid u.tid i r (c.takeDest u f)).onThread c.guid u.tid fun v => v.setPred f.pd true
    ∃ x : Take, x.id = s.nextId ∧ x.core = g.core ∧ x.guid = c.guid ∧ x.tid = u.tid ∧ x.slot = i ∧ x.va = r.va ∧ x.pa = r.pa ∧
      x.beat = 0 ∧ x.batch = none ∧ x.dest = (if f.dest then .pad (c.val u f.a).toNat else .staging) ∧ x.nextAt = s.stime ∧
      x.data = [] ∧ x.bad = false ∧ x.missed = [] ∧ x.outcome = 0 ∧ (f.dest = false → x.dead = []) ∧
      t = { s with groups := t.groups, nextId := s.nextId + 1, takes := t.takes } ∧ t.takes = s.takes ++ [x] ∧
      t.thread c.guid u.tid = some (u.setPred f.pd true) ∧
      (f.dest = false → (t.group c.guid).map (·.staging) =
        some { g.staging with take := some s.nextId, empty := false, fill := some (i, r.va) }) := by
  intro i t
  obtain ⟨x, id, core, guid, xtid, slot, va, pa, beat, batch, dest, next, data, bad, missed, outcome,
    dead, rest, staging, group, fill⟩ :=
    acceptTake_effect ha.group u.tid i r (c.takeDest u f)
  have toStaging : f.dest = false → c.takeDest u f = .staging := fun h => by simp [Ctx.takeDest, h]
  have takes : t.takes = s.takes ++ [x] := (State.onThread_takes ..).trans (congrArg State.takes rest)
  refine ⟨x, id, core, guid, xtid, slot, va, pa, beat, batch, dest, next, data, bad, missed, outcome,
    fun h => dead (toStaging h), ?_, takes, ?_, fun h => ?_⟩
  · calc t = { s.acceptTake g.core c.guid u.tid i r (c.takeDest u f) with groups := t.groups } := onGroup_rest ..
      _ = { s with groups := t.groups, nextId := s.nextId + 1, takes := t.takes } := by rw [takes, rest]
  · rw [thread_onThread _ _ _ _ _ fun v => setPred_tid v _ _, if_pos rfl, thread_eq, group]
    have same : g.thread u.tid = some u := (acting_tid ha).symm ▸ ha.thread
    exact congrArg (Option.map _) same
  · rw [fill (toStaging h)] at group
    exact congrArg _ (onGroup_oneGroup group _).group

theorem rtake_acts (f : LRtake) : ActsEach (.rtake f) fun s c g u t => let i := f.slot.toNat; let a := (c.val u f.a).toNat
    let tval : Nat → Nat → Dword := fun va reason => BitVec.ofNat 64 (va / 4096 * 4096 + i + reason * 16)
    (g.rows.length ≤ i → t = s.raise u.tid 0x01 c.word 0 0) ∧
    ∀ r, g.rows[i]? = some r →
      let local_ : Prop := a % 128 = 0 ∧ a + 4096 ≤ 0x400000
      let ready : Prop := f.dest = true → local_ ∧ InBounds s g [(a, 4096)]
      let room : Prop := (s.takes.filter fun x => decide (x.core = g.core)).length < 16
      (u.grant = some i → OneThread s t c u ({ u with grant := none }.setPred f.pd true)) ∧
      (u.grant ≠ some i →
        (f.dest = true → ¬ local_ → ∃ m, t = s.raise u.tid 0x10 (BitVec.ofNat 64 a) m 0) ∧
        (∀ b, f.dest = true → local_ → s.padCheck g a 4096 = .bounds b → ∃ m, t = s.raise u.tid 0x10 (BitVec.ofNat 64 b) m 0) ∧
        (ready → r.state = .free → t = s.raise u.tid 0x30 (tval 0 0) 0 0) ∧
        (ready → r.state = .closed → t = s.raise u.tid 0x30 (tval r.va r.reason) 0 0) ∧
        (r.state = .opened → ready → room →
          ∃ x : Take, t.takes = s.takes ++ [x] ∧ x.id = s.nextId ∧ x.core = g.core ∧ x.guid = c.guid ∧ x.tid = u.tid ∧ x.slot = i ∧
            x.va = r.va ∧ x.pa = r.pa ∧ x.beat = 0 ∧ x.batch = none ∧ x.dest = (if f.dest then .pad a else .staging) ∧
            x.nextAt = s.stime ∧ x.data = [] ∧ x.bad = false ∧ x.missed = [] ∧ x.outcome = 0 ∧
            (f.dest = false → x.dead = []) ∧
            t = { s with groups := t.groups, nextId := s.nextId + 1, takes := t.takes } ∧
            t.thread c.guid u.tid = some (u.setPred f.pd true) ∧
            (f.dest = false → (t.group c.guid).map (·.staging) =
              some { g.staging with take := some s.nextId, empty := false, fill := some (i, r.va) })) ∧
        (r.state ≠ .free → r.state ≠ .closed → ready → (r.state = .opened → ¬ room) →
          (f.try_ = true → OneThread s t c u (u.setPred f.pd false)) ∧
          (f.try_ = false → t = s.retry u.tid (if r.state = .opened then .takeRoom [i]
            else .row i (some (if f.dest then some a else none)))))) := by
  refine actsEach_of_engEach _ _ (fun _ => rfl) fun mask s tid c g u ha => ⟨fun hi => ?_, fun r hr => ?_⟩
  · rw [State.rtakeCheck, grant_none hi]
    rfl
  · refine ⟨fun granted => ?_, fun fresh => ⟨fun hd hl => ⟨mask, ?_⟩, fun b hd hl hb => ⟨mask, ?_⟩,
      fun ready hs => ?_, fun ready hs => ?_, fun hs ready room => ?_, fun hf hc ready full => ?_⟩⟩
    · rw [rtakeCheck_granted hr granted]
      have both := oneThread_effect ha (fun v => { v with grant := none }.setPred f.pd true) fun v => setPred_tid _ _ _
      rw [← onThread_onThread s c.guid u.tid (fun v => { v with grant := none }) (fun v => v.setPred f.pd true)
        fun _ => rfl] at both
      exact both
    · rw [rtakeCheck_misplaced hr fresh hd hl]
      rfl
    · rw [rtakeCheck_outside hr fresh hd hl hb]
      rfl
    · rw [rtakeCheck_ready hr fresh ready, if_pos hs, rowTval_eq]
      rfl
    · rw [rtakeCheck_ready hr fresh ready, if_neg (by simp [hs]), if_pos hs, rowTval_eq]
      rfl
    · rw [rtakeCheck_ready hr fresh ready, if_neg (by simp [hs]), if_neg (by simp [hs]), if_pos hs,
        if_pos ((takeRoom_one ..).2 room)]
      obtain ⟨x, id, core, guid, xtid, slot, va, pa, beat, batch, dest, next, data, bad, missed, outcome,
        dead, rest, takes, thread, fill⟩ :=
        rtakeAccept_effect ha f r
      exact ⟨x, takes, id, core, guid, xtid, slot, va, pa, beat, batch, dest, next, data, bad, missed, outcome,
        dead, rest, thread, fill⟩
    · rw [rtakeCheck_ready hr fresh ready, if_neg hf, if_neg hc]
      have noRoom : r.state = .opened → s.takeRoom g.core 1 = false := fun h =>
        Bool.eq_false_iff.2 (mt (takeRoom_one ..).1 (full h))
      have waits : (if r.state = .opened then
          if s.takeRoom g.core 1 then .go (.accept r) else if f.try_ then .go .busy else .wait (.takeRoom [f.slot.toNat])
        else if f.try_ then .go .busy
        else .wait (.row f.slot.toNat (some (if f.dest then some (c.val u f.a).toNat else none)))) =
        if f.try_ then EngRes.go TakeAct.busy else .wait (if r.state = .opened then .takeRoom [f.slot.toNat]
          else .row f.slot.toNat (some (if f.dest then some (c.val u f.a).toNat else none))) := by
        by_cases h : r.state = .opened
        · simp [h, noRoom h]
        · simp [h]
      rw [waits]
      refine ⟨fun ht => ?_, fun ht => ?_⟩
      · rw [if_pos ht]
        exact oneThread_effect ha _ fun v => setPred_tid v _ _
      · rw [if_neg (by simp [ht])]
        rfl

end Sys2Proof.Machine

namespace Sys2Proof.Proofs
open Machine

/-- Settles O44, thread by thread: what the checks of each row instruction find, and what it then does. -/
theorem rowInstructions : Obligations.RowInstructions := by
  unfold Obligations.RowInstructions
  exact ⟨ropen_acts, rclose_acts, rpoll_acts, rtake_acts⟩

end Sys2Proof.Proofs
end

section
/-! Activation, opening, refresh, the open limit, the beats of takes, and the rambler, step by step (R91 to R95, R158, R297). -/

namespace Sys2Proof.Machine

/-! ### Row slots of a core, and their closing by force -/

theorem mem_coreSlots {s : State} (hg : risingFrom 0 s.groups = true) {core k j : Nat} {r : RowSlot} :
    (k, j, r) ∈ s.coreSlots core ↔ ∃ g, s.group k = some g ∧ g.core = core ∧ g.rows[j]? = some r := by
  simp only [State.coreSlots, List.mem_flatMap]
  constructor
  · rintro ⟨⟨i, g⟩, hm, hr⟩
    dsimp only at hr
    split at hr
    · next hc =>
      obtain ⟨⟨x, n⟩, hx, he⟩ := List.mem_map.1 hr
      cases he
      exact ⟨g, mget_of_mem hg hm, hc, List.mem_zipIdx_iff_getElem?.1 hx⟩
    · exact absurd hr List.not_mem_nil
  · rintro ⟨g, hk, hc, hr⟩
    refine ⟨(k, g), mem_of_mget hk, ?_⟩
    rw [if_pos hc]
    exact List.mem_map.2 ⟨(r, j), List.mem_zipIdx_iff_getElem?.2 hr, rfl⟩

theorem holds_pending {r : RowSlot} (h : r.holds = true) : r.pending = true := by simp [RowSlot.pending, h]

/-- The slot of a group at an index. -/
theorem reqSlot_eq {s : State} {k : Nat} {g : Group} (hg : s.group k = some g) (j : Nat) : s.reqSlot ⟨k, j⟩ = g.rows[j]? := by
  rw [State.reqSlot, hg]
  rfl

theorem group_of_reqSlot {s : State} {k j : Nat} {r : RowSlot} (h : s.reqSlot ⟨k, j⟩ = some r) :
    ∃ g, s.group k = some g ∧ g.rows[j]? = some r := Option.bind_eq_some_iff.1 h

theorem SameRows.reqSlot {s t : State} (h : SameRows s t) (q : ActReq) : t.reqSlot q = s.reqSlot q := by
  have := h.rows q.guid
  rw [State.reqSlot, State.reqSlot]
  cases ht : t.group q.guid <;> cases hs : s.group q.guid <;> simp_all [Group.slot]

theorem reqSlot_setSlotOf (s : State) (k i : Nat) (r : RowSlot) (q : ActReq) :
    (s.setSlotOf k i r).reqSlot q = if q = ⟨k, i⟩ then (s.reqSlot q).map fun _ => r else s.reqSlot q := by
  rw [State.reqSlot, State.reqSlot, State.setSlotOf, group_onGroup]
  obtain ⟨j, i'⟩ := q
  by_cases hj : j = k
  · subst hj
    cases s.group j with
    | none => simp
    | some g =>
      by_cases hi : i' = i
      · subst hi
        simp only [if_true, Option.map_some, Option.bind_some, Group.slot, setAt]
        by_cases h : i' < g.rows.length <;> simp [h]
      · simp [hi, Group.slot, setAt, Ne.symm hi]
  · simp [hj]

theorem reqSlot_closeSlot (s : State) (core k i reason : Nat) (r : RowSlot) (q : ActReq) :
    (s.closeSlot core k i reason r).reqSlot q =
      if q = ⟨k, i⟩ then (s.reqSlot q).map fun _ => { r with state := .closed, reason := reason } else s.reqSlot q := by
  rw [State.closeSlot, (sameRows_trapRowWaiters ..).reqSlot]
  exact reqSlot_setSlotOf ..

/-- A list of slots closed one after another: one whose every entry holds it as it stands is closed. -/
theorem reqSlot_closeAll (core reason : Nat) {q : ActReq} {r : RowSlot} (l : List (Nat × Nat × RowSlot)) (s : State)
    (all : ∀ e ∈ l, ⟨e.1, e.2.1⟩ = q → e.2.2 = r)
    (h : (s.reqSlot q).isSome = true ∧ (∃ e ∈ l, ⟨e.1, e.2.1⟩ = q) ∨ s.reqSlot q = some { r with state := .closed, reason := reason }) :
    (l.foldl (fun s (k, i, r) => s.closeSlot core k i reason r) s).reqSlot q =
      some { r with state := .closed, reason := reason } := by
  induction l generalizing s with
  | nil => exact h.resolve_left fun ⟨_, e, he, _⟩ => absurd he List.not_mem_nil
  | cons e l ih =>
    refine ih _ (fun x hx => all x (List.mem_cons_of_mem e hx)) ?_
    have one := reqSlot_closeSlot s core e.1 e.2.1 reason e.2.2 q
    dsimp only
    rw [one]
    by_cases hq : q = ⟨e.1, e.2.1⟩
    · right
      rw [if_pos hq, all e List.mem_cons_self hq.symm]
      rcases h with ⟨stands, -⟩ | closed
      · obtain ⟨x, hx⟩ := Option.isSome_iff_exists.1 stands
        rw [hx, Option.map_some]
      · rw [closed, Option.map_some]
    · rw [if_neg hq]
      refine h.imp_left fun ⟨stands, x, hx, hk⟩ => ⟨stands, x, ?_, hk⟩
      exact (List.mem_cons.1 hx).resolve_left fun e => hq (by rw [← hk, e])

/-- Every slot of the core that a forced close meets is Closed with its REASON (R91, R92). -/
theorem closeRows_closes {s : State} (hg : risingFrom 0 s.groups = true) {core : Nat} (reason : Nat)
    {test : Nat → Nat → RowSlot → Bool} {k i : Nat} {g : Group} {r : RowSlot} (hk : s.group k = some g) (hc : g.core = core)
    (hr : g.rows[i]? = some r) (hp : r.pending = true) (ht : test k i r = true) :
    ∃ y, (s.closeRows core reason test).group k = some y ∧ y.rows[i]? = some { r with state := .closed, reason := reason } := by
  refine group_of_reqSlot (j := i) ?_
  refine reqSlot_closeAll core reason _ s (fun e he hq => ?_) (.inl ⟨?_, (k, i, r), ?_, rfl⟩)
  · obtain ⟨ke, ie, re⟩ := e
    cases hq
    obtain ⟨x, hx, -, hxr⟩ := (mem_coreSlots hg).1 (List.mem_filter.1 he).1
    cases hk.symm.trans hx
    exact Option.some.inj (hxr.symm.trans hr)
  · rw [reqSlot_eq hk, hr]
    rfl
  · exact List.mem_filter.2 ⟨(mem_coreSlots hg).2 ⟨g, hk, hc, hr⟩, by simp [hp, ht]⟩

/-! ### Activation (R93) -/

theorem bankBusy_iff (s : State) (col b row : Nat) : s.bankBusy col b row = true ↔
    (∃ e, mget (s.column col).refresh b = some (.busy e)) ∨
    (∃ e, mget (s.column col).refresh b = some (.grace e) ∧ e ≤ s.stime) ∨ (∃ r, s.openRow col b = some r ∧ r ≠ row) ∨
    mget (s.column col).refresh b = none ∧ s.openRow col b = none ∧ (s.column col).refreshing b s.stime = true := by
  rw [State.bankBusy, Bool.or_eq_true]
  cases mget (s.column col).refresh b with
  | none => cases s.openRow col b <;> simp
  | some x => cases x <;> cases s.openRow col b <;> simp

theorem windowOpen_iff (c : Column) (now : Nat) : c.windowOpen now = true ↔
    ¬ (4 ≤ (c.acts.filter fun a => decide (now < a + 100)).length ∨
      c.allow ≤ (c.acts.filter fun a => decide (now / 2400 = a / 2400)).length) := by
  rw [Column.windowOpen, Bool.and_eq_true, decide_eq_true_iff, decide_eq_true_iff]
  omega

theorem nextRequest_none {s : State} {col : Nat} (h : ∀ p ∈ (s.column col).queue, ∀ x, s.reqSlot p = some x →
    s.bankBusy col ((s.column col).bankOf x.pa) (rowOf x.pa) = true) : s.nextRequest col = none := by
  refine List.findSome?_eq_none_iff.2 fun p hp => ?_
  split
  · next x hx => exact if_pos (h p hp x hx)
  · rfl

theorem nextRequest_first {s : State} {col : Nat} {before after : List ActReq} {q : ActReq} {r : RowSlot}
    (hq : (s.column col).queue = before ++ q :: after)
    (hb : ∀ p ∈ before, ∀ x, s.reqSlot p = some x → s.bankBusy col ((s.column col).bankOf x.pa) (rowOf x.pa) = true)
    (hr : s.reqSlot q = some r) (free : s.bankBusy col ((s.column col).bankOf r.pa) (rowOf r.pa) = false) :
    s.nextRequest col = some (q, r) := by
  rw [State.nextRequest, hq, List.findSome?_append, List.findSome?_eq_none_iff.2, Option.none_or, List.findSome?_cons]
  · simp only [hr, free, Bool.false_eq_true, if_false]
  · intro p hp
    split
    · next x hx => exact if_pos (hb p hp x hx)
    · rfl

/-- The windows of R93 and R100 are full. -/
def Column.full (c : Column) (now : Nat) : Prop :=
  4 ≤ (c.acts.filter fun a => decide (now < a + 100)).length ∨
    c.allow ≤ (c.acts.filter fun a => decide (now / 2400 = a / 2400)).length

theorem activation_none {s : State} {col : Nat} (h : (s.column col).remap.isSome = true ∨ (s.column col).full s.stime ∨
    ∀ p ∈ (s.column col).queue, ∀ x, s.reqSlot p = some x →
      s.bankBusy col ((s.column col).bankOf x.pa) (rowOf x.pa) = true) : s.activation col = none := by
  rw [State.activation]
  split
  · rfl
  · next hn =>
    rw [Bool.or_eq_true, Bool.not_eq_true', not_or, Bool.not_eq_false, windowOpen_iff] at hn
    rcases h with h | h | h
    · exact absurd h hn.1
    · exact absurd h hn.2
    · exact nextRequest_none h

theorem activation_first {s : State} {col : Nat} {before after : List ActReq} {q : ActReq} {r : RowSlot}
    (hm : (s.column col).remap = none) (hw : ¬ (s.column col).full s.stime) (hq : (s.column col).queue = before ++ q :: after)
    (hb : ∀ p ∈ before, ∀ x, s.reqSlot p = some x → s.bankBusy col ((s.column col).bankOf x.pa) (rowOf x.pa) = true)
    (hr : s.reqSlot q = some r) (free : s.bankBusy col ((s.column col).bankOf r.pa) (rowOf r.pa) = false) :
    s.activation col = some (q, r) := by
  rw [State.activation, if_neg, nextRequest_first hq hb hr free]
  rw [hm, (windowOpen_iff ..).2 hw]
  decide

/-- Another slot of the column's core holds the row of a request. -/
def SharesRow (s : State) (col : Nat) (q : ActReq) (row k j : Nat) (h : RowSlot) : Prop :=
  (k ≠ q.guid ∨ j ≠ q.slot) ∧ h.holds = true ∧ rowOf h.pa = row ∧ ∃ x, s.group k = some x ∧ x.core = col ∧ x.rows[j]? = some h

theorem sharesRow_iff {s : State} (hg : risingFrom 0 s.groups = true) {col : Nat} {q : ActReq} {row k j : Nat} {h : RowSlot} :
    SharesRow s col q row k j h ↔ (k, j, h) ∈ s.coreSlots col ∧
      (!(decide (k = q.guid) && decide (j = q.slot)) && h.holds && decide (rowOf h.pa = row)) = true := by
  rw [mem_coreSlots hg, SharesRow]
  simp only [Bool.and_eq_true, Bool.not_eq_true', Bool.and_eq_false_iff, decide_eq_false_iff_not, decide_eq_true_iff]
  tauto

theorem holder_some {s : State} (hg : risingFrom 0 s.groups = true) {col : Nat} {q : ActReq} {row : Nat} {h : RowSlot}
    (e : s.holder col q row = some h) : ∃ k j, SharesRow s col q row k j h := by
  obtain ⟨⟨k, j, r⟩, hf, rfl⟩ := Option.map_eq_some_iff.1 e
  have test : (!(decide (k = q.guid) && decide (j = q.slot)) && r.holds && decide (rowOf r.pa = row)) = true := by
    simpa using List.find?_some hf
  exact ⟨k, j, (sharesRow_iff hg).2 ⟨List.mem_of_find?_eq_some hf, test⟩⟩

theorem holder_none {s : State} (hg : risingFrom 0 s.groups = true) {col : Nat} {q : ActReq} {row k j : Nat} {h : RowSlot}
    (e : s.holder col q row = none) : ¬ SharesRow s col q row k j h := by
  intro hs
  obtain ⟨hm, hp⟩ := (sharesRow_iff hg).1 hs
  exact List.find?_eq_none.1 (Option.map_eq_none_iff.1 e) _ hm hp

/-- A request withdrawn and its slot set. -/
theorem requestTaken_effect {s : State} {k : Nat} {g : Group} (hg : s.group k = some g) (col i : Nat) (r : RowSlot) :
    let t := (s.unqueue col k i).setSlotOf k i r
    t.group k = some { g with rows := g.rows.set i r } ∧ (∀ j, j ≠ k → t.group j = s.group j) ∧
    t = { s with groups := t.groups, columns := t.columns } ∧ (∀ j, j ≠ col → t.column j = s.column j) ∧
    t.column col = { s.column col with queue := (s.column col).queue.filter fun x => decide (x ≠ ⟨k, i⟩) } := by
  have only := onlyGroups_setSlotOf (s.unqueue col k i) k i r
  refine ⟨group_setSlotOf (s := s.unqueue col k i) hg i r, fun j hj => group_setSlotOf_other _ hj i r, ?_, fun j hj => ?_, ?_⟩
  · unfold State.setSlotOf State.onGroup
    split <;> rfl
  · exact (only.column j).trans (column_setColumn_other _ _ hj)
  · refine (only.column col).trans ((column_setColumn_self _ _ _).trans ?_)
    congr 2
    funext x
    obtain ⟨a, b⟩ := x
    by_cases ha : a = k <;> by_cases hb : b = i <;> simp [ha, hb]

theorem rowActivation_acts {s : State} (hg : risingFrom 0 s.groups = true) {col : Nat} {before after : List ActReq} {q : ActReq}
    {r : RowSlot} {g : Group} (hm : (s.column col).remap = none) (hw : ¬ (s.column col).full s.stime)
    (hq : (s.column col).queue = before ++ q :: after)
    (hb : ∀ p ∈ before, ∀ x, s.reqSlot p = some x → s.bankBusy col ((s.column col).bankOf x.pa) (rowOf x.pa) = true)
    (hk : s.group q.guid = some g) (hr : g.rows[q.slot]? = some r)
    (free : s.bankBusy col ((s.column col).bankOf r.pa) (rowOf r.pa) = false) :
    ∃ t y, exec (.rowActivation col) s = .next t ∧
      t.group q.guid = some y ∧ y = { g with rows := y.rows } ∧ (∀ k, k ≠ q.guid → t.group k = s.group k) ∧
      t = { s with groups := t.groups, columns := t.columns } ∧ (∀ k, k ≠ col → t.column k = s.column k) ∧
      (t.column col).queue = (s.column col).queue.filter (fun x => decide (x ≠ q)) ∧
      ((∃ k j h, SharesRow s col q (rowOf r.pa) k j h) → ∃ k j h, SharesRow s col q (rowOf r.pa) k j h ∧
        y.rows = g.rows.set q.slot { r with state := .activating, since := h.since }) ∧
      ((∀ k j h, ¬ SharesRow s col q (rowOf r.pa) k j h) →
        y.rows = g.rows.set q.slot { r with state := .activating, since := s.stime } ∧
        (t.column col).activations = (s.column col).activations + 1 ∧ s.stime ∈ (t.column col).acts ∧
        ∀ a, s.stime < a + 2400 → a ∈ (s.column col).acts → a ∈ (t.column col).acts) := by
  have first : s.activation col = some (q, r) := activation_first hm hw hq hb ((reqSlot_eq hk q.slot).trans hr) free
  cases hh : s.holder col q (rowOf r.pa) with
  | some h =>
    have run : execRowActivation col s =
        .next ((s.unqueue col q.guid q.slot).setSlotOf q.guid q.slot { r with state := .activating, since := h.since }) := by
      simp only [execRowActivation, first, hh]
    obtain ⟨k, j, shares⟩ := holder_some hg hh
    obtain ⟨hy, others, rest, columns, column⟩ := requestTaken_effect hk col q.slot { r with state := .activating, since := h.since }
    exact ⟨_, _, run, hy, rfl, others, rest, columns, congrArg Column.queue column, fun _ => ⟨k, j, h, shares, rfl⟩,
      fun none => absurd shares (none k j h)⟩
  | none =>
    have alone : ∀ k j h, ¬ SharesRow s col q (rowOf r.pa) k j h := fun k j h => holder_none hg hh
    obtain ⟨hy, others, rest, columns, column⟩ := requestTaken_effect hk col q.slot { r with state := .activating, since := s.stime }
    have run : execRowActivation col s = .next
        (((s.unqueue col q.guid q.slot).setSlotOf q.guid q.slot { r with state := .activating, since := s.stime }).setColumn col
          { (s.unqueue col q.guid q.slot).column col with
            acts := s.stime :: ((s.unqueue col q.guid q.slot).column col).acts.filter fun a => decide (s.stime < a + 2400)
            activations := ((s.unqueue col q.guid q.slot).column col).activations + 1 }) := by
      simp only [execRowActivation, first, hh]
    have unqueued : (s.unqueue col q.guid q.slot).column col = _ := column_setColumn_self ..
    refine ⟨_, _, run, hy, rfl, others, ?_, fun k hk => (column_setColumn_other _ _ hk).trans (columns k hk), ?_,
      fun ⟨k, j, h, shares⟩ => absurd shares (alone k j h), fun _ => ⟨rfl, ?_⟩⟩
    · exact congrArg (fun t : State => t.setColumn col _) rest
    · rw [column_setColumn_self]
      exact congrArg Column.queue ((onlyGroups_setSlotOf ..).column col ▸ column)
    · rw [column_setColumn_self, unqueued]
      refine ⟨rfl, List.mem_cons_self, fun a ha hm => List.mem_cons_of_mem _ (List.mem_filter.2 ⟨hm, decide_eq_true ha⟩)⟩

/-! ### Opening (R91) -/

theorem sameRows_acceptTake (s : State) (core k tid i : Nat) (r : RowSlot) (dest : TakeDest) :
    SameRows s (s.acceptTake core k tid i r dest) := by
  unfold State.acceptTake
  split
  · exact .refl s
  · cases dest with
    | staging =>
      dsimp only
      refine ⟨(sameRows_onGroup _ k ?_).rows⟩
      exact fun _ => rfl
    | _ => exact ⟨fun _ => rfl⟩

theorem sameRows_acceptParked (s : State) (k i : Nat) (w : Nat × Nat × Wait × Point) : SameRows s (s.acceptParked k i w) := by
  unfold State.acceptParked
  dsimp only
  split
  · split
    · exact .refl s
    · split
      · split
        · exact ((sameRows_acceptTake ..).trans (sameRows_wake ..)).trans (sameRows_onThread ..)
        · exact sameRows_onThread ..
      · exact sameRows_wake ..
  · split
    · exact sameRows_wake ..
    · exact .refl s
  · exact .refl s

/-- What the threads of a state wait for does not read the row slots. -/
theorem waiters_setSlotOf (s : State) (k i : Nat) (r : RowSlot) : (s.setSlotOf k i r).waiters = s.waiters := by
  have byThreads : ∀ u : State, u.waiters = (u.groups.map fun p => (p.1, p.2.threads)).flatMap fun (g, ts) =>
      ts.filterMap fun t => match t.run with
        | .parked w p _ => some (g, t.tid, w, p)
        | _ => none := fun u => by
    rw [List.flatMap_map]
    rfl
  rw [byThreads, byThreads, State.setSlotOf, State.onGroup]
  split
  · next g hg => exact congrArg (List.flatMap _) (map_mset (y := { g with rows := setAt g.rows i r }) Group.threads hg rfl)
  · rfl

theorem rowReady_acts {s : State} {k i : Nat} {g : Group} {r : RowSlot} (hk : s.group k = some g) (hr : g.rows[i]? = some r)
    (ha : r.state = .activating) (ht : r.since + 36 ≤ s.stime) :
    ∃ t y, exec (.rowReady k i) s = .next t ∧ t.group k = some y ∧ y.rows = g.rows.set i { r with state := .opened } ∧
      (s.waiters = [] → y = { g with rows := y.rows } ∧ t = { s with groups := t.groups }) := by
  have opened := group_setSlotOf hk i { r with state := .opened }
  have run : execRowReady k i s = .next ((s.setSlotOf k i { r with state := .opened }).waiters.foldl
      (fun s w => s.acceptParked k i w) (s.setSlotOf k i { r with state := .opened })) := by
    rw [execRowReady, show ((s.group k).bind fun g => g.slot i) = some r from (reqSlot_eq hk i).trans hr]
    simp only [ha, ht, and_self, if_true]
  obtain ⟨y, hy, rows⟩ := (SameRows.foldl (fun t w => sameRows_acceptParked t k i w) _ _).group opened
  refine ⟨_, y, run, hy, rows, fun hw => ?_⟩
  rw [waiters_setSlotOf, hw] at hy ⊢
  cases opened.symm.trans hy
  exact ⟨rfl, (onlyGroups_setSlotOf ..).rest⟩

/-! ### Refresh and the open limit (R92, R94) -/

theorem refreshDueNow_of {s : State} {col b : Nat}
    (hd : s.stime % (if (s.column col).doubledAt b s.stime then 4680 else 9360) =
      (if (s.column col).doubledAt b s.stime then 195 else 390) * b)
    (hl : (s.column col).live.getLsbD b = true) (hr : mget (s.column col).refresh b = none) : s.refreshDueNow col b = true := by
  have due : (s.column col).sinceDue b s.stime = 0 := by
    rw [Column.sinceDue]
    split at hd
    · next h =>
      rw [if_pos h]
      omega
    · next h =>
      rw [if_neg h]
      omega
  simp [State.refreshDueNow, Column.refreshAt, due, hl, hr]

theorem setRefresh_effect (s : State) (col b : Nat) (x : RefreshState) :
    let t := s.setRefresh col b (some x)
    t = { s with columns := t.columns } ∧ (∀ k, k ≠ col → t.column k = s.column k) ∧
    t.column col = { s.column col with refresh := mset (s.column col).refresh b x } :=
  ⟨rfl, fun _ hk => column_setColumn_other _ _ hk, column_setColumn_self ..⟩

theorem refreshDue_acts {s : State} {col b : Nat} (h : s.refreshDueNow col b = true) :
    ∃ t, exec (.refreshDue col b) s = .next t ∧ t = { s with columns := t.columns } ∧ (∀ k, k ≠ col → t.column k = s.column k) ∧
      ∃ r, r = (if (s.openRow col b).isSome then RefreshState.grace (s.stime + 200) else .busy (s.stime + 280)) ∧
        t.column col = { s.column col with refresh := mset (s.column col).refresh b r } := by
  have run : execRefreshDue col b s = .next (s.setRefresh col b
      (some (if (s.openRow col b).isSome then RefreshState.grace (s.stime + 200) else .busy (s.stime + 280)))) := by
    simp only [execRefreshDue, h, Bool.not_true, Bool.false_eq_true, if_false]
    cases s.openRow col b <;> rfl
  obtain ⟨rest, others, column⟩ := setRefresh_effect s col b
    (if (s.openRow col b).isSome then RefreshState.grace (s.stime + 200) else .busy (s.stime + 280))
  exact ⟨_, run, rest, others, _, rfl, column⟩

theorem ClosesRows.bankOf {col : Nat} {s t : State} (h : ClosesRows col s t) (pa : Nat) :
    (t.column col).bankOf pa = (s.column col).bankOf pa := by
  rw [h.column]
  rfl

theorem ClosesRows.stime {col : Nat} {s t : State} (h : ClosesRows col s t) : t.stime = s.stime := by
  rw [h.rest]

theorem ClosesRows.bankTaking {col : Nat} {s t : State} (h : ClosesRows col s t) (b : Nat) :
    t.bankTaking col b = s.bankTaking col b := by
  have takes : t.takes = s.takes := (congrArg State.takes h.rest).trans rfl
  simp only [State.bankTaking, takes, h.bankOf]

theorem refreshGraceEnd_acts {s : State} (hg : risingFrom 0 s.groups = true) {col b e : Nat}
    (hr : mget (s.column col).refresh b = some (.grace e)) (he : e ≤ s.stime) (ht : s.bankTaking col b = false) :
    ∃ t, exec (.refreshGraceEnd col b) s = .next t ∧ mget (t.column col).refresh b = some (.busy (s.stime + 280)) ∧
      ∀ (k : Nat) (g : Group) (i : Nat) (r : RowSlot), s.group k = some g → g.core = col → g.rows[i]? = some r → r.holds = true →
        (s.column col).bankOf r.pa = b → ∃ y, t.group k = some y ∧ y.rows[i]? = some { r with state := .closed, reason := 1 } := by
  have ends : s.graceEnds col b = true := by simp [State.graceEnds, hr, he, ht]
  have closes := closesRows_closeRows s col 1 fun _ _ r => r.holds && decide ((s.column col).bankOf r.pa = b)
  have run : execRefreshGraceEnd col b s = .next ((s.closeRows col 1 fun _ _ r => r.holds && decide ((s.column col).bankOf r.pa = b))
      |>.setRefresh col b (some (.busy ((s.closeRows col 1 fun _ _ r => r.holds &&
        decide ((s.column col).bankOf r.pa = b)).stime + 280)))) := by
    simp only [execRefreshGraceEnd, ends, Bool.not_true, Bool.false_eq_true, if_false, closes.bankTaking, ht]
    rw [closes.stime]
  refine ⟨_, run, ?_, fun k g i r hk hc hi hh hb => ?_⟩
  · rw [(setRefresh_effect ..).2.2, mget_mset_self, closes.stime]
  · exact closeRows_closes hg 1 (test := fun _ _ r => r.holds && decide ((s.column col).bankOf r.pa = b)) hk hc hi
      (holds_pending hh) (by simp [hh, hb])

theorem refreshEnd_acts {s : State} {col b e : Nat} (hr : mget (s.column col).refresh b = some (.busy e)) (he : e ≤ s.stime) :
    ∃ t, exec (.refreshEnd col b) s = .next t ∧ t = { s with columns := t.columns } ∧
      t.column col = { s.column col with refresh := mdel (s.column col).refresh b } := by
  have run : execRefreshEnd col b s = .next (s.setRefresh col b none) := by
    simp only [execRefreshEnd, hr, if_pos he]
  exact ⟨_, run, rfl, column_setColumn_self ..⟩

theorem openLimitReached_acts {s : State} (hg : risingFrom 0 s.groups = true) {k i : Nat} {g : Group} {r : RowSlot}
    (hk : s.group k = some g) (hr : g.rows[i]? = some r) (ho : r.state = .opened)
    (hl : r.since + (if (s.column g.core).doubledAt ((s.column g.core).bankOf r.pa) s.stime then 4680 else 9360) ≤ s.stime) :
    ∃ t y, exec (.openLimitReached k i) s = .next t ∧ t.group k = some y ∧
      y.rows[i]? = some { r with state := .closed, reason := 2 } := by
  have reached : s.limitReached g.core r = true := by
    rw [State.limitReached, Bool.and_eq_true]
    exact ⟨decide_eq_true ho, decide_eq_true hl⟩
  have holds : r.holds = true := by simp [RowSlot.holds, ho]
  have run : execOpenLimitReached k i s =
      .next (s.closeRows g.core 2 fun _ _ x => x.holds && decide (rowOf x.pa = rowOf r.pa)) := by
    simp only [execOpenLimitReached, hk, Group.slot, hr, reached, if_true]
  obtain ⟨y, hy, closed⟩ := closeRows_closes hg 2 (test := fun _ _ x => x.holds && decide (rowOf x.pa = rowOf r.pa)) hk rfl hr
    (holds_pending holds) (by simp [holds])
  exact ⟨_, y, run, hy, closed⟩

end Sys2Proof.Machine
end

section
namespace Sys2Proof.Machine

/-! ### Writes of bytes in a row -/

theorem write_append (s : State) (k : Nat) (bs cs : List Byte) :
    (s.write k bs).write (k + bs.length) cs = s.write k (bs ++ cs) := by
  suffices h : ∀ (m : List Host.Cell) (k : Nat), memWrite s.noisy (memWrite s.noisy m k bs) (k + bs.length) cs =
      memWrite s.noisy m k (bs ++ cs) from congrArg (fun m => { s with mem := m }) (h s.mem k)
  induction bs with
  | nil => intro m k; rfl
  | cons b bs ih =>
    intro m k
    rw [List.length_cons, Nat.add_comm bs.length, ← Nat.add_assoc]
    exact ih _ _

/-- A run of bytes written in pieces of `w` bytes. -/
theorem write_pieces (s : State) (k w : Nat) (bs : List Byte) (n : Nat) (hn : n * w ≤ bs.length) :
    (List.range n).foldl (fun s j => s.write (k + j * w) ((bs.drop (j * w)).take w)) s = s.write k (bs.take (n * w)) := by
  induction n with
  | zero => simp [State.write, memWrite]
  | succ n ih =>
    have hl : (bs.take (n * w)).length = n * w := by
      rw [List.length_take, Nat.min_eq_left]
      have := Nat.add_one_mul n w
      omega
    rw [List.range_succ, List.foldl_append, ih (by have := Nat.add_one_mul n w; omega), List.foldl_cons, List.foldl_nil]
    have := write_append s k (bs.take (n * w)) ((bs.drop (n * w)).take w)
    rw [hl] at this
    rw [this, Nat.add_one_mul, List.take_add]

theorem length_bytes (s : State) (k n : Nat) : (s.bytes k n).length = n := by
  rw [← map_byte_upFrom, List.length_map, upFrom, List.length_map, List.length_range]

/-! ### The beats of a take (R95, R297) -/

/-- An earlier access of its thread holds the beats of a take. -/
def Take.heldBy (x : Take) (a : Access) : Prop :=
  a.guid = x.guid ∧ a.id < x.id ∧ ∃ l ∈ a.lanes, l.tid = x.tid ∧
    (a.kind.holdsLoads = true ∨ rowOf x.pa < l.pa + 16 ∧ l.pa < rowOf x.pa + 4096)

theorem beforeTake_iff (s : State) (x : Take) : s.beforeTake x = true ↔ ∃ a ∈ s.accesses, x.heldBy a := by
  simp only [State.beforeTake, List.any_eq_true, Take.heldBy, overlaps, Bool.and_eq_true, Bool.or_eq_true, decide_eq_true_iff,
    and_assoc]

theorem firstFill_iff (s : State) (x : Take) :
    s.firstFill x = true ↔ ∀ y ∈ s.takes, y.id < x.id → y.guid = x.guid → y.dest ≠ .staging := by
  simp only [State.firstFill, List.all_eq_true, Bool.not_eq_true', Bool.and_eq_false_iff, decide_eq_false_iff_not]
  refine forall₂_congr fun y _ => ?_
  tauto

theorem beat_waits {s : State} {x : Take} (hf : s.takes.find? (fun y => decide (y.id = x.id)) = some x)
    (h : s.beatReady x = false) : exec (.rtakeBeat x.id) s = .next s := by
  have run : execRtakeBeat x.id s = .next s := by
    simp only [execRtakeBeat, hf, h, Bool.false_eq_true, if_false]
  exact run

theorem beat_runs {s : State} {x : Take} (hf : s.takes.find? (fun y => decide (y.id = x.id)) = some x)
    (h : s.beatReady x = true) : exec (.rtakeBeat x.id) s = .next (s.beat x) := by
  have run : execRtakeBeat x.id s = .next (s.beat x) := by
    simp only [execRtakeBeat, hf, h, if_true]
  exact run

/-- A beat that can be read goes to where its take delivers. -/
theorem beat_good {s : State} {x : Take} (hb : s.badAt (x.pa + x.beat * 512) 512 = false) (hn : NetMark.item x.id ∉ s.netBad) :
    s.beat x =
      let bs := s.bytes (x.pa + x.beat * 512) 512
      let t := s.deliverBeat x bs true
      if x.beat + 1 = 8 then t.endTake (x.after s.stime bs true)
      else { t with takes := t.takes.map fun y => if y.id = x.id then x.after s.stime bs true else y } := by
  have unmarked : s.marked (.item x.id) = false := Bool.eq_false_iff.2 (mt marked_iff.1 hn)
  rw [State.beat, unmarked, hb]
  rfl

theorem after_good_pad {x : Take} {a : Nat} (hx : x.dest = .pad a) (hd : x.dead = []) (now : Nat) (bs : List Byte) :
    x.after now bs true = { x with beat := x.beat + 1, nextAt := now + 1 } := by
  simp [Take.after, hx, hd]

theorem after_good_staging {x : Take} (hx : x.dest = .staging) (now : Nat) (bs : List Byte) :
    x.after now bs true = { x with beat := x.beat + 1, nextAt := now + 1, data := (x.beat, bs) :: x.data } := by
  simp [Take.after, hx]

theorem after_bad (x : Take) (now : Nat) (bs : List Byte) : x.after now bs false =
    { x with beat := x.beat + 1, nextAt := now + 1, bad := true, missed := x.missed ++ [x.beat], outcome := max x.outcome 5 } := by
  simp [Take.after, outData]

theorem deliverBeat_pad {s : State} {x : Take} {a : Nat} (hx : x.dest = .pad a) (hd : x.dead = []) {bs : List Byte}
    (hl : bs.length = 512) : s.deliverBeat x bs true = s.write (padKey x.core a + x.beat * 512) bs := by
  have pieces := write_pieces s (padKey x.core a + x.beat * 512) 128 bs 4 (by omega)
  rw [List.take_of_length_le (by omega)] at pieces
  rw [← pieces, State.deliverBeat, hx]
  simp only [Bool.not_true, Bool.false_eq_true, if_false, hd, List.contains_nil]
  simp only [padKey, Nat.add_assoc]

theorem endTake_takes (s : State) (x : Take) : (s.endTake x).takes = s.takes.filter fun y => decide (y.id ≠ x.id) := by
  unfold State.endTake
  dsimp only
  split
  · exact State.onThread_takes ..
  · rfl
  · exact State.onGroup_takes ..

theorem sameRows_endTake (s : State) (x : Take) : SameRows s (s.endTake x) := by
  unfold State.endTake
  dsimp only
  split
  · exact ⟨(sameRows_onThread ..).rows⟩
  · exact ⟨fun _ => rfl⟩
  · refine ⟨(sameRows_onGroup _ _ ?_).rows⟩
    intro g
    split <;> rfl

theorem deliverBeat_bad (s : State) (x : Take) (bs : List Byte) :
    s.deliverBeat x bs false = { s with engs := (s.deliverBeat x bs false).engs } := by
  unfold State.deliverBeat
  split <;> rfl

theorem dataError_rest (s : State) (core tenant : Nat) (gid tid : Word) (addr access : Nat) :
    let t := s.dataError core tenant gid tid addr access
    t = { s with columns := t.columns, dieQ := t.dieQ, nextToken := t.nextToken } := by
  intro t
  have rest : t = _ := countError_rest (s.place_ (dieOfEntry core) (engineError core tenant gid tid addr access))
    (engineError core tenant gid tid addr access)
  rw [rest]
  rfl

/-- A beat that cannot be corrected has its row closed by force in a state of the same groups and takes, and then its take left as it is
after the beat. -/
theorem beatAs_bad (s : State) (x : Take) : ∃ u : State, u.groups = s.groups ∧ u.takes = s.takes ∧
    let t := u.closeRows x.core 6 fun _ _ r => r.holds && decide (rowOf r.pa = rowOf x.pa)
    let y := x.after s.stime (s.bytes (x.pa + x.beat * 512) 512) false
    s.beatAs x false = if y.beat = 8 then t.endTake y else { t with takes := t.takes.map fun z => if z.id = x.id then y else z } := by
  have delivered := deliverBeat_bad s x (s.bytes (x.pa + x.beat * 512) 512)
  refine ⟨_, ?_, ?_, rfl⟩
  · rw [dataError_rest, delivered]
  · rw [dataError_rest, delivered]

/-- What a beat that cannot be corrected leaves of rows and takes, wherever its error was met. -/
theorem beat_bad {s : State} {x : Take} (hb : s.badAt (x.pa + x.beat * 512) 512 = true ∨ NetMark.item x.id ∈ s.netBad) :
    (s.beat x).groups = (s.beatAs x false).groups ∧ (s.beat x).takes = (s.beatAs x false).takes := by
  by_cases hn : NetMark.item x.id ∈ s.netBad
  · rw [State.beat, if_pos (marked_iff.2 hn), State.unmark]
    split <;> exact ⟨rfl, rfl⟩
  · rw [State.beat, if_neg (mt marked_iff.1 hn), hb.resolve_right hn]
    exact ⟨rfl, rfl⟩

section
variable {s : State} {x : Take} (hf : s.takes.find? (fun y => decide (y.id = x.id)) = some x)
include hf

theorem beat_closes (hg : risingFrom 0 s.groups = true) (hw : x.nextAt ≤ s.stime) (hh : ¬ ∃ a ∈ s.accesses, x.heldBy a)
    (hb : s.badAt (x.pa + x.beat * 512) 512 = true ∨ NetMark.item x.id ∈ s.netBad) (hr : s.roomFor x.core = true)
    (hs : x.dest = .staging → s.firstFill x = true) : ∃ t, exec (.rtakeBeat x.id) s = .next t ∧
    (∀ (k : Nat) (g : Group) (i : Nat) (r : RowSlot), s.group k = some g → g.core = x.core → g.rows[i]? = some r →
      r.holds = true → rowOf r.pa = rowOf x.pa →
      ∃ y, t.group k = some y ∧ y.rows[i]? = some { r with state := .closed, reason := 6 }) ∧
    (x.beat < 7 → t.takes = s.takes.map fun y => if y.id = x.id then { x with
      beat := x.beat + 1, nextAt := s.stime + 1, bad := true, missed := x.missed ++ [x.beat], outcome := max x.outcome 5 } else y) := by
  have ready : s.beatReady x = true := by
    simp only [State.beatReady, decide_eq_true hw, hr, Bool.true_or, Bool.eq_false_iff.2 (mt (beforeTake_iff s x).1 hh)]
    by_cases h : x.dest = .staging <;> simp [h, hs]
  obtain ⟨groups, takes⟩ := beat_bad hb
  obtain ⟨u, hu, hut, he⟩ := beatAs_bad s x
  refine ⟨_, beat_runs hf ready, fun k g i r hk hc hi hh hrow => ?_, fun h7 => ?_⟩
  · obtain ⟨y, hy, closed⟩ := closeRows_closes (s := u) (hu ▸ hg) 6 (test := fun _ _ r => r.holds && decide (rowOf r.pa = rowOf x.pa))
      (g := g) (by rw [State.group, hu]; exact hk) hc hi (holds_pending hh) (by simp [hh, hrow])
    have same : SameRows (u.closeRows x.core 6 fun _ _ r => r.holds && decide (rowOf r.pa = rowOf x.pa)) (s.beat x) := by
      refine ⟨fun j => ?_⟩
      rw [State.group, groups, he]
      split
      · exact (sameRows_endTake ..).rows j
      · rfl
    obtain ⟨z, hz, rows⟩ := same.group hy
    exact ⟨z, hz, by rw [rows, closed]⟩
  · rw [takes, he, if_neg (by simp [Take.after]; omega), after_bad]
    exact congrArg (List.map _) ((congrArg State.takes (closesRows_closeRows u x.core 6 _).rest).trans hut)

end

end Sys2Proof.Machine
end

section
namespace Sys2Proof.Machine

section
variable {s : State} {x : Take} (hf : s.takes.find? (fun y => decide (y.id = x.id)) = some x)
include hf

theorem beat_held (h : s.stime < x.nextAt ∨ ∃ a ∈ s.accesses, x.heldBy a) : exec (.rtakeBeat x.id) s = .next s := by
  refine beat_waits hf ?_
  rcases h with h | h
  · simp [State.beatReady, h]
  · simp [State.beatReady, (beforeTake_iff s x).2 h]

theorem beat_follows (hx : x.dest = .staging) (h : ∃ y ∈ s.takes, y.id < x.id ∧ y.guid = x.guid ∧ y.dest = .staging) :
    exec (.rtakeBeat x.id) s = .next s := by
  obtain ⟨y, hy, earlier, guid, dest⟩ := h
  have later : s.firstFill x = false := Bool.eq_false_iff.2 fun h => (firstFill_iff s x).1 h y hy earlier guid dest
  exact beat_waits hf (by simp [State.beatReady, hx, later])

variable (hw : x.nextAt ≤ s.stime) (hh : ¬ ∃ a ∈ s.accesses, x.heldBy a)
  (hb : s.badAt (x.pa + x.beat * 512) 512 = false) (hn : NetMark.item x.id ∉ s.netBad)
include hw hh hb hn

theorem beat_delivers (hs : x.dest = .staging → s.firstFill x = true) : exec (.rtakeBeat x.id) s =
    .next (let bs := s.bytes (x.pa + x.beat * 512) 512
      let t := s.deliverBeat x bs true
      if x.beat + 1 = 8 then t.endTake (x.after s.stime bs true)
      else { t with takes := t.takes.map fun y => if y.id = x.id then x.after s.stime bs true else y }) := by
  have unmarked : s.marked (.item x.id) = false := Bool.eq_false_iff.2 (mt marked_iff.1 hn)
  have ready : s.beatReady x = true := by
    simp only [State.beatReady, State.beatBad, decide_eq_true hw, hb, unmarked, Bool.eq_false_iff.2 (mt (beforeTake_iff s x).1 hh)]
    by_cases h : x.dest = .staging <;> simp [h, hs]
  rw [beat_runs hf ready, beat_good hb hn]

theorem beat_toPad (hm : MemOk s) {a : Nat} (hx : x.dest = .pad a) (hd : x.dead = []) : ∃ t m, exec (.rtakeBeat x.id) s = .next t ∧
    Writes s m (padKey x.core a + x.beat * 512) (s.bytes (x.pa + x.beat * 512) 512) ∧
    (x.beat ≠ 7 → t = { m with takes := s.takes.map fun y => if y.id = x.id then
      { x with beat := x.beat + 1, nextAt := s.stime + 1 } else y }) ∧
    (x.beat = 7 → t.takes = s.takes.filter fun y => decide (y.id ≠ x.id)) := by
  have run := beat_delivers hf hw hh hb hn fun h => absurd (hx.symm.trans h) (by simp)
  simp only [deliverBeat_pad hx hd (length_bytes ..), after_good_pad hx hd] at run
  have written := writes_write hm (padKey x.core a + x.beat * 512) (s.bytes (x.pa + x.beat * 512) 512)
  generalize s.bytes (x.pa + x.beat * 512) 512 = bs at run written ⊢
  by_cases h7 : x.beat = 7
  · rw [if_pos (by omega)] at run
    exact ⟨_, _, run, written, fun h => absurd h7 h, fun _ => endTake_takes ..⟩
  · rw [if_neg (by omega)] at run
    exact ⟨_, _, run, written, fun _ => rfl, fun h => absurd h h7⟩

theorem beat_toStaging (hx : x.dest = .staging) (hs : ∀ y ∈ s.takes, y.id < x.id → y.guid = x.guid → y.dest ≠ .staging)
    (h7 : x.beat ≠ 7) : exec (.rtakeBeat x.id) s = .next { s with takes := s.takes.map fun y => if y.id = x.id then
      { x with beat := x.beat + 1, nextAt := s.stime + 1
               data := (x.beat, s.bytes (x.pa + x.beat * 512) 512) :: x.data } else y } := by
  rw [beat_delivers hf hw hh hb hn fun _ => (firstFill_iff s x).2 hs]
  simp only [if_neg (show x.beat + 1 ≠ 8 by omega), after_good_staging hx]
  rw [State.deliverBeat, hx]

theorem beat_fillsStaging (hx : x.dest = .staging) (hs : ∀ y ∈ s.takes, y.id < x.id → y.guid = x.guid → y.dest ≠ .staging)
    (h7 : x.beat = 7) : ∃ t, exec (.rtakeBeat x.id) s = .next t ∧ t.takes = s.takes.filter (fun y => decide (y.id ≠ x.id)) ∧
    (∀ g, s.group x.guid = some g → g.staging.take = some x.id → (t.group x.guid).map (·.staging) =
      some { g.staging with data := (7, s.bytes (x.pa + x.beat * 512) 512) :: x.data, bad := x.bad }) ∧
    ∀ e p bad, e ∈ s.engs → e.guid = x.guid → e.op = .mx p none bad →
      { e with op := .mx p (some ((7, s.bytes (x.pa + x.beat * 512) 512) :: x.data)) x.bad } ∈ t.engs := by
  have run := beat_delivers hf hw hh hb hn fun _ => (firstFill_iff s x).2 hs
  simp only [if_pos (show x.beat + 1 = 8 by omega), after_good_staging hx] at run
  have still : s.deliverBeat x (s.bytes (x.pa + x.beat * 512) 512) true = s := by rw [State.deliverBeat, hx]
  rw [still] at run
  refine ⟨_, run, ?_, fun g hg ht => ?_, fun e p bad he hguid hop => ?_⟩
  · exact endTake_takes ..
  · simp only [State.endTake, hx]
    refine (congrArg (Option.map Group.staging)
      (onGroup_oneGroup (s := { s with takes := s.takes.filter _, engs := s.engs.map _ }) hg _).group).trans ?_
    simp only [ht, if_true, h7, Option.map_some]
  · simp only [State.endTake, hx]
    rw [State.onGroup_engs]
    refine List.mem_map.2 ⟨e, he, ?_⟩
    simp only [hguid, ne_eq, not_true, if_false, hop, h7]

end

/-! ### The rambler (R158) -/

section
variable {s : State} {die : Nat} {e : Enrolled} (he : s.enrolled.find? (fun x => decide (x.die = die)) = some e)

/-- The table of an enrolment. -/
def State.enrolledTable (s : State) (e : Enrolled) : KvTable :=
  { core := noCore, tenant := e.tenant, desc := e.desc, descPa := e.descPa, n := s.devNum e.descPa 64 }

include he

theorem rambler_waits (hk : s.kvEntry (s.enrolledTable e) e.next 0 = .error .wait) : exec (.ramblerCheck die) s = .next s := by
  have run : execRamblerCheck die s = .next s := by
    rw [execRamblerCheck, he]
    rw [State.enrolledTable] at hk
    simp only [hk]
  exact run

theorem rambler_passes {k : KvStop} (hk : s.kvEntry (s.enrolledTable e) e.next 0 = .error k) (hn : k ≠ .wait) :
    exec (.ramblerCheck die) s = .next (s.nextTurn e (s.enrolledTable e).nblk) := by
  have run : execRamblerCheck die s = .next (s.nextTurn e (s.enrolledTable e).nblk) := by
    rw [execRamblerCheck, he]
    rw [State.enrolledTable] at hk
    simp only [hk]
    rfl
  exact run

variable {x : KvEntry} (hx : s.kvEntry (s.enrolledTable e) e.next 0 = .ok x)
include hx

theorem rambler_reads (hr : e.read = none) : exec (.ramblerCheck die) s = .next (if x.state = 1 ∧ x.pend = false then
    s.rambleRead e (s.enrolledTable e) x else s.nextTurn e (s.enrolledTable e).nblk) := by
  have run : execRamblerCheck die s = .next (if x.state = 1 ∧ x.pend = false then
      s.rambleRead e (s.enrolledTable e) x else s.nextTurn e (s.enrolledTable e).nblk) := by
    rw [execRamblerCheck, he]
    rw [State.enrolledTable] at hx ⊢
    simp only [hx, hr]
  exact run

theorem rambler_acts {r : RamblerRead} (hr : e.read = some r) :
    exec (.ramblerCheck die) s = .next ((s.rambleAct x r).nextTurn e (s.enrolledTable e).nblk) := by
  have run : execRamblerCheck die s = .next ((s.rambleAct x r).nextTurn e (s.enrolledTable e).nblk) := by
    rw [execRamblerCheck, he]
    rw [State.enrolledTable] at hx ⊢
    simp only [hx, hr]
  exact run

end

end Sys2Proof.Machine
end

section
namespace Sys2Proof.Machine

theorem rambleRead_block {s : State} {e : Enrolled} {t : KvTable} {x : KvEntry} {bs : List Byte} (h : s.kvBlock t e.next = .ok bs) :
    s.rambleRead e t x = { s with enrolled := s.enrolled.map fun y => if y = e then
      { e with read := some ⟨e.next, x.seq, x.lblk, x.crc, decide ((crc32c bs).toNat ≠ x.crc)⟩ } else y } := by
  simp only [State.rambleRead, h]

theorem rambleRead_wait {s : State} {e : Enrolled} {t : KvTable} {x : KvEntry} (h : s.kvBlock t e.next = .error .wait) :
    s.rambleRead e t x = s := by
  simp only [State.rambleRead, h]

/-- What the rambler has read of its next entry, noted with its enrolment. -/
def State.noteRead (s : State) (e : Enrolled) (r : RamblerRead) : State :=
  { s with enrolled := s.enrolled.map fun y => if y = e then { e with read := some r } else y }

/-- A block that cannot be corrected is one that fails, and an entry for its die's fault queue. -/
theorem rambleRead_bad {s : State} {e : Enrolled} {t : KvTable} {x : KvEntry} {va : Nat}
    (h : s.kvBlock t e.next = .error (.trap 0x21 va)) (hd : s.dieRoom e.die = true) (hq : s.heldFaults = []) :
    let r : RamblerRead := ⟨e.next, x.seq, x.lblk, x.crc, true⟩
    (s.rambleRead e t x).enrolled = (s.noteRead e r).enrolled ∧
    (s.rambleRead e t x).dieQ.getLast?.map (fun q => (q.1, q.2.kind, q.2.cause, q.2.addr)) = some (e.die, 3, 0x21, va) := by
  intro r
  let f : FaultEntry := { FaultEntry.blank with kind := 3, cause := 0x21, tenant := e.tenant, addr := va }
  have noted : s.rambleRead e t x = ((s.noteRead e r).postFault e.die f).countError f := by
    rw [State.rambleRead, h]
    rfl
  rw [noted, countError_rest, postFault_room (s := s.noteRead e r) hd (fun x hx => absurd (hq ▸ hx) List.not_mem_nil) rfl]
  refine ⟨rfl, ?_⟩
  rw [List.getLast?_concat]
  rfl

/-- The rambler's act, where an entry whose block failed still stands as it was. -/
theorem rambleAct_iff (x : KvEntry) (r : RamblerRead) :
    (r.bad && decide (x.seq = r.seq ∧ x.lblk = r.lblk ∧ x.crc = r.crc ∧ x.state = 1) && !x.pend) = true ↔
      r.bad = true ∧ x.seq = r.seq ∧ x.lblk = r.lblk ∧ x.crc = r.crc ∧ x.state = 1 ∧ x.pend = false := by
  rw [Bool.and_eq_true, Bool.and_eq_true, decide_eq_true_iff, Bool.not_eq_true']
  simp only [and_assoc]

theorem rambleAct_damages {s : State} {x : KvEntry} {r : RamblerRead} (h : r.bad = true ∧ x.seq = r.seq ∧ x.lblk = r.lblk ∧
    x.crc = r.crc ∧ x.state = 1 ∧ x.pend = false) : s.rambleAct x r = s.write x.pa (leBytes 32 (putBits x.n 97 96 2)) :=
  if_pos ((rambleAct_iff x r).2 h)

theorem rambleAct_stands {s : State} {x : KvEntry} {r : RamblerRead} (h : ¬ (r.bad = true ∧ x.seq = r.seq ∧ x.lblk = r.lblk ∧
    x.crc = r.crc ∧ x.state = 1 ∧ x.pend = false)) : s.rambleAct x r = s :=
  if_neg (mt (rambleAct_iff x r).1 h)

theorem rambleAct_enrolled (s : State) (x : KvEntry) (r : RamblerRead) : (s.rambleAct x r).enrolled = s.enrolled := by
  unfold State.rambleAct
  split
  · exact State.write_enrolled ..
  · rfl

end Sys2Proof.Machine

namespace Sys2Proof.Proofs
open Machine

/-- Settles O47: each step of the row path, of refresh and of the rambler by what its own conditions find. -/
theorem rowsRefreshAndRambler : Obligations.RowsRefreshAndRambler := by
  unfold Obligations.RowsRefreshAndRambler
  intro s col bank hg hm
  refine ⟨⟨fun b row => bankBusy_iff s col b row, fun h => ?_, ?_⟩, fun k i g r hk hr ha ht => rowReady_acts hk hr ha ht,
    fun x hf hbeat => ⟨fun h => beat_held hf h, fun hw hh hb hn => ⟨fun a hx hd => beat_toPad hf hw hh hb hn hm hx hd,
      fun hx h => beat_follows hf hx h, fun hx hs => ⟨fun h7 => beat_toStaging hf hw hh hb hn hx hs h7,
        fun h7 => beat_fillsStaging hf hw hh hb hn hx hs h7⟩⟩, fun hw hh hb hr hs => beat_closes hf hg hw hh hb hr hs⟩,
    fun hb hd hl hr => refreshDue_acts (refreshDueNow_of hd hl hr), fun e hr he ht => refreshGraceEnd_acts hg hr he ht,
    fun e hr he => refreshEnd_acts hr he, fun k i g r hk hr ho hl => openLimitReached_acts hg hk hr ho hl,
    fun die e he => ⟨fun hk => rambler_waits he hk, fun k hk hn => rambler_passes he hk hn, fun x hx => ⟨fun hr h => ?_,
      fun hr h1 hp => ⟨fun hk => ?_, fun bs hk => ?_, fun va hk hd hq => ?_⟩, fun r hr => ?_⟩⟩⟩
  · have none := activation_none h
    show execRowActivation col s = _
    rw [execRowActivation, none]
  · intro before after q r g hrm hw hq hb hk hr hfree
    exact rowActivation_acts hg hrm hw hq hb hk hr hfree
  · rw [rambler_reads he hx hr, if_neg (by rcases h with h | h <;> simp [h])]
    rfl
  · rw [rambler_reads he hx hr, if_pos ⟨h1, hp⟩, rambleRead_wait (t := s.enrolledTable e) hk]
  · rw [rambler_reads he hx hr, if_pos ⟨h1, hp⟩, rambleRead_block (t := s.enrolledTable e) hk]
  · rw [rambler_reads he hx hr, if_pos ⟨h1, hp⟩]
    obtain ⟨enrolled, queue⟩ := rambleRead_bad (t := s.enrolledTable e) (x := x) hk hd hq
    exact ⟨_, rfl, enrolled, queue⟩
  · refine ⟨_, s.rambleAct x r, rambler_acts he hx hr, ?_, rambleAct_stands,
      fun damaged => rambleAct_damages damaged ▸ writes_write hm ..⟩
    rw [State.nextTurn, rambleAct_enrolled]
    rfl

end Sys2Proof.Proofs
end

section
/-! Firmware's commands: how one begins, and how it completes (R178). -/

namespace Sys2Proof.Machine

theorem bytes_getD (s : State) (k : Nat) {n i : Nat} (h : i < n) : (s.bytes k n).getD i 0 = s.byte (k + i) := by
  rw [← map_byte_upFrom, map_upFrom]
  simp [List.getD, h]

/-- A command that completes in a state (R178). -/
theorem complete_completes {s : State} {q : Nat} {x : Tenant} (h : s.tenant q = some x) (hm : MemOk s) (status : Nat) :
    Completes s (s.complete q status) q status x := by
  have done : s.complete q status = ((s.write (x.cmdKey + 62) (leBytes 2 status)).write (x.cmdKey + 56)
      (s.bytes (x.cmdKey + 4) 4)).setTenant q { x with cmdHead := x.cmdHead + 1, cmdWait := none } := by
    rw [State.complete, h]
  rw [done]
  refine ⟨rfl, fun k => ?_⟩
  have outer := byte_write (memOk_write hm (x.cmdKey + 62) (leBytes 2 status)) (x.cmdKey + 56) k (s.bytes (x.cmdKey + 4) 4)
  have inner := byte_write hm (x.cmdKey + 62) k (leBytes 2 status)
  show ((s.write (x.cmdKey + 62) (leBytes 2 status)).write (x.cmdKey + 56) (s.bytes (x.cmdKey + 4) 4)).byte k = _
  rw [outer, inner, length_bytes, length_leBytes]
  have seq : ∀ i, i < 4 → (s.bytes (x.cmdKey + 4) 4).getD i 0 = s.byte (x.cmdKey + 4 + i) := fun i hi => bytes_getD s _ hi
  by_cases done : x.cmdKey + 56 ≤ k ∧ k < x.cmdKey + 60
  · rw [if_pos done, seq _ (by omega), if_neg (by omega), if_neg (by omega), if_pos done]
    exact congrArg s.byte (by omega)
  · rw [if_neg done, if_neg done]
    by_cases low : k = x.cmdKey + 62
    · subst low; simp [leBytes]
    · by_cases high : k = x.cmdKey + 63
      · subst high; simp [leBytes]
      · rw [if_neg (by omega), if_neg low, if_neg high]

section
variable {s : State} {q op : Nat} {hv : Bool} {x : Tenant} (h : Begins s q op hv x)
include h

/-- Firmware takes the command that begins. -/
theorem command_begins (act : State → State) : s.command q op hv act = act s := by
  obtain ⟨⟨tenant, idle, there, hop⟩, up, hhv, clear⟩ := h
  have at_ : s.cmdAt q = some (x, x.cmdKey) := by simp [State.cmdAt, tenant, idle, there]
  have allowed : (hv && !x.cfg.hv) = false := by cases hv <;> simp_all
  simp only [State.command, at_, hop, up, allowed, clear]
  simp

end

end Sys2Proof.Machine
end

section
/-! The hypervisor's commands that make, change and end tenants (R179). -/

namespace Sys2Proof.Machine

theorem namedBusy_iff (s : State) (q id : Nat) : s.namedBusy q id = true ↔ ∃ y ∈ s.tenants, y.1 ≠ q ∧
    ((∃ ids rows, y.2.cmdWait = some (.drain id ids rows)) ∨ ∃ gpa e, y.2.cmdWait = some (.zero id gpa e)) := by
  simp only [State.namedBusy, List.any_eq_true, Bool.and_eq_true, decide_eq_true_eq]
  refine exists_congr fun y => and_congr_right fun _ => and_congr_right fun _ => ?_
  cases y.2.cmdWait with
  | none => simp
  | some w => cases w <;> simp

theorem completed {i : Instr} {s : State} {q status : Nat} {x : Tenant} (h : s.tenant q = some x) (hm : MemOk s)
    (run : exec i s = .next (s.complete q status)) : Gives i s fun t => Completes s t q status x :=
  ⟨_, run, complete_completes h hm status⟩

section
variable {s : State} {q : Nat} {x : Tenant}

/-- What the tenants are once a command has completed. -/
theorem complete_tenant (h : s.tenant q = some x) (hm : MemOk s) (status id : Nat) : (s.complete q status).tenant id =
    if id = q then some { x with cmdHead := x.cmdHead + 1, cmdWait := none } else s.tenant id := by
  have done := congrArg (fun t : State => mget t.tenants id) (complete_completes h hm status).rest
  exact done.trans (mget_mset ..)

theorem onTenant_of {t : State} {id : Nat} {y : Tenant} (h : t.tenant id = some y) (f : Tenant → Tenant) :
    t.onTenant id f = t.setTenant id (f y) := by rw [State.onTenant, h]

theorem ringBusy_of {id : Nat} {z : Tenant} (h : s.tenant id = some z) (p : Tenant → Bool) :
    s.ringBusy q id p = true ↔ id ≠ q ∧ z.cmdWait.isSome = true ∧ p z = true := by
  simp [State.ringBusy, h]

theorem sameRing_iff (z : Tenant) (cfg : TenantCfg) :
    z.sameRing cfg = true ↔ z.cfg.cmdBase = cfg.cmdBase ∧ z.cfg.cmdLog = cfg.cmdLog := by simp [Tenant.sameRing]

theorem ringBusy_stays {id : Nat} {cfg : TenantCfg} {z : Tenant} (hz : s.tenant id = some z)
    (stays : ¬ (id ≠ q ∧ z.cmdWait.isSome = true ∧ ¬ (z.cfg.cmdBase = cfg.cmdBase ∧ z.cfg.cmdLog = cfg.cmdLog))) :
    s.ringBusy q id (fun t => !t.sameRing cfg) = false := by
  rw [Bool.eq_false_iff, ne_eq, ringBusy_of hz]
  exact fun ⟨other, hw, hr⟩ => stays ⟨other, hw, fun same => by simp [(sameRing_iff z cfg).2 same] at hr⟩

/-- A tenant's counts are cleared once the command has completed. -/
theorem fault_queue_cleared (hm : MemOk s) (cfg : TenantCfg) : Writes (s.complete q 0) ((s.complete q 0).clearFaultQueue cfg)
    (Config.hostBase + cfg.fqCtl) (List.replicate 16 0) :=
  writes_write (((Kept.refl s).complete q 0).mem hm) _ _

variable (h : s.tenant q = some x) (hm : MemOk s)

section
variable (b : Begins s q 0x03 true x) {id : Nat} (cfg : TenantCfg)
include b

theorem exec_tenantCreate : exec (.tenantCreate q id cfg) s = .next (if s.namedBusy q id then s
    else if 16 ≤ id ∨ (s.tenant id).isSome ∨ cfgOk cfg = false then s.complete q 3
    else ((s.complete q 0).clearFaultQueue cfg).setTenant id (Tenant.ofCfg cfg)) := congrArg Host.Outcome.next (command_begins b _)

theorem exec_tenantChange : exec (.tenantChange q id cfg) s = .next (
    if s.namedBusy q id || s.ringBusy q id (fun t => !t.sameRing cfg) then s
    else if (s.tenant id).isNone ∨ cfgOk cfg = false then s.complete q 3
    else ((s.complete q 0).clearFaultQueue cfg).onTenant id fun t => t.change cfg) := congrArg Host.Outcome.next (command_begins b _)

theorem exec_tenantDisable : exec (.tenantDisable q id) s = .next (
    if s.namedBusy q id || s.ringBusy q id (fun _ => true) then s
    else if (s.tenant id).isNone then s.complete q 3
    else (s.complete q 0).endTenant id) := congrArg Host.Outcome.next (command_begins b _)

theorem tenantChange_waits {z : Tenant} (hz : s.tenant id = some z)
    (moves : id ≠ q ∧ z.cmdWait.isSome = true ∧ ¬ (z.cfg.cmdBase = cfg.cmdBase ∧ z.cfg.cmdLog = cfg.cmdLog)) :
    exec (.tenantChange q id cfg) s = .next s := by
  have ring : s.ringBusy q id (fun t => !t.sameRing cfg) = true := by
    rw [ringBusy_of hz]
    exact ⟨moves.1, moves.2.1, by simpa [Tenant.sameRing, or_iff_not_imp_left] using moves.2.2⟩
  rw [exec_tenantChange b, if_pos (by simp [ring])]

theorem tenantDisable_waits {z : Tenant} (hz : s.tenant id = some z) (other : id ≠ q) (hw : z.cmdWait.isSome = true) :
    exec (.tenantDisable q id) s = .next s := by
  have ring : s.ringBusy q id (fun _ => true) = true := (ringBusy_of hz _).2 ⟨other, hw, rfl⟩
  rw [exec_tenantDisable b, if_pos (by simp [ring])]

variable (free : s.namedBusy q id = false)
include free

theorem tenantCreate_refused (bad : 16 ≤ id ∨ (s.tenant id).isSome = true ∨ cfgOk cfg = false) :
    exec (.tenantCreate q id cfg) s = .next (s.complete q 3) := by
  rw [exec_tenantCreate b, if_neg (by simp [free]), if_pos bad]

theorem tenantCreate_done (h16 : id < 16) (none_ : s.tenant id = none) (ok : cfgOk cfg = true) :
    exec (.tenantCreate q id cfg) s = .next (((s.complete q 0).clearFaultQueue cfg).setTenant id (Tenant.ofCfg cfg)) := by
  rw [exec_tenantCreate b, if_neg (by simp [free]), if_neg (by simp [none_, ok]; omega)]

theorem tenantChange_absent (none_ : s.tenant id = none) : exec (.tenantChange q id cfg) s = .next (s.complete q 3) := by
  rw [exec_tenantChange b, if_neg (by simp [free, State.ringBusy, none_]), if_pos (by simp [none_])]

theorem tenantDisable_absent (none_ : s.tenant id = none) : exec (.tenantDisable q id) s = .next (s.complete q 3) := by
  rw [exec_tenantDisable b, if_neg (by simp [free, State.ringBusy, none_]), if_pos (by simp [none_])]

variable {z : Tenant} (hz : s.tenant id = some z)
include hz

variable (stays : ¬ (id ≠ q ∧ z.cmdWait.isSome = true ∧ ¬ (z.cfg.cmdBase = cfg.cmdBase ∧ z.cfg.cmdLog = cfg.cmdLog)))

theorem tenantDisable_done (idle : id ≠ q → z.cmdWait = none) :
    exec (.tenantDisable q id) s = .next ((s.complete q 0).endTenant id) := by
  have ring : s.ringBusy q id (fun _ => true) = false := by
    rw [Bool.eq_false_iff, ne_eq, ringBusy_of hz]
    rintro ⟨other, hw, -⟩
    simp [idle other] at hw
  rw [exec_tenantDisable b, if_neg (by simp [ring, free]), if_neg (by simp [hz])]

include stays

theorem tenantChange_refused (bad : cfgOk cfg = false) : exec (.tenantChange q id cfg) s = .next (s.complete q 3) := by
  rw [exec_tenantChange b, if_neg (by simp [free, ringBusy_stays hz stays]), if_pos (.inr bad)]

theorem tenantChange_done (ok : cfgOk cfg = true) : exec (.tenantChange q id cfg) s =
    .next (((s.complete q 0).clearFaultQueue cfg).onTenant id fun t => t.change cfg) := by
  rw [exec_tenantChange b, if_neg (by simp [free, ringBusy_stays hz stays]), if_neg (by simp [hz, ok])]

end

include h hm

/-- A changed tenant's new settings: its queue goes on from where it stands, unless it moves. -/
theorem change_effect {id : Nat} {z : Tenant} (hz : s.tenant id = some z) (cfg : TenantCfg) :
    let n := (s.complete q 0).clearFaultQueue cfg
    let y := (n.tenant id).getD z
    let same : Prop := z.cfg.cmdBase = cfg.cmdBase ∧ z.cfg.cmdLog = cfg.cmdLog
    n.onTenant id (fun t => t.change cfg) = { n with tenants := mset n.tenants id { y with
      cfg := cfg, fqTail := 0, cmdHead := if same then y.cmdHead else 0, cmdTail := if same then y.cmdTail else 0 } } := by
  intro n y same
  have there : n.tenant id = some y ∧ y.cfg = z.cfg := by
    have after : n.tenant id = _ := complete_tenant h hm 0 id
    by_cases own : id = q
    · subst own
      obtain rfl : z = x := Option.some.inj (hz.symm.trans h)
      rw [if_pos rfl] at after
      have hy : y = _ := congrArg (Option.getD · z) after
      exact ⟨after.trans (congrArg some hy.symm), by rw [hy]; rfl⟩
    · rw [if_neg own, hz] at after
      have hy : y = _ := congrArg (Option.getD · z) after
      exact ⟨after.trans (congrArg some hy.symm), by rw [hy]; rfl⟩
  obtain ⟨some_, hc⟩ := there
  have ring : y.sameRing cfg = decide same := by
    rw [Bool.eq_iff_iff, sameRing_iff, hc]; simp [same]
  rw [onTenant_of some_]
  simp only [State.setTenant, Tenant.change, ring, decide_eq_true_eq]

end

end Sys2Proof.Machine
end

section
/-! The hypervisor's commands about a stage-2 entry (R101, R102, R180). -/

namespace Sys2Proof.Machine

theorem onTenant_tenant (s : State) (q k : Nat) (f : Tenant → Tenant) :
    (s.onTenant q f).tenant k = if k = q then (s.tenant k).map f else s.tenant k := by
  cases h : s.tenant q with
  | none =>
    have same : s.onTenant q f = s := by rw [State.onTenant, h]
    rw [same]
    split
    · next own => rw [own, h]; rfl
    · rfl
  | some y =>
    rw [onTenant_of h]
    refine (mget_mset ..).trans ?_
    split
    · next own => rw [own, h]; rfl
    · rfl

theorem onTenant_rest (s : State) (q : Nat) (f : Tenant → Tenant) :
    s.onTenant q f = { s with tenants := (s.onTenant q f).tenants } := by
  unfold State.onTenant
  split <;> rfl

theorem onTenant_mem (s : State) (q : Nat) (f : Tenant → Tenant) : (s.onTenant q f).mem = s.mem := by
  rw [onTenant_rest]

theorem onTenant_cores (s : State) (q : Nat) (f : Tenant → Tenant) : (s.onTenant q f).cores = s.cores := by
  rw [onTenant_rest]

theorem onTenant_groups (s : State) (q : Nat) (f : Tenant → Tenant) : (s.onTenant q f).groups = s.groups := by
  rw [onTenant_rest]

/-- A command waits, once its queue's tenant is there. -/
theorem cmdWaits_wait {s : State} {q : Nat} {x : Tenant} (h : s.tenant q = some x) (w : CmdWait) :
    ((s.cmdWaits q w).tenant q).bind (·.cmdWait) = some w := by
  rw [State.cmdWaits, onTenant_tenant, if_pos rfl, h]; rfl

/-- The present entry of a guest-physical frame. -/
theorem entry2_of {s : State} {id : Nat} {z : Tenant} (hz : s.tenant id = some z) (gpa : Nat) :
    s.entry2 id gpa = (mget z.stage2 (gpa / 2 ^ 21)).getD 0 := by rw [State.entry2, hz]; rfl

theorem mapRefused_iff (s : State) (id : Nat) (entry : Dword) : s.mapRefused id entry.toNat = true ↔
    let e := entry.toNat
    let p := e / 2 ^ 21 % 2 ^ 27
    e / 2 ^ 48 ≠ 0 ∨ e / 2 ^ 4 % 2 ^ 17 ≠ 0 ∨
      (e % 2 = 1 ∧ (e / 8 % 2 = 1 ∨ 294912 ≤ p ∨
        16 * ((List.range 24).filter fun b => (s.column (p / 384)).live.getLsbD b).length ≤ p % 384 ∨
        mget s.frameKey p ≠ some id)) := by
  have high : entry.toNat / 2 ^ 48 % 2 ^ 16 = entry.toNat / 2 ^ 48 := Nat.mod_eq_of_lt (by have := entry.isLt; omega)
  simp only [State.mapRefused, State.frameAbsent, bit, Bool.or_eq_true, Bool.and_eq_true, decide_eq_true_eq, or_assoc]
  simp only [bits, Nat.reduceAdd, Nat.reduceSub, high, Nat.pow_zero, Nat.div_one]
  exact Iff.rfl

/-! ### What a written entry leaves -/

/-- A tenant's entry of a guest-physical frame is set, and where it changes no cached result of the frame stays. -/
structure SetsEntry (s t : State) (id gpa : Nat) (z : Tenant) (v : Dword) : Prop where
  mem : t.mem = s.mem
  entry : ∃ y, t.tenant id = some y ∧ (mget y.stage2 (gpa / 2 ^ 21)).getD 0 = v ∧
    ∀ k, k ≠ gpa / 2 ^ 21 → mget y.stage2 k = mget z.stage2 k
  cached : v ≠ (mget z.stage2 (gpa / 2 ^ 21)).getD 0 →
    ∀ c ∈ t.cores, ∀ b ∈ c.2.tlb, ¬ (b.tenant = id ∧ b.peer = false ∧ b.gpa / 2 ^ 21 = gpa / 2 ^ 21)

section
variable {s t : State} {id gpa : Nat} {z : Tenant} {v : Dword}

theorem SetsEntry.cmdWaits (h : SetsEntry s t id gpa z v) (q : Nat) (w : CmdWait) : SetsEntry s (t.cmdWaits q w) id gpa z v := by
  obtain ⟨hm, ⟨y, hy, hv, hk⟩, hc⟩ := h
  refine ⟨(onTenant_mem ..).trans hm, ?_, fun hne => ?_⟩
  · rw [State.cmdWaits, onTenant_tenant, hy]
    split
    · exact ⟨_, rfl, hv, hk⟩
    · exact ⟨y, rfl, hv, hk⟩
  · rw [State.cmdWaits, onTenant_cores]
    exact hc hne

theorem SetsEntry.parts (h : SetsEntry s t id gpa z v) : t.mem = s.mem ∧
    (∃ y, t.tenant id = some y ∧ (mget y.stage2 (gpa / 2 ^ 21)).getD 0 = v ∧
      ∀ k, k ≠ gpa / 2 ^ 21 → mget y.stage2 k = mget z.stage2 k) ∧
    (v ≠ (mget z.stage2 (gpa / 2 ^ 21)).getD 0 →
      ∀ c ∈ t.cores, ∀ b ∈ c.2.tlb, ¬ (b.tenant = id ∧ b.peer = false ∧ b.gpa / 2 ^ 21 = gpa / 2 ^ 21)) := ⟨h.mem, h.entry, h.cached⟩

theorem SetsEntry.endEnrolments (h : SetsEntry s t id gpa z v) : SetsEntry s (t.endEnrolments id) id gpa z v :=
  ⟨h.mem, h.entry, h.cached⟩

theorem ClosesRows.standing {col : Nat} {s t : State} (h : ClosesRows col s t) :
    t.mem = s.mem ∧ t.tenants = s.tenants ∧ t.cores = s.cores := by
  rw [h.rest]
  exact ⟨rfl, rfl, rfl⟩

/-- What a changed entry ends leaves memory, the tenants, and no cached result of the frame. -/
theorem endMapping_rest (s : State) (id gpa : Nat) : let t := s.endMapping id gpa
    t.mem = s.mem ∧ t.tenants = s.tenants ∧ t.cores =
      (s.dropTlb id fun e => !e.peer && decide (e.gpa / Config.frameBytes = gpa / Config.frameBytes)).cores := by
  intro t
  simp only [t, State.endMapping]
  split
  · exact (closesRows_closeRows ..).standing
  · exact ⟨rfl, rfl, rfl⟩

theorem not_cached_dropTlb (s : State) (id gpa : Nat) : ∀ c ∈
    (s.dropTlb id fun e => !e.peer && decide (e.gpa / Config.frameBytes = gpa / Config.frameBytes)).cores,
    ∀ b ∈ c.2.tlb, ¬ (b.tenant = id ∧ b.peer = false ∧ b.gpa / 2 ^ 21 = gpa / 2 ^ 21) := by
  intro c hc b hb ⟨ht, hp, hg⟩
  obtain ⟨p, -, rfl⟩ := List.mem_map.1 hc
  have kept := (List.mem_filter.1 hb).2
  have frame : b.gpa / Config.frameBytes = gpa / Config.frameBytes := hg
  simp [ht, hp, frame] at kept

theorem setsEntry_same (hz : s.tenant id = some z) : SetsEntry s s id gpa z (s.entry2 id gpa) :=
  ⟨rfl, ⟨z, hz, (entry2_of hz gpa).symm, fun _ _ => rfl⟩, fun hne => absurd (entry2_of hz gpa) hne⟩

/-- The entry of a frame once it is written. -/
theorem setEntry2_tenant (ht : t.tenant id = some z) (hr : risingFrom 0 z.stage2 = true) (gpa : Nat) (v : Dword) :
    ∃ y, (t.setEntry2 id gpa v).tenant id = some y ∧ (mget y.stage2 (gpa / 2 ^ 21)).getD 0 = v ∧
      ∀ k, k ≠ gpa / 2 ^ 21 → mget y.stage2 k = mget z.stage2 k := by
  rw [State.setEntry2, onTenant_tenant, if_pos rfl, ht]
  refine ⟨_, rfl, ?_, fun k hk => ?_⟩
  · show (mget (if v = 0 then mdel z.stage2 (gpa / 2 ^ 21) else mset z.stage2 (gpa / 2 ^ 21) v) _).getD 0 = v
    split
    · next zero => rw [mget_mdel hr, if_pos rfl, zero]; rfl
    · rw [mget_mset_self]; rfl
  · show mget (if v = 0 then mdel z.stage2 (gpa / 2 ^ 21) else mset z.stage2 (gpa / 2 ^ 21) v) k = _
    split
    · rw [mget_mdel hr, if_neg hk]
    · rw [mget_mset, if_neg hk]

theorem setsEntry_written (hz : s.tenant id = some z) (hr : risingFrom 0 z.stage2 = true) (v : Dword) :
    SetsEntry s ((s.endMapping id gpa).setEntry2 id gpa v) id gpa z v := by
  obtain ⟨hm, ht, hc⟩ := endMapping_rest s id gpa
  refine ⟨(onTenant_mem ..).trans hm, setEntry2_tenant ((congrArg (mget · id) ht).trans hz) hr gpa v, fun _ => ?_⟩
  rw [State.setEntry2, onTenant_cores, hc]
  exact not_cached_dropTlb s id gpa

end

/-- The entry that stands during a zero-fill (R102): V = 0, ZF = 1, every other bit as in the command's. -/
theorem zeroing_entry (entry : Dword) : let v := (entry &&& ~~~1#64) ||| 8#64
    v.getLsbD 0 = false ∧ v.getLsbD 3 = true ∧ ∀ j, j ≠ 0 → j ≠ 3 → v.getLsbD j = entry.getLsbD j := by
  refine ⟨by simp, by simp, fun j h0 h3 => ?_⟩
  have one : (1#64).getLsbD j = false := by
    rw [BitVec.getLsbD_one]; simp [h0]
  have eight : (8#64).getLsbD j = false := by
    have : (8#64) = BitVec.twoPow 64 3 := rfl
    rw [this, BitVec.getLsbD_twoPow]; simp; omega
  rw [BitVec.getLsbD_or, BitVec.getLsbD_and, BitVec.getLsbD_not, one, eight]
  by_cases hj : j < 64
  · simp [hj]
  · simp [BitVec.getLsbD_of_ge entry j (by omega)]

/-! ### What a drain waits for -/

theorem mem_holders {s : State} {id p : Nat} {a : Access} (ha : a ∈ s.accesses) (ht : a.tenant = id)
    (hl : ∃ l ∈ a.lanes, l.pa / 2 ^ 21 = p) : a.id ∈ s.holders id fun _ pa _ => decide (pa / Config.frameBytes = p) := by
  obtain ⟨l, hl, hp⟩ := hl
  unfold State.holders
  simp only [List.mem_append]
  refine .inl (.inl (.inl (List.mem_map.2 ⟨a, List.mem_filter.2 ⟨ha, ?_⟩, rfl⟩)))
  simp only [ht, decide_true, Bool.true_and, List.any_eq_true]
  exact ⟨l, hl, decide_eq_true hp⟩

theorem mem_rowHolders {s : State} {id p k i : Nat} {g : Group} {r : RowSlot} (hg : s.group k = some g) (ht : g.rec_.tenant = id)
    (hr : g.rows[i]? = some r) (ho : r.state = .queued ∨ r.state = .activating) (hp : r.pa / 2 ^ 21 = p) :
    (k, i) ∈ s.rowHolders id fun _ pa _ => decide (pa / Config.frameBytes = p) := by
  refine List.mem_flatMap.2 ⟨(k, g), mem_of_mget hg, ?_⟩
  have opening : r.opening = true := by simpa [RowSlot.opening] using ho
  have place : r.pa / Config.frameBytes = p := hp
  dsimp only
  rw [if_neg (by simp [ht])]
  refine List.mem_filterMap.2 ⟨(r, i), List.mem_zipIdx_iff_getElem?.2 hr, ?_⟩
  simp [opening, place]

end Sys2Proof.Machine
end

section
/-! The map and zero commands, the end of a fill and of a drain (R101, R102, R180). -/

namespace Sys2Proof.Machine

section
variable {s : State} {q : Nat} {x : Tenant} {id gpa : Nat} {entry : Dword} (free : s.namedBusy q id = false)

section
variable (b : Begins s q 0x04 true x)
include b

theorem exec_mapCommand : exec (.mapCommand q id gpa entry) s = .next (if s.namedBusy q id then s
    else if (s.tenant id).isNone ∨ 2 ^ 48 ≤ gpa then s.complete q 3
    else if s.mapRefused id entry.toNat then s.complete q 4
    else s.awaitDrain q id (fun _ pa _ => decide (pa / Config.frameBytes = bits (s.entry2 id gpa).toNat 47 21))
      (if s.entry2 id gpa = entry then s else ((s.endMapping id gpa).setEntry2 id gpa entry).endEnrolments id)) :=
  congrArg Host.Outcome.next (command_begins b _)

include free

theorem mapCommand_misnamed (bad : s.tenant id = none ∨ 2 ^ 48 ≤ gpa) :
    exec (.mapCommand q id gpa entry) s = .next (s.complete q 3) := by
  rw [exec_mapCommand b, if_neg (by simp [free]), if_pos (by simpa using bad)]

variable {z : Tenant} (hz : s.tenant id = some z) (hg : gpa < 2 ^ 48)
include hz hg

theorem mapCommand_refused (bad : s.mapRefused id entry.toNat = true) :
    exec (.mapCommand q id gpa entry) s = .next (s.complete q 4) := by
  rw [exec_mapCommand b, if_neg (by simp [free]), if_neg (by simp [hz]; omega), if_pos bad]

theorem mapCommand_done (ok : s.mapRefused id entry.toNat = false) : exec (.mapCommand q id gpa entry) s = .next (
    s.awaitDrain q id (fun _ pa _ => decide (pa / Config.frameBytes = bits (s.entry2 id gpa).toNat 47 21))
      (if s.entry2 id gpa = entry then s else ((s.endMapping id gpa).setEntry2 id gpa entry).endEnrolments id)) := by
  rw [exec_mapCommand b, if_neg (by simp [free]), if_neg (by simp [hz]; omega), if_neg (by simp [ok])]

end

section
variable (b : Begins s q 0x05 true x)
include b

theorem exec_zeroCommand : exec (.zeroCommand q id gpa entry) s = .next (if s.namedBusy q id then s
    else if (s.tenant id).isNone ∨ 2 ^ 48 ≤ gpa ∨ bit entry.toNat 0 = false then s.complete q 3
    else if s.mapRefused id entry.toNat then s.complete q 4
    else (((s.endMapping id gpa).setEntry2 id gpa ((entry &&& ~~~1#64) ||| 8#64)).cmdWaits q
      (.zero id gpa entry)).endEnrolments id) :=
  congrArg Host.Outcome.next (command_begins b _)

include free

theorem zeroCommand_misnamed (bad : s.tenant id = none ∨ 2 ^ 48 ≤ gpa ∨ entry.toNat % 2 = 0) :
    exec (.zeroCommand q id gpa entry) s = .next (s.complete q 3) := by
  rw [exec_zeroCommand b, if_neg (by simp [free]), if_pos (by simpa [bit] using bad)]

variable {z : Tenant} (hz : s.tenant id = some z) (hg : gpa < 2 ^ 48) (odd : entry.toNat % 2 = 1)
include hz hg odd

theorem zeroCommand_refused (bad : s.mapRefused id entry.toNat = true) :
    exec (.zeroCommand q id gpa entry) s = .next (s.complete q 4) := by
  rw [exec_zeroCommand b, if_neg (by simp [free]), if_neg (by simp [hz, bit, odd]; omega), if_pos bad]

theorem zeroCommand_done (ok : s.mapRefused id entry.toNat = false) : exec (.zeroCommand q id gpa entry) s = .next (
    (((s.endMapping id gpa).setEntry2 id gpa ((entry &&& ~~~1#64) ||| 8#64)).cmdWaits q (.zero id gpa entry)).endEnrolments id) := by
  rw [exec_zeroCommand b, if_neg (by simp [free]), if_neg (by simp [hz, bit, odd]; omega), if_neg (by simp [ok])]

end

/-- What a map command leaves behind at its one point. -/
theorem mapped_sets {z : Tenant} (hz : s.tenant id = some z) (hr : risingFrom 0 z.stage2 = true) : SetsEntry s
    (if s.entry2 id gpa = entry then s else ((s.endMapping id gpa).setEntry2 id gpa entry).endEnrolments id) id gpa z entry := by
  split
  · next same => exact same ▸ setsEntry_same hz
  · exact (setsEntry_written hz hr entry).endEnrolments

/-- A queue's tenant stands through a written entry. -/
theorem setEntry2_isSome {t : State} (h : (t.tenant q).isSome = true) (v : Dword) :
    ((t.setEntry2 id gpa v).tenant q).isSome = true := by
  rw [State.setEntry2, onTenant_tenant]
  split
  · simpa using h
  · exact h

theorem endMapping_isSome (h : s.tenant q = some x) : ((s.endMapping id gpa).tenant q).isSome = true := by
  have same : (s.endMapping id gpa).tenant q = s.tenant q := congrArg (mget · q) (endMapping_rest s id gpa).2.1
  rw [same, h]; rfl

theorem mapped_isSome (h : s.tenant q = some x) : ((if s.entry2 id gpa = entry then s
    else ((s.endMapping id gpa).setEntry2 id gpa entry).endEnrolments id).tenant q).isSome = true := by
  split
  · rw [h]; rfl
  · exact setEntry2_isSome (endMapping_isSome h) entry

/-- The command of a map waits for the drain: of the accesses that hold the old translation, and of the rows that open under it. -/
theorem awaitDrain_effect {t : State} (ht : (t.tenant q).isSome = true) (p : Nat) :
    let u := s.awaitDrain q id (fun _ pa _ => decide (pa / Config.frameBytes = p)) t
    ∃ ids rows, (u.tenant q).bind (·.cmdWait) = some (.drain id ids rows) ∧
      (∀ a ∈ s.accesses, a.tenant = id → (∃ l ∈ a.lanes, l.pa / 2 ^ 21 = p) → a.id ∈ ids) ∧
      ∀ (k i : Nat) (g : Group) (r : RowSlot), u.group k = some g → g.rec_.tenant = id → g.rows[i]? = some r →
        (r.state = .queued ∨ r.state = .activating) → r.pa / 2 ^ 21 = p → (k, i) ∈ rows := by
  intro u
  obtain ⟨y, hy⟩ := Option.isSome_iff_exists.1 ht
  refine ⟨_, _, cmdWaits_wait hy _, fun a ha ht hl => mem_holders ha ht hl, fun k i g r hg ht hr ho hp => ?_⟩
  have stands : t.group k = some g := (congrArg (mget · k) (onTenant_groups t q _)).symm.trans hg
  exact mem_rowHolders stands ht hr ho hp

end

/-! ### What completes them -/

theorem mget_eq_some {α : Type} {m : SMap α} (hr : risingFrom 0 m = true) {k : Nat} {v : α} :
    mget m k = some v ↔ (k, v) ∈ m := ⟨mem_of_mget, mget_of_mem hr⟩

theorem mget_memDrop {m : List Host.Cell} (hr : risingFrom 0 m = true) (lo hi k : Nat) :
    mget (memDrop m lo hi) k = if lo ≤ k ∧ k < hi then none else mget m k := by
  refine Option.ext fun b => ?_
  rw [memDrop, mget_eq_some (risingFrom_filter hr _), List.mem_filter, ← mget_eq_some hr]
  split
  · next inside =>
    simp only [Bool.or_eq_true, decide_eq_true_eq]
    exact ⟨fun h => by omega, fun h => by simp at h⟩
  · next outside =>
    simp only [Bool.or_eq_true, decide_eq_true_eq]
    exact ⟨fun h => h.1, fun h => ⟨h, by omega⟩⟩

/-- A frame dropped from memory: its bytes are its unlisted ones, and the other frames' stand. -/
theorem memGet_dropFrame {m : List Host.Cell} (hr : risingFrom 0 m = true) {noisy noisy' : SMap FrameBase} {p : Nat}
    (hn : ∀ j, j ≠ p → mget noisy' j = mget noisy j) (k : Nat) :
    memGet noisy' (memDrop m (p * Config.frameBytes) ((p + 1) * Config.frameBytes)) k =
      if k / 2 ^ 21 = p then unlisted noisy' k else memGet noisy m k := by
  have drop := mget_memDrop hr (p * 2097152) ((p + 1) * 2097152) k
  have here : (p * 2097152 ≤ k ∧ k < (p + 1) * 2097152) ↔ k / 2 ^ 21 = p := by omega
  rw [if_congr here rfl rfl] at drop
  by_cases inside : k / 2 ^ 21 = p
  · rw [if_pos inside] at drop ⊢
    exact congrArg (fun o : Option Byte => match o with | some b => b | none => unlisted noisy' k) drop
  · rw [if_neg inside] at drop ⊢
    have frame : mget noisy' (k / Config.frameBytes) = mget noisy (k / Config.frameBytes) := hn _ inside
    have base : unlisted noisy' k = unlisted noisy k := by rw [unlisted, unlisted, frame]
    refine (congrArg (fun o : Option Byte => match o with | some b => b | none => unlisted noisy' k) drop).trans ?_
    rw [base]
    exact Eq.refl (memGet noisy m k)

section
variable {s : State} {q : Nat} {x : Tenant} {id gpa : Nat} {entry : Dword}

theorem byte_zeroFrame (hm : MemOk s) (p k : Nat) : (s.zeroFrame p).byte k = if k / 2 ^ 21 = p then 0 else s.byte k := by
  refine (memGet_dropFrame hm.2.1 (fun j hj => mget_mdel_other hm.1 hj) k).trans ?_
  split
  · next here =>
    have gone : mget (mdel s.noisy p) (k / Config.frameBytes) = none := by rw [mget_mdel hm.1]; exact if_pos here
    show unlisted (mdel s.noisy p) k = 0
    rw [unlisted, gone]
  · rfl

/-- A zero-fill's end (R102). -/
theorem zeroFill_ends (h : s.tenant q = some x) (hm : MemOk s) {z : Tenant} (hz : s.tenant id = some z)
    (hw : x.cmdWait = some (.zero id gpa entry)) (odd : entry.toNat % 2 = 1) :
    Gives (.zeroFillComplete q) s fun t => ∃ m y, m.tenant q = some y ∧ y.cmdKey = x.cmdKey ∧ Completes m t q 0 y ∧
      (∀ k, m.byte k = if k / 2 ^ 21 = entry.toNat / 2 ^ 21 % 2 ^ 27 then 0 else s.byte k) ∧
      (m.tenant id).bind (fun y => mget y.stage2 (gpa / 2 ^ 21)) = some entry := by
  have run : execZeroFillComplete q s = .next (((s.zeroFrame (bits entry.toNat 47 21)).setEntry2 id gpa entry).complete q 0) := by
    rw [execZeroFillComplete, h, Option.bind_some, hw]
  have keeps : MemOk ((s.zeroFrame (bits entry.toNat 47 21)).setEntry2 id gpa entry) :=
    (((Kept.refl s).zeroFrame _).setEntry2 id gpa entry).mem hm
  have bytes : ∀ k, ((s.zeroFrame (bits entry.toNat 47 21)).setEntry2 id gpa entry).byte k =
      if k / 2 ^ 21 = entry.toNat / 2 ^ 21 % 2 ^ 27 then 0 else s.byte k := fun k => by
    rw [State.setEntry2, onTenant_rest]
    exact byte_zeroFrame hm _ k
  have nonzero : entry ≠ 0 := fun zero => by rw [zero] at odd; simp at odd
  have there : (s.zeroFrame (bits entry.toNat 47 21)).tenant q = some x := h
  have mapped : (s.zeroFrame (bits entry.toNat 47 21)).tenant id = some z := hz
  have stays : ∃ y, ((s.zeroFrame (bits entry.toNat 47 21)).setEntry2 id gpa entry).tenant q = some y ∧ y.cmdKey = x.cmdKey := by
    rw [State.setEntry2, onTenant_tenant, there]
    split
    · exact ⟨_, rfl, rfl⟩
    · exact ⟨_, rfl, rfl⟩
  obtain ⟨y, hy, hkey⟩ := stays
  refine ⟨_, run, _, y, hy, hkey, complete_completes hy keeps 0, bytes, ?_⟩
  rw [State.setEntry2, onTenant_tenant, if_pos rfl, mapped]
  show mget (if entry = 0 then mdel z.stage2 (gpa / 2 ^ 21) else mset z.stage2 (gpa / 2 ^ 21) entry) (gpa / 2 ^ 21) = some entry
  rw [if_neg nonzero, mget_mset_self]

end

section
variable {s : State} {q : Nat} {x : Tenant} {id : Nat} {ids : List Nat} {rows : List (Nat × Nat)}

theorem rowsOpening_iff (s : State) (rows : List (Nat × Nat)) : s.rowsOpening rows = true ↔
    ∃ p ∈ rows, ∃ g r, s.group p.1 = some g ∧ g.rows[p.2]? = some r ∧ (r.state = .queued ∨ r.state = .activating) := by
  simp only [State.rowsOpening, List.any_eq_true]
  refine exists_congr fun p => and_congr_right fun _ => ?_
  cases hg : s.group p.1 with
  | none => simp
  | some g => cases hr : g.rows[p.2]? <;> simp [hr, RowSlot.opening]

theorem inFlight_access {a : Access} (ha : a ∈ s.accesses) (hi : a.id ∈ ids) : s.inFlight ids = true :=
  List.any_eq_true.2 ⟨a.id, hi, by
    have : (s.accesses.any fun b => decide (b.id = a.id)) = true := List.any_eq_true.2 ⟨a, ha, decide_eq_true rfl⟩
    simp [this]⟩

theorem inFlight_none (h : ∀ i ∈ ids, (∀ a ∈ s.accesses, a.id ≠ i) ∧ (∀ a ∈ s.engs, a.id ≠ i) ∧ (∀ a ∈ s.kvs, a.id ≠ i) ∧
    ∀ a ∈ s.takes, a.id ≠ i) : s.inFlight ids = false := by
  refine List.any_eq_false.2 fun i hi => ?_
  obtain ⟨ha, he, hk, ht⟩ := h i hi
  simpa [or_assoc] using ⟨ha, he, hk, ht⟩

theorem exec_drainComplete (h : s.tenant q = some x) (hw : x.cmdWait = some (.drain id ids rows)) :
    exec (.translationDrainComplete q) s = .next (if s.inFlight ids || s.rowsOpening rows then s else s.complete q 0) := by
  show execTranslationDrainComplete q s = _
  rw [execTranslationDrainComplete, h, Option.bind_some, hw]

end

end Sys2Proof.Machine
end

section
/-! What a frame reads as under a new key pair (R102): the cipher's block keeps its length, and a frame read anew leaves every other. -/

namespace Sys2Proof.Machine

/-! ### Lengths of the cipher -/

theorem length_xorBytes_le (a b : List Byte) : (xorBytes a b).length ≤ a.length ∧ (xorBytes a b).length ≤ b.length := by
  rw [xorBytes, List.length_zipWith]
  exact ⟨min_le_left .., min_le_right ..⟩

theorem length_shiftRows (b : List Byte) : (shiftRows b).length = 16 := by simp [shiftRows, permuted]

theorem length_mixColumns (row : List Nat) (b : List Byte) : (mixColumns row b).length = 16 := by
  simp [mixColumns, mixColumn, pieces]

theorem length_encryptRounds : ∀ (ks : List (List Byte)) {b : List Byte}, b.length ≤ 16 → (encryptRounds ks b).length ≤ 16
  | [], _, h => h
  | [_], _, _ => (length_xorBytes_le ..).1.trans (length_shiftRows _).le
  | _ :: k :: ks, _, _ => length_encryptRounds (k :: ks) ((length_xorBytes_le ..).1.trans (length_mixColumns ..).le)

theorem length_tweakDouble (t : List Byte) : (tweakDouble t).length ≤ t.length := by
  rw [tweakDouble]
  split
  · next a rest h =>
    have len := congrArg List.length h
    rw [List.length_zipWith, List.length_cons, List.length_cons] at len
    rw [List.length_cons]
    omega
  · exact Nat.zero_le _

theorem length_tweakAt : ∀ (n : Nat) (t : List Byte), (tweakAt n t).length ≤ t.length
  | 0, _ => le_rfl
  | n + 1, t => (length_tweakAt n (tweakDouble t)).trans (length_tweakDouble t)

theorem length_blockTweak (ks : List (List Byte) × List (List Byte)) (pa : Nat) : (blockTweak ks pa).length ≤ 16 :=
  (length_tweakAt ..).trans (length_encryptRounds _ ((length_xorBytes_le ..).1.trans (length_leBytes 16 _).le))

/-- A block read under another key pair is a block. -/
theorem length_reread {old new : BitVec 512} (h : old ≠ new) (pa : Nat) (b : List Byte) : (reread old new pa b).length ≤ 16 := by
  rw [reread, if_neg h]
  exact (length_xorBytes_le ..).2.trans (length_blockTweak ..)

/-! ### Blocks written one after another -/

section
variable {s : State} (hm : MemOk s) {f : Nat → List Byte} (hf : ∀ k, (f k).length ≤ 16) {l : List Nat}
include hm hf

theorem byte_writeBlocks_other {k : Nat} (h : ∀ b ∈ l, k < b ∨ b + 16 ≤ k) :
    (l.foldl (fun t b => t.write b (f b)) s).byte k = s.byte k := by
  induction l generalizing s with
  | nil => rfl
  | cons b l ih =>
    have away := h b List.mem_cons_self
    have len := hf b
    rw [List.foldl_cons, ih (memOk_write hm b (f b)) fun c hc => h c (List.mem_cons_of_mem _ hc), byte_write hm, if_neg (by omega)]

theorem byte_writeBlocks_mem (hl : ∀ b ∈ l, b % 16 = 0) {k j : Nat} (hk : k ∈ l) (hj : j < (f k).length) :
    (l.foldl (fun t b => t.write b (f b)) s).byte (k + j) = (f k).getD j 0 := by
  induction l generalizing s with
  | nil => simp at hk
  | cons b l ih =>
    have ok := memOk_write hm b (f b)
    rw [List.foldl_cons]
    by_cases later : k ∈ l
    · exact ih ok (fun c hc => hl c (List.mem_cons_of_mem _ hc)) later
    · obtain rfl : k = b := (List.mem_cons.1 hk).resolve_right later
      have len := hf k
      have aligned := hl k List.mem_cons_self
      rw [byte_writeBlocks_other ok hf, byte_write hm, if_pos (by omega), Nat.add_sub_cancel_left]
      intro c hc
      have := hl c (List.mem_cons_of_mem _ hc)
      have : c ≠ k := fun e => later (e ▸ hc)
      omega

end

/-! ### A frame under a new key pair -/

theorem mem_listedBlocks {s : State} {p b : Nat} :
    b ∈ s.listedBlocks p ↔ ∃ c ∈ s.mem, c.1 / Config.frameBytes = p ∧ c.1 / 16 * 16 = b := by
  rw [State.listedBlocks]
  induction s.mem with
  | nil => simp
  | cons c m ih =>
    rw [List.foldr_cons]
    simp only [List.mem_cons, exists_eq_or_imp]
    split
    · next new =>
      rw [List.mem_cons, ih]
      exact or_congr ⟨fun e => ⟨new.1, e.symm⟩, fun h => h.2.symm⟩ Iff.rfl
    · next known =>
      rw [ih]
      refine ⟨.inr, fun h => h.elim (fun ⟨here, e⟩ => ?_) id⟩
      have first : _ := Decidable.not_not.1 fun ne => known ⟨here, ne⟩
      exact ih.1 (e ▸ List.mem_of_head? first)

section
variable {s : State} (hm : MemOk s) {p : Nat} {old new : BitVec 512}

/-- A frame with what its unlisted bytes stand for changed, its listed ones dropped. -/
def State.rebased (s : State) (p : Nat) (f : FrameBase) : State :=
  State.setBase { s with mem := memDrop s.mem (p * Config.frameBytes) ((p + 1) * Config.frameBytes) } p f

/-- What a block of memory that stood under one key pair reads as under another. -/
def State.rereadBlock (s : State) (old new : BitVec 512) (b : Nat) : List Byte := reread old new b (s.bytes b 16)

theorem rekey_eq (s : State) (p : Nat) (old new : BitVec 512) : s.rekey p old new = (s.listedBlocks p).foldl
    (fun t b => t.write b (s.rereadBlock old new b))
    (s.rebased p { (mget s.noisy p).getD { undef := none, written := old, now := old } with now := new }) := rfl

theorem foldl_write_rest (l : List Nat) (f : Nat → List Byte) (s : State) :
    l.foldl (fun t b => t.write b (f b)) s = { s with mem := (l.foldl (fun t b => t.write b (f b)) s).mem } := by
  induction l generalizing s with
  | nil => rfl
  | cons b l ih => rw [List.foldl_cons, ih]; rfl

/-- A frame under a new key pair changes memory and the record of noisy frames alone. -/
theorem rekey_rest (s : State) (p : Nat) (old new : BitVec 512) :
    s.rekey p old new = { s with mem := (s.rekey p old new).mem, noisy := (s.rekey p old new).noisy } := by
  rw [rekey_eq, foldl_write_rest]
  rfl

theorem length_rereadBlock (h : old ≠ new) (b : Nat) : (s.rereadBlock old new b).length ≤ 16 := length_reread h b _

/-- A block with no listed byte reads as zero, and under a new key pair as zeros read anew. -/
theorem bytes_unlisted (quiet : mget s.noisy p = none) {k : Nat} (h16 : k % 16 = 0) (hk : k / 2 ^ 21 = p)
    (unlisted_ : k ∉ s.listedBlocks p) : s.bytes k 16 = List.replicate 16 0 := by
  rw [← map_byte_upFrom, map_upFrom, List.map_eq_replicate_iff.2, List.length_range]
  intro i hi
  have small : i < 16 := List.mem_range.1 hi
  have frame : (k + i) / Config.frameBytes = p := by show (k + i) / 2 ^ 21 = p; omega
  have gone : mget s.mem (k + i) = none := Option.eq_none_iff_forall_not_mem.2 fun b hb =>
    unlisted_ (mem_listedBlocks.2 ⟨(k + i, b), mem_of_mget hb, frame, by show (k + i) / 16 * 16 = k; omega⟩)
  rw [State.byte, memGet, gone]
  show unlisted s.noisy (k + i) = 0
  rw [unlisted, frame, quiet]

theorem unlisted_rebased (h : old ≠ new) {k j : Nat} (h16 : k % 16 = 0) (hk : k / 2 ^ 21 = p) (hj : j < 16) :
    unlisted (s.rebased p ⟨none, old, new⟩).noisy (k + j) =
    (reread old new k (List.replicate 16 0)).getD j 0 := by
  have base : mget (s.rebased p ⟨none, old, new⟩).noisy ((k + j) / Config.frameBytes) = some ⟨none, old, new⟩ := by
    have frame : (k + j) / Config.frameBytes = p := by show (k + j) / 2 ^ 21 = p; omega
    show mget (if (none : Option Nat).isNone ∧ old = new then _ else mset s.noisy p ⟨none, old, new⟩) _ = _
    rw [if_neg (fun both => h both.2), frame, mget_mset_self]
  have plain : (List.range 16).map (fun i => FrameBase.plain ⟨none, old, new⟩ ((k + j) / 16 * 16 + i)) = List.replicate 16 0 := rfl
  rw [unlisted, base]
  show FrameBase.byte ⟨none, old, new⟩ (k + j) = _
  rw [FrameBase.byte, if_neg h, plain, show (k + j) / 16 * 16 = k by omega, show (k + j) % 16 = j by omega]

include hm

theorem memOk_rebased (f : FrameBase) : MemOk (s.rebased p f) := ((Kept.refl s).setBase_dropped p f).mem hm

theorem rebased_noisy (f : FrameBase) {j : Nat} (hj : j ≠ p) : mget (s.rebased p f).noisy j = mget s.noisy j := by
  show mget (if f.undef.isNone ∧ f.written = f.now then mdel s.noisy p else mset s.noisy p f) j = _
  split
  · exact mget_mdel_other hm.1 hj
  · exact mget_mset_other _ _ _ _ hj

theorem byte_rebased (f : FrameBase) (k : Nat) : (s.rebased p f).byte k =
    if k / 2 ^ 21 = p then unlisted (s.rebased p f).noisy k else s.byte k :=
  memGet_dropFrame hm.2.1 (fun _ hj => rebased_noisy hm f hj) k

theorem rekey_noisy_other {j : Nat} (hj : j ≠ p) : mget (s.rekey p old new).noisy j = mget s.noisy j := by
  rw [rekey_eq, foldl_write_rest]
  exact rebased_noisy hm _ hj

variable (h : old ≠ new)
include h

theorem byte_rekey_other {k : Nat} (hk : k / 2 ^ 21 ≠ p) : (s.rekey p old new).byte k = s.byte k := by
  have away : ∀ b ∈ s.listedBlocks p, k < b ∨ b + 16 ≤ k := fun b hb => by
    obtain ⟨c, -, hc, rfl⟩ := mem_listedBlocks.1 hb
    have frame : c.1 / 2 ^ 21 = p := hc
    omega
  rw [rekey_eq, byte_writeBlocks_other (memOk_rebased hm _) (length_rereadBlock h) away, byte_rebased hm, if_neg hk]

section
variable (quiet : mget s.noisy p = none) {k j : Nat} (h16 : k % 16 = 0) (hk : k / 2 ^ 21 = p)
include quiet h16 hk

theorem byte_rekey_block (hj : j < 16) : ((reread old new k (s.bytes k 16))[j]?).getD ((s.rekey p old new).byte (k + j)) =
      (s.rekey p old new).byte (k + j) := by
  by_cases inside : j < (s.rereadBlock old new k).length
  · have value : ((s.rereadBlock old new k)[j]?).getD ((s.rekey p old new).byte (k + j)) =
        (s.rereadBlock old new k).getD j 0 := by simp [List.getD, inside]
    refine value.trans (Eq.symm ?_)
    have aligned : ∀ b ∈ s.listedBlocks p, b % 16 = 0 := fun b hb => by
      obtain ⟨c, -, -, rfl⟩ := mem_listedBlocks.1 hb
      omega
    rw [rekey_eq, quiet, Option.getD_none]
    by_cases listed : k ∈ s.listedBlocks p
    · exact byte_writeBlocks_mem (memOk_rebased hm _) (length_rereadBlock h) aligned listed inside
    · have others : ∀ b ∈ s.listedBlocks p, k + j < b ∨ b + 16 ≤ k + j := fun b hb => by
        have := aligned b hb
        have : b ≠ k := fun e => listed (e ▸ hb)
        omega
      rw [byte_writeBlocks_other (memOk_rebased hm _) (length_rereadBlock h) others, byte_rebased hm, if_pos (by omega),
        unlisted_rebased h h16 hk hj, State.rereadBlock, bytes_unlisted quiet h16 hk listed]
  · rw [List.getElem?_eq_none (by rw [State.rereadBlock] at inside; omega)]; rfl

end
end

end Sys2Proof.Machine
end

section
/-! The key command (R179): frames read anew one after another, each once. -/

namespace Sys2Proof.Machine

/-- The next of a list of frames under the key pairs of two states, where these differ. -/
def rekeyOne (s u t : State) (p : Nat) : State :=
  if s.framePair p = u.framePair p then t else t.rekey p (s.framePair p) (u.framePair p)

section
variable {s u t : State} (hm : MemOk t)

theorem memOk_rekeyOne (p : Nat) (h : MemOk t) : MemOk (rekeyOne s u t p) :=
  ((Kept.refl t).ite ((Kept.refl t).rekey p _ _)).mem h

theorem rekeyOne_rest (p : Nat) :
    rekeyOne s u t p = { t with mem := (rekeyOne s u t p).mem, noisy := (rekeyOne s u t p).noisy } := by
  rw [rekeyOne]
  split
  · rfl
  · exact rekey_rest ..

/-- Frames read anew change memory and the record of noisy frames alone. -/
theorem rekeyed_rest (l : List Nat) (t : State) : l.foldl (rekeyOne s u) t =
    { t with mem := (l.foldl (rekeyOne s u) t).mem, noisy := (l.foldl (rekeyOne s u) t).noisy } := by
  induction l generalizing t with
  | nil => rfl
  | cons p l ih => rw [List.foldl_cons, ih, rekeyOne_rest]

theorem memOk_rekeyed (l : List Nat) {t : State} (h : MemOk t) : MemOk (l.foldl (rekeyOne s u) t) := by
  induction l generalizing t with
  | nil => exact h
  | cons p l ih => exact ih (memOk_rekeyOne p h)

/-- Two states agree on a frame: on its bytes, and on what its unlisted ones stand for. -/
structure SameFrame (p : Nat) (t t' : State) : Prop where
  byte : ∀ k, k / 2 ^ 21 = p → t'.byte k = t.byte k
  noisy : mget t'.noisy p = mget t.noisy p

include hm

theorem sameFrame_rekeyOne {p j : Nat} (h : p ≠ j ∨ s.framePair j = u.framePair j) : SameFrame p t (rekeyOne s u t j) := by
  rw [rekeyOne]
  split
  · exact ⟨fun _ _ => rfl, rfl⟩
  · next changed =>
    have other : p ≠ j := h.resolve_right changed
    exact ⟨fun k hk => byte_rekey_other hm changed (hk ▸ other), rekey_noisy_other hm other⟩

/-- A frame that no read touches, or whose key pair stands, stays. -/
theorem sameFrame_rekeyed {p : Nat} (l : List Nat) (h : p ∉ l ∨ s.framePair p = u.framePair p) :
    SameFrame p t (l.foldl (rekeyOne s u) t) := by
  induction l generalizing t with
  | nil => exact ⟨fun _ _ => rfl, rfl⟩
  | cons j l ih =>
    have first : SameFrame p t (rekeyOne s u t j) := sameFrame_rekeyOne hm <| by
      by_cases e : p = j
      · exact .inr (e ▸ h.resolve_left fun n => n (e ▸ List.mem_cons_self))
      · exact .inl e
    have later := ih (memOk_rekeyOne (s := s) (u := u) j hm) (h.imp_left fun n i => n (List.mem_cons_of_mem _ i))
    exact ⟨fun k hk => (later.byte k hk).trans (first.byte k hk), later.noisy.trans first.noisy⟩

/-- A block of a frame among those read anew. -/
theorem byte_rekeyed_block {l : List Nat} (nodup : l.Nodup) {p : Nat} (hp : p ∈ l) (h : s.framePair p ≠ u.framePair p)
    (quiet : mget t.noisy p = none) {k j : Nat} (h16 : k % 16 = 0) (hk : k / 2 ^ 21 = p) (hj : j < 16) :
    ((reread (s.framePair p) (u.framePair p) k (t.bytes k 16))[j]?).getD ((l.foldl (rekeyOne s u) t).byte (k + j)) =
      (l.foldl (rekeyOne s u) t).byte (k + j) := by
  obtain ⟨before, after, rfl⟩ := List.append_of_mem hp
  obtain ⟨-, hafter, apart⟩ := List.nodup_append.1 nodup
  have notBefore : p ∉ before := fun hb => apart p hb p List.mem_cons_self rfl
  have notAfter : p ∉ after := (List.nodup_cons.1 hafter).1
  rw [List.foldl_append, List.foldl_cons]
  have first := sameFrame_rekeyed hm (u := u) (s := s) before (.inl notBefore)
  have ok := memOk_rekeyed (s := s) (u := u) before hm
  generalize before.foldl (rekeyOne s u) t = t₁ at first ok ⊢
  have read : t.bytes k 16 = t₁.bytes k 16 := by
    rw [← map_byte_upFrom, ← map_byte_upFrom]
    refine List.map_congr_left fun i hi => (first.byte i ?_).symm
    have := mem_upFrom.1 hi
    omega
  have last := sameFrame_rekeyed (s := s) (u := u) (memOk_rekeyOne (s := s) (u := u) p ok) after (.inl notAfter)
  rw [last.byte (k + j) (by omega), read, rekeyOne, if_neg h]
  exact byte_rekey_block ok h (first.noisy.trans quiet) h16 hk hj

end

/-! ### The frames of a key command -/

theorem nodup_keys {α : Type} {lo : Nat} {m : SMap α} (h : risingFrom lo m = true) : (m.map Prod.fst).Nodup := by
  induction m generalizing lo with
  | nil => exact List.nodup_nil
  | cons c m ih =>
    obtain ⟨k, v⟩ := c
    simp only [risingFrom, Bool.and_eq_true, decide_eq_true_eq] at h
    refine List.nodup_cons.2 ⟨fun hk => ?_, ih h.2⟩
    obtain ⟨c, hc, e⟩ := List.mem_map.1 hk
    have above := lo_le_of_mem h.2 hc
    have same : c.1 = k := e
    omega

/-- The state with a key pair in a slot, and frames `lo` up to below `hi` that slot's. -/
def State.keyed (s : State) (slot : Nat) (key : BitVec 512) (lo hi : Nat) : State :=
  { s with keys := mset s.keys slot key, frameKey := (upFrom lo (hi - lo)).foldl (fun m p => mset m p slot) s.frameKey }

/-- The frames outside a range that a key slot holds. -/
def State.heldOutside (s : State) (slot lo hi : Nat) : List Nat :=
  s.frameKey.filterMap fun (p, k) => if k = slot ∧ ¬ (lo ≤ p ∧ p < hi) then some p else none

section
variable {s : State} {slot lo hi : Nat} (key : BitVec 512)

theorem mget_foldl_mset {α : Type} (l : List Nat) (v : α) (m : SMap α) (k : Nat) :
    mget (l.foldl (fun m p => mset m p v) m) k = if k ∈ l then some v else mget m k := by
  induction l generalizing m with
  | nil => simp
  | cons p l ih =>
    rw [List.foldl_cons, ih, mget_mset]
    by_cases later : k ∈ l
    · simp [later]
    · simp [later]

theorem keyed_frameKey (s : State) (slot : Nat) {lo hi : Nat} (h : lo ≤ hi) (p : Nat) :
    mget (s.keyed slot key lo hi).frameKey p = if lo ≤ p ∧ p < hi then some slot else mget s.frameKey p :=
  (mget_foldl_mset ..).trans (if_congr (mem_upFrom.trans (by omega)) rfl rfl)

theorem mem_heldOutside {p : Nat} : p ∈ s.heldOutside slot lo hi ↔ (p, slot) ∈ s.frameKey ∧ ¬ (lo ≤ p ∧ p < hi) := by
  rw [State.heldOutside, List.mem_filterMap]
  constructor
  · rintro ⟨⟨q, k⟩, hc, he⟩
    simp only [Option.ite_none_right_eq_some, Option.some.injEq] at he
    obtain ⟨⟨rfl, out⟩, rfl⟩ := he
    exact ⟨hc, out⟩
  · rintro ⟨hc, out⟩
    exact ⟨(p, slot), hc, if_pos ⟨rfl, out⟩⟩

theorem nodup_heldOutside (hr : risingFrom 0 s.frameKey = true) : (s.heldOutside slot lo hi).Nodup := by
  have parts : s.heldOutside slot lo hi =
      ((s.frameKey.filter fun c => decide (c.2 = slot ∧ ¬ (lo ≤ c.1 ∧ c.1 < hi))).map Prod.fst) := by
    rw [State.heldOutside, ← List.filterMap_eq_map, List.filterMap_filter]
    refine List.filterMap_congr fun c _ => ?_
    simp [imp_iff_not_or]
  rw [parts]
  exact (nodup_keys hr).sublist (List.filter_sublist.map _)

theorem nodup_rekeyed (hr : risingFrom 0 s.frameKey = true) : (upFrom lo (hi - lo) ++ s.heldOutside slot lo hi).Nodup := by
  refine List.nodup_append.2 ⟨nodup_upFrom .., nodup_heldOutside hr, fun p hp q hq e => ?_⟩
  have given := mem_upFrom.1 hp
  have held := (mem_heldOutside.1 hq).2
  omega

/-- A frame whose key pair changes is one that the command gives the slot, or one that the slot held. -/
theorem mem_rekeyed (h : lo ≤ hi) {p : Nat} (changed : s.framePair p ≠ (s.keyed slot key lo hi).framePair p) :
    p ∈ upFrom lo (hi - lo) ++ s.heldOutside slot lo hi := by
  refine Decidable.by_contra fun outside => changed ?_
  rw [List.mem_append, not_or, mem_upFrom, mem_heldOutside] at outside
  obtain ⟨notGiven, notHeld⟩ := outside
  rw [State.framePair, State.framePair, keyed_frameKey key s slot h, if_neg (by omega)]
  cases owner : mget s.frameKey p with
  | none => rfl
  | some k =>
    have other : k ≠ slot := fun e => notHeld ⟨e ▸ mem_of_mget owner, by omega⟩
    have pair : mget (s.keyed slot key lo hi).keys k = mget s.keys k := mget_mset_other _ _ _ _ other
    exact congrArg (fun o => o.getD (Config.bootKey k)) pair.symm

end

section
variable {s : State} {q : Nat} {x : Tenant} {slot lo hi : Nat} {key : BitVec 512} (b : Begins s q 0x06 true x)
  (free : s.namedBusy q slot = false)
include b free

theorem keyCommand_refused (bad : 32 ≤ slot ∨ hi < lo ∨ 294912 < hi) :
    exec (.keyCommand q slot key lo hi) s = .next (s.complete q 3) := by
  refine congrArg Host.Outcome.next ((command_begins b _).trans ?_)
  rw [if_neg (by simp [free])]
  exact if_pos bad

theorem keyCommand_done (ok : ¬ (32 ≤ slot ∨ hi < lo ∨ 294912 < hi)) : exec (.keyCommand q slot key lo hi) s =
    .next (((upFrom lo (hi - lo) ++ s.heldOutside slot lo hi).foldl (rekeyOne s (s.keyed slot key lo hi))
      (s.keyed slot key lo hi)).complete q 0) := by
  refine congrArg Host.Outcome.next ((command_begins b _).trans ?_)
  rw [if_neg (by simp [free])]
  exact if_neg ok

/-- What a key command does (R102, R179). -/
theorem keyCommand_effect (h : s.tenant q = some x) (hm : MemOk s) (ok : ¬ (32 ≤ slot ∨ hi < lo ∨ 294912 < hi))
    (hr : risingFrom 0 s.frameKey = true) : Gives (.keyCommand q slot key lo hi) s fun t => ∃ m,
      Completes m t q 0 x ∧ m.keys = mset s.keys slot key ∧
      (∀ p, mget m.frameKey p = if lo ≤ p ∧ p < hi then some slot else mget s.frameKey p) ∧
      ∀ p, let old := s.framePair p; let new := m.framePair p
        (old = new → ∀ k, k / 2 ^ 21 = p → m.byte k = s.byte k) ∧
        (old ≠ new → mget s.noisy p = none → ∀ k j, k % 16 = 0 → k / 2 ^ 21 = p → j < 16 →
          ((reread old new k (s.bytes k 16))[j]?).getD (m.byte (k + j)) = m.byte (k + j)) := by
  have low : lo ≤ hi := by omega
  have start : MemOk (s.keyed slot key lo hi) := hm
  have rest := rekeyed_rest (s := s) (u := s.keyed slot key lo hi) (upFrom lo (hi - lo) ++ s.heldOutside slot lo hi)
    (s.keyed slot key lo hi)
  have keeps := memOk_rekeyed (s := s) (u := s.keyed slot key lo hi) (upFrom lo (hi - lo) ++ s.heldOutside slot lo hi) start
  have stays := fun p => sameFrame_rekeyed (s := s) (u := s.keyed slot key lo hi) start (p := p)
    (upFrom lo (hi - lo) ++ s.heldOutside slot lo hi)
  have reads := fun p hp changed => byte_rekeyed_block (s := s) (u := s.keyed slot key lo hi) start
    (nodup_rekeyed (lo := lo) (hi := hi) (slot := slot) hr) (p := p) hp changed
  have run := keyCommand_done b free (key := key) ok
  generalize (upFrom lo (hi - lo) ++ s.heldOutside slot lo hi).foldl (rekeyOne s (s.keyed slot key lo hi))
    (s.keyed slot key lo hi) = m at rest keeps stays reads run
  have frames : m.frameKey = (s.keyed slot key lo hi).frameKey := by rw [rest]
  have keys : m.keys = mset s.keys slot key := by rw [rest]; rfl
  have pairs : ∀ p, m.framePair p = (s.keyed slot key lo hi).framePair p := fun p => by
    rw [State.framePair, State.framePair, frames, keys]; rfl
  have there : m.tenant q = some x := (congrArg (fun t : State => t.tenant q) rest).trans h
  refine ⟨_, run, m, complete_completes there keeps 0, keys, fun p => ?_, fun p => ⟨fun same k hk => ?_, fun changed => ?_⟩⟩
  · rw [frames]
    exact keyed_frameKey key s slot low p
  · exact (stays p (.inr (same.trans (pairs p)))).byte k hk
  · rw [pairs] at changed ⊢
    exact fun quiet k j h16 hk hj => reads p (mem_rekeyed key low changed) changed quiet h16 hk hj

end

end Sys2Proof.Machine
end

section
/-! The remap commands, and a remapping step's end (R88, R89). -/

namespace Sys2Proof.Machine

/-- A slot that a forced close does not meet stands. -/
theorem closeRows_leaves {s : State} (hg : risingFrom 0 s.groups = true) {core : Nat} (reason : Nat)
    {test : Nat → Nat → RowSlot → Bool} {k i : Nat} {g : Group} {r : RowSlot} (hk : s.group k = some g)
    (hr : g.rows[i]? = some r) (ht : (r.pending && test k i r) = false) :
    (s.closeRows core reason test).reqSlot ⟨k, i⟩ = some r := by
  have unmet : ∀ (l : List (Nat × Nat × RowSlot)) (t : State), (∀ e ∈ l, (⟨e.1, e.2.1⟩ : ActReq) ≠ ⟨k, i⟩) →
      (l.foldl (fun s (k, i, r) => s.closeSlot core k i reason r) t).reqSlot ⟨k, i⟩ = t.reqSlot ⟨k, i⟩ := by
    intro l
    induction l with
    | nil => exact fun _ _ => rfl
    | cons e l ih =>
      intro t he
      refine (ih _ fun x hx => he x (List.mem_cons_of_mem e hx)).trans ?_
      dsimp only
      rw [reqSlot_closeSlot, if_neg (he e List.mem_cons_self).symm]
  refine (unmet _ s fun e he hq => ?_).trans ((reqSlot_eq hk i).trans hr)
  obtain ⟨ke, ie, re⟩ := e
  cases hq
  obtain ⟨hmem, met⟩ := List.mem_filter.1 he
  obtain ⟨x, hx, -, hxr⟩ := (mem_coreSlots hg).1 hmem
  cases hk.symm.trans hx
  cases Option.some.inj (hxr.symm.trans hr)
  simp [ht] at met

section
variable {s : State} {q col : Nat} {x : Tenant}

theorem namedMapped_iff (s : State) (col : Nat) : s.namedMapped col = true ↔
    ∃ y ∈ s.tenants, ∃ e ∈ y.2.stage2, (e.2.getLsbD 0 = true ∨ e.2.getLsbD 3 = true ∧
        ∃ w ∈ s.tenants, ∃ gpa v, w.2.cmdWait = some (.zero y.1 gpa v) ∧ gpa / 2 ^ 21 = e.1) ∧
      let f := e.2.toNat / 2 ^ 21 % 2 ^ 27
      let lo := col * 384 + (16 * ((List.range 24).filter fun b => (s.column col).live.getLsbD b).length - 16)
      lo ≤ f ∧ f < lo + 16 := by
  have zeroing : ∀ id frame, s.zeroing id frame = true ↔
      ∃ w ∈ s.tenants, ∃ gpa v, w.2.cmdWait = some (.zero id gpa v) ∧ gpa / 2 ^ 21 = frame := fun id frame => by
    simp only [State.zeroing, List.any_eq_true]
    refine exists_congr fun w => and_congr_right fun _ => ?_
    cases w.2.cmdWait with
    | none => simp
    | some c =>
      cases c with
      | zero i g e =>
        simp only [Bool.and_eq_true, decide_eq_true_eq, Option.some.injEq, CmdWait.zero.injEq]
        exact ⟨fun h => ⟨g, e, ⟨h.1, rfl, rfl⟩, h.2⟩, fun ⟨_, _, ⟨hi, hg, _⟩, hf⟩ => ⟨hi, hg ▸ hf⟩⟩
      | _ => simp
  simp only [State.namedMapped, List.any_eq_true, State.mapsFrame, Bool.and_eq_true, Bool.or_eq_true, zeroing, bit_eq_testBit,
    decide_eq_true_eq]
  exact Iff.rfl

/-- A remapping step's start (R88, R92). -/
theorem startRemap_effect (hg : risingFrom 0 s.groups = true) (h : s.tenant q = some x) (col : Nat) (op : RemapOp) :
    let t := s.startRemap q col op
    (t.column col).remap = some (op, q) ∧ t.tenant q = some { x with cmdWait := some (.remap col) } ∧ t.mem = s.mem ∧
      ∀ (k j : Nat) (g : Group) (r : RowSlot), s.group k = some g → g.core = col → g.rows[j]? = some r →
        (t.group k).bind (fun y => y.rows[j]?) =
          some (if r.state = .activating ∨ r.state = .opened then { r with state := .closed, reason := 5 } else r) := by
  have closed := closesRows_closeRows s col 5 fun _ _ r => r.holds
  obtain ⟨hmem, htenants, -⟩ := closed.standing
  have slots : ∀ (k j : Nat) (g : Group) (r : RowSlot), s.group k = some g → g.core = col → g.rows[j]? = some r →
      (s.closeRows col 5 fun _ _ r => r.holds).reqSlot ⟨k, j⟩ =
        some (if r.state = .activating ∨ r.state = .opened then { r with state := .closed, reason := 5 } else r) := by
    intro k j g r hk hc hr
    by_cases open_ : r.state = .activating ∨ r.state = .opened
    · have holds : r.holds = true := by simpa [RowSlot.holds, or_comm] using open_
      obtain ⟨y, hy, hyr⟩ := closeRows_closes (test := fun _ _ r => r.holds) hg 5 hk hc hr (holds_pending holds) holds
      rw [if_pos open_, reqSlot_eq hy, hyr]
    · have holds : r.holds = false := by simpa [RowSlot.holds, and_comm] using open_
      rw [if_neg open_]
      exact closeRows_leaves hg 5 hk hr (by simp [holds])
  generalize hs : (s.closeRows col 5 fun _ _ r => r.holds) = s₁ at closed hmem htenants slots
  have there : s₁.tenant q = some x := (congrArg (mget · q) htenants).trans h
  intro t
  have ht : t = (s₁.setColumn col { s₁.column col with remap := some (op, q) }).setTenant q { x with cmdWait := some (.remap col) } := by
    simp only [t, State.startRemap, hs, State.cmdWaits]
    exact onTenant_of (t := s₁.setColumn col _) there _
  rw [ht]
  refine ⟨?_, mget_mset_self .., hmem, slots⟩
  exact congrArg Column.remap (column_setColumn_self ..)

theorem retirement_named {bank : Nat} (hc : col < 768) (hp : ∃ p ∈ (s.column col).pending, p.1 = bank) :
    ¬ (768 ≤ col ∨ ((s.column col).pending.any fun p => decide (p.1 = bank)) = false) := by
  obtain ⟨p, hp, e⟩ := hp
  have : ((s.column col).pending.any fun p => decide (p.1 = bank)) = true := List.any_eq_true.2 ⟨p, hp, decide_eq_true e⟩
  simp [this, hc]

section
variable (b : Begins s q 0x09 true x) {bank : Nat}
include b

theorem exec_retirement : exec (.remapCompleteRetirement q col bank) s = .next (
    if 768 ≤ col ∨ ((s.column col).pending.any fun p => decide (p.1 = bank)) = false then s.complete q 3
    else if (s.column col).remap.isSome then s
    else if s.namedMapped col then s.complete q 4
    else s.startRemap q col (.retire bank)) := congrArg Host.Outcome.next (command_begins b _)

theorem exec_readmit : exec (.remapReadmit q col bank) s = .next (
    if 768 ≤ col ∨ (s.column col).temporary.contains bank = false then s.complete q 3
    else if (s.column col).remap.isSome then s
    else if 92 < (s.column col).bankTemp bank then s.complete q 4
    else s.startRemap q col (.readmit bank)) := congrArg Host.Outcome.next (command_begins b _)

theorem retirement_misnamed (bad : 768 ≤ col ∨ ∀ p ∈ (s.column col).pending, p.1 ≠ bank) :
    exec (.remapCompleteRetirement q col bank) s = .next (s.complete q 3) := by
  rw [exec_retirement b, if_pos (bad.imp_right fun h => List.any_eq_false.2 fun p hp => by simpa using h p hp)]

theorem readmit_misnamed (bad : 768 ≤ col ∨ bank ∉ (s.column col).temporary) :
    exec (.remapReadmit q col bank) s = .next (s.complete q 3) := by
  rw [exec_readmit b, if_pos (bad.imp_right fun h => by simpa using h)]

variable (hc : col < 768)

section
variable (hp : ∃ p ∈ (s.column col).pending, p.1 = bank)
include hc hp

theorem retirement_waits (h : (s.column col).remap.isSome = true) : exec (.remapCompleteRetirement q col bank) s = .next s := by
  rw [exec_retirement b, if_neg (retirement_named hc hp), if_pos h]

theorem retirement_mapped (h : (s.column col).remap = none) (m : s.namedMapped col = true) :
    exec (.remapCompleteRetirement q col bank) s = .next (s.complete q 4) := by
  rw [exec_retirement b, if_neg (retirement_named hc hp), if_neg (by simp [h]), if_pos m]

theorem retirement_starts (h : (s.column col).remap = none) (m : s.namedMapped col = false) :
    exec (.remapCompleteRetirement q col bank) s = .next (s.startRemap q col (.retire bank)) := by
  rw [exec_retirement b, if_neg (retirement_named hc hp), if_neg (by simp [h]), if_neg (by simp [m])]

end

section
variable (ht : bank ∈ (s.column col).temporary)
include hc ht

theorem readmit_waits (h : (s.column col).remap.isSome = true) : exec (.remapReadmit q col bank) s = .next s := by
  rw [exec_readmit b, if_neg (by simp [ht, hc]), if_pos h]

variable (h : (s.column col).remap = none) {d : Nat} (hd : (s.column col).temps[bank / 2]? = some d)
include h hd

theorem readmit_hot (hot : 92 < d) : exec (.remapReadmit q col bank) s = .next (s.complete q 4) := by
  rw [exec_readmit b, if_neg (by simp [ht, hc]), if_neg (by simp [h]), if_pos (by simpa [Column.bankTemp, List.getD, hd] using hot)]

theorem readmit_starts (cool : d ≤ 92) : exec (.remapReadmit q col bank) s = .next (s.startRemap q col (.readmit bank)) := by
  rw [exec_readmit b, if_neg (by simp [ht, hc]), if_neg (by simp [h]),
    if_neg (by simpa [Column.bankTemp, List.getD, hd] using cool)]

end
end
end

end Sys2Proof.Machine
end

section
/-! A remapping step's end (R88, R89). -/

namespace Sys2Proof.Machine

section
variable {s : State} (hm : MemOk s)

theorem undefFrame_rest (s : State) (p : Nat) : s.undefFrame p = { s with
    mem := (s.undefFrame p).mem, noisy := (s.undefFrame p).noisy, badUnits := (s.undefFrame p).badUnits, nextId := s.nextId + 1 } := rfl

theorem undefFrames_kept (p : Nat) (s : State) : (s.undefFrames p).tenants = s.tenants ∧ (s.undefFrames p).columns = s.columns := by
  rw [State.undefFrames]
  induction upFrom p 16 generalizing s with
  | nil => exact ⟨rfl, rfl⟩
  | cons a l ih => exact ⟨(ih _).1.trans rfl, (ih _).2.trans rfl⟩

include hm

theorem byte_undefFrame {p k : Nat} (hk : k / 2 ^ 21 ≠ p) : (s.undefFrame p).byte k = s.byte k := by
  have others : ∀ j, j ≠ p → mget (s.undefFrame p).noisy j = mget s.noisy j := fun j hj => by
    show mget (if (some s.nextId).isNone ∧ s.framePair p = s.framePair p then mdel (mdel s.noisy p) p
      else mset (mdel s.noisy p) p _) j = _
    rw [if_neg (by simp), mget_mset_other _ _ _ _ hj, mget_mdel_other hm.1 hj]
  exact (memGet_dropFrame hm.2.1 others k).trans (if_neg hk)

/-- Undefined frames leave every byte outside them. -/
theorem byte_undefFrames {p k : Nat} (hk : k / 2 ^ 21 < p ∨ p + 16 ≤ k / 2 ^ 21) : (s.undefFrames p).byte k = s.byte k := by
  have away : ∀ a ∈ upFrom p 16, k / 2 ^ 21 ≠ a := fun a ha => by
    have := mem_upFrom.1 ha
    omega
  rw [State.undefFrames]
  generalize upFrom p 16 = l at away
  induction l generalizing s with
  | nil => rfl
  | cons a l ih =>
    rw [List.foldl_cons, ih (((Kept.refl s).undefFrame a).mem hm) fun b hb => away b (List.mem_cons_of_mem _ hb)]
    exact byte_undefFrame hm (away a List.mem_cons_self)

end

theorem live_retired (live : BitVec 24) (bank : Nat) {b : Nat} (hb : b < 24) :
    (live &&& ~~~(1#24 <<< bank)).getLsbD b = (live.getLsbD b && decide (b ≠ bank)) := by
  rw [BitVec.getLsbD_and, BitVec.getLsbD_not, ← BitVec.twoPow_eq, BitVec.getLsbD_twoPow]
  by_cases e : bank = b <;> simp [hb, e, Ne.symm]

theorem live_readmitted (live : BitVec 24) (bank : Nat) {b : Nat} (hb : b < 24) :
    (live ||| (1#24 <<< bank)).getLsbD b = (live.getLsbD b || decide (b = bank)) := by
  rw [BitVec.getLsbD_or, ← BitVec.twoPow_eq, BitVec.getLsbD_twoPow]
  by_cases e : bank = b <;> simp [hb, e, eq_comm]

/-- A column as a remapping step leaves it. -/
def Column.remapped (c : Column) (now : Nat) : RemapOp → Column
  | .retire b => { c with
      live := c.live &&& ~~~(1#24 <<< b), pending := c.pending.filter fun p => decide (p.1 ≠ b),
      temporary := if c.pending.contains (b, true) then c.temporary ++ [b] else c.temporary,
      refresh := mdel c.refresh b, remap := none }
  | .readmit b => { c with
      live := c.live ||| (1#24 <<< b), temporary := c.temporary.filter fun x => decide (x ≠ b),
      modeAt := setAt c.modeAt b now, remap := none }

section
variable {s : State} {q col : Nat} {x : Tenant}

/-- The state of a remapping step before its command completes. -/
def State.remapped (s : State) (col : Nat) (op : RemapOp) : State :=
  let t := s.setColumn col ((s.column col).remapped s.stime op)
  match op with
  | .retire _ => t
  | .readmit _ => t.undefFrames (col * Config.framesPerColumn + 16 * (s.column col).liveBanks.length)

theorem exec_remappingStep {op : RemapOp} (h : (s.column col).remap = some (op, q)) :
    exec (.remappingStepComplete col) s = .next ((s.remapped col op).complete q 0) := by
  show execRemappingStepComplete col s = _
  rw [execRemappingStepComplete, h]
  cases op <;> rfl

theorem remapped_kept (op : RemapOp) : (s.remapped col op).tenants = s.tenants ∧
    (s.remapped col op).columns = mset s.columns col ((s.column col).remapped s.stime op) := by
  cases op with
  | retire b => exact ⟨rfl, rfl⟩
  | readmit b => exact undefFrames_kept _ _

theorem remapped_column (op : RemapOp) (k : Nat) : (s.remapped col op).column k =
    if k = col then (s.column col).remapped s.stime op else s.column k := by
  rw [State.column, (remapped_kept op).2, mget_mset]
  split
  · rfl
  · rfl

theorem memOk_remapped (hm : MemOk s) (op : RemapOp) : MemOk (s.remapped col op) := by
  cases op with
  | retire b => exact hm
  | readmit b => exact (((Kept.refl s).setColumn col _).undefFrames _).mem hm

theorem remappingStep_effect (h : s.tenant q = some x) (hm : MemOk s) {op : RemapOp} (hr : (s.column col).remap = some (op, q)) :
    Gives (.remappingStepComplete col) s fun t => ∃ m,
      Completes m t q 0 x ∧ (m.column col).remap = none ∧ (∀ k, k ≠ col → m.column k = s.column k) ∧
      let c := s.column col
      let first := col * 384 + 16 * ((List.range 24).filter fun b => c.live.getLsbD b).length
      ∀ bank, bank < 24 →
        (op = .retire bank → (∀ b, b < 24 → (m.column col).live.getLsbD b = (c.live.getLsbD b && decide (b ≠ bank))) ∧
          (∀ p ∈ (m.column col).pending, p.1 ≠ bank) ∧ (∀ k, m.byte k = s.byte k) ∧
          ((bank, true) ∈ c.pending → bank ∈ (m.column col).temporary)) ∧
        (op = .readmit bank → (∀ b, b < 24 → (m.column col).live.getLsbD b = (c.live.getLsbD b || decide (b = bank))) ∧
          bank ∉ (m.column col).temporary ∧
          ∀ k, (k / 2 ^ 21 < first ∨ first + 16 ≤ k / 2 ^ 21) → m.byte k = s.byte k) := by
  have there : (s.remapped col op).tenant q = some x := (congrArg (mget · q) (remapped_kept op).1).trans h
  have here : (s.remapped col op).column col = (s.column col).remapped s.stime op := (remapped_column op col).trans (if_pos rfl)
  refine ⟨_, exec_remappingStep hr, _, complete_completes there (memOk_remapped hm op) 0, ?_,
    fun k hk => (remapped_column op k).trans (if_neg hk), fun bank _ => ⟨?_, ?_⟩⟩
  · rw [here]
    cases op <;> rfl
  · rintro rfl
    rw [here]
    refine ⟨fun b hb => live_retired _ _ hb, fun p hp => of_decide_eq_true (List.mem_filter.1 hp).2, fun k => rfl, fun hp => ?_⟩
    show bank ∈ if (s.column col).pending.contains (bank, true) then _ ++ [bank] else _
    rw [if_pos (List.contains_iff_mem.2 hp)]
    exact List.mem_append_right _ List.mem_cons_self
  · rintro rfl
    rw [here]
    refine ⟨fun b hb => live_readmitted _ _ hb, fun hp => ?_, fun k hk => ?_⟩
    · exact of_decide_eq_true (List.mem_filter.1 hp).2 rfl
    · exact byte_undefFrames (s := s.setColumn col _) hm hk

end

end Sys2Proof.Machine
end

section
/-! The commands of the hypervisor. -/

namespace Sys2Proof.Machine

section
variable {s : State} {q id : Nat} {x : Tenant}

/-- A command that names a busy tenant, or a busy slot, waits. -/
theorem busy_waits (busy : s.namedBusy q id = true) {cfg : TenantCfg} {gpa : Nat} {e : Dword} {key : BitVec 512} {lo hi : Nat}
    {i : Instr} (hi_ : i ∈ [Instr.tenantCreate q id cfg, .tenantChange q id cfg, .tenantDisable q id, .mapCommand q id gpa e,
      .zeroCommand q id gpa e, .keyCommand q id key lo hi]) {op : Nat} (b : Begins s q op true x) (c : IsCommand q i op true) :
    exec i s = .next s := by
  simp only [List.mem_cons, List.not_mem_nil, or_false] at hi_
  rcases hi_ with rfl | rfl | rfl | rfl | rfl | rfl
  · cases c
    rw [exec_tenantCreate b cfg, if_pos busy]
  · cases c
    rw [exec_tenantChange b cfg, if_pos (by simp [busy])]
  · cases c
    rw [exec_tenantDisable b, if_pos (by simp [busy])]
  · cases c
    rw [exec_mapCommand b, if_pos busy]
  · cases c
    rw [exec_zeroCommand b, if_pos busy]
  · cases c
    exact congrArg Host.Outcome.next ((command_begins b _).trans (if_pos busy))

/-- The tenant commands' effects once they are accepted. -/
theorem tenant_made (h : s.tenant q = some x) (hm : MemOk s) {i : Instr} {cfg : TenantCfg} {y : State → Tenant} {u : State}
    (run : exec i s = .next u) (hu : u = { (s.complete q 0).clearFaultQueue cfg with
      tenants := mset ((s.complete q 0).clearFaultQueue cfg).tenants id (y ((s.complete q 0).clearFaultQueue cfg)) }) :
    Gives i s fun t => ∃ m n, Completes s m q 0 x ∧ Writes m n (Config.hostBase + cfg.fqCtl) (List.replicate 16 0) ∧
      t = { n with tenants := mset n.tenants id (y n) } :=
  ⟨u, run, _, _, complete_completes h hm 0, fault_queue_cleared hm cfg, hu⟩

theorem tenant_ended (h : s.tenant q = some x) (hm : MemOk s) {i : Instr}
    (run : exec i s = .next ((s.complete q 0).endTenant id)) : Gives i s fun t => ∃ m, Completes s m q 0 x ∧
      t = { m with tenants := mdel m.tenants id, enrolled := s.enrolled.filter fun e => decide (e.tenant ≠ id) } := by
  have done := complete_completes h hm 0
  refine ⟨_, run, _, done, ?_⟩
  have enrolled : (s.complete q 0).enrolled = s.enrolled := by rw [done.rest]
  rw [State.endTenant, enrolled]

end

end Sys2Proof.Machine

namespace Sys2Proof.Proofs
open Machine

/-- Settles O49: each command by its answers (the tenant's busy, refused and accepted cases), with one effect lemma per accepted
command: the entry that a map or zero command sets, the blocks that a key command reads anew, each once, and the column that a
remapping step leaves. -/
theorem hypervisorCommands : Obligations.HypervisorCommands := by
  unfold Obligations.HypervisorCommands
  intro s q x h hm fails busy
  have named : ∀ {id}, ¬ busy id → s.namedBusy q id = false := fun n => Bool.eq_false_iff.2 fun t => n ((namedBusy_iff ..).1 t)
  have done : ∀ {i status}, exec i s = .next (s.complete q status) → fails i status := fun run => completed h hm run
  refine ⟨fun id hb cfg gpa e key lo hi i hi_ ⟨op, b, c⟩ => busy_waits ((namedBusy_iff ..).2 hb) hi_ b c, fun b id cfg hb => ?_,
    fun id gpa entry hb bad => ⟨fun b => done (mapCommand_misnamed (named hb) b bad), fun b => done ?_⟩,
    fun id gpa entry z hz hg hb hr => ?_, fun id ids rows hw => ?_, fun b slot key lo hi => ?_, fun b hg col bank => ?_,
    fun col op hr => remappingStep_effect h hm hr⟩
  · refine ⟨fun bad => done (tenantCreate_refused b cfg (named hb) bad), fun h16 none_ ok =>
      tenant_made h hm (tenantCreate_done b cfg (named hb) h16 none_ ok) rfl, fun z hz moves => tenantChange_waits b cfg hz moves,
      fun none_ => done (tenantChange_absent b cfg (named hb) none_), fun z hz stays bad =>
      done (tenantChange_refused b cfg (named hb) hz stays bad), fun z hz stays ok =>
      tenant_made h hm (tenantChange_done b cfg (named hb) hz stays ok) (change_effect h hm hz cfg), fun none_ =>
      done (tenantDisable_absent b (named hb) none_), fun z hz other hw => tenantDisable_waits b hz other hw, fun z hz idle =>
      tenant_ended h hm (tenantDisable_done b (named hb) hz idle)⟩
  · exact zeroCommand_misnamed (named hb) b (bad.imp_right .inl)
  · have refused := mapRefused_iff s id entry
    refine ⟨fun b => ⟨fun bad => done (mapCommand_refused (named hb) b hz hg (refused.2 bad)), fun ok => ?_⟩,
      fun b => ⟨fun even => done (zeroCommand_misnamed (named hb) b (.inr (.inr even))), fun odd bad =>
        done (zeroCommand_refused (named hb) b hz hg odd (refused.2 bad)), fun odd ok => ?_⟩,
      fun hw odd => zeroFill_ends h hm hz hw odd⟩
    · have run := mapCommand_done (named hb) b hz hg (Bool.eq_false_iff.2 fun t => ok (refused.1 t))
      refine ⟨_, run, ((mapped_sets hz hr).cmdWaits q _).parts, ?_⟩
      rw [← entry2_of hz]
      exact awaitDrain_effect (mapped_isSome h) _
    · have run := zeroCommand_done (named hb) b hz hg odd (Bool.eq_false_iff.2 fun t => ok (refused.1 t))
      obtain ⟨y, hy⟩ := Option.isSome_iff_exists.1 (setEntry2_isSome (endMapping_isSome h) ((entry &&& ~~~1#64) ||| 8#64))
      exact ⟨_, run, ⟨_, ((setsEntry_written hz hr _).cmdWaits q _).endEnrolments.parts, zeroing_entry entry⟩, cmdWaits_wait hy _⟩
  · have run := exec_drainComplete h hw
    refine ⟨fun held => run.trans ?_, fun closed gone => done (run.trans ?_)⟩
    · have waits : (s.inFlight ids || s.rowsOpening rows) = true := by
        rcases held with ⟨a, ha, hi⟩ | opening
        · rw [inFlight_access ha hi, Bool.true_or]
        · rw [(rowsOpening_iff s rows).2 opening, Bool.or_true]
      rw [if_pos waits]
    · have still : s.rowsOpening rows = false :=
        Bool.eq_false_iff.2 fun t => by
          obtain ⟨p, hp, ho⟩ := (rowsOpening_iff s rows).1 t
          exact closed p hp ho
      rw [inFlight_none gone, still]
      rfl
  · exact ⟨fun hb bad => done (keyCommand_refused b (named hb) bad), fun hb h32 low high hr =>
      keyCommand_effect b (named hb) h hm (by omega) hr⟩
  · have mapped := namedMapped_iff s col
    refine ⟨fun bad => done (retirement_misnamed b bad), fun hc hp hn => ⟨fun m => done (retirement_mapped b hc hp hn (mapped.2 m)),
      fun m => ⟨_, retirement_starts b hc hp hn (Bool.eq_false_iff.2 fun t => m (mapped.1 t)), startRemap_effect hg h col _⟩⟩,
      fun hc hn => ⟨fun hp => retirement_waits b hc hp hn, fun ht => readmit_waits b hc ht hn⟩,
      fun bad => done (readmit_misnamed b bad), fun hc ht hn d hd => ⟨fun hot => done (readmit_hot b hc ht hn hd hot),
        fun cool => ⟨_, readmit_starts b hc ht hn hd cool, startRemap_effect hg h col _⟩⟩⟩

end Sys2Proof.Proofs
end

section
/-! An ordinary access is performed: its lanes one after another (R90, R109). -/

namespace Sys2Proof.Machine

/-! ### Lanes that lie in the package's memory -/

/-- A lane lies in memory that the package has (R85). -/
structure LaneAcc.Local (l : LaneAcc) : Prop where
  place : l.pa < 294912 * 2 ^ 21
  own : l.peer = false

theorem absentKey_iff (k : Nat) : absentKey k = true ↔ 294912 * 2 ^ 21 ≤ k ∧ k < Config.padBase := by
  simp only [absentKey, Bool.and_eq_true, decide_eq_true_eq]
  exact Iff.rfl

theorem LaneAcc.Local.below_pad {l : LaneAcc} (h : l.Local) : l.pa < Config.padBase :=
  h.place.trans (show 294912 * 2 ^ 21 < 0x1000000000000 by norm_num)

theorem LaneAcc.Local.below_peer {l : LaneAcc} (h : l.Local) : l.pa < Config.peerBase :=
  h.place.trans (show 294912 * 2 ^ 21 < 0x4000000000000 by norm_num)

section
variable {s : State} {a : Access} {l : LaneAcc}

/-- A lane of the package's own memory reads no reply. -/
theorem performLane_local (h : l.peer = false) (reply : List Byte) : s.performLane a l reply = s.performLane a l [] := by
  unfold State.performLane
  cases a.kind <;> simp [State.readPlace, State.rmw, h]

theorem performOne_local (h : l.peer = false) (reply : Option (List Byte)) : s.performOne a l reply = s.performLane a l [] := by
  cases reply with
  | none => simp [State.performOne, h]
  | some bs => exact performLane_local h bs

/-- The lanes of an access, one after another. -/
def State.performLanes (s : State) (a : Access) (ls : List LaneAcc) : State := ls.foldl (fun s l => s.performLane a l []) s

theorem performEach_local (f : Nat → Option (List Byte)) (ls : List LaneAcc) (h : ∀ l ∈ ls, l.peer = false) (n : Nat) (s : State) :
    (ls.zipIdx n).foldl (fun s (l, i) => s.performOne a l (f i)) s = s.performLanes a ls := by
  induction ls generalizing n s with
  | nil => rfl
  | cons l ls ih =>
    rw [List.zipIdx_cons, List.foldl_cons]
    refine (ih (fun m hm => h m (List.mem_cons_of_mem _ hm)) (n + 1) _).trans ?_
    dsimp only
    rw [performOne_local (h l List.mem_cons_self)]
    rfl

/-- An access leaves once it has been performed. -/
def State.gone (s : State) (a : Access) : State := { s with accesses := s.accesses.filter fun e => decide (e.id ≠ a.id) }

theorem perform_local (hl : ∀ l ∈ a.lanes, l.peer = false) (hn : a.netBad = false) (hk : ∀ d, a.kind ≠ .sload d)
    (replies : List (Option (List Byte))) : s.perform a replies = (s.performLanes a a.lanes).gone a := by
  have lanes := performEach_local (a := a) (fun i => replies.getD i (some [])) a.lanes hl 0 s
  unfold State.perform
  rw [hn]
  split
  · next d _ _ hd _ => exact absurd hd (hk d)
  · exact congrArg (·.gone a) lanes

/-- MEMORY_ACCESS_COMPLETE of an access of which no place is absent. -/
theorem exec_accessComplete (hf : s.accesses.find? (fun e => decide (e.id = a.id)) = some a)
    (hp : ∀ l ∈ a.lanes, ¬ (294912 * 2 ^ 21 ≤ l.pa ∧ l.pa < Config.padBase)) (replies : List (Option (List Byte))) :
    exec (.memoryAccessComplete a.id replies) s = .next (if s.performable a then s.perform a replies else s) := by
  have present : a.lanes.find? (fun l => absentKey l.pa) = none :=
    List.find?_eq_none.2 fun l hl => fun t => hp l hl ((absentKey_iff l.pa).1 t)
  show execMemoryAccessComplete a.id replies s = _
  rw [execMemoryAccessComplete, hf]
  dsimp only
  rw [present]
  dsimp only
  split
  · rfl
  · rfl

theorem exec_accessAbsent (hf : s.accesses.find? (fun e => decide (e.id = a.id)) = some a)
    (hp : ∃ l ∈ a.lanes, 294912 * 2 ^ 21 ≤ l.pa ∧ l.pa < Config.padBase) (replies : List (Option (List Byte))) :
    ∃ l ∈ a.lanes, (294912 * 2 ^ 21 ≤ l.pa ∧ l.pa < Config.padBase) ∧
      exec (.memoryAccessComplete a.id replies) s = .fault (.absentMemory l.pa) := by
  have some_ : (a.lanes.find? fun l => absentKey l.pa).isSome = true :=
    List.find?_isSome.2 (hp.imp fun l h => ⟨h.1, (absentKey_iff l.pa).2 h.2⟩)
  obtain ⟨l, hl⟩ := Option.isSome_iff_exists.1 some_
  refine ⟨l, List.mem_of_find?_eq_some hl, (absentKey_iff l.pa).1 (List.find?_some (p := fun l : LaneAcc => absentKey l.pa) hl), ?_⟩
  show execMemoryAccessComplete a.id replies s = _
  rw [execMemoryAccessComplete, hf]
  dsimp only
  rw [hl]

end

/-! ### Stores -/

/-- A lane of a store, where its unit has no error. -/
def State.storeLane (s : State) (a : Access) (l : LaneAcc) : State :=
  ((s.hide a.launch l.pa l.bytes.length).write l.pa l.bytes).updateLines (a.core / 24) l.pa l.bytes

/-- What a lane's store leaves of a byte. -/
def LaneAcc.over (l : LaneAcc) (k : Nat) (b : Byte) : Byte :=
  if l.pa ≤ k ∧ k < l.pa + l.bytes.length then l.bytes.getD (k - l.pa) 0 else b

section
variable {s : State} {a : Access} {l : LaneAcc}

theorem hide_rest (s : State) (launch k n : Nat) : s.hide launch k n = { s with launches := (s.hide launch k n).launches } := by
  unfold State.hide
  split <;> rfl

theorem storeLane_rest (s : State) (a : Access) (l : LaneAcc) : s.storeLane a l =
    { s with mem := (s.storeLane a l).mem, clines := (s.storeLane a l).clines, launches := (s.storeLane a l).launches } := by
  unfold State.storeLane
  rw [hide_rest]
  rfl

theorem mergeBad_iff (s : State) (k : Nat) : s.mergeBad k = true ↔ ∃ n ∈ s.badUnits, n / 8 = k / 512 := by
  simp only [State.mergeBad, State.badAt, List.any_eq_true, Bool.and_eq_true, decide_eq_true_eq]
  exact exists_congr fun n => and_congr_right fun _ => by omega

theorem performLane_store (hk : a.kind = .store) (hn : a.netBad = false) (hl : l.Local) (hb : s.mergeBad l.pa = false) :
    s.performLane a l [] = s.storeLane a l := by
  unfold State.performLane
  rw [hk]
  dsimp only
  rw [State.performStore, hn, hb, if_neg (by simp), if_neg (by simp [hl.own]), State.devWrite,
    if_neg (Nat.not_le.2 hl.below_peer)]
  rfl

theorem memOk_storeLane (h : MemOk s) : MemOk (s.storeLane a l) := by
  have hidden : MemOk (s.hide a.launch l.pa l.bytes.length) := by rw [hide_rest]; exact h
  exact memOk_write hidden l.pa l.bytes

theorem byte_storeLane (h : MemOk s) (k : Nat) : (s.storeLane a l).byte k = l.over k (s.byte k) := by
  have hidden : MemOk (s.hide a.launch l.pa l.bytes.length) := by rw [hide_rest]; exact h
  have same : (s.hide a.launch l.pa l.bytes.length).byte k = s.byte k := by rw [hide_rest]; rfl
  exact (byte_write hidden l.pa k l.bytes).trans (by rw [same]; rfl)

/-- Lanes stored one after another. -/
def State.storeLanes (s : State) (a : Access) (ls : List LaneAcc) : State := ls.foldl (fun s l => s.storeLane a l) s

theorem storeLanes_rest (ls : List LaneAcc) (s : State) : s.storeLanes a ls = { s with
    mem := (s.storeLanes a ls).mem, clines := (s.storeLanes a ls).clines, launches := (s.storeLanes a ls).launches } := by
  induction ls generalizing s with
  | nil => rfl
  | cons l ls ih =>
    exact (ih (s.storeLane a l)).trans (congrArg (fun x : State => { x with
      mem := (s.storeLanes a (l :: ls)).mem, clines := (s.storeLanes a (l :: ls)).clines,
      launches := (s.storeLanes a (l :: ls)).launches }) (storeLane_rest s a l))

theorem performLanes_store (hk : a.kind = .store) (hn : a.netBad = false) {ls : List LaneAcc} (hl : ∀ l ∈ ls, l.Local)
    (hb : ∀ l ∈ ls, s.mergeBad l.pa = false) : s.performLanes a ls = s.storeLanes a ls := by
  induction ls generalizing s with
  | nil => rfl
  | cons l ls ih =>
    have first := performLane_store hk hn (hl l List.mem_cons_self) (hb l List.mem_cons_self)
    show (s.performLane a l []).performLanes a ls = (s.storeLane a l).storeLanes a ls
    rw [first]
    refine ih (fun m hm => hl m (List.mem_cons_of_mem _ hm)) fun m hm => ?_
    rw [storeLane_rest]
    exact hb m (List.mem_cons_of_mem _ hm)

theorem byte_storeLanes (ls : List LaneAcc) (h : MemOk s) (k : Nat) :
    (s.storeLanes a ls).byte k = ls.foldl (fun b l => l.over k b) (s.byte k) := by
  induction ls generalizing s with
  | nil => rfl
  | cons l ls ih =>
    rw [List.foldl_cons, ← byte_storeLane (a := a) h]
    exact ih (memOk_storeLane h)

/-! #### Copied lines -/

/-- A copied line as a lane's store leaves it. -/
def CLine.stored (c : CLine) (own : Nat) (l : LaneAcc) : CLine :=
  if c.cluster = own then { c with bytes := overlay (c.line * Config.clineBytes) c.bytes l.pa l.bytes } else c

theorem storeLane_clines (s : State) (a : Access) (l : LaneAcc) :
    (s.storeLane a l).clines = s.clines.map fun c => c.stored (a.core / 24) l := by
  unfold State.storeLane
  rw [hide_rest]
  rfl

theorem storeLanes_clines (ls : List LaneAcc) (s : State) : (s.storeLanes a ls).clines =
    s.clines.map fun c => ls.foldl (fun c l => c.stored (a.core / 24) l) c := by
  induction ls generalizing s with
  | nil => exact (List.map_id _).symm
  | cons l ls ih =>
    show ((s.storeLane a l).storeLanes a ls).clines = _
    rw [ih, storeLane_clines, List.map_map]
    rfl

theorem length_overlay (k : Nat) (bs : List Byte) (k' : Nat) (bs' : List Byte) : (overlay k bs k' bs').length = bs.length := by
  simp [overlay]

theorem getD_overlay (k : Nat) {bs : List Byte} (k' : Nat) (bs' : List Byte) {j : Nat} (hj : j < bs.length) :
    (overlay k bs k' bs').getD j 0 =
      if k' ≤ k + j ∧ k + j < k' + bs'.length then bs'.getD (k + j - k') 0 else bs.getD j 0 := by
  have here : bs[j]? = some bs[j] := List.getElem?_eq_getElem hj
  simp only [overlay, List.getD, List.getElem?_map, List.getElem?_zipIdx, here, Option.map_some, Option.getD_some, Nat.zero_add]
  split
  · next inside => rw [List.getElem?_eq_getElem (by omega)]; rfl
  · rfl

/-- A copied line after a store's lanes: of another cluster it stands, and each byte of its own is what the lanes bring. -/
theorem stored_line (own : Nat) (ls : List LaneAcc) (x : CLine) : let y := ls.foldl (fun c l => c.stored own l) x
    y = { x with bytes := y.bytes } ∧ (x.cluster ≠ own → y = x) ∧ (x.cluster = own → y.bytes.length = x.bytes.length ∧
      ∀ j, j < x.bytes.length → y.bytes.getD j 0 = ls.foldl (fun b l => l.over (x.line * 128 + j) b) (x.bytes.getD j 0)) := by
  induction ls generalizing x with
  | nil => exact ⟨rfl, fun _ => rfl, fun _ => ⟨rfl, fun _ _ => rfl⟩⟩
  | cons l ls ih =>
    rw [List.foldl_cons]
    by_cases hc : x.cluster = own
    · have first : x.stored own l = { x with bytes := overlay (x.line * Config.clineBytes) x.bytes l.pa l.bytes } := if_pos hc
      obtain ⟨hy, -, bytes⟩ := ih (x.stored own l)
      rw [first] at hy bytes ⊢
      obtain ⟨len, get⟩ := bytes hc
      refine ⟨hy, fun n => absurd hc n, fun _ => ⟨len.trans (length_overlay ..), fun j hj => ?_⟩⟩
      refine (get j (by rw [length_overlay]; exact hj)).trans ?_
      rw [List.foldl_cons]
      exact congrArg (fun b => ls.foldl (fun b l => l.over (x.line * 128 + j) b) b) (getD_overlay (x.line * 128) l.pa l.bytes hj)
    · have first : x.stored own l = x := if_neg hc
      rw [first]
      obtain ⟨hy, other, -⟩ := ih x
      exact ⟨hy, other, fun h => absurd h hc⟩

/-! #### What a store keeps for the launch's fetches (R192) -/

theorem mget_keep (s : State) (l : List Nat) (m : SMap Byte) (j : Nat) :
    mget (l.foldl (fun m i => if (mget m i).isSome then m else mset m i (s.byte i)) m) j =
      if mget m j = none ∧ j ∈ l then some (s.byte j) else mget m j := by
  induction l generalizing m with
  | nil => simp
  | cons i l ih =>
    rw [List.foldl_cons, ih]
    by_cases kept : (mget m i).isSome = true
    · rw [if_pos kept]
      have other : mget m j = none → j ≠ i := fun e h => by rw [← h, e] at kept; simp at kept
      refine if_congr (and_congr_right fun e => ?_) rfl rfl
      rw [List.mem_cons, or_iff_right (other e)]
    · rw [if_neg kept, mget_mset]
      have free : mget m i = none := by simpa using kept
      by_cases e : j = i
      · subst e
        simp [free]
      · simp [e]

theorem hide_other (s : State) {launch k : Nat} (h : k ≠ launch) (pa n : Nat) :
    mget (s.hide launch pa n).launches k = mget s.launches k := by
  unfold State.hide
  split
  · rfl
  · exact mget_mset_other _ _ _ _ h

theorem hide_launch {launch : Nat} {x : Launch} (h : mget s.launches launch = some x) (pa n : Nat) :
    ∃ y, mget (s.hide launch pa n).launches launch = some { x with hidden := y } ∧
      ∀ k, mget y k = if mget x.hidden k = none ∧ pa ≤ k ∧ k < pa + n then some (s.byte k) else mget x.hidden k := by
  refine ⟨(upFrom pa n).foldl (fun m i => if (mget m i).isSome then m else mset m i (s.byte i)) x.hidden, ?_, fun k => ?_⟩
  · unfold State.hide
    rw [h]
    exact mget_mset_self ..
  · rw [mget_keep]
    exact if_congr (and_congr_right fun _ => mem_upFrom) rfl rfl

theorem storeLanes_otherLaunch (ls : List LaneAcc) {k : Nat} (h : k ≠ a.launch) (s : State) :
    mget (s.storeLanes a ls).launches k = mget s.launches k := by
  induction ls generalizing s with
  | nil => rfl
  | cons l ls ih => exact (ih (s.storeLane a l)).trans (hide_other s h ..)

theorem storeLanes_launch (ls : List LaneAcc) (hm : MemOk s) {x : Launch} (h : mget s.launches a.launch = some x) :
    ∃ y, mget (s.storeLanes a ls).launches a.launch = some { x with hidden := y } ∧
      ∀ k, mget y k = if mget x.hidden k = none ∧ ∃ l ∈ ls, l.pa ≤ k ∧ k < l.pa + l.bytes.length
        then some (s.byte k) else mget x.hidden k := by
  induction ls generalizing s x with
  | nil => exact ⟨x.hidden, h, fun k => by simp⟩
  | cons l ls ih =>
    obtain ⟨y, hy, kept⟩ := hide_launch h l.pa l.bytes.length
    obtain ⟨z, hz, later⟩ := ih (s := s.storeLane a l) (memOk_storeLane hm) (x := { x with hidden := y }) hy
    refine ⟨z, hz, fun k => (later k).trans ?_⟩
    rw [byte_storeLane hm, LaneAcc.over]
    show (if mget y k = none ∧ _ then _ else mget y k) = _
    rw [kept]
    by_cases free : mget x.hidden k = none
    · by_cases covered : l.pa ≤ k ∧ k < l.pa + l.bytes.length
      · simp [free, covered]
      · simp [free, covered]
    · simp [free]

end

end Sys2Proof.Machine
end

section
/-! What one lane of an access leaves: its thread's result, the bytes it writes, and the copied lines of its cluster (R109, R113). -/

namespace Sys2Proof.Machine

/-- A state differs from another in its groups, its memory, its copied lines and its launches alone. -/
def Stands (m t : State) : Prop :=
  t = { m with groups := t.groups, mem := t.mem, clines := t.clines, launches := t.launches }

theorem Stands.trans {m t u : State} (h : Stands m t) (k : Stands t u) : Stands m u :=
  Eq.trans k (congrArg (fun x : State =>
    { x with groups := u.groups, mem := u.mem, clines := u.clines, launches := u.launches }) h)

theorem OnlyGroups.stands {m t : State} (h : OnlyGroups m t) : Stands m t := by
  rw [Stands, h.rest]

/-- A lane of an access changes its thread, the bytes from a key up, what these keep for the launch's fetches, and no copied line but
its own cluster's, of which it may copy the one of its place. -/
structure LaneGives (a : Access) (m : State) (l : LaneAcc) (t : State) (f : Thread → Thread) (key : Nat) (bs : List Byte) : Prop where
  rest : Stands m t
  thread : t.thread a.guid l.tid = (m.thread a.guid l.tid).map f
  others : ∀ k j, (k ≠ a.guid ∨ j ≠ l.tid) → t.thread k j = m.thread k j
  byte : ∀ k, t.byte k = if key ≤ k ∧ k < key + bs.length then bs.getD (k - key) 0 else m.byte k
  mem : bs = [] → t.mem = m.mem
  foreign : ∀ x, x.cluster ≠ a.core / 24 → (x ∈ t.clines ↔ x ∈ m.clines)
  fresh : ∀ x ∈ t.clines, x ∈ m.clines ∨ x = ⟨a.core / 24, l.pa / 128, m.bytes (l.pa / 128 * 128) 128⟩

/-- No copy of a lane's line stands in its own cluster. -/
def AtColumn (a : Access) (t : State) (l : LaneAcc) : Prop := ∀ x ∈ t.clines, x.cluster = a.core / 24 → x.line ≠ l.pa / 128

/-- No copied line of the own cluster stands after an acquire that is asked for. -/
def Acquired (a : Access) (t : State) (asked : Bool) (sc : Nat) : Prop :=
  asked = true → 2 ≤ sc → ∀ x ∈ t.clines, x.cluster ≠ a.core / 24

section
variable {a : Access} {m t : State} {l : LaneAcc} {f : Thread → Thread} {key : Nat} {bs : List Byte}

theorem LaneGives.refl (a : Access) (m : State) (l : LaneAcc) : LaneGives a m l m id 0 [] where
  rest := rfl
  thread := by rw [Option.map_id, id]
  others _ _ _ := rfl
  byte k := by rw [if_neg (by simp)]
  mem _ := rfl
  foreign _ _ := Iff.rfl
  fresh _ h := .inl h

/-- The copied lines of the own cluster that fail a test leave. -/
theorem LaneGives.dropOwn (h : LaneGives a m l t f key bs) {p : CLine → Bool} (hp : ∀ x : CLine, x.cluster ≠ a.core / 24 → p x = true) :
    LaneGives a m l { t with clines := t.clines.filter p } f key bs where
  rest := h.rest.trans rfl
  thread := h.thread
  others := h.others
  byte := h.byte
  mem := h.mem
  foreign x hx := (List.mem_filter.trans (and_iff_left (hp x hx))).trans (h.foreign x hx)
  fresh x hx := h.fresh x (List.mem_filter.1 hx).1

theorem LaneGives.dropLine (h : LaneGives a m l t f key bs) (k n : Nat) :
    LaneGives a m l (t.dropLine (clusterOf a.core) k n) f key bs :=
  h.dropOwn fun x hx => by
    have other : x.cluster ≠ clusterOf a.core := hx
    simp [other]

theorem LaneGives.acquire (h : LaneGives a m l t f key bs) (sc : Nat) : LaneGives a m l (t.acquire a.core sc) f key bs := by
  unfold State.acquire
  split
  · exact h.dropOwn fun x hx => decide_eq_true hx
  · exact h

theorem LaneGives.acquireIf (h : LaneGives a m l t f key bs) (q : Bool) (sc : Nat) :
    LaneGives a m l (if q then t.acquire a.core sc else t) f key bs := by
  split
  · exact h.acquire sc
  · exact h

theorem LaneGives.set (h : LaneGives a m l t f key bs) {f' : Thread → Thread} (hf : ∀ u, (f' u).tid = u.tid) :
    LaneGives a m l (t.onThread a.guid l.tid f') (fun u => f' (f u)) key bs := by
  have rest := (onlyGroups_onGroup t a.guid fun x => x.onThread l.tid f').rest
  exact {
    rest := h.rest.trans (onlyGroups_onGroup t a.guid fun x => x.onThread l.tid f').stands
    thread := by rw [thread_onThread _ _ _ _ _ hf, if_pos rfl, h.thread, Option.map_map]; rfl
    others := fun k j hkj => by
      by_cases hk : k = a.guid
      · have hj := hkj.resolve_left (not_not_intro hk)
        rw [hk, thread_onThread _ _ _ _ _ hf, if_neg hj]
        exact h.others _ _ (.inr hj)
      · have same : (t.onThread a.guid l.tid f').thread k j = t.thread k j := by
          rw [thread_eq, thread_eq, State.onThread, group_onGroup, if_neg hk]
        exact same.trans (h.others _ _ (.inl hk))
    byte := fun k => by
      have same : (t.onThread a.guid l.tid f').byte k = t.byte k := by rw [State.onThread, rest]; rfl
      exact same.trans (h.byte k)
    mem := fun e => by rw [State.onThread, rest]; exact h.mem e
    foreign := fun x hx => by rw [State.onThread, rest]; exact h.foreign x hx
    fresh := fun x hx => by rw [State.onThread, rest] at hx; exact h.fresh x hx }

/-- A lane's write, with what it keeps for the launch's fetches. -/
theorem LaneGives.written (hm : MemOk m) (launch n key : Nat) {bs : List Byte} (hb : bs ≠ []) :
    LaneGives a m l ((m.hide launch key n).write key bs) id key bs := by
  have rest := hide_rest m launch key n
  have hidden : MemOk (m.hide launch key n) := by rw [rest]; exact hm
  have groups : (m.hide launch key n).groups = m.groups := by rw [rest]
  have clines : (m.hide launch key n).clines = m.clines := by rw [rest]
  exact {
    rest := Stands.trans (t := m.hide launch key n) (by rw [Stands, rest]) rfl
    thread := by
      rw [Option.map_id, id, thread_eq, thread_eq]
      exact congrArg (fun gs => (mget gs a.guid).bind fun g => g.thread l.tid) groups
    others := fun k j _ => by
      rw [thread_eq, thread_eq]
      exact congrArg (fun gs => (mget gs k).bind fun g => g.thread j) groups
    byte := fun k => (byte_write hidden key k bs).trans (by rw [rest]; rfl)
    mem := fun e => absurd e hb
    foreign := fun x _ => by
      show x ∈ (m.hide launch key n).clines ↔ _
      rw [clines]
    fresh := fun x hx => by
      have hx : x ∈ (m.hide launch key n).clines := hx
      rw [clines] at hx
      exact .inl hx }

/-! ### Copied lines -/

/-- A copied line comes after those that stand, but for an older one of its cluster that leaves where there is no room. -/
theorem addLine_cases (s : State) (x : CLine) : ∃ kept, s.addLine x = { s with clines := kept ++ [x] } ∧
    (kept = s.clines ∨ ∃ old, old.cluster = x.cluster ∧ kept = s.clines.erase old) := by
  unfold State.addLine
  dsimp only
  split
  · next old _ first =>
    have own : old.cluster = x.cluster :=
      of_decide_eq_true (List.mem_filter.1 (first.symm ▸ List.mem_cons_self : old ∈ s.clines.filter _)).2
    split
    · exact ⟨_, rfl, .inr ⟨old, own, rfl⟩⟩
    · exact ⟨_, rfl, .inl rfl⟩
  · exact ⟨_, rfl, .inl rfl⟩

theorem addLine_rest (s : State) (x : CLine) : s.addLine x = { s with clines := (s.addLine x).clines } := by
  obtain ⟨kept, h, -⟩ := addLine_cases s x
  rw [h]

theorem mem_addLine {s : State} {x y : CLine} (h : y ∈ (s.addLine x).clines) : y ∈ s.clines ∨ y = x := by
  obtain ⟨kept, added, stays⟩ := addLine_cases s x
  rw [added] at h
  refine (List.mem_append.1 h).imp (fun hy => ?_) List.mem_singleton.1
  rcases stays with rfl | ⟨old, -, rfl⟩
  · exact hy
  · exact List.mem_of_mem_erase hy

theorem mem_addLine_foreign {s : State} {x y : CLine} (h : y.cluster ≠ x.cluster) : y ∈ (s.addLine x).clines ↔ y ∈ s.clines := by
  refine ⟨fun hy => (mem_addLine hy).resolve_right fun e => h (congrArg CLine.cluster e), fun hy => ?_⟩
  obtain ⟨kept, added, stays⟩ := addLine_cases s x
  rw [added]
  refine List.mem_append_left _ ?_
  rcases stays with rfl | ⟨old, own, rfl⟩
  · exact hy
  · exact (List.mem_erase_of_ne fun e => h ((congrArg CLine.cluster e).trans own)).2 hy

/-- What a read through a cluster's cache returns. -/
def State.cachedBytes (m : State) (own pa n : Nat) : List Byte :=
  match m.clines.find? fun x => decide (x.cluster = own) && decide (x.line = pa / 128) with
  | some x => (x.bytes.drop (pa % 128)).take n
  | none => m.bytes pa n

theorem cachedRead_cases (hl : l.Local) (a : Access) (m : State) (n : Nat) : let r := m.cachedRead (clusterOf a.core) l.pa n
    r.2 = m.cachedBytes (a.core / 24) l.pa n ∧
      (r.1 = m ∨ r.1 = m.addLine ⟨a.core / 24, l.pa / 128, m.bytes (l.pa / 128 * 128) 128⟩) := by
  intro r
  simp only [r, State.cachedRead, State.cachedBytes, if_neg (Nat.not_le.2 hl.below_pad)]
  cases found : m.clines.find? fun x : CLine => decide (x.cluster = a.core / 24) && decide (x.line = l.pa / 128) with
  | none =>
    have absent : m.clines.find? (fun c : CLine => decide (c.cluster = clusterOf a.core) && decide (c.line = l.pa / Config.clineBytes)) =
      none := found
    rw [absent]
    exact ⟨rfl, .inr rfl⟩
  | some x =>
    have there : m.clines.find? (fun c : CLine => decide (c.cluster = clusterOf a.core) && decide (c.line = l.pa / Config.clineBytes)) =
      some x := found
    rw [there]
    exact ⟨rfl, .inl rfl⟩

theorem LaneGives.cached (hl : l.Local) (m : State) (n : Nat) :
    LaneGives a m l (m.cachedRead (clusterOf a.core) l.pa n).1 id 0 [] := by
  have start := LaneGives.refl a m l
  rcases (cachedRead_cases hl a m n).2 with same | copied
  · rw [same]
    exact start
  · rw [copied, addLine_rest]
    exact {
      rest := rfl
      thread := start.thread
      others := start.others
      byte := start.byte
      mem := start.mem
      foreign := fun x hx => mem_addLine_foreign hx
      fresh := fun x hx => mem_addLine hx }

/-! ### What stands at the column after an access -/

theorem acquire_clines {s : State} {core sc : Nat} {x : CLine} (h : x ∈ (s.acquire core sc).clines) :
    x ∈ s.clines ∧ (2 ≤ sc → x.cluster ≠ core / 24) := by
  unfold State.acquire at h
  split at h
  · exact ⟨(List.mem_filter.1 h).1, fun _ => of_decide_eq_true (List.mem_filter.1 h).2⟩
  · next narrow => exact ⟨h, fun wide => absurd wide narrow⟩

theorem acquired_acquire (a : Access) (t : State) (q : Bool) (sc : Nat) : Acquired a (if q then t.acquire a.core sc else t) q sc := by
  rintro rfl wide x hx
  exact (acquire_clines hx).2 wide

theorem AtColumn.acquire (h : AtColumn a t l) (sc : Nat) : AtColumn a (t.acquire a.core sc) l :=
  fun x hx => h x (acquire_clines hx).1

theorem AtColumn.acquireIf (h : AtColumn a t l) (q : Bool) (sc : Nat) : AtColumn a (if q then t.acquire a.core sc else t) l := by
  split
  · exact h.acquire sc
  · exact h

theorem AtColumn.set (h : AtColumn a t l) (k tid : Nat) (f : Thread → Thread) : AtColumn a (t.onThread k tid f) l := by
  rw [AtColumn, State.onThread, (onlyGroups_onGroup t k _).rest]
  exact h

theorem atColumn_dropLine (t : State) {n : Nat} (hn : 0 < n) : AtColumn a (t.dropLine (clusterOf a.core) l.pa n) l := by
  intro x hx own line
  have kept := (List.mem_filter.1 hx).2
  have here : x.cluster = clusterOf a.core := own
  have meets : overlaps l.pa n (x.line * Config.clineBytes) Config.clineBytes = true := by
    have low : l.pa < x.line * 128 + 128 := by omega
    have high : x.line * 128 < l.pa + n := by omega
    simp only [overlaps, Bool.and_eq_true, decide_eq_true_eq]
    exact ⟨low, high⟩
  simp [here, meets] at kept

end

end Sys2Proof.Machine
end

section
/-! Each kind of access, in one lane of the package's memory whose data can be corrected. -/

namespace Sys2Proof.Machine

section
variable {a : Access} {m : State} {l : LaneAcc} (hl : l.Local) (hn : a.netBad = false) (hb : m.badUnits = [])

theorem spoilt_none (hn : a.netBad = false) (hb : m.badUnits = []) (l : LaneAcc) (n : Nat) : m.spoilt a l n = false := by
  simp [State.spoilt, State.badAt, hn, hb]

theorem devRead_local (hl : l.Local) (m : State) (n : Nat) : m.devRead l.pa n = m.bytes l.pa n := if_neg (Nat.not_le.2 hl.below_peer)

theorem readPlace_local (hl : l.Local) (m : State) (n : Nat) (reply : List Byte) : m.readPlace l n reply = m.bytes l.pa n := by
  rw [State.readPlace, hl.own, if_neg (by simp), devRead_local hl]

/-- A read-modify-write of a lane of the package's memory. -/
theorem rmw_local (hl : l.Local) (m : State) (w : Nat) (f : Nat → Nat) (op : PeerOp) (reply : List Byte) :
    m.rmw a l w f op reply =
    (m.num l.pa w, ((m.hide a.launch l.pa w).write l.pa (leBytes w (f (m.num l.pa w)))).dropLine (clusterOf a.core) l.pa w) := by
  rw [State.rmw, readPlace_local hl, hl.own, if_neg (by simp), State.devWrite, if_neg (Nat.not_le.2 hl.below_peer)]
  rfl

/-- The state and the bytes of a load's read. -/
def State.loadRead (m : State) (a : Access) (l : LaneAcc) (sc n : Nat) : State × List Byte :=
  if 2 ≤ sc then (m.dropLine (clusterOf a.core) l.pa n, m.devRead l.pa n) else m.cachedRead (clusterOf a.core) l.pa n

include hl hn hb

theorem performLane_load {ty sc : Nat} {v : Code} {q : Bool} (hk : a.kind = .load ty v sc q) :
    let r := m.loadRead a l sc (tyBytes ty)
    let t := r.1.onThread a.guid l.tid fun u => u.setLoad ty v (r.1.forwarded a l.tid l.pa r.2)
    m.performLane a l [] = if q then t.acquire a.core sc else t := by
  unfold State.performLane State.loadRead
  rw [hk]
  dsimp only
  rw [spoilt_none hn hb, hl.own]
  by_cases wide : 2 ≤ sc
  · simp only [if_pos wide]
    rfl
  · simp only [if_neg wide]
    rfl

theorem performLane_atomic {opt sc : Nat} {d : Code} {q red : Bool} (hk : a.kind = .atomic opt d sc q red) :
    let w := optBytes opt
    let u := ((m.hide a.launch l.pa w).write l.pa (leBytes w (atomFn opt (m.num l.pa w) l.arg.toNat))).dropLine
      (clusterOf a.core) l.pa w
    let t := if red then u else u.onThread a.guid l.tid fun x => x.setSized (w == 8) d (BitVec.ofNat 64 (m.num l.pa w))
    m.performLane a l [] = if q then t.acquire a.core sc else t := by
  unfold State.performLane
  rw [hk]
  dsimp only
  rw [spoilt_none hn hb, rmw_local hl m]
  rfl

theorem performLane_cas {wide q : Bool} {sc : Nat} {d : Code} (hk : a.kind = .cas wide d sc q) :
    let w := if wide then 8 else 4
    let u := (if m.num l.pa w = l.arg.toNat then (m.hide a.launch l.pa w).write l.pa (leBytes w l.arg2.toNat) else m).dropLine
      (clusterOf a.core) l.pa w
    let t := u.onThread a.guid l.tid fun x => x.setSized wide d (BitVec.ofNat 64 (m.num l.pa w))
    m.performLane a l [] = if q then t.acquire a.core sc else t := by
  unfold State.performLane
  rw [hk]
  dsimp only
  rw [spoilt_none hn hb, readPlace_local hl, rmw_local hl m, hl.own]
  by_cases same : m.num l.pa (if wide then 8 else 4) = l.arg.toNat
  · have same' : leNat (m.bytes l.pa (if wide then 8 else 4)) = l.arg.toNat := same
    rw [if_pos same, if_pos same']
    rfl
  · have same' : leNat (m.bytes l.pa (if wide then 8 else 4)) ≠ l.arg.toNat := same
    rw [if_neg same, if_neg same']
    rfl

theorem performLane_ctadd (hk : a.kind = .ctadd) : m.performLane a l [] =
    ((m.hide a.launch l.pa 8).write l.pa (leBytes 8 (min (m.num l.pa 8 + l.arg.toNat) (2 ^ 64 - 1)))).dropLine
      (clusterOf a.core) l.pa 8 := by
  unfold State.performLane
  rw [hk]
  dsimp only
  rw [spoilt_none hn hb, rmw_local hl m]
  rfl

theorem performLane_ctread {v : Code} {sc : Nat} (hk : a.kind = .ctread v sc) : m.performLane a l [] =
    ((m.onThread a.guid l.tid fun u => u.setPair v (BitVec.ofNat 64 (m.num l.pa 8))).dropLine (clusterOf a.core) l.pa 8).acquire
      a.core sc := by
  unfold State.performLane
  rw [hk]
  dsimp only
  rw [spoilt_none hn hb, readPlace_local hl, State.ask, hl.own]
  rfl

theorem performLane_promote {d : Code} {sc : Nat} {arrived : Bool} (hk : a.kind = .promote d sc arrived) : m.performLane a l [] =
    ((m.onThread a.guid l.tid fun u => u.setReg d (BitVec.ofNat 32 (m.num l.pa 4))).dropLine (clusterOf a.core) l.pa 4).acquire
      a.core sc := by
  unfold State.performLane
  rw [hk]
  dsimp only
  rw [spoilt_none hn hb, readPlace_local hl, State.ask, hl.own]
  rfl

end

end Sys2Proof.Machine
end

section
/-! What each kind of access gives, lane by lane (R109, R110, R113, R120, R241, R243, R256, R273). -/

namespace Sys2Proof.Machine

section
variable {m t : State}

theorem Stands.accesses (h : Stands m t) : t.accesses = m.accesses := by
  rw [show t = _ from h]

theorem Stands.badUnits (h : Stands m t) : t.badUnits = m.badUnits := by
  rw [show t = _ from h]

theorem Stands.earlier (h : Stands m t) (a : Access) : t.earlier a = m.earlier a := by
  rw [State.earlier, State.earlier, h.accesses]

/-! ### Pending stores that a load takes bytes from -/

theorem withStores_none {as : List Access} {guid : Nat} (h : ∀ e ∈ as, e.guid = guid → e.kind ≠ .store) (tid k : Nat) (bs : List Byte) :
    withStores as guid tid k bs = bs := by
  unfold withStores
  induction as with
  | nil => rfl
  | cons e as ih =>
    have first := h e List.mem_cons_self
    rw [List.foldl_cons, if_neg fun both => first both.1 both.2]
    exact ih fun x hx => h x (List.mem_cons_of_mem _ hx)

theorem overlay_whole (k : Nat) {bs bs' : List Byte} (h : bs'.length = bs.length) : overlay k bs k bs' = bs' := by
  refine List.ext_getElem ((length_overlay ..).trans h.symm) fun j hj hj' => ?_
  have get := getD_overlay k k bs' (show j < bs.length by omega)
  rw [if_pos (by omega), Nat.add_sub_cancel_left] at get
  simpa [List.getD, hj, hj'] using get

end

section
variable {a : Access} {m : State} {l : LaneAcc} (hl : l.Local) (hn : a.netBad = false)

theorem leBytes_ne_nil {n : Nat} (h : 0 < n) (v : Nat) : leBytes n v ≠ [] := fun e => by
  have := congrArg List.length e
  rw [length_leBytes, List.length_nil] at this
  omega

/-! ### Loads -/

theorem loadRead_gives (hl : l.Local) (m : State) (sc n : Nat) : LaneGives a m l (m.loadRead a l sc n).1 id 0 [] := by
  unfold State.loadRead
  split
  · exact (LaneGives.refl a m l).dropLine l.pa n
  · exact LaneGives.cached hl m n

theorem loadRead_bytes (hl : l.Local) (a : Access) (m : State) (sc n : Nat) : (m.loadRead a l sc n).2 =
    if 2 ≤ sc then m.bytes l.pa n else m.cachedBytes (a.core / 24) l.pa n := by
  unfold State.loadRead
  split
  · exact devRead_local hl m n
  · exact (cachedRead_cases hl a m n).1

theorem loadRead_atColumn (m : State) {sc n : Nat} (wide : 2 ≤ sc) (h : 0 < n) : AtColumn a (m.loadRead a l sc n).1 l := by
  rw [State.loadRead, if_pos wide]
  exact atColumn_dropLine m h

theorem tyBytes_pos (ty : Nat) : 0 < tyBytes ty := by
  unfold tyBytes
  split <;> decide

section
variable (hb : m.badUnits = [])
include hl hn hb

theorem load_gives {ty sc : Nat} {v : Code} {q : Bool} (hk : a.kind = .load ty v sc q) :
    let r := m.loadRead a l sc (tyBytes ty)
    let t := m.performLane a l []
    LaneGives a m l t (fun u => u.setLoad ty v (withStores (m.earlier a) a.guid l.tid l.pa r.2)) 0 [] ∧ Acquired a t q sc ∧
      (2 ≤ sc → AtColumn a t l) := by
  intro r t
  have read := loadRead_gives (a := a) hl m sc (tyBytes ty)
  have own : r.1.forwarded a l.tid l.pa r.2 = withStores (m.earlier a) a.guid l.tid l.pa r.2 :=
    congrArg (withStores · a.guid l.tid l.pa r.2) (read.rest.earlier a)
  have result := read.set (f' := fun u => u.setLoad ty v (r.1.forwarded a l.tid l.pa r.2)) fun u => setLoad_tid ..
  rw [← own, show t = _ from performLane_load hl hn hb hk]
  exact ⟨result.acquireIf q sc, acquired_acquire a _ q sc,
    fun wide => ((loadRead_atColumn m wide (tyBytes_pos ty)).set _ _ _).acquireIf q sc⟩

theorem ctread_gives {v : Code} {sc : Nat} (hk : a.kind = .ctread v sc) :
    let t := m.performLane a l []
    LaneGives a m l t (fun u => u.setPair v (BitVec.ofNat 64 (m.num l.pa 8))) 0 [] ∧ Acquired a t true sc ∧ AtColumn a t l := by
  intro t
  rw [show t = _ from performLane_ctread hl hn hb hk]
  exact ⟨(((LaneGives.refl a m l).set fun u => setPair_tid ..).dropLine l.pa 8).acquire sc, acquired_acquire a _ true sc,
    (atColumn_dropLine _ (by decide)).acquire sc⟩

theorem promote_gives {d : Code} {sc : Nat} {arrived : Bool} (hk : a.kind = .promote d sc arrived) :
    let t := m.performLane a l []
    LaneGives a m l t (fun u => u.setReg d (BitVec.ofNat 32 (m.num l.pa 4))) 0 [] ∧ Acquired a t true sc ∧ AtColumn a t l := by
  intro t
  rw [show t = _ from performLane_promote hl hn hb hk]
  exact ⟨(((LaneGives.refl a m l).set fun u => setReg_tid ..).dropLine l.pa 4).acquire sc, acquired_acquire a _ true sc,
    (atColumn_dropLine _ (by decide)).acquire sc⟩

/-! ### Accesses that read and write -/

variable (hm : MemOk m)
include hm

theorem ctadd_gives (hk : a.kind = .ctadd) :
    let t := m.performLane a l []
    LaneGives a m l t id l.pa (leBytes 8 (min (m.num l.pa 8 + l.arg.toNat) (2 ^ 64 - 1))) ∧ AtColumn a t l := by
  intro t
  rw [show t = _ from performLane_ctadd hl hn hb hk]
  exact ⟨(LaneGives.written hm a.launch 8 l.pa (leBytes_ne_nil (by decide) _)).dropLine l.pa 8, atColumn_dropLine _ (by decide)⟩

theorem atomic_gives {opt sc : Nat} {d : Code} {q red : Bool} (hk : a.kind = .atomic opt d sc q red) :
    let w := if opt = 1 ∨ opt = 10 then 8 else 4
    let t := m.performLane a l []
    LaneGives a m l t (fun u => if red then u else
        if w = 8 then u.setPair d (BitVec.ofNat 64 (m.num l.pa w)) else u.setReg d (BitVec.ofNat 32 (m.num l.pa w)))
      l.pa (leBytes w (atomFn opt (m.num l.pa w) l.arg.toNat)) ∧ Acquired a t q sc ∧ AtColumn a t l := by
  intro w t
  have pos : 0 < w := by
    simp only [w]
    split <;> decide
  have wrote := (LaneGives.written (a := a) (l := l) hm a.launch w l.pa
    (leBytes_ne_nil pos (atomFn opt (m.num l.pa w) l.arg.toNat))).dropLine l.pa w
  have column := atColumn_dropLine (a := a) (l := l) ((m.hide a.launch l.pa w).write l.pa
    (leBytes w (atomFn opt (m.num l.pa w) l.arg.toNat))) pos
  rw [show t = _ from performLane_atomic hl hn hb hk]
  refine ⟨.acquireIf ?_ q sc, acquired_acquire a _ q sc, .acquireIf ?_ q sc⟩
  · cases red with
    | true => exact wrote
    | false =>
      simp only [Bool.false_eq_true, if_false, ← setSized_eq]
      exact wrote.set fun u => setSized_tid ..
  · cases red with
    | true => exact column
    | false => exact column.set _ _ _

theorem cas_gives {wide q : Bool} {sc : Nat} {d : Code} (hk : a.kind = .cas wide d sc q) :
    let w := if wide then 8 else 4
    let t := m.performLane a l []
    LaneGives a m l t (fun u => if wide then u.setPair d (BitVec.ofNat 64 (m.num l.pa w))
        else u.setReg d (BitVec.ofNat 32 (m.num l.pa w)))
      l.pa (if m.num l.pa w = l.arg.toNat then leBytes w l.arg2.toNat else []) ∧ Acquired a t q sc ∧ AtColumn a t l := by
  intro w t
  have pos : 0 < w := by
    simp only [w]
    split <;> decide
  have result : ∀ u : Thread, u.setSized wide d (BitVec.ofNat 64 (m.num l.pa w)) =
      if wide then u.setPair d (BitVec.ofNat 64 (m.num l.pa w)) else u.setReg d (BitVec.ofNat 32 (m.num l.pa w)) := fun u => by
    simp [Thread.setSized]
  have wrote : LaneGives a m l (if m.num l.pa w = l.arg.toNat then (m.hide a.launch l.pa w).write l.pa (leBytes w l.arg2.toNat) else m)
      id l.pa (if m.num l.pa w = l.arg.toNat then leBytes w l.arg2.toNat else []) := by
    split
    · exact LaneGives.written hm a.launch w l.pa (leBytes_ne_nil pos _)
    · exact { LaneGives.refl a m l with byte := fun k => by rw [if_neg (by simp)] }
  rw [show t = _ from performLane_cas hl hn hb hk]
  simp only [← result]
  exact ⟨((wrote.dropLine l.pa w).set fun u => setSized_tid ..).acquireIf q sc, acquired_acquire a _ q sc,
    ((atColumn_dropLine _ pos).set _ _ _).acquireIf q sc⟩

end
end

end Sys2Proof.Machine
end

section
/-! Accesses performed: the lanes' states, the bundle's read, a store that cannot be merged, and a peer's load. -/

namespace Sys2Proof.Machine

section
variable {a : Access} {m t : State} {l : LaneAcc} {f : Thread → Thread} {key : Nat} {bs : List Byte}

/-- What a lane of a thread gives. -/
theorem LaneGives.parts (h : LaneGives a m l t f key bs) {u : Thread} (hu : m.thread a.guid l.tid = some u) :
    t = { m with groups := t.groups, mem := t.mem, clines := t.clines, launches := t.launches } ∧
    t.thread a.guid l.tid = some (f u) ∧ (∀ k j, (k ≠ a.guid ∨ j ≠ l.tid) → t.thread k j = m.thread k j) ∧
    (∀ k, t.byte k = if key ≤ k ∧ k < key + bs.length then bs.getD (k - key) 0 else m.byte k) ∧
    (bs = [] → t.mem = m.mem) ∧ (∀ x, x.cluster ≠ a.core / 24 → (x ∈ t.clines ↔ x ∈ m.clines)) ∧
    ∀ x ∈ t.clines, x ∈ m.clines ∨ x = ⟨a.core / 24, l.pa / 128, m.bytes (l.pa / 128 * 128) 128⟩ :=
  ⟨h.rest, by rw [h.thread, hu]; rfl, h.others, h.byte, h.mem, h.foreign, h.fresh⟩

end

/-- The entry of a data error. -/
theorem dataError_entry (s : State) (core tenant : Nat) (gid tid : Word) (addr access : Nat) : ∃ x : FaultEntry,
    (s.dataError core tenant gid tid addr access).dieQ = s.dieQ ++ [(dieOfEntry core, x)] ∧ x.kind = 3 ∧ x.cause = 0x21 ∧
      x.access = access ∧ x.addr = addr := by
  have rest : s.dataError core tenant gid tid addr access = _ :=
    countError_rest (s.place_ (dieOfEntry core) (engineError core tenant gid tid addr access)) (engineError core tenant gid tid addr access)
  rw [rest]
  exact ⟨_, rfl, rfl, rfl, rfl, rfl⟩

theorem foldl_stays {α β : Type} {f : β → α → β} {b : β} (l : List α) (h : ∀ e ∈ l, f b e = b) : l.foldl f b = b := by
  induction l with
  | nil => rfl
  | cons e l ih =>
    rw [List.foldl_cons, h e List.mem_cons_self]
    exact ih fun x hx => h x (List.mem_cons_of_mem _ hx)

theorem cached_clines {l : LaneAcc} (hl : l.Local) (a : Access) (m : State) (n : Nat) :
    (m.cachedRead (clusterOf a.core) l.pa n).1 = { m with clines := (m.cachedRead (clusterOf a.core) l.pa n).1.clines } := by
  rcases (cachedRead_cases hl a m n).2 with same | copied
  · rw [same]
  · rw [copied]
    exact addLine_rest ..

theorem groups_after_clines {s m t : State} (h : m = { s with clines := m.clines }) (k : t = { m with groups := t.groups }) :
    t = { s with groups := t.groups, clines := t.clines } := by
  rw [k]
  exact congrArg (fun x : State => { x with groups := t.groups }) h

/-- The bundle's read, and the uniform register that takes it. -/
theorem perform_sload {s : State} {a : Access} {d : Nat} {l : LaneAcc} {ls : List LaneAcc} (hk : a.kind = .sload d)
    (hs : a.lanes = l :: ls) (hl : l.Local) (hn : a.netBad = false) (hb : s.badUnits = [])
    (plain : ∀ e ∈ s.earlier a, e.guid = a.guid → e.kind ≠ .store) (replies : List (Option (List Byte))) :
    s.perform a replies = ((s.cachedRead (clusterOf a.core) l.pa 8).1.onGroup a.guid fun g =>
      { g with sregs := setAt g.sregs d (BitVec.ofNat 64 (leNat (s.cachedBytes (a.core / 24) l.pa 8))) }).gone a := by
  have read : ∀ reply, s.performSload a d l reply = (s.cachedRead (clusterOf a.core) l.pa 8).1.onGroup a.guid fun g =>
      { g with sregs := setAt g.sregs d (BitVec.ofNat 64 (leNat (s.cachedBytes (a.core / 24) l.pa 8))) } := fun reply => by
    have own : ((s.cachedRead (clusterOf a.core) l.pa 8).1.earlier a).foldl
        (fun bs e => a.lanes.foldl (fun bs m => withStores [e] a.guid m.tid l.pa bs) bs) (s.cachedRead (clusterOf a.core) l.pa 8).2 =
        s.cachedBytes (a.core / 24) l.pa 8 := by
      rw [(LaneGives.cached (a := a) hl s 8).rest.earlier, (cachedRead_cases hl a s 8).1]
      refine foldl_stays _ fun e he => foldl_stays _ fun m _ => withStores_none (fun x hx => ?_) ..
      rw [List.mem_singleton.1 hx]
      exact plain e he
    rw [State.performSload, spoilt_none hn hb, hl.own, if_neg (by simp)]
    dsimp only
    rw [if_neg (by simp), own]
  unfold State.perform
  rw [hk, hs, hn]
  dsimp only
  rw [hl.own]
  cases replies.headD (some []) <;> exact congrArg (·.gone a) (read _)

section
variable {s : State} {a : Access} {replies : List (Option (List Byte))}
  (hf : s.accesses.find? (fun e => decide (e.id = a.id)) = some a) (hl : ∀ l ∈ a.lanes, l.Local) (hn : a.netBad = false)
  (hp : s.performable a = true)
include hf hl hp

theorem exec_accessPerformed : exec (.memoryAccessComplete a.id replies) s = .next (s.perform a replies) := by
  rw [exec_accessComplete hf (fun l h inside => absurd inside.1 (Nat.not_le.2 (hl l h).place)), if_pos hp]

include hn

theorem exec_accessLanes (hk : ∀ d, a.kind ≠ .sload d) :
    exec (.memoryAccessComplete a.id replies) s = .next ((s.performLanes a a.lanes).gone a) := by
  rw [exec_accessPerformed hf hl hp, perform_local (fun l h => (hl l h).own) hn hk]

/-- An access is performed one lane after another: each lane meets the state that the lanes before it leave. -/
theorem access_runs (hk : ∀ d, a.kind ≠ .sload d) (hm : MemOk s) (hb : s.badUnits = [])
    (lane : ∀ m l, l.Local → MemOk m → m.badUnits = [] → Stands m (m.performLane a l [])) :
    ∃ (m : Nat → State) (t : State), exec (.memoryAccessComplete a.id replies) s = .next t ∧
      m 0 = s ∧ t = { m a.lanes.length with accesses := s.accesses.filter fun e => decide (e.id ≠ a.id) } ∧
      ∀ i l, a.lanes[i]? = some l → m (i + 1) = (m i).performLane a l [] ∧ l.Local ∧ MemOk (m i) ∧ (m i).badUnits = [] ∧
        (m i).earlier a = s.earlier a := by
  have next : ∀ i l, a.lanes[i]? = some l →
      s.performLanes a (a.lanes.take (i + 1)) = (s.performLanes a (a.lanes.take i)).performLane a l [] := fun i l h => by
    rw [List.take_add_one, h, State.performLanes, List.foldl_append]
    rfl
  have keeps : ∀ i, MemOk (s.performLanes a (a.lanes.take i)) ∧ Stands s (s.performLanes a (a.lanes.take i)) := fun i => by
    induction i with
    | zero => exact ⟨hm, rfl⟩
    | succ i ih =>
      cases h : a.lanes[i]? with
      | none =>
        have short : a.lanes.length ≤ i := List.getElem?_eq_none_iff.1 h
        rw [List.take_of_length_le (by omega)]
        rwa [List.take_of_length_le short] at ih
      | some l =>
        rw [next i l h]
        exact ⟨((Kept.refl _).performLane a l []).mem ih.1,
          ih.2.trans (lane _ l (hl l (List.mem_of_getElem? h)) ih.1 (ih.2.badUnits.trans hb))⟩
  refine ⟨fun i => s.performLanes a (a.lanes.take i), _, exec_accessLanes hf hl hn hp hk, rfl, ?_, fun i l h => ?_⟩
  · have whole := (keeps a.lanes.length).2.accesses
    dsimp only
    rw [List.take_length] at whole ⊢
    rw [State.gone, whole]
  · obtain ⟨ok, stands⟩ := keeps i
    exact ⟨next i l h, hl l (List.mem_of_getElem? h), ok, stands.badUnits.trans hb, stands.earlier a⟩

/-- A store's lanes are performed where no unit has an error. -/
theorem store_runs (hk : a.kind = .store)
    (hb : ∀ n ∈ s.badUnits, ∀ l ∈ a.lanes, n / 8 ≠ l.pa / 512) : ∃ t, exec (.memoryAccessComplete a.id replies) s = .next t ∧
      t = { s with mem := t.mem, clines := t.clines, launches := t.launches,
                   accesses := s.accesses.filter fun e => decide (e.id ≠ a.id) } ∧
      t.mem = (s.storeLanes a a.lanes).mem ∧ t.clines = (s.storeLanes a a.lanes).clines ∧
      t.launches = (s.storeLanes a a.lanes).launches := by
  have good : ∀ l ∈ a.lanes, s.mergeBad l.pa = false := fun l h => Bool.eq_false_iff.2 fun bad => by
    obtain ⟨n, hn, e⟩ := (mergeBad_iff s l.pa).1 bad
    exact hb n hn l h e
  have run := exec_accessLanes (replies := replies) hf hl hn hp fun d => by rw [hk]; exact AccKind.noConfusion
  rw [performLanes_store hk hn hl good] at run
  refine ⟨_, run, ?_, rfl, rfl, rfl⟩
  have rest := storeLanes_rest (a := a) a.lanes s
  have accesses : (s.storeLanes a a.lanes).accesses = s.accesses := by rw [rest]
  rw [State.gone, accesses]
  exact congrArg (fun x : State => { x with accesses := s.accesses.filter fun e => decide (e.id ≠ a.id) }) rest

/-- A store whose unit cannot be corrected is dropped, with an entry of KIND 3. -/
theorem store_dropped (hk : a.kind = .store) {l : LaneAcc} (hs : a.lanes = [l]) (hb : ∃ n ∈ s.badUnits, n / 8 = l.pa / 512) :
    ∃ t e, exec (.memoryAccessComplete a.id replies) s = .next t ∧ t.mem = s.mem ∧ t.dieQ = s.dieQ ++ [(dieOfEntry a.core, e)] ∧
      e.kind = 3 ∧ e.cause = 0x21 ∧ e.access = 1 ∧ e.addr = l.va ∧
      t.accesses = s.accesses.filter fun e => decide (e.id ≠ a.id) := by
  have dropped : s.performLane a l [] = s.dataError a.core a.tenant (BitVec.ofNat 32 a.gid) (BitVec.ofNat 32 l.tid) l.va 1 := by
    unfold State.performLane
    rw [hk]
    dsimp only
    rw [State.performStore, if_pos (by rw [(mergeBad_iff s l.pa).2 hb, Bool.or_true])]
  have run := exec_accessLanes (replies := replies) hf hl hn hp fun d => by rw [hk]; exact AccKind.noConfusion
  rw [hs, show s.performLanes a [l] = _ from dropped] at run
  obtain ⟨e, queued, hkind, hcause, haccess, haddr⟩ :=
    dataError_entry s a.core a.tenant (BitVec.ofNat 32 a.gid) (BitVec.ofNat 32 l.tid) l.va 1
  have rest := dataError_rest s a.core a.tenant (BitVec.ofNat 32 a.gid) (BitVec.ofNat 32 l.tid) l.va 1
  generalize s.dataError a.core a.tenant (BitVec.ofNat 32 a.gid) (BitVec.ofNat 32 l.tid) l.va 1 = t at run queued rest
  have mem : t.mem = s.mem := by rw [rest]
  have accesses : t.accesses = s.accesses := by rw [rest]
  refine ⟨_, e, run, mem, queued, hkind, hcause, haccess, haddr, ?_⟩
  rw [State.gone, accesses]

/-- SLD's one read for its bundle (R305). -/
theorem sload_runs {d : Nat} (hk : a.kind = .sload d) {l : LaneAcc} {ls : List LaneAcc} (hs : a.lanes = l :: ls)
    (hb : s.badUnits = []) (plain : ∀ e ∈ s.earlier a, e.guid = a.guid → e.kind ≠ .store) {g : Group} (hg : s.group a.guid = some g) :
    ∃ t, exec (.memoryAccessComplete a.id replies) s = .next t ∧
      t = { s with groups := t.groups, clines := t.clines, accesses := s.accesses.filter fun e => decide (e.id ≠ a.id) } ∧
      t.group a.guid = some { g with sregs := g.sregs.set d (BitVec.ofNat 64 (leNat (s.cachedBytes (a.core / 24) l.pa 8))) } ∧
      (∀ k, k ≠ a.guid → t.group k = s.group k) ∧
      (∀ x, x.cluster ≠ a.core / 24 → (x ∈ t.clines ↔ x ∈ s.clines)) ∧
      ∀ x ∈ t.clines, x ∈ s.clines ∨ x = ⟨a.core / 24, l.pa / 128, s.bytes (l.pa / 128 * 128) 128⟩ := by
  have here : l.Local := hl l (hs ▸ List.mem_cons_self)
  have read := LaneGives.cached (a := a) here s 8
  have performed := perform_sload hk hs here hn hb plain replies
  have run := exec_accessPerformed (replies := replies) hf hl hp
  rw [performed] at run
  have only := cached_clines here a s 8
  generalize (s.cachedRead (clusterOf a.core) l.pa 8).1 = m at read run only
  have groups : m.groups = s.groups := by rw [only]
  refine ⟨_, run, ?_, (group_onGroup ..).trans ?_, fun k hk => (group_onGroup ..).trans ?_, fun x hx => ?_, fun x hx => ?_⟩
  · have all := groups_after_clines only (onlyGroups_onGroup m a.guid fun g =>
      { g with sregs := setAt g.sregs d (BitVec.ofNat 64 (leNat (s.cachedBytes (a.core / 24) l.pa 8))) }).rest
    generalize m.onGroup a.guid _ = t at all
    have accesses : t.accesses = s.accesses := by rw [all]
    rw [State.gone, accesses]
    exact congrArg (fun x : State => { x with accesses := s.accesses.filter fun e => decide (e.id ≠ a.id) }) all
  · rw [if_pos rfl]
    exact congrArg (fun o : Option Group => o.map _) ((congrArg (mget · a.guid) groups).trans hg)
  · rw [if_neg hk]
    exact congrArg (mget · k) groups
  · rw [State.gone, (onlyGroups_onGroup m a.guid _).rest]
    exact read.foreign x hx
  · rw [State.gone, (onlyGroups_onGroup m a.guid _).rest] at hx
    exact read.fresh x hx

end

/-- A load of one lane at a peer (R182). -/
theorem peer_load {s : State} {a : Access} {l : LaneAcc} {ty sc : Nat} {v : Code} {bs : List Byte} {u : Thread}
    (hf : s.accesses.find? (fun e => decide (e.id = a.id)) = some a) (hn : a.netBad = false) (hp : s.performable a = true)
    (hk : a.kind = .load ty v sc false) (hs : a.lanes = [l]) (peer : l.peer = true) (far : Config.peerBase ≤ l.pa)
    (hb : s.badUnits = []) (len : bs.length = tyBytes ty)
    (plain : ∀ e ∈ s.earlier a, e.guid = a.guid → e.kind ≠ .store) (hu : s.thread a.guid l.tid = some u) :
    ∃ t r, exec (.memoryAccessComplete a.id [some bs]) s = .next t ∧
      t = { s with groups := t.groups, accesses := s.accesses.filter fun e => decide (e.id ≠ a.id), peerOut := s.peerOut ++ [r] } ∧
      r.op = .read (tyBytes ty) ∧ t.thread a.guid l.tid = some (u.setLoad ty v bs) := by
  have present : ∀ x ∈ a.lanes, ¬ (294912 * 2 ^ 21 ≤ x.pa ∧ x.pa < Config.padBase) := fun x hx inside => by
    rw [hs, List.mem_singleton] at hx
    have low : l.pa < 0x1000000000000 := hx ▸ inside.2
    have high : 0x4000000000000 ≤ l.pa := far
    omega
  have place : s.readPlace l (tyBytes ty) bs = bs := by
    rw [State.readPlace, if_pos peer, List.take_append_of_le_length len.ge, List.take_of_length_le len.le]
  have asked : s.ask a l (.read (tyBytes ty)) = s.sendPeer a.tenant l.pa (.read (tyBytes ty)) := if_pos peer
  have lane : s.performLane a l bs = (s.sendPeer a.tenant l.pa (.read (tyBytes ty))).onThread a.guid l.tid
      fun u => u.setLoad ty v bs := by
    have own : (s.sendPeer a.tenant l.pa (.read (tyBytes ty))).forwarded a l.tid l.pa bs = bs := withStores_none plain ..
    unfold State.performLane
    rw [hk]
    dsimp only
    rw [spoilt_none hn hb, if_neg (by simp), if_pos peer, place, asked]
    dsimp only
    rw [own]
    rfl
  have performed : s.perform a [some bs] = ((s.sendPeer a.tenant l.pa (.read (tyBytes ty))).onThread a.guid l.tid
      fun u => u.setLoad ty v bs).gone a := by
    unfold State.perform
    rw [hk, hs, hn]
    exact congrArg (·.gone a) lane
  have run := exec_accessComplete hf present [some bs]
  rw [if_pos hp, performed] at run
  have sent : (s.sendPeer a.tenant l.pa (.read (tyBytes ty))).thread a.guid l.tid = some u := hu
  have rest := (onlyGroups_onGroup (s.sendPeer a.tenant l.pa (.read (tyBytes ty))) a.guid fun g =>
    g.onThread l.tid fun u => u.setLoad ty v bs).rest
  refine ⟨_, ⟨a.tenant, bits (l.pa - Config.peerBase) 46 39, bits (l.pa - Config.peerBase) 38 0, .read (tyBytes ty),
    wireOf (peerPayload (.read (tyBytes ty)))⟩, run, ?_, rfl, ?_⟩
  · rw [State.gone, State.onThread, rest]
    rfl
  · refine (thread_onThread _ a.guid l.tid l.tid (fun u => u.setLoad ty v bs) fun u => setLoad_tid ..).trans ?_
    rw [if_pos rfl, sent]
    rfl

end Sys2Proof.Machine
end

section
/-! Each kind's access, and the obligation. -/

namespace Sys2Proof.Machine

section
variable {s : State} {a : Access}

/-- A load whose thread has no store in flight takes the bytes of memory, or of the copied line where its scope reads it. -/
theorem load_plain {ty sc : Nat} {v : Code} {q : Bool} (hn : a.netBad = false) (hk : a.kind = .load ty v sc q) {m : State}
    {l : LaneAcc} (hl : l.Local) (hb : m.badUnits = []) (plain : ∀ e ∈ m.earlier a, e.guid = a.guid → e.kind ≠ .store) :
    let t := m.performLane a l []
    LaneGives a m l t (fun u => u.setLoad ty v (if 2 ≤ sc then m.bytes l.pa (tyBytes ty)
      else m.cachedBytes (a.core / 24) l.pa (tyBytes ty))) 0 [] ∧ Acquired a t q sc ∧ (2 ≤ sc → AtColumn a t l) := by
  obtain ⟨result, acquired, column⟩ := load_gives hl hn hb hk
  rw [withStores_none plain, loadRead_bytes hl] at result
  exact ⟨result, acquired, column⟩

theorem length_cachedBytes {own pa n : Nat} (m : State) (h : ∀ x ∈ m.clines, x.bytes.length = 128) (hn : pa % 128 + n ≤ 128) :
    (m.cachedBytes own pa n).length = n := by
  unfold State.cachedBytes
  split
  · next x found =>
    have len := h x (List.mem_of_find?_eq_some found)
    rw [List.length_take, List.length_drop, len]
    omega
  · exact length_bytes ..

/-- A load whose thread's one store in flight covers it takes that store's bytes (R110). -/
theorem load_forwarded {ty sc : Nat} {v : Code} {q : Bool} (hn : a.netBad = false) (hk : a.kind = .load ty v sc q)
    {l l' : LaneAcc} (hl : l.Local) (hb : s.badUnits = []) {e : Access} (he : s.earlier a = [e]) (hg : e.guid = a.guid)
    (hst : e.kind = .store) (hls : e.lanes = [l']) (ht : l'.tid = l.tid) (hpa : l'.pa = l.pa) (hlen : l'.bytes.length = tyBytes ty)
    (hfit : l.pa % 128 + tyBytes ty ≤ 128) (hlines : ∀ x ∈ s.clines, x.bytes.length = 128) :
    LaneGives a s l (s.performLane a l []) (fun u => u.setLoad ty v l'.bytes) 0 [] := by
  obtain ⟨result, -⟩ := load_gives hl hn hb hk
  have taken : ∀ bs : List Byte, bs.length = tyBytes ty → withStores (s.earlier a) a.guid l.tid l.pa bs = l'.bytes := fun bs len => by
    rw [he]
    show (if e.guid = a.guid ∧ e.kind = .store then
      e.lanes.foldl (fun bs l'' => if l''.tid = l.tid then overlay l.pa bs l''.pa l''.bytes else bs) bs else bs) = _
    rw [if_pos ⟨hg, hst⟩, hls]
    show (if l'.tid = l.tid then overlay l.pa bs l'.pa l'.bytes else bs) = _
    rw [if_pos ht, hpa]
    exact overlay_whole l.pa (hlen.trans len.symm)
  rw [taken _ ?_] at result
  · exact result
  · rw [loadRead_bytes hl]
    split
    · exact length_bytes ..
    · exact length_cachedBytes s hlines hfit

/-- Every kind of access but a store and SLD leaves, in one lane, all but groups, memory, copied lines and launches. -/
theorem performLane_stands (hn : a.netBad = false) (hk : ∀ d, a.kind ≠ .sload d) (hs : a.kind ≠ .store) (m : State) (l : LaneAcc)
    (hl : l.Local) (hm : MemOk m) (hb : m.badUnits = []) : Stands m (m.performLane a l []) := by
  cases kind : a.kind with
  | load ty v sc q => exact (load_gives hl hn hb kind).1.rest
  | sload d => exact absurd kind (hk d)
  | store => exact absurd kind hs
  | atomic opt d sc q red => exact (atomic_gives hl hn hb hm kind).1.rest
  | cas wide d sc q => exact (cas_gives hl hn hb hm kind).1.rest
  | ctadd => exact (ctadd_gives hl hn hb hm kind).1.rest
  | ctread v sc => exact (ctread_gives hl hn hb kind).1.rest
  | promote d sc arrived => exact (promote_gives hl hn hb kind).1.rest

end

end Sys2Proof.Machine

namespace Sys2Proof.Proofs
open Machine

/-- Settles O33: the lanes are performed one after another, and one lemma for each kind says what a lane gives; a store's lanes are
followed byte by byte, copied line by copied line, and in what they keep for the launch's fetches. -/
theorem accessesPerformed : Obligations.AccessesPerformed := by
  unfold Obligations.AccessesPerformed
  intro s a replies hm hf run absent own gone
  refine ⟨fun h => exec_accessAbsent hf h replies, fun h wait => ?_, fun places hp hn => ?_, ?_⟩
  · exact (exec_accessComplete hf h replies).trans (by rw [wait]; rfl)
  · have hl : ∀ l ∈ a.lanes, l.Local := fun l h => ⟨(places l h).1, (places l h).2⟩
    refine ⟨fun hk good => ?_, fun l hk hs bad _ => store_dropped hf hl hn hp hk hs bad, fun hb => ?_⟩
    · obtain ⟨t, ht, rest, mem, clines, launches⟩ := store_runs (replies := replies) hf hl hn hp hk good
      have noisy : t.noisy = s.noisy := by rw [rest]
      have noisy' : (s.storeLanes a a.lanes).noisy = s.noisy := by rw [storeLanes_rest]
      have byte : ∀ k, t.byte k = (s.storeLanes a a.lanes).byte k := fun k => by rw [State.byte, State.byte, noisy, noisy', mem]
      rw [storeLanes_clines] at clines
      refine ⟨t, ht, rest, ⟨fun k => (byte k).trans (byte_storeLanes a.lanes hm k), by rw [clines, List.length_map],
        fun i x y hx hy => ?_⟩, fun k hk => by rw [launches, storeLanes_otherLaunch a.lanes hk], fun x hx => ?_⟩
      · rw [clines, List.getElem?_map, hx] at hy
        obtain rfl := Option.some.inj hy
        exact stored_line (a.core / 24) a.lanes x
      · rw [launches]
        exact storeLanes_launch a.lanes hm hx
    · have runs := fun (hk : ∀ d, a.kind ≠ .sload d) (hs : a.kind ≠ .store) =>
        access_runs (replies := replies) hf hl hn hp hk hm hb (performLane_stands hn hk hs)
      refine ⟨fun ty v sc q hk _ plain => ?_, fun ty v sc q e l l' hk he hg hst hls hs ht hpa _ hlen hfit hlines => ?_,
        fun opt d sc q red hk => ?_, fun wide d sc q hk => ?_, fun hk => ?_, fun v sc hk => ?_, fun d sc hk => ?_,
        fun d l ls g hk hs plain hg => sload_runs hf hl hn hp hk hs hb plain hg⟩
      · obtain ⟨m, t, ran, start, last, turn⟩ := runs (by simp [hk]) (by simp [hk])
        refine ⟨m, t, ran, start, last, fun i l u hi hu => ?_⟩
        obtain ⟨next, hloc, ok, hbad, hearlier⟩ := turn i l hi
        obtain ⟨result, acquired, column⟩ := load_plain hn hk hloc hbad (hearlier ▸ plain)
        rw [next]
        exact ⟨result.parts hu, acquired, column⟩
      · obtain ⟨m, t, ran, start, last, turn⟩ := runs (by simp [hk]) (by simp [hk])
        refine ⟨m, t, ran, start, last, fun i x u hi hu => ?_⟩
        rw [hs, List.getElem?_singleton] at hi
        split at hi
        · next first =>
          obtain rfl := Option.some.inj hi
          obtain ⟨next, hloc, ok, hbad, hearlier⟩ := turn i l (by rw [hs, first]; rfl)
          rw [first, start] at next hu ⊢
          rw [next]
          exact (load_forwarded hn hk hloc hb he hg hst hls ht hpa hlen hfit hlines).parts hu
        · simp at hi
      · obtain ⟨m, t, ran, start, last, turn⟩ := runs (by simp [hk]) (by simp [hk])
        refine ⟨m, t, ran, start, last, fun i l u hi hu => ?_⟩
        obtain ⟨next, hloc, ok, hbad, hearlier⟩ := turn i l hi
        obtain ⟨result, acquired, column⟩ := atomic_gives hloc hn hbad ok hk
        rw [next]
        exact ⟨result.parts hu, acquired, column⟩
      · obtain ⟨m, t, ran, start, last, turn⟩ := runs (by simp [hk]) (by simp [hk])
        refine ⟨m, t, ran, start, last, fun i l u hi hu => ?_⟩
        obtain ⟨next, hloc, ok, hbad, hearlier⟩ := turn i l hi
        obtain ⟨result, acquired, column⟩ := cas_gives hloc hn hbad ok hk
        rw [next]
        exact ⟨result.parts hu, acquired, column⟩
      · obtain ⟨m, t, ran, start, last, turn⟩ := runs (by simp [hk]) (by simp [hk])
        refine ⟨m, t, ran, start, last, fun i l u hi hu => ?_⟩
        obtain ⟨next, hloc, ok, hbad, hearlier⟩ := turn i l hi
        obtain ⟨result, column⟩ := ctadd_gives hloc hn hbad ok hk
        rw [next]
        exact ⟨result.parts hu, column⟩
      · obtain ⟨m, t, ran, start, last, turn⟩ := runs (by simp [hk]) (by simp [hk])
        refine ⟨m, t, ran, start, last, fun i l u hi hu => ?_⟩
        obtain ⟨next, hloc, ok, hbad, hearlier⟩ := turn i l hi
        obtain ⟨result, acquired, column⟩ := ctread_gives hloc hn hbad hk
        rw [next]
        exact ⟨result.parts hu, acquired, column⟩
      · obtain ⟨m, t, ran, start, last, turn⟩ := runs (by simp [hk]) (by simp [hk])
        refine ⟨m, t, ran, start, last, fun i l u hi hu => ?_⟩
        obtain ⟨next, hloc, ok, hbad, hearlier⟩ := turn i l hi
        obtain ⟨result, acquired, column⟩ := promote_gives hloc hn hbad hk
        rw [next]
        exact ⟨result.parts hu, acquired, column⟩
  · rintro ty v sc l bs u hk hs peer far hp hb hn len rfl plain hu
    exact peer_load hf hn hp hk hs peer far hb len plain hu

end Sys2Proof.Proofs
end
